-- ==== Sys2Proof/Word.lean ====
section
/-! DEFINITION. Word.lean: the word types of the machine, named as the spec names them. -/

namespace Sys2Proof

/-- A byte. -/
abbrev Byte := BitVec 8
/-- An instruction word (04, chapter head: every instruction is one 32-bit word). -/
abbrev IWord := BitVec 32
/-- A scalar register, a queue entry, a CSR (R71). -/
abbrev Dword := BitVec 64
/-- A core vector register: 4 KiB (R71). -/
abbrev VBits := BitVec 32768
/-- A register of a stack context: 1 KiB (R71). -/
abbrev WBits := BitVec 8192
/-- A mask register: 1,024 bits (R71). -/
abbrev KBits := BitVec 1024
/-- An accumulator or an operand-buffer segment: 64 KiB (R71, R234). -/
abbrev ABits := BitVec 524288

/-- The number of a scalar register in an instruction field (R71). -/
abbrev SReg := BitVec 6
/-- A five-bit field that names a v, w or k register (R71). -/
abbrev VReg := BitVec 5
/-- A queue number (R71). -/
abbrev QReg := BitVec 3
/-- A tile number (R71). -/
abbrev TReg := BitVec 3
/-- An accumulator number (R71). -/
abbrev AccReg := BitVec 4

end Sys2Proof
end

