-- ==== Sys2Proof/Config.lean ====
section
/-! DEFINITION. Config.lean: what the spec leaves to the implementation, as constants with no body (log 5): nothing
in Lean can evaluate them, so a claim holds whatever they are. -/

namespace Sys2Proof.Config

/-- Cycles that a core passes in a step (R6, R22, R323): the amount by which its CYCLE and its LCs' counts in core cycles
advance; the number of the step is multiplied by 64, and the core's is added. -/
opaque cycles : Nat → BitVec 64

/-- Events of a performance counter that R83 counts and the model does not see: L2 misses, TLB misses. -/
opaque counted : Nat → BitVec 48

/-- A choice among several that the spec leaves open: the entry that a full translation store gives up for a new one (R302
to R304; log 77), and whose update reaches a scatter-add unit next (R203; log 87). -/
opaque choice : Nat → Nat

/-- The fused minimum of a firmware image's security version (R322). -/
opaque minVersion : BitVec 32

end Sys2Proof.Config
end

