-- ==== Sys2Proof/Machine/Bits.lean ====
section
/-! DEFINITION. Bits.lean: elements of registers, sign extension, byte order (R3, R104). An element is a Nat below
2 to its width; the spec's element 0 is at the lowest bits and the lowest address. -/

namespace Sys2Proof.Machine

/-- Element `i` of width `w` of a register (R3: element 0 lowest). -/
def elem {n : Nat} (r : BitVec n) (w i : Nat) : Nat := (r.toNat >>> (w * i)) % 2 ^ w

/-- The register with element `i` of width `w` replaced. -/
def setElem {n : Nat} (r : BitVec n) (w i x : Nat) : BitVec n :=
  (r &&& ~~~ (BitVec.ofNat n (2 ^ w - 1) <<< (w * i))) ||| (BitVec.ofNat n (x % 2 ^ w) <<< (w * i))

/-- The signed value of a `w`-bit pattern. -/
def toSigned (w x : Nat) : Int := if x % 2 ^ w < 2 ^ (w - 1) then (x % 2 ^ w : Nat) else ((x % 2 ^ w : Nat) : Int) - 2 ^ w

/-- The `w`-bit pattern of an integer, modulo 2^w (R132). -/
def ofSigned (w : Nat) (x : Int) : Nat := (x % (2 ^ w : Int)).toNat

/-- SignExtend of R104 to 64 bits. -/
def signExtend64 (w x : Nat) : Dword := BitVec.ofInt 64 (toSigned w x)

/-- ZeroExtend of R104 to 64 bits. -/
def zeroExtend64 (w x : Nat) : Dword := BitVec.ofNat 64 (x % 2 ^ w)

/-- The `n` bytes of a value, lowest address first (R3). -/
def bytesOf : Nat → Nat → List Byte
  | 0, _ => []
  | n + 1, x => BitVec.ofNat 8 x :: bytesOf n (x / 256)

/-- The little-endian value of bytes (R3). -/
def ofBytes : List Byte → Nat
  | [] => 0
  | b :: r => b.toNat + 256 * ofBytes r

/-- Fold over 0, 1, …, n − 1 in ascending order. -/
def upTo {α : Type} (n : Nat) (f : α → Nat → α) (a : α) : α :=
  match n with
  | 0 => a
  | n + 1 => f (upTo n f a) n

/-- As `upTo`, and stops at the first error. -/
def upToM {α ε : Type} (n : Nat) (f : α → Nat → Except ε α) (a : α) : Except ε α :=
  match n with
  | 0 => .ok a
  | n + 1 => match upToM n f a with
    | .ok b => f b n
    | .error e => .error e

/-- The number of ones of a pattern below bit `n`. -/
def popCount : Nat → Nat → Nat
  | 0, _ => 0
  | n + 1, x => x % 2 + popCount n (x / 2)

/-- The number of significant bits of a value below 2^n. -/
def bitLen (x : Nat) : Nat := if x = 0 then 0 else Nat.log2 x + 1

/-- The least `i < n` that satisfies `p`. -/
def leastBelow (p : Nat → Bool) : Nat → Option Nat
  | 0 => none
  | n + 1 => match leastBelow p n with
    | some i => some i
    | none => if p n then some n else none

/-- Bits [lo + n − 1 : lo] of a doubleword as a Nat. -/
def field (x : Dword) (lo n : Nat) : Nat := (x.toNat >>> lo) % 2 ^ n

/-- A one-bit field in its place. -/
def bitAt (b : Bool) (i : Nat) : Dword := if b then BitVec.ofNat 64 (2 ^ i) else 0

/-- A value in its place. -/
def at_ (x lo : Nat) : Dword := BitVec.ofNat 64 (x <<< lo)

/-- Element `i` of width `w` of a register's value (R3). -/
def getE (x w i : Nat) : Nat := (x >>> (w * i)) % 2 ^ w

/-- A register's value with element `i` replaced. -/
def putE (x w i y : Nat) : Nat := x - (getE x w i <<< (w * i)) + ((y % 2 ^ w) <<< (w * i))

end Sys2Proof.Machine
end

