-- ==== Sys2Proof/Syntax.lean ====
section
/-! DEFINITION. Syntax.lean: the instructions, one constructor for each row of spec/opcode_table.json.
The first 188 rows are encoded instructions; the others are the device's events (95_what_each_step_holds.md),
which carry no encoding and are moves of other agents. -/

namespace Sys2Proof

/-- Element types of R85, in the order of their codes 0x0 to 0xF. -/
inductive Ty where
  | f64 | f32 | f16 | bf16 | e4m3 | e5m2 | i64 | n64 | i32 | n32 | i8 | n8 | mx8 | mx6 | mx6b | mx4
  deriving DecidableEq, Repr

/-- Vector memory addressing modes of R91 (field am, with x). -/
inductive AMode where
  /-- am 0, unit stride. -/
  | unit
  /-- am 1, strided by VSTRIDE. -/
  | strided
  /-- am 2, indexed by vector register x. -/
  | indexed (x : VReg)
  /-- am 3, segment records of x + 1 fields; x is 1 to 7. -/
  | segment (x : VReg)
  /-- am 4, two-dimensional. -/
  | tile
  /-- am 5, the stack queue x. -/
  | stream (x : VReg)
  deriving DecidableEq, Repr

/-- Operations of VAMO and VAMON (R91). -/
inductive VamoOp where
  | add | min | max | and | or | xor | swap
  deriving DecidableEq, Repr

/-- Operations of AMO (R331). -/
inductive AmoOp where
  | swap | add | and | or | xor | min | max | minu | maxu | fadd | cas
  deriving DecidableEq, Repr

/-- Predicates of VCMP (R97). -/
inductive CmpPred where
  | eq | ne | lt | le | gt | ge | un | ord
  deriving DecidableEq, Repr

/-- The flags of MMA (R361): FP8 format of an mx8 operand b and a, as in MMAX, and SAT. -/
structure MmaFlags where
  f : Bool
  e : Bool
  s : Bool
  deriving DecidableEq, Repr

/-- Operations of BKOP and of waves (R223). -/
inductive BkOp where
  | zero | copy | add | scale | axpy | max | lse | fadd
  deriving DecidableEq, Repr

/-- Element types of XRED, in the order of their codes (R100). -/
inductive RedTy where
  | f64 | f32 | f16 | bf16 | i64 | n64 | i32 | n32
  deriving DecidableEq, Repr

/-- Who claims the management block (R315, R317), with the codes of OWNCTL.REQ. -/
inductive Claimant where
  | host | board | management
  deriving DecidableEq, Repr

/-- Scope of a TLBINV (R305). -/
inductive InvScope where
  | core | chip | pod
  deriving DecidableEq, Repr

/-- How a host memory request completes (R308). -/
inductive HostStatus where
  | success | unsupported | abort
  deriving DecidableEq, Repr

/-- Registers of BAR0 that have no event row of their own (R309, R311, R317). -/
inductive MmioReg where
  /-- Byte offset of a launch port's packet bytes, and the width of the write in bytes (R311, R312). -/
  | port (p : BitVec 6) (off : BitVec 8) (n : Nat)
  | fstatus | launchpt | launchasid | hwbase | actth | pcap
  /-- A byte of the recovery window in BAR2 (R322). -/
  | recovery (off : Nat)
  deriving DecidableEq, Repr

/-- What the outcome of each boot step is (R320): the step passed, passed on its alternative, or failed. -/
inductive StepOutcome where
  | passed | alternative | failed
  deriving DecidableEq, Repr

/-- What the boot finds (R320, R321): the outcome of each step, the degraded and slow stacks, the narrow
UALink ports, the members reachable and the device's own member number. -/
structure BootFacts where
  /-- outcome of steps 1, 2, 3, 5, 6 in turn (HBM training and the memory test act per stack) -/
  rails : StepOutcome
  clocks : StepOutcome
  fuses : StepOutcome
  links : StepOutcome
  firmware : StepOutcome
  /-- stacks whose training or memory test failed -/
  trainFailed : BitVec 12
  slow : BitVec 12
  testFailed : BitVec 12
  narrow : BitVec 12
  portsDown : BitVec 12
  /-- cores remapped onto a spare (R12): logged -/
  remaps : Nat
  member : BitVec 10
  reachable : List Nat
  /-- the compressed region that management sets for each stack, PA[51:16] in place (R306) -/
  czbase : List (BitVec 52)
  deriving DecidableEq, Repr

/-- A UALink transaction of a peer (R318). -/
inductive UaTrans where
  | read (off : Nat) (bytes : Nat)
  | write (off : Nat) (data : List Byte)
  | amo (op : AmoOp) (sz : BitVec 2) (off : Nat) (operand : Dword) (compare : Dword)
  /-- an LC of a peer binds a context of an SVU here, or leaves its context -/
  | bind (src lc stack svu : Nat)
  | unbind (src lc : Nat)
  /-- a peer's walk reads the 8 bytes of a table entry here (R303) -/
  | walk (off : Nat)
  /-- another write into the receive window: a placed instruction, its result or a deferred report -/
  | receive (src : Nat) (data : List Byte)
  deriving DecidableEq, Repr

/-- The instructions and events, one constructor for each row of the table, in its order. -/
inductive Instr where
  -- integer register operations, MAJ 01
  | add (d a b : SReg)
  | sub (d a b : SReg)
  | mul (d a b : SReg)
  | mulh (d a b : SReg)
  | mulhu (d a b : SReg)
  | div (d a b : SReg)
  | divu (d a b : SReg)
  | rem (d a b : SReg)
  | remu (d a b : SReg)
  | and (d a b : SReg)
  | or (d a b : SReg)
  | xor (d a b : SReg)
  | shl (d a b : SReg)
  | shr (d a b : SReg)
  | sra (d a b : SReg)
  | slt (d a b : SReg)
  | sltu (d a b : SReg)
  | min (d a b : SReg)
  | max (d a b : SReg)
  | clz (d a : SReg)
  | popc (d a : SReg)
  | csel (d a b : SReg)
  -- register-immediate, MAJ 02 to 09
  | addi (d a : SReg) (i : BitVec 14)
  | andi (d a : SReg) (i : BitVec 14)
  | ori (d a : SReg) (i : BitVec 14)
  | xori (d a : SReg) (i : BitVec 14)
  | slti (d a : SReg) (i : BitVec 14)
  | shli (d a : SReg) (n : BitVec 6)
  | shri (d a : SReg) (n : BitVec 6)
  | srai (d a : SReg) (n : BitVec 6)
  | lui (d : SReg) (i : BitVec 20)
  | addpc (d : SReg) (i : BitVec 20)
  -- scalar memory, MAJ 0A to 0E
  | ld (d a : SReg) (z : BitVec 2) (x : Bool) (i : BitVec 11)
  | st (s a : SReg) (z : BitVec 2) (i : BitVec 11)
  | lda (d a : SReg) (z c : BitVec 2)
  | stl (s a : SReg) (z c : BitVec 2)
  | amo (d a : SReg) (z c : BitVec 2) (b : SReg) (o : AmoOp)
  -- branches and jumps, MAJ 10 to 17
  | beq (a b : SReg) (o : BitVec 14)
  | bne (a b : SReg) (o : BitVec 14)
  | blt (a b : SReg) (o : BitVec 14)
  | bge (a b : SReg) (o : BitVec 14)
  | bltu (a b : SReg) (o : BitVec 14)
  | bgeu (a b : SReg) (o : BitVec 14)
  | jal (d : SReg) (i : BitVec 20)
  | jalr (d a : SReg) (i : BitVec 14)
  -- scalar floating point, MAJ 18; t is the format field fn[2:0]
  | fadd (d a b : SReg) (t : BitVec 3)
  | fsub (d a b : SReg) (t : BitVec 3)
  | fmul (d a b : SReg) (t : BitVec 3)
  | fdiv (d a b : SReg) (t : BitVec 3)
  | fsqrt (d a : SReg) (t : BitVec 3)
  | fma (d a b : SReg) (t : BitVec 3)
  | fmin (d a b : SReg) (t : BitVec 3)
  | fmax (d a b : SReg) (t : BitVec 3)
  | fcmp (d a b : SReg) (t : BitVec 3)
  | fclass (d a : SReg) (t : BitVec 3)
  | fcvtFromFp (d a : SReg) (e : Ty) (t : BitVec 3)
  | fcvtFromInt (d a : SReg) (e : Ty) (t : BitVec 3)
  -- CSR access, SETVL, queues, MAJ 19 to 1B
  | csrr (d : SReg) (c : BitVec 14)
  | csrw (a : SReg) (c : BitVec 14)
  | csrs (a : SReg) (c : BitVec 14)
  | csrc (a : SReg) (c : BitVec 14)
  | setvl (d a : SReg) (t : Ty)
  | qsend (a : SReg) (q : QReg)
  | qrecv (d : SReg) (q : QReg)
  | qstat (d : SReg) (q : QReg)
  -- synchronisation and task control, MAJ 1C
  | fence (c : BitVec 2)
  | sbar (m : BitVec 8)
  | nexts (o : BitVec 18)
  | exit
  | yieldLc
  | spawn (d a : SReg)
  | mwait (d a b : SReg)
  | gjoin (a : SReg)
  | gleave (a : SReg)
  | gbar (a : SReg)
  | post (a : SReg)
  | waiti (a : SReg)
  | probe (d a : SReg)
  | cwb (a : SReg)
  | cinv (a : SReg)
  -- vector binary, MAJ 20
  | vadd (p : Bool) (d a b : VReg) (t : Ty)
  | vsub (p : Bool) (d a b : VReg) (t : Ty)
  | vmul (p : Bool) (d a b : VReg) (t : Ty)
  | vdiv (p : Bool) (d a b : VReg) (t : Ty)
  | vmin (p : Bool) (d a b : VReg) (t : Ty)
  | vmax (p : Bool) (d a b : VReg) (t : Ty)
  | vand (p : Bool) (d a b : VReg) (t : Ty)
  | vor (p : Bool) (d a b : VReg) (t : Ty)
  | vxor (p : Bool) (d a b : VReg) (t : Ty)
  | vshl (p : Bool) (d a b : VReg) (t : Ty)
  | vshr (p : Bool) (d a b : VReg) (t : Ty)
  | vsra (p : Bool) (d a b : VReg) (t : Ty)
  -- vector-scalar binary, MAJ 21
  | vaddVs (p : Bool) (d a : VReg) (b : SReg) (t : Ty)
  | vsubVs (p : Bool) (d a : VReg) (b : SReg) (t : Ty)
  | vmulVs (p : Bool) (d a : VReg) (b : SReg) (t : Ty)
  | vdivVs (p : Bool) (d a : VReg) (b : SReg) (t : Ty)
  | vminVs (p : Bool) (d a : VReg) (b : SReg) (t : Ty)
  | vmaxVs (p : Bool) (d a : VReg) (b : SReg) (t : Ty)
  | vandVs (p : Bool) (d a : VReg) (b : SReg) (t : Ty)
  | vorVs (p : Bool) (d a : VReg) (b : SReg) (t : Ty)
  | vxorVs (p : Bool) (d a : VReg) (b : SReg) (t : Ty)
  | vshlVs (p : Bool) (d a : VReg) (b : SReg) (t : Ty)
  | vshrVs (p : Bool) (d a : VReg) (b : SReg) (t : Ty)
  | vsraVs (p : Bool) (d a : VReg) (b : SReg) (t : Ty)
  | vbcast (p : Bool) (d : VReg) (b : SReg) (t : Ty)
  | vslide (p : Bool) (d a : VReg) (b : SReg) (t : Ty)
  | vextract (p : Bool) (a : VReg) (d : SReg) (t : Ty)
  -- vector ternary, MAJ 22
  | vma (p : Bool) (d a b : VReg) (t : Ty)
  | vms (p : Bool) (d a b : VReg) (t : Ty)
  | vnma (p : Bool) (d a b : VReg) (t : Ty)
  -- unary and conversion, MAJ 23
  | vneg (p : Bool) (d a : VReg) (t : Ty)
  | vabs (p : Bool) (d a : VReg) (t : Ty)
  | vsqrt (p : Bool) (d a : VReg) (t : Ty)
  | vrcp (p : Bool) (d a : VReg) (t : Ty)
  | vrsq (p : Bool) (d a : VReg) (t : Ty)
  | vexp2 (p : Bool) (d a : VReg) (t : Ty)
  | vlog2 (p : Bool) (d a : VReg) (t : Ty)
  | vclass (p : Bool) (d a : VReg) (t : Ty)
  | vmov (p : Bool) (d a : VReg) (t : Ty)
  | viota (p : Bool) (d : VReg) (t : Ty)
  /-- destination type t, source type e, SAT s -/
  | vcvt (p : Bool) (d a : VReg) (s : Bool) (e t : Ty)
  -- compare and select, MAJ 24
  | vcmp (p : Bool) (k a b : VReg) (t : Ty) (c : CmpPred)
  | vsel (p : Bool) (d a b : VReg) (t : Ty)
  -- permute and queues, MAJ 25
  | vperm (p : Bool) (d a b : VReg) (t : Ty)
  | vcompress (p : Bool) (d a : VReg) (t : Ty)
  | vqsend (p : Bool) (a : VReg) (q : QReg) (t : Ty)
  | vqrecv (p : Bool) (d : VReg) (q : QReg) (t : Ty)
  -- reduce and scan, MAJ 26; g is .seg, b the kb field
  | vredsum (p : Bool) (d a b : VReg) (t : Ty) (g : Bool)
  | vredosum (p : Bool) (d a b : VReg) (t : Ty) (g : Bool)
  | vredmax (p : Bool) (d a b : VReg) (t : Ty) (g : Bool)
  | vredmin (p : Bool) (d a b : VReg) (t : Ty) (g : Bool)
  | vargmax (p : Bool) (d a b : VReg) (t : Ty) (g : Bool)
  | vargmin (p : Bool) (d a b : VReg) (t : Ty) (g : Bool)
  | vscan (p : Bool) (d a b : VReg) (t : Ty) (g : Bool)
  -- mask, MAJ 27
  | kand (k a b : VReg)
  | kor (k a b : VReg)
  | kxor (k a b : VReg)
  | knot (k a : VReg)
  | kmov (k a : VReg)
  | kpop (a : VReg) (d : SReg)
  | kfirst (a : VReg) (d : SReg)
  -- vector memory, MAJ 28 to 2B; k and o are the bits K and O
  | vld (p : Bool) (t : VReg) (a : SReg) (m : AMode) (k o : Bool) (y : Ty)
  | vst (p : Bool) (t : VReg) (a : SReg) (m : AMode) (k o : Bool) (y : Ty)
  | vamo (p : Bool) (t : VReg) (a : SReg) (c : VamoOp) (k o : Bool) (y : Ty) (x : VReg)
  | vamon (p : Bool) (t : VReg) (a : SReg) (c : VamoOp) (k o : Bool) (y : Ty) (x : VReg)
  -- tile control and tile memory, MAJ 30 to 32
  | tshape (d a : SReg)
  | ten
  | tdis
  | tzero (t : TReg)
  /-- vector register field d, row register a, c = 1 for a column -/
  | tslice (d a : SReg) (c : Bool) (t : TReg)
  | tld (t : VReg) (a : SReg) (k o : Bool) (y : Ty)
  | tst (t : VReg) (a : SReg) (k o : Bool) (y : Ty)
  -- matrix and accumulators, MAJ 33 to 35
  | mma (c : AccReg) (a b : TReg) (x y : Ty) (v : MmaFlags)
  | mmax (c : AccReg) (a b : TReg) (x y : Ty) (f e s : Bool)
  | accrd (d a : SReg) (c : AccReg)
  | accwr (d a : SReg) (c : AccReg)
  | accz (c : AccReg)
  -- copy channels, MAJ 38; h is the channel
  | xcpy (d a b : SReg) (h : BitVec 2) (r : Bool)
  | xdeil (d : SReg) (v : VReg) (b : SReg) (h : BitVec 2) (f : BitVec 3)
  | xred (d a b : SReg) (h : BitVec 2) (e : Bool) (t : RedTy)
  | xwait (a : SReg) (h : BitVec 2)
  -- stack context, MAJ 39
  | skbind (d a : SReg)
  | skloop (a b : SReg)
  | skend
  | skfence
  | skstrm (j a : SReg)
  -- row lines and bank commands, MAJ 3A
  | rlopen (h a : SReg)
  | rlrel (h : SReg)
  | rlstat (h d : SReg)
  | bkop (h a b : SReg) (w : Bool) (o : BkOp)
  | bkwave (a : SReg)
  | bkfence (h : SReg)
  -- generation, MAJ 3B
  | urank (k a : VReg) (t : Ty)
  | ucommit (k a : VReg) (b : SReg) (t : Ty)
  | udirty (k : VReg) (b : SReg)
  | ucfg (b : SReg)
  | smpstep (d a : VReg) (b : SReg) (t : Ty)
  | vaccept (k a : VReg) (b : SReg) (t : Ty)
  | vpand (k a : VReg)
  | vgumbel (d : VReg) (b : SReg) (t : Ty)
  | vdraw (d : VReg) (b : SReg) (t : Ty)
  -- journal, MAJ 3C
  | jadd (d a b : SReg)
  | jcommit (a b : SReg)
  | jdrop (a : SReg)
  -- system, MAJ 3F
  | scall (c : BitVec 8)
  | ebreak (c : BitVec 8)
  | eret
  | erpl (a : SReg) (v : VReg)
  -- events: the actions of CSR writes, at the LC in turn
  | bankroleWrite (v : Dword)
  | accallocWrite (v : Dword)
  | tcfgWrite (t : TReg) (v : Dword)
  | tlbinvPage (c : InvScope) (vpn : BitVec 41)
  | tlbinvAsid (c : InvScope)
  | tlbinvNonglobal (c : InvScope)
  | tlbinvAll (c : InvScope)
  | sswitch (v : Dword)
  | vsave (v : Dword)
  | vload (v : Dword)
  | xreset (h : BitVec 2)
  | tkill (code : BitVec 7)
  | scctlCommit
  | pooltailWrite (v : Dword)
  -- events: launch, completion, host and management
  | launchPortCommit (fn : Nat) (p : BitVec 6)
  | launchIntake
  | taskCompletion (task : Nat)
  | killWrite (fn : Nat) (id : BitVec 32)
  | functionLevelReset (fn : Nat)
  | hostWindowRead (fn : Nat) (off : Nat) (bytes : Nat)
  | hostWindowWrite (fn : Nat) (off : Nat) (data : List Byte) (poisoned : Bool)
  | hostRequestCompletion (st : HostStatus) (poisoned : Bool)
  | completionTimeout
  | pcieLinkLoss
  | ownershipClaim (c : Claimant)
  | ownershipHandover (c heir : Claimant)
  | ownershipRelease (c : Claimant)
  | bnklimWrite (c : Claimant) (v : Dword)
  | bnklimArrival (stack : Nat)
  | clkstepWrite (c : Claimant) (core : BitVec 6) (v : Dword)
  | bootctlReset (c : Claimant)
  | bootctlClear (c : Claimant)
  | bootctlLoad (c : Claimant)
  | imageVerifyDone (pass : Bool)
  | mmioRegisterWrite (c : Claimant) (fn : Nat) (r : MmioReg) (v : Dword)
  | deviceBoot (facts : BootFacts)
  | powerWindow (watts : Nat)
  | thermalCoreLimit (core : BitVec 6) (hot : Bool)
  | thermalBankLimit (stack : Nat)
  | linkRetrain (port : Nat)
  | linkDown (port : Nat) (lost : List Nat)
  | stackUnitFail (stack svu : Nat)
  | bindingLost
  | bankRefresh (stack chan pc bank : Nat)
  | patrolScrubRead (granule : Nat) (correctable uncorrectable : Bool)
  | scrubWriteBack (granule : Nat)
  | pageExpansion (va : Dword)
  | pageTableWalk (va : Dword)
  | partitionOffer (core part : Nat)
  | laneArbitration
  | matrixBandComplete
  | lcYield
  | sliceExpired
  | preemptRequest
  | progressWatchdog
  | counterOverflow (n : BitVec 3)
  | stripDispense
  | contextGrant (stack svu : Nat)
  | stackContextExecute
  | addressStreamGenerate (j : BitVec 2)
  | scatterAddArrival
  | scatterOldValue (granule : Nat)
  | scatterIdleWriteBack (granule : Nat)
  | scatterRecall (granule : Nat)
  | copyTransferStep (h : BitVec 2)
  | xredContributionArrival
  | monitorWake
  | bankAdmission (stack : Nat)
  | waveProbe
  | waveRowStep (stack unit : Nat)
  | waveResume (stack unit : Nat)
  | subwaveComplete (stack unit : Nat)
  | bkopComplete (stack unit : Nat)
  | rowPinGrant
  | pinOpened (stack chan bank slot : Nat)
  | pinReleased (stack chan bank slot : Nat)
  | slotFreed (stack chan bank slot : Nat)
  | streamTrapReport
  | deferredTrapReport
  | trapDelivery
  | firstBandStart
  | ualinkTransactionArrival (t : UaTrans)
  deriving DecidableEq, Repr

end Sys2Proof
end

