-- ==== Sys2Proof/WellFormed.lean ====
section
/-! DEFINITION. WellFormed.lean: which instruction terms have an encoding. A field's width is its type; what is
left are the reserved codes and the fields an operation does not use (R4, R103 step 3). Register files and element
types (R103 steps 4 and 5) are checked when the instruction runs, in Machine/Check.lean, because the machine raises
a cause for them. -/

namespace Sys2Proof

/-- The class of R85 an element type belongs to. -/
inductive TyClass where
  | F | F8 | I | M
  deriving DecidableEq, Repr

/-- Class column of R85. -/
def Ty.cls : Ty → TyClass
  | .f64 | .f32 | .f16 | .bf16 => .F
  | .e4m3 | .e5m2 => .F8
  | .i64 | .n64 | .i32 | .n32 | .i8 | .n8 => .I
  | .mx8 | .mx6 | .mx6b | .mx4 => .M

/-- Bits column of R85. -/
def Ty.bits : Ty → Nat
  | .f64 | .i64 | .n64 => 64
  | .f32 | .i32 | .n32 => 32
  | .f16 | .bf16 => 16
  | .e4m3 | .e5m2 | .i8 | .n8 | .mx8 => 8
  | .mx6 | .mx6b => 6
  | .mx4 => 4

/-- R409: SAT is reserved unless the destination is F8, or both types are I with a narrower destination. -/
def satAllowed (src dst : Ty) : Bool :=
  dst.cls == .F8 || (src.cls == .I && dst.cls == .I && decide (dst.bits < src.bits))

/-- Whether sa, and whether sb, is an operand of a BKOP operation (R223). -/
def BkOp.uses : BkOp → Bool × Bool
  | .zero => (false, false)
  | .copy | .add | .scale | .max | .lse => (true, false)
  | .axpy | .fadd => (true, true)

/-- The mode's x and sa fields hold accepted values (R91, R201). -/
def AMode.wf (p : Bool) (a : SReg) : AMode → Bool
  | .unit | .strided | .indexed _ | .tile => true
  | .segment x => decide (1 ≤ x.toNat) && decide (x.toNat ≤ 7)
  | .stream _ => p && a == 0

/-- A row of the table that is an event: no word encodes it. The 188 encoded instructions are the first
constructors of Instr, in the table's order; the smoke tests show the last instruction and
the first event of that order. -/
def Instr.isEvent (i : Instr) : Bool := decide (188 ≤ i.ctorIdx)

/-- The reserved codes and unused fields of the encoded instructions. -/
def Instr.fieldsOk : Instr → Bool
  | .ld _ _ z x _ => !(x && z == 3)
  | .vcvt _ _ _ s e t => !s || satAllowed e t
  | .vredsum _ _ _ b _ g | .vredosum _ _ _ b _ g | .vredmax _ _ _ b _ g | .vredmin _ _ _ b _ g
  | .vargmax _ _ _ b _ g | .vargmin _ _ _ b _ g | .vscan _ _ _ b _ g => g || b == 0
  | .vld p _ a m _ _ _ | .vst p _ a m _ _ _ => m.wf p a
  | .mma _ _ _ x y ⟨f, e, _⟩ | .mmax _ _ _ x y f e _ => (!e || x == .mx8) && (!f || y == .mx8)
  | .xdeil _ _ _ _ f => f != 0
  | .bkop _ a b _ o => (o.uses.1 || a == 0) && (o.uses.2 || b == 0)
  | _ => true

/-- An instruction that a word encodes. -/
def Instr.wf (i : Instr) : Bool := !i.isEvent && i.fieldsOk

end Sys2Proof
end

