-- ==== Sys2Proof/Machine/Fp.lean ====
section
/-! DEFINITION. Fp.lean: number formats and arithmetic (05, R111 to R144). A finite value is a sign, a magnitude m
and an exponent e, standing for ± m × 2^e exactly; every result is rounded once. Bit patterns are Nats. -/

namespace Sys2Proof

/-- An integer type with a sign. -/
def Ty.signed (t : Ty) : Bool := t == .i64 || t == .i32 || t == .i8

end Sys2Proof

namespace Sys2Proof.Machine

/-- How a format spends its top exponent (R111): infinities and NaNs, one NaN pattern, or neither. -/
inductive FpKind where
  | ieee | oneNaN | finite
  deriving DecidableEq, Repr

/-- A floating-point format (R111). -/
structure Fmt where
  ebits : Nat
  mbits : Nat
  kind : FpKind
  deriving DecidableEq, Repr

def Fmt.f64 : Fmt := ⟨11, 52, .ieee⟩
def Fmt.f32 : Fmt := ⟨8, 23, .ieee⟩
def Fmt.f16 : Fmt := ⟨5, 10, .ieee⟩
def Fmt.bf16 : Fmt := ⟨8, 7, .ieee⟩
def Fmt.e4m3 : Fmt := ⟨4, 3, .oneNaN⟩
def Fmt.e5m2 : Fmt := ⟨5, 2, .ieee⟩
def Fmt.e3m2 : Fmt := ⟨3, 2, .finite⟩
def Fmt.e2m3 : Fmt := ⟨2, 3, .finite⟩
def Fmt.e2m1 : Fmt := ⟨2, 1, .finite⟩

/-- The format of an element type; for class M its element format, mx8 read as E4M3 (R113). Integer types have none
and are given FP64's. -/
def Ty.fmt : Ty → Fmt
  | .f64 => .f64 | .f32 => .f32 | .f16 => .f16 | .bf16 => .bf16 | .e4m3 => .e4m3 | .e5m2 => .e5m2
  | .mx8 => .e4m3 | .mx6 => .e3m2 | .mx6b => .e2m3 | .mx4 => .e2m1
  | .i64 | .n64 | .i32 | .n32 | .i8 | .n8 => .f64

/-- Width in bits. -/
def Fmt.bits (f : Fmt) : Nat := 1 + f.ebits + f.mbits
/-- Exponent bias (R111). -/
def Fmt.bias (f : Fmt) : Int := 2 ^ (f.ebits - 1) - 1
/-- Exponent of the smallest normal. -/
def Fmt.emin (f : Fmt) : Int := 1 - f.bias
/-- Bit pattern of the largest finite magnitude (R111). -/
def Fmt.maxBits (f : Fmt) : Nat :=
  match f.kind with
  | .ieee => (2 ^ f.ebits - 1) * 2 ^ f.mbits - 1
  | .oneNaN => 2 ^ (f.ebits + f.mbits) - 2
  | .finite => 2 ^ (f.ebits + f.mbits) - 1
/-- Bit pattern of +∞ (formats that have one). -/
def Fmt.infBits (f : Fmt) : Nat := (2 ^ f.ebits - 1) * 2 ^ f.mbits
/-- The sign bit. -/
def Fmt.signBit (f : Fmt) : Nat := 2 ^ (f.ebits + f.mbits)
/-- Canon(F) of R120. -/
def Fmt.canon (f : Fmt) : Nat :=
  match f.kind with
  | .ieee => f.infBits + 2 ^ (f.mbits - 1)
  | .oneNaN => 2 ^ (f.ebits + f.mbits) - 1
  | .finite => 0

/-- A value: NaN (signalling or not), an infinity, or ± m × 2^e. -/
inductive FVal where
  | nan (sig : Bool)
  | inf (neg : Bool)
  | fin (neg : Bool) (m : Nat) (e : Int)
  deriving DecidableEq, Repr

/-- The value of a bit pattern (R111, R112). -/
def Fmt.val (f : Fmt) (x : Nat) : FVal :=
  let neg := (x >>> (f.ebits + f.mbits)) % 2 == 1
  let ex := (x >>> f.mbits) % 2 ^ f.ebits
  let fr := x % 2 ^ f.mbits
  let top := ex == 2 ^ f.ebits - 1
  if f.kind == .ieee && top then
    if fr = 0 then .inf neg else .nan (fr < 2 ^ (f.mbits - 1) && decide (2 < f.mbits))
  else if f.kind == .oneNaN && top && fr == 2 ^ f.mbits - 1 then .nan false
  else if ex = 0 then .fin neg fr (f.emin - f.mbits)
  else .fin neg (2 ^ f.mbits + fr) (ex - f.bias - f.mbits)

/-- The flags of FFLAGS (R77), bit b for cause 0x3A + b. -/
abbrev Flags := BitVec 7
def flNV : Flags := 0x01
def flDZ : Flags := 0x02
def flOF : Flags := 0x04
def flUF : Flags := 0x08
def flNX : Flags := 0x10
def flSAT : Flags := 0x20
def flDOR : Flags := 0x40

/-- Whether a magnitude n with a discarded part moves to the next one, by the mode of R116: `half` compares the
discarded part with one half (0 below, 1 equal, 2 above). -/
def roundUp (mode : Nat) (neg : Bool) (odd : Bool) (half : Nat) : Bool :=
  match mode with
  | 0 => half == 2 || (half == 1 && odd)
  | 1 => false
  | 2 => neg
  | _ => !neg

/-- m × 2^e (plus a positive part below one unit when `sticky`) as a multiple of 2^q: the chosen multiple and
whether it is inexact (R116). -/
def roundAt (mode : Nat) (neg : Bool) (m : Nat) (e : Int) (sticky : Bool) (q : Int) : Nat × Bool :=
  if q ≤ e then
    let n := m <<< (e - q).toNat
    -- with a sticky part the discarded part lies below one half of the unit 2^q only when q = e
    if sticky then ((if roundUp mode neg (n % 2 == 1) 0 then n + 1 else n), true) else (n, false)
  else
    let d := (q - e).toNat
    let n := m >>> d
    let r := m % 2 ^ d
    let h := 2 ^ (d - 1)
    let half := if r < h then 0 else if r = h && !sticky then 1 else 2
    if r = 0 && !sticky then (n, false)
    else ((if roundUp mode neg (n % 2 == 1) half then n + 1 else n), true)

/-- The result of an overflow (R117) as a magnitude pattern: whether it is ∞ rather than the largest finite. -/
def overflowsToInf (mode : Nat) (neg : Bool) : Bool :=
  match mode with
  | 0 => true
  | 1 => false
  | 2 => neg
  | _ => !neg

/-- The rounded magnitude of a nonzero value before the overflow rule: pattern, inexact, tiny (R116, R118). -/
def Fmt.roundMag (f : Fmt) (mode : Nat) (neg : Bool) (m : Nat) (e : Int) (sticky : Bool) : Nat × Bool × Bool :=
  let lead : Int := e + (bitLen m : Int) - 1
  let qu : Int := lead - f.mbits
  let qmin : Int := f.emin - f.mbits
  let q : Int := if qu < qmin then qmin else qu
  let (n, inexact) := roundAt mode neg m e sticky q
  let nu := (roundAt mode neg m e sticky qu).1
  -- tiny: the value rounded with unbounded exponent lies below 2^emin
  let tiny := decide (qu < qmin) && decide ((nu : Int) * 2 ^ (qu - (qu - 2)).toNat < (2 : Int) ^ (f.emin - (qu - 2)).toNat)
  ((q - qmin).toNat * 2 ^ f.mbits + n, inexact, tiny)

/-- RoundF of ± m × 2^e (+ sticky) under a mode, with its flags (R116 to R118). The sign of an exact zero is `neg`. -/
def Fmt.round (f : Fmt) (mode : Nat) (neg : Bool) (m : Nat) (e : Int) (sticky : Bool := false) : Nat × Flags :=
  let s := if neg then f.signBit else 0
  if m = 0 && !sticky then (s, 0)
  else
    let (b, inexact, tiny) := f.roundMag mode neg m e sticky
    if f.maxBits < b then
      (s + (if overflowsToInf mode neg then f.infBits else f.maxBits), flOF ||| flNX)
    else
      (s + b, (if inexact then flNX else 0) ||| (if tiny && inexact then flUF else 0))

/-- RoundF of a value (R116): NaN gives Canon, an infinity itself. -/
def Fmt.roundVal (f : Fmt) (mode : Nat) : FVal → Nat × Flags
  | .nan sig => (f.canon, if sig then flNV else 0)
  | .inf neg => ((if neg then f.signBit else 0) + f.infBits, 0)
  | .fin neg m e => f.round mode neg m e

/-- The sign of an exact zero sum (R119): negative only toward −∞, or when every term is −0. -/
def zeroSign (mode : Nat) (na nb : Bool) : Bool := if na == nb then na else mode == 2

/-- The integer ± m. -/
def signed (neg : Bool) (m : Nat) : Int := if neg then - (m : Int) else m

/-- The exact sum of two finite values as a signed multiple of a power of two. -/
def exactAdd (na : Bool) (ma : Nat) (ea : Int) (nb : Bool) (mb : Nat) (eb : Int) : Int × Int :=
  let e := min ea eb
  (signed na ma * 2 ^ (ea - e).toNat + signed nb mb * 2 ^ (eb - e).toNat, e)

/-- a + b exactly as a value (R119), NaN for ∞ − ∞. -/
def FVal.add (mode : Nat) : FVal → FVal → FVal
  | .nan s, .nan t => .nan (s || t)
  | .nan s, _ => .nan s
  | _, .nan t => .nan t
  | .inf a, .inf b => if a == b then .inf a else .nan true
  | .inf a, _ => .inf a
  | _, .inf b => .inf b
  | .fin na ma ea, .fin nb mb eb =>
    let r := exactAdd na ma ea nb mb eb
    if r.1 = 0 then .fin (if ma = 0 && mb = 0 then zeroSign mode na nb else mode == 2) 0 r.2
    else .fin (decide (r.1 < 0)) r.1.natAbs r.2

/-- a × b exactly (R133), NaN for 0 × ∞. -/
def FVal.mul : FVal → FVal → FVal
  | .nan s, .nan t => .nan (s || t)
  | .nan s, _ => .nan s
  | _, .nan t => .nan t
  | .inf a, .inf b => .inf (xor a b)
  | .inf a, .fin b m _ => if m = 0 then .nan true else .inf (xor a b)
  | .fin a m _, .inf b => if m = 0 then .nan true else .inf (xor a b)
  | .fin a m e, .fin b n k => .fin (xor a b) (m * n) (e + k)

/-- −a. -/
def FVal.neg : FVal → FVal
  | .nan s => .nan s
  | .inf a => .inf (!a)
  | .fin a m e => .fin (!a) m e

/-- A NaN. -/
def FVal.isNaN : FVal → Bool
  | .nan _ => true
  | _ => false

/-- A signalling NaN (an invalid operation's NaN counts as one: it sets NV). -/
def FVal.isSig : FVal → Bool
  | .nan s => s
  | _ => false

/-- NV for a signalling NaN or an invalid operation (R120, R346). -/
def nvIf (b : Bool) : Flags := if b then flNV else 0

/-- FADD and VADD (R345). -/
def Fmt.add (f : Fmt) (mode a b : Nat) : Nat × Flags := f.roundVal mode (FVal.add mode (f.val a) (f.val b))
/-- FSUB and VSUB. -/
def Fmt.sub (f : Fmt) (mode a b : Nat) : Nat × Flags := f.roundVal mode (FVal.add mode (f.val a) (f.val b).neg)
/-- FMUL and VMUL. -/
def Fmt.mul (f : Fmt) (mode a b : Nat) : Nat × Flags := f.roundVal mode (FVal.mul (f.val a) (f.val b))
/-- a × b + c with one rounding; 0 × ∞ sets NV even when c is a quiet NaN (R346). -/
def Fmt.fma (f : Fmt) (mode a b c : Nat) (negProd negC : Bool := false) : Nat × Flags :=
  let p := FVal.mul (f.val a) (f.val b)
  let p := if negProd then p.neg else p
  let c := if negC then (f.val c).neg else f.val c
  f.roundVal mode (FVal.add mode p c)

/-- The integer square root: the greatest r < 2^n with r × r ≤ x. -/
def isqrt (x : Nat) : Nat → Nat → Nat
  | 0, r => r
  | n + 1, r => let t := r + 2 ^ n; if t * t ≤ x then isqrt x n t else isqrt x n r

/-- FDIV and VDIV over F types (R140, R141). -/
def Fmt.div (f : Fmt) (mode a b : Nat) : Nat × Flags :=
  match f.val a, f.val b with
  | .nan s, .nan t => f.roundVal mode (.nan (s || t))
  | .nan s, _ => f.roundVal mode (.nan s)
  | _, .nan t => f.roundVal mode (.nan t)
  | .inf _, .inf _ => f.roundVal mode (.nan true)
  | .inf x, .fin y _ _ => f.roundVal mode (.inf (xor x y))
  | .fin x _ _, .inf y => f.roundVal mode (.fin (xor x y) 0 0)
  | .fin x m e, .fin y n k =>
    if n = 0 then
      if m = 0 then f.roundVal mode (.nan true)
      else ((f.roundVal mode (.inf (xor x y))).1, flDZ)
    else
      let sh := 2 * f.mbits + 8 + bitLen n
      let num := m <<< sh
      f.round mode (xor x y) (num / n) (e - k - sh) (num % n != 0)

/-- FSQRT and VSQRT (R140, R141). -/
def Fmt.sqrt (f : Fmt) (mode a : Nat) : Nat × Flags :=
  match f.val a with
  | .nan s => f.roundVal mode (.nan s)
  | .inf true => f.roundVal mode (.nan true)
  | .inf false => f.roundVal mode (.inf false)
  | .fin neg m e =>
    if m = 0 then f.roundVal mode (.fin neg 0 0)
    else if neg then f.roundVal mode (.nan true)
    else
      -- an even exponent below e by at least 2 × (mbits + 4)
      let sh : Nat := 2 * f.mbits + 8 + (if e % 2 = 0 then 0 else 1)
      let x := m <<< sh
      let r := isqrt x (bitLen x / 2 + 1) 0
      f.round mode false r ((e - sh) / 2) (r * r != x)

/-- VRCP: 1 ÷ x (R140, R141). -/
def Fmt.rcp (f : Fmt) (mode a : Nat) : Nat × Flags :=
  match f.val a with
  | .nan s => f.roundVal mode (.nan s)
  | .inf neg => f.roundVal mode (.fin neg 0 0)
  | .fin neg m e =>
    if m = 0 then ((f.roundVal mode (.inf neg)).1, flDZ)
    else
      let sh := 2 * f.mbits + 8 + bitLen m
      let num := 1 <<< sh
      f.round mode neg (num / m) (- e - sh) (num % m != 0)

/-- VRSQ: 1 ÷ √x (R140, R141). -/
def Fmt.rsq (f : Fmt) (mode a : Nat) : Nat × Flags :=
  match f.val a with
  | .nan s => f.roundVal mode (.nan s)
  | .inf true => f.roundVal mode (.nan true)
  | .inf false => f.roundVal mode (.fin false 0 0)
  | .fin neg m e =>
    if m = 0 then ((f.roundVal mode (.inf neg)).1, flDZ)
    else if neg then f.roundVal mode (.nan true)
    else
      -- x = m' × 2^(2k): 1 ÷ √x = √(2^(2j) ÷ m') × 2^(−k − j)
      let m' := if e % 2 = 0 then m else 2 * m
      let k : Int := if e % 2 = 0 then e / 2 else (e - 1) / 2
      let j := 2 * f.mbits + 8 + bitLen m'
      let num := 1 <<< (2 * j)
      let r := isqrt (num / m') (j + 1) 0
      f.round mode false r (- k - j) (r * r * m' != num)

/-! ### 2^x and log₂ x (R140, R144)

Both work on 320-bit fixed point, so the computed value differs from the exact one by less than 2^−300; a result
that is not an integer is then rounded as the computed value with a positive part below one unit of the fixed point.
No result of these functions at an FP32 operand comes that close to a rounding boundary (log 7). -/

/-- Fraction bits of the fixed point. -/
def fxBits : Nat := 320

/-- ln 2 in that fixed point, rounded down. -/
def fxLn2 : Nat := 0xb17217f7d1cf79abc9e3b39803f2f6af40f343267298b62d8a0d175b8baafa2be7b876206debac98

/-- The terms t^k ÷ k! from k on, each from the one before. -/
def expTerms (t : Nat) : Nat → Nat → Nat → Nat
  | 0, _, _ => 0
  | n + 1, k, term => term + expTerms t n (k + 1) ((term * t) >>> fxBits / (k + 1))

/-- 2^f for f in [0, 1), both in fixed point. -/
def fxExp2 (f : Nat) : Nat := expTerms ((f * fxLn2) >>> fxBits) 80 0 (1 <<< fxBits)

/-- z^(2k+1) ÷ (2k + 1) summed from k on: the series of the inverse hyperbolic tangent. -/
def atanhTerms (z2 : Nat) : Nat → Nat → Nat → Nat
  | 0, _, _ => 0
  | n + 1, k, p => p / (2 * k + 1) + atanhTerms z2 n (k + 1) ((p * z2) >>> fxBits)

/-- log₂ of y in [1, 2), both in fixed point. -/
def fxLog2 (y : Nat) : Nat :=
  let one := 1 <<< fxBits
  let z := ((y - one) <<< fxBits) / (y + one)
  ((2 * atanhTerms ((z * z) >>> fxBits) 110 0 z) <<< fxBits) / fxLn2

/-- VEXP2 (R140, R141). -/
def Fmt.exp2 (f : Fmt) (mode a : Nat) : Nat × Flags :=
  match f.val a with
  | .nan s => f.roundVal mode (.nan s)
  | .inf true => (0, 0)
  | .inf false => f.roundVal mode (.inf false)
  | .fin neg m e =>
    -- beyond ± 2^12 the result over- or underflows whatever the operand is
    if decide (12 < e + (bitLen m : Int)) then
      if neg then f.round mode false 1 (-5000) true else f.round mode false 1 5000 true
    else
      -- x in fixed point is exact: e ≥ −149 for FP32
      let x : Int := signed neg (if 0 ≤ e then m <<< (e.toNat + fxBits) else (m <<< fxBits) >>> (- e).toNat)
      let n := x / 2 ^ fxBits
      let fr := (x % 2 ^ fxBits).toNat
      if fr = 0 then f.round mode false 1 n
      else f.round mode false (fxExp2 fr) (n - fxBits) true

/-- VLOG2 (R140, R141); of a power of two exactly, and +0 of 1. -/
def Fmt.log2 (f : Fmt) (mode a : Nat) : Nat × Flags :=
  match f.val a with
  | .nan s => f.roundVal mode (.nan s)
  | .inf true => f.roundVal mode (.nan true)
  | .inf false => f.roundVal mode (.inf false)
  | .fin neg m e =>
    if m = 0 then ((f.roundVal mode (.inf true)).1, flDZ)
    else if neg then f.roundVal mode (.nan true)
    else
      let l := bitLen m - 1
      let n : Int := e + l
      if m = 2 ^ l then f.round mode (decide (n < 0)) n.natAbs 0
      else
        let fr := fxLog2 ((m <<< fxBits) >>> l)
        if 0 ≤ n then f.round mode false (n.toNat * 2 ^ fxBits + fr) (- fxBits) true
        -- below 1 the magnitude is |n| − fr, less the part below the bound
        else f.round mode true ((- n).toNat * 2 ^ fxBits - fr - 1) (- fxBits) true

/-! ### Comparison, selection, classification (R121 to R124) -/

/-- Whether a < b, a = b of two values that are not NaN; −0 equals +0. -/
def FVal.cmp : FVal → FVal → Ordering
  | .inf a, .inf b => if a == b then .eq else if a then .lt else .gt
  | .inf a, _ => if a then .lt else .gt
  | _, .inf b => if b then .gt else .lt
  | .fin na ma ea, .fin nb mb eb =>
    let e := min ea eb
    compare (signed na ma * 2 ^ (ea - e).toNat) (signed nb mb * 2 ^ (eb - e).toNat)
  | _, _ => .eq

/-- FCMP (R345): bit 0 less, 1 equal, 2 greater, 3 unordered; quiet. -/
def Fmt.fcmp (f : Fmt) (a b : Nat) : Nat × Flags :=
  let x := f.val a; let y := f.val b
  if x.isNaN || y.isNaN then (8, nvIf (x.isSig || y.isSig))
  else match x.cmp y with
    | .lt => (1, 0)
    | .eq => (2, 0)
    | .gt => (4, 0)

/-- A predicate of VCMP over an F type, with its flag (R121). -/
def Fmt.pred (f : Fmt) (p : CmpPred) (a b : Nat) : Bool × Flags :=
  let x := f.val a; let y := f.val b
  let sig := x.isSig || y.isSig
  if x.isNaN || y.isNaN then
    match p with
    | .eq | .ord => (false, nvIf sig)
    | .ne | .un => (true, nvIf sig)
    | .lt | .le | .gt | .ge => (false, flNV)
  else
    let c := x.cmp y
    match p with
    | .eq => (c == .eq, 0)
    | .ne => (c != .eq, 0)
    | .lt => (c == .lt, 0)
    | .le => (c != .gt, 0)
    | .gt => (c == .gt, 0)
    | .ge => (c != .lt, 0)
    | .un => (false, 0)
    | .ord => (true, 0)

/-- maximumNumber, or minimumNumber (R122). -/
def Fmt.minmax (f : Fmt) (isMax : Bool) (a b : Nat) : Nat × Flags :=
  let x := f.val a; let y := f.val b
  let fl := nvIf (x.isSig || y.isSig)
  match x.isNaN, y.isNaN with
  | true, true => (f.canon, fl)
  | true, false => (b, fl)
  | false, true => (a, fl)
  | false, false =>
    let aNeg := (a >>> (f.ebits + f.mbits)) % 2 == 1
    let aLess := match x.cmp y with
      | .lt => true
      | .gt => false
      | .eq => aNeg   -- −0 is less than +0
    (if aLess == isMax then b else a, fl)

/-- The class mask (R123). -/
def Fmt.cls (f : Fmt) (a : Nat) : Nat :=
  match f.val a with
  | .nan s => if s then 2 ^ 8 else 2 ^ 9
  | .inf neg => if neg then 2 ^ 0 else 2 ^ 7
  | .fin neg m _ =>
    if m = 0 then (if neg then 2 ^ 3 else 2 ^ 4)
    else if m < 2 ^ f.mbits then (if neg then 2 ^ 2 else 2 ^ 5)
    else (if neg then 2 ^ 1 else 2 ^ 6)

/-! ### Conversions (R125 to R129) -/

/-- F format to F format (R125). -/
def cvtFF (src dst : Fmt) (mode a : Nat) : Nat × Flags := dst.roundVal mode (src.val a)

/-- An integer's least and greatest value. -/
def intRange (signedTy : Bool) (w : Nat) : Int × Int :=
  if signedTy then (-(2 ^ (w - 1)), 2 ^ (w - 1) - 1) else (0, 2 ^ w - 1)

/-- F format to an integer type (R126): a `w`-bit pattern. -/
def cvtFI (src : Fmt) (sgn : Bool) (w mode a : Nat) : Nat × Flags :=
  let (lo, hi) := intRange sgn w
  match src.val a with
  | .nan _ => (0, flNV)
  | .inf neg => (ofSigned w (if neg then lo else hi), flNV)
  | .fin neg m e =>
    let (n, inexact) := roundAt mode neg m e false (max 0 (e - 4 * w))
    -- an exponent above 4w is out of range whatever the magnitude; its multiple is restored here
    let v : Int := signed neg (n * 2 ^ (max 0 (e - 4 * w)).toNat)
    if v < lo then (ofSigned w lo, flNV)
    else if hi < v then (ofSigned w hi, flNV)
    else (ofSigned w v, if inexact then flNX else 0)

/-- An integer to an F format (R127). -/
def cvtIF (dst : Fmt) (mode : Nat) (v : Int) : Nat × Flags := dst.round mode (decide (v < 0)) v.natAbs 0

/-- RoundFP8 of R128. -/
def roundFP8 (f : Fmt) (mode : Nat) (sat : Bool) (v : FVal) : Nat × Flags :=
  let sgn (neg : Bool) : Nat := if neg then f.signBit else 0
  match v with
  | .nan s => (f.canon, nvIf s)
  | .inf neg =>
    if sat || f.kind == .finite then (sgn neg + f.maxBits, flSAT)
    else if f.kind == .oneNaN then (f.canon, flNV ||| flOF)
    else (sgn neg + f.infBits, 0)
  | .fin neg m e =>
    if m = 0 then (sgn neg, 0)
    else
      let (b, inexact, tiny) := f.roundMag mode neg m e false
      if f.maxBits < b then
        if sat || f.kind == .finite then (sgn neg + f.maxBits, flSAT ||| flNX)
        else if !(overflowsToInf mode neg) then (sgn neg + f.maxBits, flOF ||| flNX)
        else if f.kind == .oneNaN then (f.canon, flNV ||| flOF ||| flNX)
        else (sgn neg + f.infBits, flOF ||| flNX)
      else (sgn neg + b, (if inexact then flNX else 0) ||| (if tiny && inexact then flUF else 0))

/-! ### Sums (R133, R137, R138) -/

/-- ExactSum of R133 over a list. -/
def exactSum : List FVal → FVal
  | [] => .fin true 0 0
  | v :: r => match v, exactSum r with
    | .nan s, .nan t => .nan (s || t)
    | .nan s, _ => .nan s
    | _, .nan t => .nan t
    | .inf a, .inf b => if a == b then .inf a else .nan true
    | .inf a, _ => .inf a
    | _, .inf b => .inf b
    | .fin na ma ea, .fin nb mb eb =>
      let t := exactAdd na ma ea nb mb eb
      if t.1 = 0 then .fin (na && nb && ma == 0 && mb == 0) 0 t.2
      else .fin (decide (t.1 < 0)) t.1.natAbs t.2

/-- One block of a matrix product: c := Round32(c + ExactSum(P), 0), with SAT by R138. -/
def matBlock (sat : Bool) (c : Nat) (p : List FVal) : Nat :=
  let v := FVal.add 0 (Fmt.f32.val c) (exactSum p)
  let (r, fl) := Fmt.f32.roundVal 0 v
  match v with
  | .fin neg _ _ =>
    if sat && (fl &&& flOF) != 0 then (if neg then 0xFF7F_FFFF else 0x7F7F_FFFF) else r
  | _ => r

/-- The value of an E8M0 scale, as a power of two's exponent; none for NaN (R113). -/
def e8m0 (x : Nat) : Option Int := if x = 255 then none else some ((x : Int) - 127)

/-! ### Random draws (R142 to R144) -/

/-- Mix of R143. -/
def mix (x : Dword) : Dword :=
  let x := (x ^^^ (x >>> 30)) * 0xBF58_476D_1CE4_E5B9
  let x := (x ^^^ (x >>> 27)) * 0x94D0_49BB_1331_11EB
  x ^^^ (x >>> 31)

/-- Uniform of R143: the FP32 pattern of (2 × (h >> 41) + 1) × 2^−24, which is exact. -/
def uniform (key counter : Dword) : Nat :=
  let h := mix (key ^^^ (counter * 0x9E37_79B9_7F4A_7C15))
  (Fmt.f32.round 0 false (2 * (h >>> 41).toNat + 1) (-24)).1

/-- The Gumbel value of a uniform (R144): every step to nearest-even, no flag. -/
def gumbel (u : Nat) : Nat :=
  let ln2 := 0x3F31_7218
  let sgn := 0x8000_0000
  let a := (Fmt.f32.log2 0 u).1
  let b := (Fmt.f32.mul 0 a ln2).1
  let d := (Fmt.f32.log2 0 (b ^^^ sgn)).1
  (Fmt.f32.mul 0 d ln2).1 ^^^ sgn

/-- Op of an atomic vector update (R403): no flag, to nearest-even. -/
def vamoOp (o : VamoOp) (t : Ty) (v x : Nat) : Nat :=
  match o with
  | .add => (vamoAdd t v x)
  | .min => if t.cls == .F then ((Ty.fmt t).minmax false v x).1 else if vamoInt t x < vamoInt t v then x else v
  | .max => if t.cls == .F then ((Ty.fmt t).minmax true v x).1 else if vamoInt t v < vamoInt t x then x else v
  | .and => v &&& x
  | .or => v ||| x
  | .xor => v ^^^ x
  | .swap => x
where
  vamoAdd (t : Ty) (v x : Nat) : Nat :=
    if t.cls == .F then ((Ty.fmt t).add 0 v x).1 else (v + x) % 2 ^ t.bits
  vamoInt (t : Ty) (v : Nat) : Int := if t.signed then toSigned t.bits v else (v : Int)

end Sys2Proof.Machine
end

