-- ==== Sys2Proof/Machine/State.lean ====
section
/-! DEFINITION. State.lean: the state of the machine as plain data, the causes, faults and refusals, and the state
after reset. Every field's docstring names the rule that gives it. -/

namespace Sys2Proof.Machine

/-- The 96 cause codes of R274, in the order of their codes 0x01 to 0x60. -/
inductive Cause where
  | illegalOpcode | reservedField | badRegister | placementUnsupported | privileged | misalignedFetch
  | fetchPageFault | fetchAccess | breakpoint | singleStep | systemCall | badType | badControlState
  | queueDeadlock | progressWatchdog
  | vectorStateNotOwned | tileStateDisabled | tileShapeMismatch | accumulatorUnallocated | stackContextUnbound
  | stackBufferOverflow | stackLoopNesting | journalOverflow | unmaskConfigInvalid | samplerStateInvalid
  | rowLineLost | rowLineLimit | rowLineStaleHandle | bankCommandInvalid | copyChannelInvalid | copyIdWrap
  | loadPageFault | storePageFault | amoPageFault | loadAccess | storeAccess | amoAccess | misalignedLoad
  | misalignedStore | misalignedAmo | expansionPoolEmpty | pageTableCorrupt | strideSummaryMismatch
  | remoteStackUnreachable | hostPageUnavailable | stripCommitOverflow | stripAborted
  | poisonScalar | poisonVector | uncorrectableLoad | uncorrectableBank | uncorrectableStackRegister
  | uncorrectableAccumulator | uncorrectableLocalStore | uncorrectableL2 | linkDataError | hostCompletionError
  | fpInvalid | fpDivzero | fpOverflow | fpUnderflow | fpInexact | fpConversionSat
  | groupInvalid | groupNotMember | iterationOrder | monitorInvalid | spawnInvalid | launchPacketInvalid
  | preemptRequest | sliceExpired | saveAreaFault | restartDiscard | debugWatch | counterOverflow
  | ownershipReadonly | segmentFlagsInvalid | reductionGroupInvalid | deterministicSlotOverflow
  | actCounterSaturated | actCounterCorrupt | scrubCorrected | scrubUncorrectable | thermalBankLimit
  | thermalCoreLimit | linkRetrain | linkDown | spareRemap | hbmTrainingFail | bootStepFail | signatureFail
  | powerRailFault | clockFault | directoryParity | stackUnitFail | managementWatchdog
  deriving DecidableEq, Repr

/-- Why the machine stops. No rule of the spec stops the whole device; these say what the model does not follow. -/
inductive Fault where
  /-- Raised by no instruction: the agenda names an encoded instruction as an event, which no rule lets an outside
  agent do (safe: the machine stops instead of inventing a meaning). -/
  | notAnEvent
  deriving DecidableEq, Repr

/-- Why an instruction has no meaning in the model. -/
inductive Refusal where
  /-- Raised by an arm of Dispatch.lean whose instruction has no meaning yet (safe: the machine stops). -/
  | notModelled (mnemonic : String)
  deriving DecidableEq, Repr

/-! ### Captured controls and stream entries -/

/-- Vector controls (R76, R77), which a hand-off captures (R40). -/
structure VecCtl where
  vl : BitVec 13
  vmsel : BitVec 4
  vstride : Dword
  rowcnt : BitVec 16
  rowpitch : Dword
  seqn : BitVec 13
  draftn : BitVec 6
  frm : BitVec 2
  deriving DecidableEq, Repr

/-- Generation controls (R81), captured by MAJ 3B and 3C (R249). -/
structure GenCtl where
  jbase : BitVec 57
  jlimit : BitVec 57
  umcfg : BitVec 28
  umdirty : BitVec 57
  rngkey : Dword
  vocabn : BitVec 32
  deriving DecidableEq, Repr

/-- One tile configuration (R78). -/
structure TCfg where
  ty : BitVec 4
  cols : BitVec 9
  rows : BitVec 8
  deriving DecidableEq, Repr

/-- Binary vector operations (R97). -/
inductive VBin where
  | add | sub | mul | div | min | max | and | or | xor | shl | shr | sra
  deriving DecidableEq, Repr

/-- Unary vector operations (R399). -/
inductive VUn where
  | neg | abs | sqrt | rcp | rsq | exp2 | log2 | cls | mov
  deriving DecidableEq, Repr

/-- Fused operations (R414). -/
inductive VTern where
  | ma | ms | nma
  deriving DecidableEq, Repr

/-- Reductions and the scan (R419, R405). -/
inductive VRed where
  | sum | osum | max | min | argmax | argmin | scan
  deriving DecidableEq, Repr

/-- Mask operations (R355). -/
inductive KOp where
  | and | or | xor | not | mov
  deriving DecidableEq, Repr

/-- What a V- or K-stream entry does; scalar operands are the entry's captured values x, y and z. -/
inductive VOp where
  | bin (o : VBin) (d a b : VReg) (t : Ty)
  | binS (o : VBin) (d a : VReg) (t : Ty)
  | bcast (d : VReg) (t : Ty)
  | slide (d a : VReg) (t : Ty)
  | extract (d : SReg) (a : VReg) (t : Ty)
  | tern (o : VTern) (d a b : VReg) (t : Ty)
  | un (o : VUn) (d a : VReg) (t : Ty)
  | iota (d : VReg) (t : Ty)
  | cvt (d a : VReg) (sat : Bool) (src dst : Ty)
  | cmp (k a b : VReg) (t : Ty) (c : CmpPred)
  | sel (d a b : VReg) (t : Ty)
  | perm (d a b : VReg) (t : Ty)
  | compress (d a : VReg) (t : Ty)
  | qsend (q : QReg) (a : VReg) (t : Ty)
  | qrecv (d : VReg) (q : QReg) (t : Ty)
  | red (o : VRed) (d a kb : VReg) (t : Ty) (seg : Bool)
  | mask (o : KOp) (k a b : VReg)
  | kscalar (first : Bool) (d : SReg) (a : VReg)
  | load (t : VReg) (m : AMode) (ko ov : Bool) (y : Ty)
  | store (t : VReg) (m : AMode) (ko ov : Bool) (y : Ty)
  | atomic (o : VamoOp) (t x : VReg) (ret ko ov : Bool) (y : Ty)
  | tshape (d : SReg)
  | ten
  | tdis
  | tzero (t : TReg)
  | tslice (d : VReg) (t : TReg) (col : Bool)
  | tld (t : TReg) (ko ov : Bool) (y : Ty)
  | tst (t : TReg) (ko ov : Bool) (y : Ty)
  | mma (c : AccReg) (a b : TReg) (x y : Ty) (mx fb ea sat : Bool)
  | accrd (d : VReg) (c : AccReg)
  | accwr (d : VReg) (c : AccReg)
  | accz (c : AccReg)
  | urank (k a : VReg)
  | ucommit (k a : VReg)
  | udirty (k : VReg)
  | ucfg
  | smpstep (d a : VReg) (b : SReg)
  | vaccept (k a : VReg)
  | vpand (k a : VReg)
  | draw (d : VReg) (gumbel : Bool)
  | jadd
  | jcommit
  | jdrop
  | skloop
  | skend
  | skstrm (j : BitVec 2)
  /-- the place of an SBAR that does not name S in a stream it names (R172); no instruction of the stream -/
  | sbar (id : Nat)
  deriving DecidableEq, Repr

/-- The address space and the debug watch that an instruction passed on keeps (R74: a later write of PTBASE, ASID or
WATCH affects no earlier instruction). -/
structure AccEnv where
  ptbase : BitVec 52
  asid : BitVec 16
  watch : BitVec 57
  watchLd : Bool
  watchSt : Bool
  deriving DecidableEq, Repr

/-- An instruction passed to the V or K stream with the values captured at hand-off (R40, R191, R238, R249). -/
structure VEntry where
  op : VOp
  word : IWord
  pc : Dword
  placed : Bool
  /-- PRIV.LEVEL at hand-off -/
  super : Bool
  x : Dword
  y : Dword
  z : Dword
  /-- which of x, y, z was poisoned at hand-off (R285): carried by the moves that carry poison -/
  xPoison : Bool
  ctl : VecCtl
  /-- FTRAPEN at hand-off: a later write affects no earlier instruction (R74) -/
  ftrapen : BitVec 6
  gen : GenCtl
  /-- PTBASE, ASID and WATCH at hand-off (R74) -/
  env : AccEnv
  tcfg : Vector TCfg 8
  accalloc : BitVec 16
  /-- captured governing mask and head flags of a placed instruction (R191) -/
  kmask : KBits
  khead : KBits
  /-- restart index of an interrupted entry (R69): VSTART and EPR -/
  restart : Option (BitVec 16 × BitVec 32)
  /-- on re-execution under k7, the k7 that ERET read (R272, R209) -/
  rm : Option KBits
  /-- its place among the V- and K-stream instructions the LC has passed on (R270) -/
  no : Nat
  deriving DecidableEq, Repr

/-- What a trap reports: its cause and TVAL, the instruction, and the fault record's fields (R268, R280). -/
structure TrapRec where
  /-- the place in program order of the stream instruction it reports (R270) -/
  no : Nat
  cause : Cause
  tval : Dword
  pc : Dword
  insn : IWord
  deferred : Bool
  /-- RM of DRPC or SDRPC (R276); none leaves it unchanged (R363) -/
  rm : Option Bool
  first : Nat
  faddr : Dword
  /-- faulting pages in the record's order, each with its cause -/
  pages : List (Dword × Cause)
  storeGroup : Bool
  k7valid : Bool
  copy : Bool
  bank : Bool
  xid : BitVec 32
  vl : BitVec 16
  rowcnt : BitVec 16
  vstride : Dword
  rowpitch : Dword
  deriving DecidableEq, Repr

/-! ### Stack contexts (R188) -/

/-- An entry of a stack queue: an address, or an address with the cause met in generating it (R200), which is that of
the index element when the index read failed; and whether an instruction has already raised the cause (R201). -/
structure SqEntry where
  addr : Dword
  cause : Option Cause
  index : Bool
  tried : Bool
  deriving DecidableEq, Repr

/-- An address stream's descriptor snapshot and next index (R188, R199). -/
structure AStream where
  base : Dword
  step : Dword
  addend : Dword
  count : Nat
  shift : Nat
  idx : Nat
  indexed : Bool
  next : Nat
  /-- the level of the SKSTRM that started it, and how many V- and K-stream instructions the LC had passed on before that
  (R180) -/
  super : Bool
  no : Nat
  deriving DecidableEq, Repr

/-- An open loop level of a context (R195, R196): count, iteration, and where its body begins in the buffer. -/
structure KLevel where
  count : Nat
  iter : Nat
  start : Nat
  deriving DecidableEq, Repr

/-- A stack context (R188). -/
structure StackCtx where
  w : Vector WBits 24
  /-- poison of the 16 granules of each w register (R285) -/
  wPoison : Vector (BitVec 16) 24
  /-- granules of the w registers that hold an uncorrectable error (R283) -/
  wError : Vector (BitVec 16) 24
  sq : Vector (List SqEntry) 4
  streams : Vector (Option AStream) 4
  buf : List VEntry
  pos : Nat
  levels : List KLevel
  bindAddr : Dword
  /-- address space of the binding LC (R303) -/
  ptbase : BitVec 52
  asid : BitVec 16
  /-- the faulted entry, stalled until ERET (R208) -/
  stalled : Option VEntry
  deriving DecidableEq, Repr

/-! ### Copy channels (06) -/

/-- The kinds of copy command (R158). -/
inductive XKind where
  | cpy (twoD : Bool)
  | deil (v : VReg) (f : Nat)
  | red (t : RedTy) (det : Bool) (redgrp : Dword)
  /-- the place of an SBAR (R172) -/
  | sbar (id : Nat)
  deriving DecidableEq, Repr

/-- A copy command with its captured operands (R158). -/
structure XCmd where
  id : BitVec 32
  kind : XKind
  dst : Dword
  src : Dword
  len : Nat
  rows : Nat
  pitch : Dword
  super : Bool
  /-- PTBASE, ASID and WATCH at hand-off (R74) -/
  env : AccEnv
  deriving DecidableEq, Repr

/-- A copy channel: next identifier, XDONE, XWP, command buffer (R157), the fault a transfer stopped on, and whether an
instruction has raised it (R164). -/
structure Chan where
  next : BitVec 32
  done : BitVec 32
  wp : BitVec 32
  /-- bytes of a deterministic transfer that have been offered to their slices (R162, R430) -/
  pos : BitVec 32
  cmds : List XCmd
  err : Option (Cause × Dword)
  raised : Bool
  deriving DecidableEq, Repr

/-! ### Row lines and bank commands (09) -/

/-- A row line: stack, channel, bank within the channel (0 to 63) and row (R212). -/
structure Line where
  stack : Nat
  chan : Nat
  bank : Nat
  row : Nat
  deriving DecidableEq, Repr

/-- An entry of the handle table (R215). -/
structure HEntry where
  handle : BitVec 32
  line : Line
  ro : Bool
  granted : Bool
  lost : Bool
  deriving DecidableEq, Repr

/-- A wave descriptor (R225) with the BNKWIN captured at hand-off. -/
structure WaveDesc where
  at_ : Dword
  vbase : Dword
  rstride : Dword
  pstride : Dword
  bankmask : Dword
  scalars : Dword
  loff : Dword
  roff : Dword
  scalar : BitVec 32
  count : Nat
  npage : Nat
  acc : Bool
  w : Bool
  op : BkOp
  bnkwin : BitVec 3
  deriving DecidableEq, Repr

/-- What a B-stream command does. -/
inductive BKind where
  | open (h : SReg) (line : Line) (ro : Bool)
  | release (handle : BitVec 32) (line : Line)
  | stat (d : SReg) (value : Dword)
  | op (o : BkOp) (w : Bool) (dst : Line) (src : Option Line) (a : BitVec 32) (off : Nat) (dHandle sHandle : BitVec 32)
  | wave (d : WaveDesc)
  /-- the place of an SBAR (R172) -/
  | sbar (id : Nat)
  deriving DecidableEq, Repr

/-- A command of a B stream. -/
structure BCmd where
  kind : BKind
  pc : Dword
  word : IWord
  super : Bool
  /-- PTBASE and ASID at hand-off (R74) -/
  env : AccEnv
  /-- how many V- and K-stream instructions the LC had passed on before it (R180) -/
  no : Nat
  deriving DecidableEq, Repr

/-- The key of an LC: its task's acceptance number and its LCID. -/
structure LcKey where
  task : Nat
  lcid : Nat
  deriving DecidableEq, Repr

/-- A unit's pass over a wave's rows (R228). -/
structure UnitRun where
  stack : Nat
  unit : Nat
  /-- index of the wave bank the unit works on, among its named banks -/
  bank : Nat
  k : Nat
  sinceYield : Nat
  yielded : Bool
  /-- the sub-wave that the pass belongs to (R61) -/
  sub : Nat
  /-- the Y line of a folding wave, in the unit from its opening to its write-back (R228), and its poisoned granules -/
  ybuf : WBits
  ypoison : BitVec 16
  deriving DecidableEq, Repr

/-- A command a sequencer holds (R61), with its progress. -/
structure SeqCmd where
  /-- tells apart the commands held at one time (the model's own) -/
  no : Nat
  who : LcKey
  cmd : BCmd
  /-- whether the wave's probe has passed (R227) -/
  probed : Bool
  /-- scalars read at the probe (R338) -/
  alphas : List (BitVec 32)
  /-- whether any of them was poisoned or uncorrectable -/
  alphaPoison : Bool
  /-- frames of the row, L and Y pages in probe order -/
  frames : List Nat
  /-- units still to run, as (stack, unit) -/
  todo : List (Nat × Nat)
  runs : List UnitRun
  /-- an input was uncorrectable (R283) -/
  bad : Bool
  deriving DecidableEq, Repr

/-! ### The loop context -/

/-- Where an LC is (R37, R52, R63). -/
inductive LcStatus where
  | absent | resident | yielded | preempted | exited
  deriving DecidableEq, Repr

/-- The wait in which an LC gave up its partition (R63): none for a YIELD, whose wait has ended. -/
inductive Wait where
  | none
  | barrier (group generation : Nat)
  | iteration (i : Nat)
  | monitor
  deriving DecidableEq, Repr

/-- An open SKLOOP level tracked by the scalar unit (R195): length and entries passed on. -/
structure SkLevel where
  length : Dword
  seen : Nat
  deriving DecidableEq, Repr

/-- Trap registers of both levels (R82, R269). -/
structure TrapRegs where
  tvec : BitVec 57
  tcause : BitVec 8
  tepc : BitVec 57
  tval : Dword
  tinsn : IWord
  frecbase : BitVec 57
  frecCap : BitVec 16
  frecIdx : BitVec 16
  savebase : BitVec 57
  smode : BitVec 2
  level : Bool
  poisonValid : Bool
  poisonGranule : BitVec 57
  scause : BitVec 8
  sepc : BitVec 57
  stval : Dword
  sinsn : IWord
  rlost : Bool
  step : Bool
  uh : Bool
  plevel : Bool
  drpcPc : BitVec 57
  drpcRm : Bool
  drpcV : Bool
  sdrpcPc : BitVec 57
  sdrpcRm : Bool
  sdrpcV : Bool
  sscratch : Dword
  watch : BitVec 57
  watchLd : Bool
  watchSt : Bool
  /-- the user handler that is active handles a V-stream, or a K-stream report (R271, R272) -/
  uv : Bool
  uk : Bool
  deriving DecidableEq, Repr

/-- A scalar store that has left the scalar unit and is not yet performed, since an earlier V access to its bytes or an
earlier bank command is not (R169, R170, R180, R387), or since it is a release (R175, R388). -/
structure PStore where
  /-- where it goes: a window offset or a physical address, with the leaf entry -/
  window : Bool
  place : Nat
  leaf : Dword
  va : Dword
  n : Nat
  data : Nat
  poison : Bool
  release : Bool
  /-- how many V- and K-stream instructions the LC had passed on before it, and which of them it waits for -/
  no : Nat
  after : List Nat
  /-- how many supervisor entries held V entries aside when it left the scalar unit -/
  depth : Nat
  deriving DecidableEq, Repr

/-- The V stream as a supervisor trap stopped it (R271, R273): a faulted entry that waits for ERET, and the queue. -/
structure VGroup where
  stalled : Option VEntry
  queue : List VEntry
  deriving DecidableEq, Repr

/-- A granule held by containment (R281): address, byte mask, data, and whether it holds poisoned bytes (R285). -/
structure Held where
  granule : Nat
  mask : BitVec 64
  data : BitVec 512
  poison : Bool
  deriving DecidableEq, Repr

/-- The scalar register that a placed entry returns a value to (R192). -/
def VEntry.returns (e : VEntry) : Option SReg :=
  match e.op with
  | .extract d _ _ => if e.placed then some d else none
  | _ => none

/-- The grant of the last TSHAPE (R236, R237): the tile configurations it wrote and the held segments. -/
structure Grant where
  cfg : Vector TCfg 8
  segs : List Nat
  deriving DecidableEq, Repr

/-- A loop context (R35). -/
structure Lc where
  key : LcKey
  status : LcStatus
  core : Nat
  partNo : Nat
  pc : BitVec 57
  s : Vector Dword 64
  sPoison : BitVec 64
  q : Vector (List Dword) 8
  vec : VecCtl
  vstart : BitVec 16
  epr : BitVec 32
  fflags : BitVec 7
  ftrapen : BitVec 6
  accrecomp : BitVec 16
  restartpc : BitVec 57
  saff : Dword
  bnkwin : BitVec 3
  chans : Vector Chan 4
  redgrp : Dword
  gen : GenCtl
  /-- TCFG0 to TCFG7 (R78): LC state by R75 -/
  tcfg : Vector TCfg 8
  strip : Dword
  ebase : Dword
  erem : Dword
  taskid : BitVec 32
  gmask : BitVec 16
  trap : TrapRegs
  pcsel : Vector (BitVec 18) 8
  pcval : Vector (BitVec 48) 8
  ptbase : BitVec 52
  asid : BitVec 16
  stksel : BitVec 4
  /-- GBAR arrivals: group and recorded generation (R41, R68) -/
  bars : List (Nat × Nat)
  /-- NEXTS has posted and committed and awaits the dispenser (R68); some true when it has been answered -/
  nextsWait : Bool
  nextsAnswer : Option (Option Nat)
  loops : List SkLevel
  handles : List HEntry
  ctx : Option StackCtx
  /-- the context image of an LC that SSWITCH has loaded, until a context is bound for it (R289) -/
  rebind : Option StackCtx
  /-- V- and K-stream instructions passed on so far (R270) -/
  passed : Nat
  kqueue : List VEntry
  bqueue : List BCmd
  /-- scalar stores still to be performed, oldest first (R175, R387, R388) -/
  stores : List PStore
  /-- what each supervisor entry has held aside of the V stream, the latest entry first (R273) -/
  vheld : List VGroup
  /-- the faulted V-stream entry that waits for ERET (R271) -/
  vstalled : Option VEntry
  vreport : Option TrapRec
  kreport : Option TrapRec
  /-- held wave fault (R227), and whether an instruction has raised it -/
  breport : Option TrapRec
  braised : Bool
  /-- UNCORRECTABLE_BANK still to be raised, by its TVAL (R336) -/
  bankErr : List Dword
  /-- asynchronous causes that have fallen due (R270) with their TVAL -/
  async : List (Cause × Dword)
  /-- a posted host store that failed (R308): raised at the next fence, release or EXIT -/
  hostErr : Option (Cause × Dword)
  slice : Nat
  wdog : Nat
  waited : Nat
  wait : Wait
  /-- SSWITCH with sa = 0: the partition is free after the next ERET (R289) -/
  leaving : Bool
  /-- the grant of its vector state, which VSAVE has saved and VLOAD not brought back (R287, R288) -/
  vsaved : Option Grant
  residentSince : Nat
  contain : List Held
  /-- scalar registers another stream has still to write (R192, R216, R249) -/
  pending : List SReg
  /-- those it had still to write when the LC left its partition: a value that arrives meanwhile stands in the record -/
  away : List SReg
  deriving DecidableEq, Repr

/-- K-stream entries the context has still to execute, replays of a loop that has been closed with them (R196). -/
def Lc.kOutstanding (l : Lc) : List VEntry :=
  (match l.ctx with
    | none => []
    | some c => c.stalled.toList ++ (if l.kqueue.any (·.op == .skend) then c.buf else c.buf.drop c.pos))
    ++ l.kqueue

/-! ### Partitions and cores -/

/-- The pending or running matrix instruction of a partition (R58): bands done, started after 24 cycles. -/
structure MSlot where
  entry : VEntry
  band : Nat
  started : Bool
  deriving DecidableEq, Repr

/-- A partition (R14, R287). -/
structure Part where
  core : Nat
  no : Nat
  ownerTask : BitVec 32
  ownerLcid : BitVec 12
  /-- the acceptance number of the owner's task, which tells apart two tasks of one identifier -/
  ownerKey : Option LcKey
  v : Vector VBits 32
  k : Vector KBits 8
  /-- poison of the 64 granules of each v register and the 2 of each k register (R285, R356) -/
  vPoison : Vector (BitVec 64) 32
  kPoison : Vector (BitVec 2) 8
  tstate : Dword
  accalloc : BitVec 16
  grant : Grant
  /-- poison of the 1,024 granules of each held segment, by position in the grant -/
  segPoison : Vector KBits 2
  vqueue : List VEntry
  mslot : Option MSlot
  /-- element groups of the queue head still to issue (R56); none before it is considered -/
  rem : Option Nat
  /-- whether the queue head has taken effect: its slots that remain only pass (R56, R69) -/
  done : Bool
  credit : Nat
  age : Nat
  bcredit : Int
  deriving DecidableEq, Repr

/-- The kinds of held translation (R302). -/
inductive TlbKind where
  | page | summary | block
  deriving DecidableEq, Repr

/-- A held translation: the VA it begins at, its leaf entries (one, or the eight of a line), ASID, G (R302). -/
structure TlbEntry where
  kind : TlbKind
  va : Nat
  asid : BitVec 16
  glob : Bool
  leaves : List Dword
  vmap : BitVec 8
  deriving DecidableEq, Repr

/-- A held translation of a base die: the SVU it belongs to (R303). -/
structure BaseTlbEntry where
  stack : Nat
  svu : Nat
  entry : TlbEntry
  deriving DecidableEq, Repr

/-- A table pointer that a walker pool holds (R304): the pool of the central die or of a base die, the level it was
read at, the address bits above the next table's, its ASID, and the next table. -/
structure PtrEntry where
  pool : Option Nat
  level : Nat
  va : Nat
  asid : BitVec 16
  next : Nat
  deriving DecidableEq, Repr

/-- A core (R14, R75). -/
structure Core where
  no : Nat
  bankrole : Dword
  preempt : Dword
  pindrop : Bool
  stvec : BitVec 57
  /-- scratchpad bytes by window offset (R149), canonical like memory -/
  scratch : List Host.Cell
  scratchPoison : List Nat
  scratchError : List Nat
  /-- operand-buffer segments by number, two per bank; an unlisted one is zero (R234) -/
  segs : List (Nat × ABits)
  segError : List Nat
  acc : Vector ABits 16
  accPoison : Vector KBits 16
  accError : Vector KBits 16
  tlb : List TlbEntry
  step : BitVec 4
  floor : BitVec 4
  /-- steps of FLOOR that heat has imposed and not undone (R325) -/
  heat : Nat
  /-- the LC at which PREEMPT_REQUEST was raised while its condition holds (R66) -/
  preReq : Option LcKey
  deriving DecidableEq, Repr

/-! ### Tasks -/

/-- A barrier group (R41). -/
structure Group where
  members : Nat
  arrived : Nat
  generation : Nat
  deriving DecidableEq, Repr

/-- A live task (R28 to R33, R39 to R43). -/
structure Task where
  seq : Nat
  fn : Nat
  id : BitVec 32
  entry : Dword
  elements : Nat
  coremask : Dword
  prio : Nat
  ew : BitVec 2
  ring : Bool
  scc : Bool
  lcn : Nat
  args : List Dword
  completion : Dword
  spawned : Bool
  lcsave : Dword
  ptbase : BitVec 52
  asid : BitVec 16
  /-- acceptance numbers of the live tasks it waits for -/
  deps : List Nat
  hasRing : Bool
  nextStrip : Nat
  started : Nat
  exited : Nat
  groups : Vector Group 16
  /-- posted iterations at or above the frontier, ascending -/
  posted : List Nat
  frontier : Nat
  /-- abnormal end (R33): completion STATE, CODE, failed dependence, lowest EBASE discarded -/
  ended : Option (Nat × Nat × Nat × Option Nat)
  deriving DecidableEq, Repr

/-! ### The device -/

/-- STATE field of a launch port (R311). -/
inductive PortState where
  | idle | busy | accepted | rejected
  deriving DecidableEq, Repr

/-- A launch port (R311): bytes 0x00 to 0xEF as last written, the packet taken at the commit, the status. -/
structure Port where
  no : BitVec 6
  bytes : BitVec 1920
  packet : BitVec 2048
  st : PortState
  reason : Nat
  taskid : BitVec 32
  stamp : Dword
  deriving DecidableEq, Repr

/-- A PCI Express function (R309). -/
structure Func where
  no : Nat
  fstatus : BitVec 4
  launchpt : BitVec 52
  launchasid : BitVec 16
  hwbase : BitVec 57
  /-- ports that differ from a port after reset -/
  ports : List Port
  /-- where the intake's next search among the 65 ports begins (R50) -/
  nextPort : Nat
  spawnCount : BitVec 31
  deriving DecidableEq, Repr

/-- A SPAWN request that waits at the intake (R50). -/
structure SpawnReq where
  who : LcKey
  fn : Nat
  packet : BitVec 2048
  deriving DecidableEq, Repr

/-- State of a pin slot (R215). -/
inductive SlotState where
  | free | opening | pinned | closed | released
  deriving DecidableEq, Repr

/-- A pin slot of a bank (R213, R215). -/
structure Slot where
  stack : Nat
  chan : Nat
  bank : Nat
  slot : Nat
  st : SlotState
  row : Nat
  gen : BitVec 8
  holder : Option LcKey
  deriving DecidableEq, Repr

/-- Per-stack registers of the compressed tier and limits (R306, R317, R324). -/
structure Stack where
  no : Nat
  czbase : BitVec 52
  poolbase : BitVec 52
  poolsize : BitVec 17
  poolhead : BitVec 32
  pooltail : BitVec 32
  /-- a frame held for the next expansion (R306) -/
  frame : Option Nat
  /-- BNKLIM as it has reached the sequencer (R231), and the thermal limit (R324) -/
  limit : Nat
  thermal : Nat
  hot : Bool
  degraded : Bool
  deriving DecidableEq, Repr

/-- A taken stack context of a home SVU (R59). -/
structure CtxUse where
  stack : Nat
  svu : Nat
  ctx : Nat
  owner : LcKey
  deriving DecidableEq, Repr

/-- The context that an SVU's lanes served last (R60). -/
structure Served where
  stack : Nat
  svu : Nat
  ctx : Nat
  deriving DecidableEq, Repr

/-- A waiting bind (R59), with the granted context once one frees. -/
structure Bind where
  who : LcKey
  stack : Nat
  svu : Nat
  granted : Option Nat
  deriving DecidableEq, Repr

/-- An update on its way to a scatter-add unit (R203). -/
structure ScUpdate where
  pa : Nat
  o : VamoOp
  t : Ty
  /-- the operands of the elements that name the address, ascending: duplicates of one instruction are merged (R182) -/
  operands : List Dword
  /-- performed after the earlier updates of its instruction (K = 1, R182), which it tells apart -/
  k : Bool
  who : LcKey
  no : Nat
  deriving DecidableEq, Repr

/-- An entry of a combining store (R203): its chain, and the granule's value once the old value has arrived. -/
structure Combine where
  granule : Nat
  chain : List ScUpdate
  value : Option (BitVec 512)
  deriving DecidableEq, Repr

/-- One staged contribution: rank, the byte of its transfer at which it begins (R163), covered bytes, data (R162), and
whether it is poisoned (R285). -/
structure StagePart where
  rank : Nat
  off : Nat
  cover : BitVec 64
  data : BitVec 512
  poison : Bool
  who : LcKey
  ch : BitVec 2
  deriving DecidableEq, Repr

/-- A staging entry of a home slice, by its key (R162). -/
structure Stage where
  fn : Nat
  taskid : BitVec 32
  gid : BitVec 16
  granule : Nat
  count : Nat
  t : RedTy
  parts : List StagePart
  deriving DecidableEq, Repr

/-- A deterministic contribution on its way to its slice (R162). -/
structure Contribution where
  key : Stage
  part : StagePart
  deriving DecidableEq, Repr

/-- What a monitor reads atomically with the waking write (R365): the value, its poison, and whether the read was
uncorrectable. -/
structure Woken where
  value : Dword
  poison : Bool
  bad : Bool
  deriving DecidableEq, Repr

/-- An armed monitor (R185): the 8 bytes at pa in a granule, and what the waking write left. -/
structure Monitor where
  who : LcKey
  pa : Nat
  got : Option Woken
  deriving DecidableEq, Repr

/-- Where the boot stands (R320, R322). -/
inductive BootState where
  | off | offBus | ready | recovery | managementOnly
  deriving DecidableEq, Repr

/-- A step of power control (R324): the cores whose FLOOR it raised, or by how much it lowered each stack's limit. -/
inductive PowerStep where
  | floors (cores : Dword)
  | limits (by_ : List Nat)
  deriving DecidableEq, Repr

/-- The management block and the claimants (R315 to R322). -/
structure Mgmt where
  owner : Option Claimant
  bnklim : Nat
  actth : BitVec 16
  pcap : Nat
  /-- the boot-step word's fields (R321) -/
  degraded : BitVec 12
  conserv : BitVec 12
  narrow : BitVec 12
  attempt : Nat
  lastFail : Nat
  outcome : BitVec 14
  fwwin : Dword
  clearNext : Bool
  recovery : List Host.Cell
  verifying : Bool
  /-- reports of refused writes to the other claimants, with their code (R316) -/
  refusals : List (Claimant × Nat)
  log : List Cause
  /-- steps that power control has imposed and not undone, the latest first (R324) -/
  powerSteps : List PowerStep
  /-- stacks whose pattern test the last boot found to fail (R320, step 7) -/
  testFailed : BitVec 12
  /-- the firmware image in board flash, as far as it came through recovery mode (R322) -/
  flash : List Host.Cell
  deriving DecidableEq, Repr

/-- A host memory request in flight (R308): a read of `bytes` bytes, or the delivery of a posted store, and how it
completed. -/
structure HostReq where
  who : LcKey
  va : Dword
  store : Bool
  pa : Nat
  bytes : Nat
  answer : Option HostStatus
  /-- the function whose task's completion record the store writes (R314), which no LC waits for -/
  record : Option Nat
  deriving DecidableEq, Repr

/-- The answer to a host window access (R310). -/
structure WindowAnswer where
  fn : Nat
  data : Option (List Byte)
  poisoned : Bool
  deriving DecidableEq, Repr

/-- Everything outside the cores. -/
structure Device where
  /-- bytes by physical address (R145), strictly rising, none equal to an unlisted byte -/
  mem : List Host.Cell
  memPoison : List Nat
  memError : List Nat
  /-- granules whose L2 line holds an uncorrectable error (R283), and peer granules whose next request fails (R319) -/
  l2Error : List Nat
  linkError : List Nat
  monitors : List Monitor
  tasks : List Task
  nextSeq : Nat
  funcs : List Func
  /-- the function at which the intake's next search begins (R50) -/
  nextFn : Nat
  spawns : List SpawnReq
  /-- answers to SPAWN: the identifier, or 0 -/
  spawnAnswers : List (LcKey × BitVec 32)
  hbm : List Stack
  slots : List Slot
  seqs : List SeqCmd
  /-- stacks whose sequencer has reached an admission point it has still to serve (R61) -/
  admits : List Nat
  actcnt : List (Line × Nat)
  /-- rows whose activation counter fails its ECC check (R233) -/
  actError : List Line
  ctxUses : List CtxUse
  served : List Served
  binds : List Bind
  scUpdates : List ScUpdate
  combines : List Combine
  stages : List Stage
  contributions : List Contribution
  baseTlb : List BaseTlbEntry
  /-- translations held for the device-memory windows (R310) -/
  ioTlb : List TlbEntry
  /-- table pointers held by the walker pools (R304) -/
  ptrs : List PtrEntry
  mgmt : Mgmt
  boot : BootState
  member : BitVec 10
  reachable : List Nat
  portsUp : BitVec 12
  scrubs : List Nat
  hostReqs : List HostReq
  windowAnswers : List WindowAnswer
  received : List (Nat × List Byte)
  /-- what UALink reads and atomics of peers were answered, oldest first, with the poison of the data (R318) -/
  peerAnswers : List (List Byte × Bool)
  deriving DecidableEq, Repr

/-- Where an uncorrectable error appears (R233, R283, R319): a granule of HBM, of an L2 line, of a peer by its address, of
the scratchpad, a segment or an accumulator of the core in focus, a granule of a w register of the bound context, or a
row's activation counter. -/
inductive ErrorAt where
  | hbm (g : Nat)
  | l2 (g : Nat)
  | link (g : Nat)
  | scratch (g : Nat)
  | segment (n : Nat)
  | accumulator (a g : Nat)
  | stackRegister (w g : Nat)
  | actCounter (l : Line)
  deriving DecidableEq, Repr

/-- A move of the agenda: an event, the turn of a partition or an LC to be the one in focus, or other work of the
machine. -/
inductive Move where
  | event (i : Instr)
  | turn (core part : Nat)
  | turnLc (k : LcKey)
  /-- the oldest scalar store of the LC in focus that may be performed is performed (R387, R388) -/
  | store
  /-- an uncorrectable error appears in a unit (R283), or a peer's link fails a granule's requests (R319) -/
  | error (e : ErrorAt)
  /-- an ordinary access that the caches do not hold reaches a row at its bank (R213, R220) -/
  | rowAccess (l : Line)
  | other
  deriving DecidableEq, Repr

/-- The state of the machine. `lc`, `part` and `core` are the loop context whose turn it is, its partition and its
core; `lcs`, `parts` and `cores` hold all the others (an unlisted partition or core is as after reset). `agenda`,
`runAhead` and `tick` are the model's own (log 3). -/
structure State where
  lc : Lc
  part : Part
  core : Core
  lcs : List Lc
  parts : List Part
  cores : List Core
  dev : Device
  /-- the cycle count of each core (R75, R323) -/
  cycles : Vector Dword 64
  /-- the word of the instruction at the boundary, as fetched -/
  ir : IWord
  /-- whether the step retired a scalar instruction (R67, R83, R286; the model's own, log 3) -/
  retired : Bool
  /-- moves of other agents still to come, in order (the model's own, log 3) -/
  agenda : List Move
  /-- whether the scalar unit runs ahead of the streams (the model's own, log 3) -/
  runAhead : Bool
  /-- numbers the free values (the model's own, log 5) -/
  tick : Nat
  deriving DecidableEq, Repr

/-! ### Reset -/

/-- Vector controls at LC start (R35, R76). -/
def VecCtl.reset : VecCtl := ⟨0, 8, 0, 0, 0, 0, 0, 0⟩

/-- Generation controls at LC start (R81). -/
def GenCtl.reset : GenCtl := ⟨0, 0, 0, 0, 0, 0⟩

/-- An idle copy channel (06, before R157). -/
def Chan.reset : Chan := ⟨0, 0, 0, 0, [], none, false⟩

/-- The zero tile configuration. -/
def TCfg.zero : TCfg := ⟨0, 0, 0⟩

/-- Trap registers at LC start (R82, R269). -/
def TrapRegs.reset : TrapRegs :=
  { tvec := 0, tcause := 0, tepc := 0, tval := 0, tinsn := 0, frecbase := 0, frecCap := 0, frecIdx := 0,
    savebase := 0, smode := 0, level := false, poisonValid := false, poisonGranule := 0, scause := 0, sepc := 0,
    stval := 0, sinsn := 0, rlost := false, step := false, uh := false, plevel := false, drpcPc := 0,
    drpcRm := false, drpcV := false, sdrpcPc := 0, sdrpcRm := false, sdrpcV := false, sscratch := 0, watch := 0,
    watchLd := false, watchSt := false, uv := false, uk := false }

/-- An LC at its start (R35), before a task's values are placed in it. -/
def Lc.reset : Lc :=
  { key := ⟨0, 0⟩, status := .absent, core := 0, partNo := 0, pc := 0, s := Vector.replicate 64 0, sPoison := 0,
    q := Vector.replicate 8 [], vec := VecCtl.reset, vstart := 0, epr := 0, fflags := 0, ftrapen := 0,
    accrecomp := 0, restartpc := 0, saff := 0, bnkwin := 0, chans := Vector.replicate 4 Chan.reset, redgrp := 0,
    gen := GenCtl.reset, tcfg := Vector.replicate 8 TCfg.zero, strip := BitVec.allOnes 64, ebase := 0, erem := 0,
    taskid := 0, gmask := 1,
    trap := TrapRegs.reset, pcsel := Vector.replicate 8 0, pcval := Vector.replicate 8 0, ptbase := 0, asid := 0,
    stksel := 0, bars := [], nextsWait := false, nextsAnswer := none, loops := [], handles := [], ctx := none,
    rebind := none, passed := 0, kqueue := [], bqueue := [], stores := [], vheld := [], vstalled := none,
    vreport := none, kreport := none, breport := none, braised := false, bankErr := [], async := [], hostErr := none,
    slice := 0, wdog := 0, waited := 0, wait := .none, leaving := false, vsaved := none, residentSince := 0,
    contain := [], pending := [], away := [] }

/-- A partition that holds no vector state (R287), with the zero state of R35. -/
def Part.reset (core no : Nat) : Part :=
  { core := core, no := no, ownerTask := 0, ownerLcid := 0, ownerKey := none, v := Vector.replicate 32 0,
    k := Vector.replicate 8 0, vPoison := Vector.replicate 32 0, kPoison := Vector.replicate 8 0,
    tstate := 0, accalloc := 0,
    grant := ⟨Vector.replicate 8 TCfg.zero, []⟩, segPoison := Vector.replicate 2 0, vqueue := [], mslot := none,
    rem := none, done := false, credit := 0, age := 0, bcredit := 0 }

/-- A core after reset (R64, R79, R84, R269, R317). -/
def Core.reset (no : Nat) : Core :=
  { no := no, bankrole := 0xAAAA_5555_0000_0000, preempt := 0x1000_0000, pindrop := false, stvec := 0,
    scratch := [], scratchPoison := [], scratchError := [], segs := [], segError := [],
    acc := Vector.replicate 16 0, accPoison := Vector.replicate 16 0, accError := Vector.replicate 16 0, tlb := [],
    step := 0, floor := 0, heat := 0, preReq := none }

/-- A stack after reset (R306, R317): no region, no pool, BNKLIM 256, no thermal limit below 512. -/
def Stack.reset (no : Nat) : Stack :=
  { no := no, czbase := 0, poolbase := 0, poolsize := 0, poolhead := 0, pooltail := 0, frame := none, limit := 256,
    thermal := 512, hot := false, degraded := false }

/-- The management block after reset (R317). -/
def Mgmt.reset : Mgmt :=
  { owner := none, bnklim := 256, actth := 0x2000, pcap := 2400, degraded := 0, conserv := 0, narrow := 0,
    attempt := 0, lastFail := 0, outcome := 0, fwwin := 0, clearNext := false, recovery := [], verifying := false,
    refusals := [], log := [], powerSteps := [], testFailed := 0, flash := [] }

/-- The device after reset: nothing booted, no task, nothing listed in memory. -/
def Device.reset : Device :=
  { mem := [], memPoison := [], memError := [], l2Error := [], linkError := [], monitors := [], tasks := [],
    nextSeq := 0, funcs := [], nextFn := 0, spawns := [], spawnAnswers := [], hbm := [], slots := [], seqs := [],
    admits := [], actcnt := [], actError := [], ctxUses := [], served := [], binds := [], scUpdates := [],
    combines := [], stages := [], contributions := [], baseTlb := [], ioTlb := [], ptrs := [],
    mgmt := Mgmt.reset, boot := .off, member := 0, reachable := [], portsUp := 0, scrubs := [], hostReqs := [],
    windowAnswers := [], received := [], peerAnswers := [] }

/-- The machine right after reset: every register at its reset value, no LC resident. -/
def State.reset : State :=
  { lc := Lc.reset, part := Part.reset 0 0, core := Core.reset 0, lcs := [], parts := [], cores := [],
    dev := Device.reset, cycles := Vector.replicate 64 0, ir := 0, retired := false, agenda := [], runAhead := false,
    tick := 0 }

end Sys2Proof.Machine
end

