-- ==== Sys2Proof/Machine/Memory.lean ====
section
/-! DEFINITION. Memory.lean: memory cells in canonical form, the physical address map (R145, R146, R212), the page
tables (R295 to R301), and the expansion of compressed pages (R151 to R154). -/

namespace Sys2Proof.Machine

open Host (Cell)

/-! ### Cells -/

/-- What an unlisted address reads as (DESIGN CHOICE, log 2: the spec gives no contents for memory nothing wrote). -/
def unlistedByte : Byte := 0

/-- The byte at an address. -/
def Memory.get : List Cell → Nat → Byte
  | [], _ => unlistedByte
  | (b, v) :: r, a => if a = b then v else if a < b then unlistedByte else Memory.get r a

/-- Memory with one byte replaced, in canonical form. -/
def Memory.put : List Cell → Nat → Byte → List Cell
  | [], a, v => if v = unlistedByte then [] else [(a, v)]
  | (b, w) :: r, a, v =>
    if a < b then (if v = unlistedByte then (b, w) :: r else (a, v) :: (b, w) :: r)
    else if a = b then (if v = unlistedByte then r else (a, v) :: r)
    else (b, w) :: Memory.put r a v

/-- The little-endian value of `n` bytes at an address (R3). -/
def Memory.read (m : List Cell) (a : Nat) : Nat → Nat
  | 0 => 0
  | n + 1 => (Memory.get m a).toNat + 256 * Memory.read m (a + 1) n

/-- Memory with the `n` low bytes of a value stored at an address (R3). -/
def Memory.write (m : List Cell) (a : Nat) : Nat → Nat → List Cell
  | 0, _ => m
  | n + 1, x => Memory.write (Memory.put m a (BitVec.ofNat 8 x)) (a + 1) n (x / 256)

/-- Every address in the list is above `lo` and the list rises strictly, with no unlisted byte in it. -/
def Memory.wfFrom (lo : Nat) : List Cell → Bool
  | [] => true
  | (a, v) :: r => decide (lo ≤ a) && v != unlistedByte && Memory.wfFrom (a + 1) r

/-- The canonical form: addresses strictly rising, no entry equal to what an unlisted address reads as. -/
def Memory.wf (m : List Cell) : Bool := Memory.wfFrom 0 m

/-! ### Physical addresses (R145) -/

/-- Where a physical address lies (R145). -/
inductive PaKind where
  | hbm | unassigned | peer (member off : Nat) | host
  deriving DecidableEq, Repr

/-- Size of the local HBM: 768 GiB. -/
def hbmSize : Nat := 0xC0_0000_0000

/-- The address map of R145. -/
def paKind (pa : Nat) : PaKind :=
  if pa < hbmSize then .hbm
  else if pa < 2 ^ 50 then .unassigned
  else if pa < 2 ^ 51 then .peer ((pa >>> 40) % 1024) (pa % 2 ^ 40)
  else .host

/-- Home stack of a local address (R146). -/
def homeStack (pa : Nat) : Nat := (pa >>> 36) % 16
/-- Channel pair j within the stack (R146). -/
def chanPair (pa : Nat) : Nat := ((pa >>> 16) % 16) ^^^ ((pa >>> 20) % 16)
/-- Channel (R212). -/
def paChan (pa : Nat) : Nat := 2 * chanPair pa + (pa >>> 8) % 2
/-- Bank within the channel, 32 × pseudo-channel + bank (R212). -/
def paBank (pa : Nat) : Nat := 32 * ((pa >>> 20) % 2) + (pa >>> 11) % 32
/-- Row (R212). -/
def paRow (pa : Nat) : Nat := (pa >>> 21) % 2 ^ 15
/-- The row line of a local address (R212). -/
def paLine (pa : Nat) : Line := ⟨homeStack pa, paChan pa, paBank pa, paRow pa⟩
/-- The pin slot of a row (R212). -/
def rowSlot (row : Nat) : Nat := row >>> 13
/-- Home slice of a physical address (R147): also the core number beside it. -/
def homeSlice (pa : Nat) : Nat :=
  (pa >>> 8) % 64 ^^^ (pa >>> 14) % 64 ^^^ (pa >>> 20) % 64 ^^^ (pa >>> 26) % 64 ^^^ (pa >>> 32) % 64
    ^^^ (pa >>> 38) % 64 ^^^ (pa >>> 44) % 64 ^^^ (pa >>> 50) % 4

/-- Physical address of byte `o` of a row line: the inverse of R212. -/
def lineAddr (l : Line) (o : Nat) : Nat :=
  let j := l.chan / 2
  let h := l.chan % 2
  let pc := l.bank / 32
  -- PA[20] = pc, PA[23:21] = row[2:0], PA[19:16] = j xor PA[23:20]
  let hi := pc + 2 * (l.row % 8)
  (l.stack <<< 36) + (l.row <<< 21) + (pc <<< 20) + ((j ^^^ hi) <<< 16) + ((l.bank % 32) <<< 11)
    + ((o / 256) <<< 9) + (h <<< 8) + o % 256

/-- Adds to a list once. -/
def addOnce (l : List Nat) (g : Nat) : List Nat := if l.contains g then l else g :: l

/-- The kinds of access a translation is made for (R104). -/
inductive Acc where
  | fetch | load | store | amo
  deriving DecidableEq, Repr

/-- The page fault of a kind. -/
def Acc.pageFault : Acc → Cause
  | .fetch => .fetchPageFault | .load => .loadPageFault | .store => .storePageFault | .amo => .amoPageFault
/-- The access fault of a kind. -/
def Acc.access : Acc → Cause
  | .fetch => .fetchAccess | .load => .loadAccess | .store => .storeAccess | .amo => .amoAccess

/-- The stack record, as after reset when unlisted. -/
def Device.stack (d : Device) (n : Nat) : Stack := (d.hbm.find? (·.no == n)).getD (Stack.reset n)

/-- The device with a stack record replaced. -/
def Device.setStack (d : Device) (st : Stack) : Device :=
  { d with hbm := st :: d.hbm.filter (·.no != st.no) }

/-- The final physical address of an access, by R145 and R21: a peer address naming this device is local. -/
def Device.reach (d : Device) (k : Acc) (pa : Nat) : Except Cause Nat :=
  match paKind pa with
  | .hbm => if (d.stack (homeStack pa)).degraded then .error k.access else .ok pa
  | .unassigned => .error k.access
  | .peer m off =>
    if hbmSize ≤ off then .error k.access
    else if m = d.member.toNat then
      (if (d.stack (homeStack off)).degraded then .error k.access else .ok off)
    else if d.reachable.contains m then .ok pa
    else .error .remoteStackUnreachable
  | .host => .ok pa

/-! ### The scatter-add units (R203, R204) -/

/-- A granule's value after an update of its chain (R203). -/
def ScUpdate.apply (u : ScUpdate) (v : Nat) : Nat :=
  let i := u.pa % 64 / (u.t.bits / 8)
  putE v u.t.bits i (u.operands.foldl (fun v x => vamoOp u.o u.t v x.toNat) (getE v u.t.bits i))

/-- The value of a combining entry's granule once its chain has been applied. -/
def Combine.settled (c : Combine) (d : Device) : Nat :=
  c.chain.foldl (fun v u => u.apply v) ((c.value.map BitVec.toNat).getD (Memory.read d.mem (64 * c.granule) 64))

/-- Memory as any access sees it: with what the open combining entries have still to give back (R204). -/
def Device.settledMem (d : Device) : List Cell :=
  d.combines.foldl (fun m c => Memory.write m (64 * c.granule) 64 (c.settled d)) d.mem

/-- The little-endian value of `n` bytes at a physical address, after the recalls that the access makes (R204). -/
def Device.read (d : Device) (pa n : Nat) : Nat := Memory.read d.settledMem pa n

/-! ### Page tables (R295 to R301) -/

/-- A leaf a walk reached: the entry, its kind, where the entry lies, and its leaf line's address. -/
structure Leaf where
  entry : Dword
  block : Bool
  addr : Nat
  deriving DecidableEq, Repr

/-- V, B and the attribute bits of an entry (R297, R298). -/
def leafV (e : Dword) : Bool := e.getLsbD 0
def leafB (e : Dword) : Bool := e.getLsbD 1
def leafW (e : Dword) : Bool := e.getLsbD 2
def leafX (e : Dword) : Bool := e.getLsbD 3
def leafU (e : Dword) : Bool := e.getLsbD 4
def leafC (e : Dword) : Bool := e.getLsbD 5
def leafH (e : Dword) : Bool := e.getLsbD 6
def leafP (e : Dword) : Bool := e.getLsbD 7
def leafG (e : Dword) : Bool := e.getLsbD 8
/-- FRAME as a frame number. -/
def leafFrame (e : Dword) : Nat := field e 16 36
def leafDslot (e : Dword) : Nat := field e 57 3
def leafHstack (e : Dword) : Nat := field e 60 4

/-- The 8-byte table entry at a physical address. -/
def Device.entry (d : Device) (pa : Nat) : Dword := BitVec.ofNat 64 (d.read pa 8)

/-- Whether a table base lies in local HBM (R297, R301). -/
def isHbm (pa : Nat) : Bool := paKind pa == .hbm

/-- The HSTACK field a leaf's frame requires (R298). -/
def hstackOk (e : Dword) : Bool :=
  match paKind (leafFrame e * 65536) with
  | .host => leafHstack e == 0
  | _ => leafHstack e == (leafFrame e >>> 20) % 16

/-- Step 2 of R301 for a leaf entry. `line` holds the eight entries of its leaf line, for a page. -/
def Device.leafOk (d : Device) (e : Dword) (block : Bool) (line : List Dword) : Bool :=
  field e 52 5 == 0 && field e 9 7 == 0 && (leafB e == block)
    && (if leafC e then
          !block && leafFrame e == 0 && leafDslot e != 7
            && (line.filter (fun x => leafV x && leafC x && leafDslot x == leafDslot e)).length ≤ 1
            && (d.stack (leafHstack e)).czbase != 0
        else leafDslot e == 0 && hstackOk e && (!block || leafFrame e % 4096 == 0))

/-- The summary check of R300 over the covered entries of a line. -/
def summaryOk (line : List Dword) (sum : Dword) : Bool :=
  let vmap := field sum 55 8
  let bframe := field sum 16 36
  let sp := toSigned 16 (field sum 0 16)
  let cov := (List.range 8).filter (fun i => vmap.testBit i)
  let attr (e : Dword) := (field e 60 4, field e 0 16)
  cov.all fun i =>
    let e := line.getD i 0
    leafV e && !leafB e && !leafC e
      && leafFrame e == (((bframe : Int) + i * sp) % (2 ^ 36 : Int)).toNat
      && cov.all (fun j => attr (line.getD j 0) == attr e)

/-- A table-pointer entry at level 0 to 2 (R297, R301): the next table's base. -/
def nextTable (k : Acc) (e : Dword) : Except Cause Nat :=
  if !leafV e then .error k.pageFault
  else if field e 52 12 != 0 || field e 2 14 != 0 || leafB e || !isHbm (leafFrame e * 65536) then
    .error .pageTableCorrupt
  else .ok (leafFrame e * 65536)

/-- The eight entries of the leaf line at a physical address. -/
def Device.leafLine (d : Device) (pa : Nat) : List Dword := (List.range 8).map (fun i => d.entry (pa + 8 * i))

/-- Steps 1 to 3 of R301 at level 3, for the page at VA[27:16] of the table at `base`. -/
def Device.pageLeaf (d : Device) (k : Acc) (base va : Nat) : Except Cause Leaf :=
  let lineAt := base + 128 * ((va >>> 19) % 512)
  let line := d.leafLine lineAt
  let i := (va >>> 16) % 8
  let e := line.getD i 0
  let sum := d.entry (lineAt + 64)
  let sv := sum.getLsbD 63
  if !leafV e then .error k.pageFault
  else if !d.leafOk e false line || (sv && field sum 52 3 != 0) then .error .pageTableCorrupt
  else if sv && !summaryOk line sum then .error .strideSummaryMismatch
  else .ok ⟨e, false, lineAt + 8 * i⟩

/-- An address space and level under which an access translates: its tables and ASID, the TLB it asks, and the table
pointers its walker pool holds (R302 to R304). -/
structure Space where
  ptbase : BitVec 52
  asid : BitVec 16
  super : Bool
  tlb : List TlbEntry
  ptrs : List PtrEntry
  deriving DecidableEq, Repr

/-- The lowest address bit that the index of a level covers (R296). -/
def levelShift : Nat → Nat
  | 0 => 54
  | 1 => 41
  | _ => 28

/-- The next table that a held pointer of a level gives an address (R304). -/
def Space.ptr (x : Space) (level va : Nat) : Option Nat :=
  (x.ptrs.find? (fun p => p.level == level && p.asid == x.asid && p.va == va >>> levelShift level)).map (·.next)

/-- The walk from the table of level 2 on: a block leaf, or a page. -/
def Device.walk2 (d : Device) (k : Acc) (t2 va : Nat) : Except Cause Leaf :=
  let a2 := t2 + 8 * ((va >>> 28) % 8192)
  let e2 := d.entry a2
  if leafV e2 && leafB e2 then
    (if d.leafOk e2 true [] then .ok ⟨e2, true, a2⟩ else .error .pageTableCorrupt)
  else match nextTable k e2 with
    | .error c => .error c
    | .ok t3 => d.pageLeaf k t3 va

/-- The walk from the table of level 1 on. -/
def Device.walk1 (d : Device) (k : Acc) (t1 va : Nat) : Except Cause Leaf :=
  match nextTable k (d.entry (t1 + 8 * ((va >>> 41) % 8192))) with
  | .error c => .error c
  | .ok t2 => d.walk2 k t2 va

/-- The walk from the root on. -/
def Device.walk0 (d : Device) (k : Acc) (root va : Nat) : Except Cause Leaf :=
  if !isHbm root then .error .pageTableCorrupt
  else match nextTable k (d.entry (root + 8 * ((va >>> 54) % 8))) with
  | .error c => .error c
  | .ok t1 => d.walk1 k t1 va

/-- The walk of R296 and steps 1 to 3 of R301, from the deepest level whose pointer the walker pool holds (R304). -/
def Device.walk (d : Device) (x : Space) (k : Acc) (va : Nat) : Except Cause Leaf :=
  match x.ptr 2 va with
  | some t3 => d.pageLeaf k t3 va
  | none => match x.ptr 1 va with
    | some t2 => d.walk2 k t2 va
    | none => match x.ptr 0 va with
      | some t1 => d.walk1 k t1 va
      | none => d.walk0 k x.ptbase.toNat va

/-- Whether a held translation serves an address (R302): its page, a covered page of its line, or its block. -/
def TlbEntry.leaf? (t : TlbEntry) (asid : BitVec 16) (va : Nat) : Option Leaf :=
  if !(t.glob || t.asid == asid) then none
  else match t.kind with
    | .page => if t.va >>> 16 == va >>> 16 then some ⟨t.leaves.getD 0 0, false, 0⟩ else none
    | .block => if t.va >>> 28 == va >>> 28 then some ⟨t.leaves.getD 0 0, true, 0⟩ else none
    | .summary =>
      if t.va >>> 19 == va >>> 19 && t.vmap.getLsbD ((va >>> 16) % 8) then
        some ⟨t.leaves.getD ((va >>> 16) % 8) 0, false, 0⟩
      else none

/-- The leaf of an address: a held translation if there is one, else the walk. -/
def Device.leafOf (d : Device) (x : Space) (k : Acc) (va : Nat) : Except Cause Leaf :=
  match x.tlb.findSome? (fun t => t.leaf? x.asid va) with
  | some l => .ok l
  | none => d.walk x k va

/-- Step 4 of R301. -/
def leafAllows (x : Space) (k : Acc) (e : Dword) : Bool :=
  (x.super || leafU e) && (k != .fetch || leafX e) && ((k != .store && k != .amo) || leafW e)

/-- What an access meets instead of a physical address: a cause, a compressed page that is expanded first (R153), or
a granule that a combining store gives back first (R204). -/
inductive XErr where
  | cause (c : Cause)
  | expand
  | recall (granule : Nat)
  deriving DecidableEq, Repr

/-- A translated address with its leaf entry. -/
structure Xl where
  pa : Nat
  leaf : Dword
  deriving DecidableEq, Repr

/-- Translate of R104 outside the scratchpad window: R295, R301; `error none` for a compressed page, which is expanded
after step 4 of R301 and so before R21 is asked about its home stack (log 76). -/
def Device.xlate (d : Device) (x : Space) (k : Acc) (va : Dword) : Except (Option Cause) Xl :=
  if field va 57 7 != 0 then .error k.access
  else match d.leafOf x k va.toNat with
  | .error c => .error c
  | .ok l =>
    if !leafAllows x k l.entry then .error k.access
    else if leafC l.entry then .error none
    else
      let pa := leafFrame l.entry * 65536 + (if l.block then va.toNat % 2 ^ 28 else va.toNat % 2 ^ 16)
      match d.reach k pa with
      | .error c => .error c
      | .ok p => .ok ⟨p, l.entry⟩

/-- A translation that also tells what is done first: an expansion (R153), or the recall of an open combining entry
(R204). -/
def Device.translate (d : Device) (x : Space) (k : Acc) (va : Dword) : Except XErr Xl :=
  match d.xlate x k va with
  | .error (some c) => .error (.cause c)
  | .error none => .error .expand
  | .ok p => if d.combines.any (·.granule == p.pa / 64) then .error (.recall (p.pa / 64)) else .ok p

/-! ### Held translations (R302 to R304) -/

/-- The bank a translation goes to among `banks`: VA[24:19] or VA[33:28] (R302), of which a base die's 16 banks take the
low four bits (log 77). -/
def TlbEntry.bank (banks : Nat) (t : TlbEntry) : Nat :=
  match t.kind with
  | .block => (t.va >>> 28) % banks
  | .page | .summary => (t.va >>> 19) % banks

/-- The same translation, to be replaced by a new fill of it. -/
def TlbEntry.same (a b : TlbEntry) : Bool := a.kind == b.kind && a.va == b.va && (a.asid == b.asid || a.glob && b.glob)

/-- A list without its `n`-th element, counted among those that satisfy `p`. -/
def dropNth {α : Type} (p : α → Bool) : Nat → List α → List α
  | _, [] => []
  | n, a :: r => if p a then (match n with
      | 0 => r
      | m + 1 => a :: dropNth p m r)
    else a :: dropNth p n r

/-- An element enters a store of which those that satisfy `p` number at most `cap`; the spec names no victim, so `pick`
does (log 77). -/
def fillStore {α : Type} (p : α → Bool) (cap pick : Nat) (l : List α) (a : α) : List α :=
  let n := (l.filter p).length
  a :: (if cap ≤ n then dropNth p (pick % n) l else l)

/-- A core's TLB with a translation filled: 64 banks of 64 entries (R302). -/
def tlbFill (pick : Nat) (l : List TlbEntry) (t : TlbEntry) : List TlbEntry :=
  fillStore (fun e => e.bank 64 == t.bank 64) 64 pick (l.filter (fun e => !e.same t)) t

/-- A base die's TLBs with a translation filled: 16 banks of 64 entries for each SVU (R303). -/
def baseFill (pick : Nat) (l : List BaseTlbEntry) (t : BaseTlbEntry) : List BaseTlbEntry :=
  let mine (e : BaseTlbEntry) : Bool := e.stack == t.stack && e.svu == t.svu
  fillStore (fun e => mine e && e.entry.bank 16 == t.entry.bank 16) 64 pick
    (l.filter (fun e => !(mine e && e.entry.same t.entry))) t

/-- The walker pools with a pointer filled: 512 entries a pool (R304). -/
def ptrFill (pick : Nat) (l : List PtrEntry) (t : PtrEntry) : List PtrEntry :=
  fillStore (fun e => e.pool == t.pool) 512 pick
    (l.filter (fun e => !(e.pool == t.pool && e.level == t.level && e.va == t.va && e.asid == t.asid))) t

/-- What the walker pool of the central die, or of a base die, holds (R304). -/
def Device.pool (d : Device) (pool : Option Nat) : List PtrEntry := d.ptrs.filter (·.pool == pool)

/-- A space whose walks the central die makes without a TLB: the host's window and the completion records. -/
def Device.central (d : Device) (ptbase : BitVec 52) (asid : BitVec 16) (super : Bool) : Space :=
  ⟨ptbase, asid, super, [], d.pool none⟩

/-- A space whose walks a base die makes without an SVU's TLB: a bank sequencer's (R303). -/
def Device.baseDie (d : Device) (stack : Nat) (ptbase : BitVec 52) (asid : BitVec 16) (super : Bool) : Space :=
  ⟨ptbase, asid, super, [], d.pool (some stack)⟩

/-- A space as a stack context of an SVU sees it (R303). -/
def Device.svuSpace (d : Device) (stack svu : Nat) (ptbase : BitVec 52) (asid : BitVec 16) (super : Bool) : Space :=
  ⟨ptbase, asid, super, (d.baseTlb.filter (fun e => e.stack == stack && e.svu == svu)).map (·.entry), d.pool (some stack)⟩

/-- The pointers that a walk of an address reads from the table of a level on, as far as they are valid. -/
def Device.ptrsFrom (d : Device) (x : Space) (pool : Option Nat) (va level : Nat) : Nat → Nat → List PtrEntry
  | 0, _ => []
  | n + 1, table =>
    let index := if level = 0 then (va >>> 54) % 8 else (va >>> levelShift level) % 8192
    match nextTable .load (d.entry (table + 8 * index)) with
    | .error _ => []
    | .ok next => ⟨pool, level, va >>> levelShift level, x.asid, next⟩ :: d.ptrsFrom x pool va (level + 1) n next

/-- The pointers that a walk of an address reads, from the deepest level whose pointer the pool holds (R304). -/
def Device.walkPtrs (d : Device) (x : Space) (pool : Option Nat) (va : Nat) : List PtrEntry :=
  match x.ptr 2 va with
  | some _ => []
  | none => match x.ptr 1 va with
    | some t2 => d.ptrsFrom x pool va 2 1 t2
    | none => match x.ptr 0 va with
      | some t1 => d.ptrsFrom x pool va 1 2 t1
      | none => if isHbm x.ptbase.toNat then d.ptrsFrom x pool va 0 3 x.ptbase.toNat else []

/-- The translation that a walk of an address fills (R302): a summary entry for a page that a valid summary covers, else
a page or a block entry; none for C = 1. -/
def Device.walkEntry (d : Device) (x : Space) (va : Dword) : Option TlbEntry :=
  if field va 57 7 != 0 then none
  else match d.walk x .load va.toNat with
  | .error _ => none
  | .ok l =>
    if leafC l.entry then none
    else if l.block then
      some ⟨.block, va.toNat / 2 ^ 28 * 2 ^ 28, x.asid, leafG l.entry, [l.entry], 0⟩
    else
      let lineAt := l.addr / 128 * 128
      let sum := d.entry (lineAt + 64)
      let vmap : BitVec 8 := BitVec.ofNat 8 (field sum 55 8)
      if sum.getLsbD 63 && vmap.getLsbD ((va.toNat >>> 16) % 8) then
        some ⟨.summary, va.toNat / 2 ^ 19 * 2 ^ 19, x.asid, leafG l.entry, d.leafLine lineAt, vmap⟩
      else some ⟨.page, va.toNat / 65536 * 65536, x.asid, leafG l.entry, [l.entry], 0⟩

/-! ### Writes to memory -/

/-- A monitor armed on a granule that a write reached reads its doubleword with the write (R185, R365). -/
def Monitor.notice (d : Device) (lo hi : Nat) (x : Monitor) : Monitor :=
  if x.got.isNone && decide (lo ≤ x.pa / 64) && decide (x.pa / 64 ≤ hi) then
    { x with got := some ⟨BitVec.ofNat 64 (Memory.read d.mem x.pa 8), d.memPoison.contains (x.pa / 64),
      d.memError.contains (x.pa / 64) || d.l2Error.contains (x.pa / 64)⟩ }
  else x

/-- The monitors on the granules `lo` to `hi` take what memory holds. -/
def Device.wake (d : Device) (lo hi : Nat) : Device := { d with monitors := d.monitors.map (Monitor.notice d lo hi) }

/-- A write of `n` bytes at a physical address that no open combining entry holds: the bytes, the monitors it wakes
(R185), the scrub write-backs it cancels (R187), the poison of granules it writes whole with clean data (R285), and the
poison of those that a poisoned value reaches. -/
def Device.writeP (d : Device) (pa n x : Nat) (poison : Bool) : Device :=
  if n = 0 then d
  else
    let lo := pa / 64
    let hi := (pa + n - 1) / 64
    let keep (g : Nat) : Bool := !(decide (pa ≤ 64 * g) && decide (64 * g + 64 ≤ pa + n))
    let clean := d.memPoison.filter keep
    ({ d with
      mem := Memory.write d.mem pa n x
      memPoison := if poison then addOnce (addOnce clean lo) hi else clean
      memError := d.memError.filter keep
      l2Error := d.l2Error.filter keep
      scrubs := d.scrubs.filter (fun g => !(decide (lo ≤ g) && decide (g ≤ hi))) }).wake lo hi

/-- A write of the bytes of a granule that a mask selects, as one access (R181): its poison stays unless every byte is
written clean, or the value is poisoned (R285). -/
def Device.writeMasked (d : Device) (g : Nat) (mask : BitVec 64) (data : BitVec 512) (poison : Bool) : Device :=
  let old := Memory.read d.mem (64 * g) 64
  let x := (List.range 64).foldl (fun v i => if mask.getLsbD i then putE v 8 i (getE data.toNat 8 i) else v) old
  let keep (n : Nat) : Bool := !(mask == BitVec.allOnes 64 && n == g)
  let clean := d.memPoison.filter keep
  ({ d with
    mem := Memory.write d.mem (64 * g) 64 x
    memPoison := if poison then addOnce clean g else clean
    memError := d.memError.filter keep
    l2Error := d.l2Error.filter keep
    scrubs := d.scrubs.filter (· != g) }).wake g g

/-- The write of a clean value. -/
def Device.write (d : Device) (pa n x : Nat) : Device := d.writeP pa n x false

/-- Marks a granule poisoned (R285), once. -/
def Device.poison (d : Device) (g : Nat) : Device := { d with memPoison := addOnce d.memPoison g }

/-- A combining entry applies every update that has arrived and writes its granule back, which keeps its poison
(R203, R204, R285). -/
def Device.giveBack (d : Device) (granule : Nat) : Device :=
  match d.combines.find? (·.granule == granule) with
  | none => d
  | some c =>
    let bad := d.memPoison.contains granule || d.memError.contains granule || d.l2Error.contains granule
    ({ d with combines := d.combines.filter (·.granule != granule) }).writeP (64 * granule) 64 (c.settled d) bad

/-- Every access recalls the open combining entries of the granules it touches (R204). -/
def Device.settle (d : Device) (pa n : Nat) : Device :=
  (d.combines.filter (fun c => decide (pa / 64 ≤ c.granule) && decide (c.granule * 64 < pa + n))).foldl
    (fun d c => d.giveBack c.granule) d

/-- A write that recalls first. -/
def Device.writeAt (d : Device) (pa n x : Nat) (poison : Bool) : Device := (d.settle pa n).writeP pa n x poison

/-! ### Compressed pages (R151 to R154) -/

/-- One granule of an encoded block (R152): its 16 words and the data bytes it took; none for an invalid code. -/
def decodeGranule (m : List Cell) (code at_ : Nat) : Option (List Nat × Nat) :=
  let base := Memory.read m at_ 4
  let words (f : Nat → Nat) := (List.range 16).map f
  match code with
  | 0 => some (words (fun _ => 0), 0)
  | 1 => some (words (fun _ => base), 4)
  | 2 => some (words (fun i => ofSigned 32 (base + toSigned 8 (Memory.read m (at_ + 4 + i) 1))), 20)
  | 3 => some (words (fun i => ofSigned 32 (base + toSigned 16 (Memory.read m (at_ + 4 + 2 * i) 2))), 36)
  | 4 => some (words (fun i => Memory.read m (at_ + 4 * i) 4), 64)
  | _ => none

/-- The granules of a mode 1 block from `i` on: words in order and the bytes they took. -/
def decodeGranules (m : List Cell) (map : Nat) : Nat → Nat → Nat → Option (List Nat × Nat)
  | 0, _, _ => some ([], 0)
  | n + 1, i, at_ => match decodeGranule m ((map >>> (4 * i)) % 16) at_ with
    | none => none
    | some (ws, len) => match decodeGranules m map n (i + 1) (at_ + len) with
      | none => none
      | some (rest, l) => some (ws ++ rest, len + l)

/-- One encoded 4 KiB block at `at_` (R152): its 1,024 words and its encoded length. -/
def decodeBlock (m : List Cell) (at_ : Nat) : Option (List Nat × Nat) :=
  let h := Memory.read m at_ 4
  let len := h % 65536
  if (h >>> 16) % 2 ^ 14 != 0 then none
  else match h >>> 30 with
  | 0 => if len = 4100 then some ((List.range 1024).map (fun i => Memory.read m (at_ + 4 + 4 * i) 4), len) else none
  | 1 => match decodeGranules m (Memory.read m (at_ + 4) 32) 64 0 (at_ + 36) with
    | some (ws, l) => if len = 36 + l then some (ws, len) else none
    | none => none
  | _ => none

/-- The blocks of a page from `b` on: the page's words and the packed bytes they took (R152). -/
def decodeBlocks (m : List Cell) (zmap : Nat) : Nat → Nat → Nat → Option (List Nat × Nat)
  | 0, _, _ => some ([], 0)
  | n + 1, b, at_ =>
    if zmap.testBit b then
      match decodeBlocks m zmap n (b + 1) at_ with
      | some (r, l) => some (List.replicate 1024 0 ++ r, l)
      | none => none
    else match decodeBlock m at_ with
      | none => none
      | some (ws, len) =>
        let len4 := (len + 3) / 4 * 4
        match decodeBlocks m zmap n (b + 1) (at_ + len4) with
        | some (r, l) => some (ws ++ r, len4 + l)
        | none => none

/-- The words of a packed page, when its descriptor and blocks are valid and fill LEN (R151, R152, R154). -/
def decodePage (m : List Cell) (czbase : Nat) (desc : Dword) : Option (List Nat) :=
  let len := field desc 5 9
  if !desc.getLsbD 0 || len == 0 || decide (256 < len) || field desc 1 4 != 0 || field desc 56 8 != 0 then none
  else match decodeBlocks m (field desc 14 16) 16 0 (czbase + 256 * field desc 30 26) with
    | some (ws, l) => if (l + 255) / 256 = len then some ws else none
    | none => none

/-- Words written in order from an address. -/
def Device.writeWords (d : Device) (pa : Nat) : List Nat → Device
  | [] => d
  | w :: r => (d.write pa 4 w).writeWords (pa + 4) r

/-- The leaf entry after an expansion: the new frame, C = 0, DSLOT = 0, every other field kept (R306). -/
def expandedEntry (e : Dword) (frame : Nat) : Dword :=
  BitVec.ofNat 64 ((leafHstack e <<< 60) + (frame <<< 16) + (e.toNat % 2 ^ 16 - 32))

/-- The base die takes a frame: the one held for the next expansion, else entry HEAD of the pool, which advances
(R306); none when the pool is empty. -/
def Device.takeFrame (d : Device) (st : Stack) : Option (Nat × Device) :=
  match st.frame with
  | some f => some (f, d.setStack { st with frame := none })
  | none =>
    if st.poolhead = st.pooltail then none
    else some ((d.entry (st.poolbase.toNat + 8 * (st.poolhead.toNat % st.poolsize.toNat))).toNat,
      d.setStack { st with poolhead := st.poolhead + 1 })

/-- PAGE_EXPANSION (R153, R154, R306) of the page of `va`: the device it leaves, and the cause if it fails. A page that
is not compressed is left alone. A bad frame is discarded; a frame taken for a page whose packed data is invalid is held
for the stack's next expansion (log 78). -/
def Device.expand (d : Device) (x : Space) (va : Dword) : Device × Option Cause :=
  match d.walk x .load va.toNat with
  | .error c => (d, some c)
  | .ok l =>
    if !leafC l.entry then (d, none)
    else
      let st := d.stack (leafHstack l.entry)
      let lineAt := l.addr / 128 * 128
      let descAt := lineAt + 0x48 + 8 * leafDslot l.entry
      match d.takeFrame st with
      | none => (d, some .expansionPoolEmpty)
      | some (fa, d1) =>
        if fa % 65536 != 0 || paKind fa != .hbm || homeStack fa != st.no then (d1, some .pageTableCorrupt)
        else match decodePage d.settledMem st.czbase.toNat (d.entry descAt) with
          | none =>
            (d1.setStack { d1.stack st.no with frame := some fa }, some .pageTableCorrupt)
          | some ws =>
            let d2 := (d1.settle fa 65536).writeWords fa ws
            let d3 := d2.writeAt descAt 8 ((d.entry descAt).toNat - 1) false
            (d3.writeAt l.addr 8 (expandedEntry l.entry (fa / 65536)).toNat false, none)

/-- A translation with everything that comes before the access: the expansion of its page, the recall of its granule
(R153, R204). -/
def Device.fetchXl (d : Device) (x : Space) (k : Acc) (va : Dword) : Device × Except Cause Xl :=
  match d.xlate x k va with
  | .error (some c) => (d, .error c)
  | .ok p => (d.settle p.pa 1, .ok p)
  | .error none => match d.expand x va with
    | (d1, some c) => (d1, .error c)
    | (d1, none) => match d1.xlate x k va with
      | .ok p => (d1.settle p.pa 1, .ok p)
      | .error c => (d1, .error (c.getD .pageTableCorrupt))

end Sys2Proof.Machine
end

