-- ==== Sys2Proof/Machine/Ops.lean ====
section
/-! DEFINITION. Ops.lean: the named operations every meaning uses: registers with their poison (R71, R285), the LCs,
partitions and cores of the device, memory as a stream of an LC reaches it (R149, R104, R281, R283, R285, R286),
taking a trap (R267 to R271, R279, R280) and ending a task (R33). -/

namespace Sys2Proof.Machine

open Host (Cell)

/-! ### Causes -/

/-- The code of a cause (R274). -/
def Cause.code (c : Cause) : Nat := c.ctorIdx + 1

/-- A cause whose column "To" is U (R274): 0x30 to 0x37 and 0x3A to 0x3F. -/
def Cause.toUser (c : Cause) : Bool :=
  (decide (0x30 ≤ c.code) && decide (c.code ≤ 0x37)) || (decide (0x3A ≤ c.code) && decide (c.code ≤ 0x3F))

/-- A cause that calls for a fault record: 0x20 to 0x2F and 0x30 to 0x37 (R279), and the causes of a fetch's walk
(R301, log 79). -/
def Cause.hasRecord (c : Cause) : Bool :=
  (decide (0x20 ≤ c.code) && decide (c.code ≤ 0x37)) || c == .fetchPageFault || c == .fetchAccess

/-- A cause whose TVAL is a faulting virtual address (R274). -/
def Cause.addressed (c : Cause) : Bool :=
  (decide (0x20 ≤ c.code) && decide (c.code ≤ 0x2D)) || c == .uncorrectableLoad || c == .uncorrectableLocalStore
    || c == .uncorrectableL2 || c == .fetchPageFault || c == .fetchAccess

/-- What one step answers. -/
abbrev Out := Host.Outcome State Fault Refusal

/-- Why an instruction does not complete in this step: it raises a trap, it waits and is executed again (R68), or the
page it touches is expanded (R153) or the granule given back (R204) first. -/
inductive Halt where
  | trap (t : TrapRec)
  /-- a trap that leaves something behind: flags, a granule marked poisoned -/
  | trapIn (s : State) (t : TrapRec)
  | wait
  /-- a wait that has sent a request or armed a monitor -/
  | waitIn (s : State)
  | expand (va : Dword)
  | recall (granule : Nat)
  deriving DecidableEq, Repr

/-- A report of the instruction at the boundary: the scalar unit captures no vector controls (R280). -/
def State.report (s : State) (c : Cause) (tval : Dword) : TrapRec :=
  { no := 0, cause := c, tval := tval, pc := s.lc.pc.setWidth 64, insn := s.ir, deferred := false, rm := some false, first := 0,
    faddr := if c.addressed then tval else 0, pages := if c.addressed then [(tval, c)] else [],
    storeGroup := false, k7valid := false, copy := false, bank := false, xid := 0, vl := 0, rowcnt := 0,
    vstride := 0, rowpitch := 0 }

/-- Raise of R104 for a scalar instruction or a hand-off check. -/
def State.raise {α : Type} (s : State) (c : Cause) (tval : Dword) : Except Halt α := .error (.trap (s.report c tval))

/-! ### Scalar registers (R71) -/

/-- s0 reads 0. -/
def State.getS (s : State) (r : SReg) : Dword := if r = 0 then 0 else s.lc.s[r.toNat]

/-- Whether a register is poisoned (R285); s0 never is. -/
def State.poisonedS (s : State) (r : SReg) : Bool := r != 0 && s.lc.sPoison.getLsbD r.toNat

/-- An LC with a scalar register written; s0 ignores writes. -/
def Lc.setS (l : Lc) (r : SReg) (v : Dword) (poison : Bool) : Lc :=
  if r = 0 then l
  else { l with
    s := l.s.set r.toNat v
    sPoison := if poison then l.sPoison ||| (1#64 <<< r.toNat) else l.sPoison &&& ~~~(1#64 <<< r.toNat) }

/-- The state with a scalar register of the LC in focus written clean. -/
def State.setS (s : State) (r : SReg) (v : Dword) : State := { s with lc := s.lc.setS r v false }

/-- The state with a scalar register written with a value that carries poison. -/
def State.setSP (s : State) (r : SReg) (v : Dword) (poison : Bool) : State := { s with lc := s.lc.setS r v poison }

/-- Whether the scoreboard lets a register be read or written: no other stream has still to write it (R192, R216,
R249). A placed VEXTRACT writes it each time its loop executes it (R196, log 81). -/
def State.freeS (s : State) (r : SReg) : Bool :=
  r == 0 || (!s.lc.pending.contains r && s.lc.kOutstanding.all (fun e => e.returns != some r))

/-- A register read by an operation that does not carry poison: waits for a pending writer, and a poisoned register
raises POISON_SCALAR (R285). -/
def State.useS (s : State) (r : SReg) : Except Halt Dword :=
  if !s.freeS r then .error .wait
  else if s.poisonedS r then s.raise .poisonScalar (BitVec.ofNat 64 r.toNat)
  else .ok (s.getS r)

/-- A register read by an operation that carries poison: the value and its poison. -/
def State.moveS (s : State) (r : SReg) : Except Halt (Dword × Bool) :=
  if !s.freeS r then .error .wait else .ok (s.getS r, s.poisonedS r)

/-- Waits until a destination register may be written. -/
def State.claimS (s : State) (r : SReg) : Except Halt Unit := if s.freeS r then .ok () else .error .wait

/-- The scalar instruction retires and the next one is at `pc` (R67, R83: the step counts it). -/
def State.retireAt (s : State) (pc : BitVec 57) : State := { s with lc := { s.lc with pc := pc }, retired := true }

/-- The scalar instruction retires and execution goes on with the next word. -/
def State.retire (s : State) : State := s.retireAt (s.lc.pc + 4)

/-! ### Performance counters (R83) -/

/-- `n` events of a code are counted by the counters that select it; a wrap with OVI raises COUNTER_OVERFLOW. -/
def Lc.count (l : Lc) (event n : Nat) : Lc :=
  let hit (i : Nat) : Bool := (l.pcsel[i]?.getD 0).getLsbD 16 && (l.pcsel[i]?.getD 0).toNat % 65536 == event
  let wraps (i : Nat) : Bool := (l.pcsel[i]?.getD 0).getLsbD 17 && decide (2 ^ 48 ≤ (l.pcval[i]?.getD 0).toNat + n)
  { l with
    pcval := l.pcval.mapIdx (fun i x => if hit i then x + BitVec.ofNat 48 n else x)
    async := l.async ++ ((List.range 8).filter (fun i => hit i && wraps i)).map
      (fun i => (Cause.counterOverflow, BitVec.ofNat 64 i)) }

/-- The LC in focus counts events. -/
def State.count (s : State) (event n : Nat) : State := { s with lc := s.lc.count event n }

/-! ### LCs, partitions and cores -/

/-- Every LC record: the one in focus first. -/
def State.allLcs (s : State) : List Lc := s.lc :: s.lcs

/-- The LC of a key. -/
def State.findLc (s : State) (k : LcKey) : Option Lc :=
  if s.lc.key = k && s.lc.status != .absent then some s.lc else s.lcs.find? (·.key == k)

/-- The state with the LC of a key changed. -/
def State.updLc (s : State) (k : LcKey) (f : Lc → Lc) : State :=
  { s with
    lc := if s.lc.key = k && s.lc.status != .absent then f s.lc else s.lc
    lcs := s.lcs.map (fun l => if l.key = k then f l else l) }

/-- Every LC changed. -/
def State.mapLcs (s : State) (f : Lc → Lc) : State := { s with lc := f s.lc, lcs := s.lcs.map f }

/-- A partition of the device, as after reset when unlisted. -/
def State.findPart (s : State) (core no : Nat) : Part :=
  if s.part.core = core && s.part.no = no then s.part
  else (s.parts.find? (fun p => p.core == core && p.no == no)).getD (Part.reset core no)

/-- The state with a partition replaced. -/
def State.setPart (s : State) (p : Part) : State :=
  if s.part.core = p.core && s.part.no = p.no then { s with part := p }
  else { s with parts := p :: s.parts.filter (fun q => !(q.core == p.core && q.no == p.no)) }

/-- The eight partitions of a core, in ascending number. -/
def State.coreParts (s : State) (core : Nat) : List Part := (List.range 8).map (s.findPart core)

/-- A core of the device, as after reset when unlisted. -/
def State.findCore (s : State) (no : Nat) : Core :=
  if s.core.no = no then s.core else (s.cores.find? (·.no == no)).getD (Core.reset no)

/-- CYCLE of a core (R75). -/
def State.cycleOf (s : State) (core : Nat) : Dword := s.cycles[core]?.getD 0

/-- The cycles that a core passes in this step (R6). -/
def State.passing (s : State) (core : Nat) : Dword := Config.cycles (64 * s.tick + core)

/-- The state with a core replaced. -/
def State.setCore (s : State) (c : Core) : State :=
  if s.core.no = c.no then { s with core := c }
  else { s with cores := c :: s.cores.filter (·.no != c.no) }

/-- The LC resident on a partition. -/
def State.residentOn (s : State) (core no : Nat) : Option Lc :=
  s.allLcs.find? (fun l => l.status == .resident && l.core == core && l.partNo == no)

/-- The state with partition (core, no) and its LC in focus: the turn moves there. -/
def State.turnTo (s : State) (core no : Nat) : State :=
  if s.part.core = core && s.part.no = no && s.lc.status == .resident then s
  else
    let lcs := if s.lc.status == .absent then s.lcs else s.lc :: s.lcs
    let parts := s.part :: s.parts
    let cores := if s.core.no = core then s.cores else s.core :: s.cores
    let here (l : Lc) : Bool := l.status == .resident && l.core == core && l.partNo == no
    { s with
      lc := (lcs.find? here).getD { Lc.reset with core := core, partNo := no }
      lcs := lcs.filter (fun l => !here l)
      part := s.findPart core no
      parts := parts.filter (fun p => !(p.core == core && p.no == no))
      core := s.findCore core
      cores := cores.filter (·.no != core) }

/-- The state with the LC of a key in focus, wherever it is: its partition is the one it last used. -/
def State.focus (s : State) (k : LcKey) : State :=
  if s.lc.key = k && s.lc.status != .absent then s
  else match s.lcs.find? (·.key == k) with
  | none => s
  | some l =>
    let lcs := if s.lc.status == .absent then s.lcs else s.lc :: s.lcs
    { s with
      lc := l
      lcs := lcs.filter (fun x => x.key != k)
      part := s.findPart l.core l.partNo
      parts := (s.part :: s.parts).filter (fun p => !(p.core == l.core && p.no == l.partNo))
      core := s.findCore l.core
      cores := (s.core :: s.cores).filter (·.no != l.core) }

/-- The live task of an acceptance number. -/
def Device.task (d : Device) (seq : Nat) : Option Task := d.tasks.find? (·.seq == seq)

/-- The device with a task changed. -/
def Device.updTask (d : Device) (seq : Nat) (f : Task → Task) : Device :=
  { d with tasks := d.tasks.map (fun t => if t.seq = seq then f t else t) }

/-- The task of the LC in focus. -/
def State.task (s : State) : Option Task := s.dev.task s.lc.key.task

/-- MVL of an element width (R71): 4 KiB registers. -/
def mvl (bits : Nat) : Nat := 32768 / bits

/-- The MVL of a task (02, after R38): 8, 16, 32 or 64 bits by EW. -/
def Task.mvl (t : Task) : Nat := 4096 >>> t.ew.toNat

/-- Whether the LC is at supervisor level. -/
def State.super (s : State) : Bool := s.lc.trap.level

/-- Whether the LC in focus owns its partition's vector state (R287). -/
def State.owns (s : State) : Bool := s.part.ownerKey == some s.lc.key

/-! ### Memory as the S, V and X streams of the LC reach it -/

/-- First address of the scratchpad window (R149). -/
def windowBase : Nat := 0x01FF_FFFF_FFC0_0000

/-- Whether an address lies in the scratchpad window (R149). -/
def inWindow (va : Dword) : Bool := decide (windowBase ≤ va.toNat) && decide (va.toNat ≤ 0x01FF_FFFF_FFFF_FFFF)

/-- The role of a local-store bank (R79). -/
def Core.role (c : Core) (b : Nat) : Nat := field c.bankrole (2 * b) 2

/-- The banks of a role, in ascending number. -/
def Core.banks (c : Core) (role : Nat) : List Nat := (List.range 32).filter (fun b => c.role b == role)

/-- Capacity of a containment buffer in granules (R281). -/
def containCap : Nat := 819

/-- The window offset at which partition p's containment buffer begins, if its bank exists (R281). -/
def Core.containAt (c : Core) (p : Nat) : Option Nat :=
  ((c.banks 1)[p / 2]?).map (fun b => 131072 * b + 65536 * (p % 2))

/-- Whether the task of an LC is under strip-commit containment (R281). -/
def State.sccOf (s : State) (l : Lc) : Bool := ((s.dev.task l.key.task).map (·.scc)).getD false

/-- Whether a window offset lies in a containment buffer in use on the core in focus (R281). -/
def State.contained (s : State) (o : Nat) : Bool :=
  s.allLcs.any fun l =>
    l.status == .resident && l.core == s.core.no && s.sccOf l &&
      (match s.core.containAt l.partNo with
        | some a => decide (a ≤ o) && decide (o < a + 65536)
        | none => false)

/-- Where bytes lie: in the scratchpad window of the core, or at a physical address under a leaf entry. -/
inductive Loc where
  | window (off : Nat)
  | phys (pa : Nat) (leaf : Dword)
  deriving DecidableEq, Repr

/-- The space under which the LC's accesses translate at a level. -/
def State.space (s : State) (super : Bool) : Space := ⟨s.lc.ptbase, s.lc.asid, super, s.core.tlb, s.dev.pool none⟩

/-- The space of an instruction that keeps the tables and the ASID of its hand-off (R74). -/
def State.spaceOf (s : State) (w : AccEnv) (super : Bool) : Space := ⟨w.ptbase, w.asid, super, s.core.tlb, s.dev.pool none⟩

/-- The scratchpad window of the core, as an access reaches it (R149). -/
def State.windowAt (s : State) (k : Acc) (va : Dword) : Except Cause Loc :=
  let o := va.toNat - windowBase
  if k == .fetch || k == .amo then .error k.access
  else if s.core.role (o / 131072) != 1 || s.contained o then .error k.access
  else .ok (.window o)

/-- What a location's access meets in a space, as a cause or a preparation. -/
def State.locateIn (s : State) (x : Space) (k : Acc) (va : Dword) : Except XErr Loc :=
  if inWindow va then
    match s.windowAt k va with
    | .ok l => .ok l
    | .error c => .error (.cause c)
  else match s.dev.translate x k va with
  | .ok x => .ok (.phys x.pa x.leaf)
  | .error e => .error e

/-- The same in the space of the LC as it stands. -/
def State.locate (s : State) (super : Bool) (k : Acc) (va : Dword) : Except XErr Loc := s.locateIn (s.space super) k va

/-- Page with poison-on-read (R298, R285). -/
def Loc.por : Loc → Bool
  | .window _ => false
  | .phys _ e => leafP e

/-- Whether the granule of a location holds an uncorrectable error. -/
def State.badAt (s : State) : Loc → Bool
  | .window o => s.core.scratchError.contains (o / 64)
  | .phys p _ =>
    s.dev.memError.contains (p / 64) || s.dev.l2Error.contains (p / 64) || s.dev.linkError.contains (p / 64)

/-- Whether an access of a peer address meets a request that fails after its retries (R319). -/
def State.linkBad (s : State) : Loc → Bool
  | .window _ => false
  | .phys p _ => s.dev.linkError.contains (p / 64)

/-- Whether the granule of a location is poisoned where it lies. -/
def State.poisonHome (s : State) : Loc → Bool
  | .window o => s.core.scratchPoison.contains (o / 64)
  | .phys p _ => s.dev.memPoison.contains (p / 64)

/-- Whether a location's granule is poisoned as the LC's own S and V loads see it: with the bytes its containment
holds (R281, R285). -/
def State.poisonAt (s : State) (l : Loc) : Bool :=
  match l with
  | .window _ => s.poisonHome l
  | .phys p _ =>
    match s.lc.contain.find? (fun h => h.granule == p / 64) with
    | some h => h.poison || (h.mask != BitVec.allOnes 64 && s.poisonHome l)
    | none => s.poisonHome l

/-- The cause of an uncorrectable error by its store (R283), or of a request that failed on its link (R319). -/
def State.badCause (s : State) : Loc → Cause
  | .window _ => .uncorrectableLocalStore
  | .phys p _ =>
    if s.dev.linkError.contains (p / 64) then .linkDataError
    else if s.dev.l2Error.contains (p / 64) then .uncorrectableL2
    else .uncorrectableLoad

/-- The failed granule is marked poisoned where it lies (R283); a failed request on a link leaves no mark. -/
def State.markBad (s : State) : Loc → State
  | .window o => { s with core := { s.core with
      scratchError := s.core.scratchError.filter (· != o / 64), scratchPoison := addOnce s.core.scratchPoison (o / 64) } }
  | .phys p _ =>
    if s.dev.linkError.contains (p / 64) then
      { s with dev := { s.dev with linkError := s.dev.linkError.filter (· != p / 64) } }
    else { s with dev := { s.dev.poison (p / 64) with
        memError := s.dev.memError.filter (· != p / 64), l2Error := s.dev.l2Error.filter (· != p / 64) } }

/-- The bytes of one granule that an LC reads: memory, with the bytes its own containment holds on top (R281). -/
def State.readByte (s : State) (l : Loc) (i : Nat) : Byte :=
  match l with
  | .window o => Memory.get s.core.scratch (o + i)
  | .phys p _ =>
    match s.lc.contain.find? (fun h => h.granule == (p + i) / 64 && h.mask.getLsbD ((p + i) % 64)) with
    | some h => BitVec.ofNat 8 (h.data.toNat >>> (8 * ((p + i) % 64)))
    | none => Memory.get s.dev.mem (p + i)

/-- The little-endian value of `n` bytes at a location. -/
def State.readLoc (s : State) (l : Loc) : Nat → Nat
  | 0 => 0
  | n + 1 => s.readLoc l n + (s.readByte l n).toNat * 2 ^ (8 * n)

/-- The little-endian value of `n` bytes at a location as other parties see it: what containment holds is not there
(R281). -/
def State.readHome (s : State) (l : Loc) (n : Nat) : Nat :=
  match l with
  | .window o => Memory.read s.core.scratch o n
  | .phys p _ => Memory.read s.dev.mem p n

/-- The bytes as an access of the LC's own S or V stream sees them, or as one of its other streams does. -/
def State.readFor (s : State) (own : Bool) (l : Loc) (n : Nat) : Nat := if own then s.readLoc l n else s.readHome l n

/-- The poison as the same access sees it. -/
def State.poisonFor (s : State) (own : Bool) (l : Loc) : Bool := if own then s.poisonAt l else s.poisonHome l

/-- A write of `n` bytes at a location; the poison of granules written whole clean is cleared, and a poisoned value
poisons its granules whole (R285). -/
def State.writeLoc (s : State) (l : Loc) (n x : Nat) (poison : Bool) : State :=
  match l with
  | .window o =>
    let whole (g : Nat) : Bool := decide (o ≤ 64 * g) && decide (64 * g + 64 ≤ o + n)
    let clean := s.core.scratchPoison.filter (fun g => !whole g)
    { s with core := { s.core with
        scratch := Memory.write s.core.scratch o n x
        scratchError := s.core.scratchError.filter (fun g => !whole g)
        scratchPoison := if poison && n != 0 then addOnce (addOnce clean (o / 64)) ((o + n - 1) / 64) else clean } }
  | .phys p _ => { s with dev := s.dev.writeP p n x poison }

/-- POISONLOG records a consumed granule (R82, R285). -/
def Lc.logPoison (l : Lc) (va : Dword) : Lc :=
  { l with trap := { l.trap with poisonValid := true, poisonGranule := va.setWidth 57 &&& ~~~63#57 } }

/-- The address space and the watch of the LC in focus as they stand. -/
def State.env (s : State) : AccEnv := ⟨s.lc.ptbase, s.lc.asid, s.lc.trap.watch, s.lc.trap.watchLd, s.lc.trap.watchSt⟩

/-- Whether an access of the user level touches the watched granule (R286). -/
def AccEnv.watches (w : AccEnv) (super isStore isLoad : Bool) (va : Dword) (n : Nat) : Bool :=
  !super && ((isLoad && w.watchLd) || (isStore && w.watchSt)) && n != 0
    && decide (va.toNat / 64 ≤ w.watch.toNat / 64) && decide (w.watch.toNat / 64 ≤ (va.toNat + n - 1) / 64)

/-- The same under the watch of the LC in focus. -/
def State.watched (s : State) (super isStore isLoad : Bool) (va : Dword) (n : Nat) : Bool :=
  s.env.watches super isStore isLoad va n

/-- What locating an address of the scalar unit leaves: a trap, an expansion, a recall or the location. -/
def State.locS (s : State) (k : Acc) (va : Dword) : Except Halt Loc :=
  match s.locate s.super k va with
  | .ok l => .ok l
  | .error (.cause c) => s.raise c va
  | .error .expand => .error (.expand va)
  | .error (.recall g) => .error (.recall g)

/-! ### Releasing what a task or an LC held -/

/-- A pin that its LC gives up: Pinned and Closed enter Released, and the slot's generation rises; an Opening one does so
when it has opened (R215, R218). -/
def Slot.dropped (x : Slot) : Slot :=
  if x.st == .opening then { x with holder := none } else { x with st := .released, gen := x.gen + 1, holder := none }

/-- The pins of an LC are given up (R215, R218). -/
def Device.releasePins (d : Device) (who : LcKey → Bool) : Device :=
  { d with slots := d.slots.map (fun x =>
      match x.holder with
      | some k => if who k then x.dropped else x
      | none => x) }

/-- Bind, context and monitor records of LCs are dropped. -/
def Device.dropLcs (d : Device) (who : LcKey → Bool) : Device :=
  { d with
    ctxUses := d.ctxUses.filter (fun c => !who c.owner)
    binds := d.binds.filter (fun b => !who b.who)
    monitors := d.monitors.filter (fun m => !who m.who) }

/-- The operand-buffer segments a partition holds are freed and it holds no vector state (R287). -/
def Part.clear (p : Part) : Part := { Part.reset p.core p.no with credit := p.credit, age := p.age }

/-- The completion codes of R313: STATE and CODE of a task that ends abnormally. -/
def stateAbnormal : Nat := 2
/-- STATE of a task that a failed dependence ended (R313). -/
def stateDependence : Nat := 3

/-- One round of R33's transitive end of dependants: tasks that wait for an ended one end without starting. -/
def endDependants (ts : List Task) : List Task :=
  ts.map fun t =>
    if t.ended.isSome then t
    else match ts.find? (fun u => u.ended.isSome && t.deps.contains u.seq) with
      | some u => { t with ended := some (stateDependence, 0, u.id.toNat, none) }
      | none => t

/-- `n` rounds of it. -/
def endDependantsN : Nat → List Task → List Task
  | 0, ts => ts
  | n + 1, ts => endDependantsN n (endDependants ts)

/-- The lowest EBASE among the strips whose held granules are discarded (R282). -/
def lowestHeld (ls : List Lc) : Option Nat :=
  ((ls.filter (fun l => !l.contain.isEmpty)).map (·.ebase.toNat)).min?

/-- A task ends abnormally (R33): its LCs stop and keep their trap registers (R282), its dependants end without starting, and everything it held is
released. The completion record is written by TASK_COMPLETION. -/
def State.endTask (s : State) (seq code : Nat) : State :=
  match s.dev.task seq with
  | none => s
  | some t =>
    if t.ended.isSome then s
    else
      let mine (k : LcKey) : Bool := k.task == seq
      let strip := lowestHeld (s.allLcs.filter (fun l => mine l.key && l.status != .absent))
      let ended := { t with ended := some (stateAbnormal, code, 0, strip) }
      let d := (s.dev.releasePins mine).dropLcs mine
      let tasks := d.tasks.map (fun u => if u.seq = seq then ended else u)
      let stop (l : Lc) : Lc :=
        if mine l.key && l.status != .absent then
          { Lc.reset with key := l.key, status := .exited, core := l.core, partNo := l.partNo, pc := l.pc, trap := l.trap }
        else l
      let clear (p : Part) : Part := if (p.ownerKey.map mine).getD false then p.clear else p
      { s with
        lc := stop s.lc
        lcs := s.lcs.map stop
        part := clear s.part
        parts := s.parts.map clear
        dev := { d with
          tasks := endDependantsN tasks.length tasks
          -- held waves are discarded; passes already running complete (R33)
          seqs := (d.seqs.filter (fun c => !(mine c.who && c.runs.isEmpty))).map
            (fun c => if mine c.who then { c with todo := [] } else c)
          stages := d.stages.filter (fun g => !(g.fn == t.fn && g.taskid == t.id))
          contributions := d.contributions.filter (fun g => !(g.key.fn == t.fn && g.key.taskid == t.id))
          spawns := d.spawns.filter (fun r => !mine r.who)
          spawnAnswers := d.spawnAnswers.filter (fun r => !mine r.1)
          hostReqs := d.hostReqs.filter (fun r => !mine r.who) } }

/-! ### Fault records (R279, R280) -/

/-- One page entry of a fault record. -/
def pageWord (p : Dword × Cause) : Nat := p.1.toNat / 65536 * 65536 + p.2.code

/-- The 8-byte words of a page list, padded to `n`. -/
def pageWords : Nat → List (Dword × Cause) → List Nat
  | 0, _ => []
  | n + 1, [] => 0 :: pageWords n []
  | n + 1, p :: r => pageWord p :: pageWords n r

/-- The 40 words of a fault record (R280). -/
def TrapRec.words (r : TrapRec) (lcid : Nat) (erem : Dword) : List Nat :=
  let listed := min r.pages.length 32
  let flags := (if r.storeGroup then 1 else 0) + (if r.k7valid then 2 else 0) + (if r.copy then 4 else 0)
    + (if r.bank then 8 else 0) + (if 32 < r.pages.length then 16 else 0)
  [ r.cause.code + (if r.deferred then 128 else 0) + flags * 2 ^ 8 + listed * 2 ^ 16 + (r.first % 2 ^ 32) * 2 ^ 32,
    r.pc.toNat,
    r.insn.toNat + lcid * 2 ^ 32 + (r.pages.length % 2 ^ 16) * 2 ^ 48,
    r.vl.toNat + r.rowcnt.toNat * 2 ^ 16 + r.xid.toNat * 2 ^ 32,
    r.vstride.toNat, r.rowpitch.toNat, erem.toNat, r.faddr.toNat ] ++ pageWords 32 r.pages

/-- A location with everything that comes before the access: the expansion of its page, the recall of its granule. -/
def State.reachIn (s : State) (x : Space) (k : Acc) (va : Dword) : State × Except Cause Loc :=
  if inWindow va then (s, s.windowAt k va)
  else match s.dev.fetchXl x k va with
    | (d, .ok p) => ({ s with dev := d }, .ok (.phys p.pa p.leaf))
    | (d, .error c) => ({ s with dev := d }, .error c)

/-- Stores words in order from a virtual address, as an access that containment does not hold and no probe group
covers; none when any of them faults. -/
def State.storeWords (s : State) (super : Bool) (va : Dword) : List Nat → Option State
  | [] => some s
  | w :: r => match s.reachIn (s.space super) .store va with
    | (t, .ok l) => State.storeWords (t.writeLoc l 8 w false) super (va + 8) r
    | (_, .error _) => none

/-- The fault record of a report (R279): written in the LC's space at its level, or lost. -/
def State.writeRecord (s : State) (r : TrapRec) : State :=
  let t := s.lc.trap
  if !r.cause.hasRecord || t.frecCap = 0 then s
  else
    let va := (t.frecbase.setWidth 64 : Dword) + BitVec.ofNat 64 (320 * (t.frecIdx.toNat % t.frecCap.toNat))
    match s.storeWords s.super va (r.words s.lc.key.lcid s.lc.erem) with
    | some s1 => { s1 with lc := { s1.lc with trap := { s1.lc.trap with frecIdx := t.frecIdx + 1 } } }
    | none => { s with lc := { s.lc with trap := { t with rlost := true } } }

/-! ### Taking a trap (R267 to R271) -/

/-- Whether a report is delivered at user level (R267, R275). -/
def State.goesToUser (s : State) (c : Cause) : Bool :=
  c.toUser && s.lc.trap.tvec != 0 && !s.lc.trap.uh && !s.super

/-- The V stream stops as at a pre-emption point (R69, R271): what is queued is held aside with the faulted entry that
waits for ERET, a matrix instruction in the unit stops at its band, which VSTART holds (R247), and a head whose element
groups have all taken effect is done (log 75). -/
def State.holdV (s : State) : State :=
  let matrix := (s.part.mslot.map (fun m => { m.entry with restart := some (BitVec.ofNat 16 m.band, 0) })).toList
  let queue := if s.part.done then s.part.vqueue.tail else s.part.vqueue
  let index := match s.lc.vstalled, s.part.mslot with
    | none, some m => BitVec.ofNat 16 m.band
    | _, _ => s.lc.vstart
  { s with
    lc := { s.lc with vheld := ⟨s.lc.vstalled, matrix ++ queue⟩ :: s.lc.vheld, vstalled := none, vstart := index }
    part := { s.part with vqueue := [], mslot := none, rem := none, done := false, bcredit := 0 } }

/-- Trap registers after a delivery at user level (R268, R271). -/
def TrapRegs.enterUser (t : TrapRegs) (r : TrapRec) (stream : Bool) (boundary : BitVec 57) : TrapRegs :=
  { t with
    tcause := BitVec.ofNat 8 (r.cause.code + (if r.deferred then 128 else 0))
    tepc := r.pc.setWidth 57 &&& ~~~3#57
    tval := r.tval
    tinsn := r.insn
    drpcV := stream
    drpcPc := if stream then boundary &&& ~~~3#57 else t.drpcPc
    drpcRm := if stream then r.rm.getD t.drpcRm else t.drpcRm
    uh := true
    uv := stream && !r.deferred
    uk := stream && r.deferred }

/-- Trap registers after a delivery to the supervisor (R268, R271). -/
def TrapRegs.enterSuper (t : TrapRegs) (r : TrapRec) (stream : Bool) (boundary : BitVec 57) : TrapRegs :=
  { t with
    scause := BitVec.ofNat 8 (r.cause.code + (if r.deferred then 128 else 0))
    sepc := r.pc.setWidth 57 &&& ~~~3#57
    stval := r.tval
    sinsn := r.insn
    sdrpcV := stream
    sdrpcPc := if stream then boundary &&& ~~~3#57 else t.sdrpcPc
    sdrpcRm := if stream then r.rm.getD t.sdrpcRm else t.sdrpcRm
    plevel := t.level
    level := true }

/-- Delivery of a report (R267, R271): at user level, to the supervisor, or the abnormal end of the task. `stream`
says whether it is a stream trap (R270). -/
def State.takeTrap (s : State) (r : TrapRec) (stream : Bool) : State :=
  let s1 := s.writeRecord r
  if s.goesToUser r.cause then
    { s1 with lc := { s1.lc with
        trap := s1.lc.trap.enterUser r stream s.lc.pc
        pc := s1.lc.trap.tvec } }
  else if s.core.stvec = 0 then
    -- no supervisor: the cause stands in SCAUSE and in the record, and the task ends (R267, R282)
    ({ s1 with lc := { s1.lc with trap := s1.lc.trap.enterSuper r stream s.lc.pc } }).endTask s.lc.key.task r.cause.code
  else
    let s2 := s1.holdV
    { s2 with lc := { s2.lc with
        trap := s2.lc.trap.enterSuper r stream s.lc.pc
        pc := s2.core.stvec } }

/-- PAGE_EXPANSION as a step of its own; a failure is raised at the touching access (R153, R154). -/
def State.expandAt (s : State) (va : Dword) : State :=
  match s.dev.expand (s.space s.super) va with
  | (d, none) => { s with dev := d }
  | (d, some c) =>
    let t := { s with dev := d }
    t.takeTrap (t.report c va) false

/-! ### The end of an instruction's step -/

/-- What a step of the scalar unit leaves: the next state, or the trap taken, the page expanded, or, for a wait, the
same instruction at the boundary again (R68). -/
def State.finish (s : State) : Except Halt State → Out
  | .ok t => .next t
  | .error (.trap r) => .next (s.takeTrap r false)
  | .error (.trapIn t r) => .next (t.takeTrap r false)
  | .error .wait => .next s
  | .error (.waitIn t) => .next t
  | .error (.expand va) => .next (s.expandAt va)
  | .error (.recall g) => .next { s with dev := s.dev.giveBack g }

end Sys2Proof.Machine
end

