-- ==== Sys2Proof/Machine/Operands.lean ====
section
/-! DEFINITION. Operands.lean: the operand forms: immediates and offsets (R89), effective addresses, widths (R92),
and the element, segment and tile addresses of vector memory (R91, R156). -/

namespace Sys2Proof

/-- Element size in bytes of a type that memory holds whole (class M apart). -/
def Ty.bytes (t : Ty) : Nat := t.bits / 8

/-- Width of a type's element in a register: class M counts as 8 bits (R86). -/
def Ty.regBits (t : Ty) : Nat := if t.cls == .M then 8 else t.bits

end Sys2Proof

namespace Sys2Proof.Machine

/-- SignExtend(imm14, 14) and SignExtend(imm11, 11) to 64 bits (R89). -/
def imm {n : Nat} (i : BitVec n) : Dword := i.signExtend 64

/-- A word offset: SignExtend × 4 (R89). -/
def wordOffset {n : Nat} (i : BitVec n) : Dword := i.signExtend 64 <<< 2

/-- LUI's value: SignExtend(imm20, 20) × 2^14 (R360). -/
def upperImm (i : BitVec 20) : Dword := i.signExtend 64 <<< 14

/-- Bytes of an access of size code sz (R92). -/
def szBytes (z : BitVec 2) : Nat := 2 ^ z.toNat

/-- Natural alignment of an address to `n` bytes. -/
def aligned (a : Dword) (n : Nat) : Bool := a.toNat % n == 0

/-- A loaded value extended into a register: sign (sx = 1) or zero (R92, R357). -/
def extendLoad (signed : Bool) (n v : Nat) : Dword := if signed then signExtend64 (8 * n) v else zeroExtend64 (8 * n) v

/-- The scope code of an access (R92, R166). -/
abbrev Scope := BitVec 2

/-- Scalar floating-point format of fn[2:0] (R95): 0 f64, 1 f32, 2 f16, 3 bf16. -/
def fpType (t : BitVec 3) : Option Ty :=
  match t.toNat with
  | 0 => some .f64 | 1 => some .f32 | 2 => some .f16 | 3 => some .bf16 | _ => none

/-- Source type of FCVT from integer (R347): 0 i64, 1 n64, 2 i32, 3 n32. -/
def intType (t : BitVec 3) : Option Ty :=
  match t.toNat with
  | 0 => some .i64 | 1 => some .n64 | 2 => some .i32 | 3 => some .n32 | _ => none

/-- Bytes of a packed row of `c` elements of a type (R114). -/
def packedBytes (t : Ty) (c : Nat) : Nat := (c * t.bits + 7) / 8

/-- Offset a vector register's element gives an indexed access: element i at the width of ty, sign-extended unless ty
is an n type (R91). -/
def indexOffset (t : Ty) (x : Nat) : Dword :=
  if t == .n64 || t == .n32 || t == .n8 then zeroExtend64 t.bits x else signExtend64 t.bits x

end Sys2Proof.Machine
end

