-- ==== Sys2Proof/Machine/Int.lean ====
section
/-! DEFINITION. Int.lean: integer register operations and register-immediate operations, MAJ 01 to 09 (R132, R328 to
R330, R360, R377). -/

namespace Sys2Proof.Machine

/-- An operation on two registers: both are read, then sd is written (R328). -/
def State.int2 (s : State) (d a b : SReg) (f : Dword → Dword → Dword) : Except Halt State := do
  let x ← s.useS a
  let y ← s.useS b
  s.claimS d
  .ok (s.setS d (f x y)).retire

/-- An operation on one register (R328, R329, R377). -/
def State.int1 (s : State) (d a : SReg) (f : Dword → Dword) : Except Halt State := do
  let x ← s.useS a
  s.claimS d
  .ok (s.setS d (f x)).retire

/-- An operation on no register (R330, R360). -/
def State.int0 (s : State) (d : SReg) (v : Dword) : Except Halt State := do
  s.claimS d
  .ok (s.setS d v).retire

/-- High half of the signed product (R132). -/
def mulHigh (x y : Dword) : Dword := BitVec.ofInt 64 (x.toInt * y.toInt / 2 ^ 64)
/-- High half of the unsigned product (R132). -/
def mulHighU (x y : Dword) : Dword := BitVec.ofNat 64 (x.toNat * y.toNat / 2 ^ 64)
/-- Signed quotient, rounded toward zero; all ones for a zero divisor, and the most negative number by −1 is itself
(R132). -/
def divS (x y : Dword) : Dword := if y = 0 then BitVec.allOnes 64 else x.sdiv y
/-- Unsigned quotient; all ones for a zero divisor (R132). -/
def divU (x y : Dword) : Dword := if y = 0 then BitVec.allOnes 64 else x / y
/-- Signed remainder, with the sign of the dividend; the dividend for a zero divisor (R132). -/
def remS (x y : Dword) : Dword := if y = 0 then x else x.srem y
/-- Unsigned remainder; the dividend for a zero divisor (R132). -/
def remU (x y : Dword) : Dword := if y = 0 then x else x % y
/-- Shift amount: sb mod 64 (R328). -/
def shAmt (y : Dword) : Nat := y.toNat % 64
/-- 1 or 0. -/
def ofBool64 (b : Bool) : Dword := if b then 1 else 0
/-- Leading zeros, 0 to 64 (R328). -/
def clz (x : Dword) : Dword := BitVec.ofNat 64 (64 - bitLen x.toNat)
/-- Number of ones (R328). -/
def popc (x : Dword) : Dword := BitVec.ofNat 64 (popCount 64 x.toNat)

/-- ADD (R328). -/
def execAdd (d a b : SReg) (s : State) : Out := s.finish (s.int2 d a b (· + ·))
/-- SUB (R328). -/
def execSub (d a b : SReg) (s : State) : Out := s.finish (s.int2 d a b (· - ·))
/-- MUL (R328, R132). -/
def execMul (d a b : SReg) (s : State) : Out := s.finish (s.int2 d a b (· * ·))
/-- MULH (R328, R132). -/
def execMulh (d a b : SReg) (s : State) : Out := s.finish (s.int2 d a b mulHigh)
/-- MULHU (R328, R132). -/
def execMulhu (d a b : SReg) (s : State) : Out := s.finish (s.int2 d a b mulHighU)
/-- DIV (R328, R132). -/
def execDiv (d a b : SReg) (s : State) : Out := s.finish (s.int2 d a b divS)
/-- DIVU (R328, R132). -/
def execDivu (d a b : SReg) (s : State) : Out := s.finish (s.int2 d a b divU)
/-- REM (R328, R132). -/
def execRem (d a b : SReg) (s : State) : Out := s.finish (s.int2 d a b remS)
/-- REMU (R328, R132). -/
def execRemu (d a b : SReg) (s : State) : Out := s.finish (s.int2 d a b remU)
/-- AND (R328). -/
def execAnd (d a b : SReg) (s : State) : Out := s.finish (s.int2 d a b (· &&& ·))
/-- OR (R328). -/
def execOr (d a b : SReg) (s : State) : Out := s.finish (s.int2 d a b (· ||| ·))
/-- XOR (R328). -/
def execXor (d a b : SReg) (s : State) : Out := s.finish (s.int2 d a b (· ^^^ ·))
/-- SHL (R328). -/
def execShl (d a b : SReg) (s : State) : Out := s.finish (s.int2 d a b (fun x y => x <<< shAmt y))
/-- SHR (R328). -/
def execShr (d a b : SReg) (s : State) : Out := s.finish (s.int2 d a b (fun x y => x >>> shAmt y))
/-- SRA (R328). -/
def execSra (d a b : SReg) (s : State) : Out := s.finish (s.int2 d a b (fun x y => x.sshiftRight (shAmt y)))
/-- SLT (R328). -/
def execSlt (d a b : SReg) (s : State) : Out := s.finish (s.int2 d a b (fun x y => ofBool64 (x.slt y)))
/-- SLTU (R328). -/
def execSltu (d a b : SReg) (s : State) : Out := s.finish (s.int2 d a b (fun x y => ofBool64 (x.ult y)))
/-- MIN, signed (R328). -/
def execMin (d a b : SReg) (s : State) : Out := s.finish (s.int2 d a b (fun x y => if x.slt y then x else y))
/-- MAX, signed (R328). -/
def execMax (d a b : SReg) (s : State) : Out := s.finish (s.int2 d a b (fun x y => if x.slt y then y else x))
/-- CLZ (R328). -/
def execClz (d a : SReg) (s : State) : Out := s.finish (s.int1 d a clz)
/-- POPC (R328). -/
def execPopc (d a : SReg) (s : State) : Out := s.finish (s.int1 d a popc)

/-- CSEL (R328): sd is read first, as the condition. -/
def execCsel (d a b : SReg) (s : State) : Out := s.finish do
  let c ← s.useS d
  let x ← s.useS a
  let y ← s.useS b
  .ok (s.setS d (if c ≠ 0 then x else y)).retire

/-- ADDI (R329). -/
def execAddi (d a : SReg) (i : BitVec 14) (s : State) : Out := s.finish (s.int1 d a (· + imm i))
/-- ANDI (R329). -/
def execAndi (d a : SReg) (i : BitVec 14) (s : State) : Out := s.finish (s.int1 d a (· &&& imm i))
/-- ORI (R329). -/
def execOri (d a : SReg) (i : BitVec 14) (s : State) : Out := s.finish (s.int1 d a (· ||| imm i))
/-- XORI (R329). -/
def execXori (d a : SReg) (i : BitVec 14) (s : State) : Out := s.finish (s.int1 d a (· ^^^ imm i))
/-- SLTI (R329). -/
def execSlti (d a : SReg) (i : BitVec 14) (s : State) : Out := s.finish (s.int1 d a (fun x => ofBool64 (x.slt (imm i))))
/-- SHLI (R377). -/
def execShli (d a : SReg) (n : BitVec 6) (s : State) : Out := s.finish (s.int1 d a (· <<< n.toNat))
/-- SHRI (R377). -/
def execShri (d a : SReg) (n : BitVec 6) (s : State) : Out := s.finish (s.int1 d a (· >>> n.toNat))
/-- SRAI (R377). -/
def execSrai (d a : SReg) (n : BitVec 6) (s : State) : Out := s.finish (s.int1 d a (·.sshiftRight n.toNat))
/-- LUI (R360). -/
def execLui (d : SReg) (i : BitVec 20) (s : State) : Out := s.finish (s.int0 d (upperImm i))
/-- ADDPC (R330): nothing is translated or checked. -/
def execAddpc (d : SReg) (i : BitVec 20) (s : State) : Out := s.finish (s.int0 d (s.lc.pc.setWidth 64 + wordOffset i))

end Sys2Proof.Machine
end

