-- ==== Sys2Proof/Machine/Streams.lean ====
section
/-! DEFINITION. Streams.lean: what the streams of an LC have still to do, as the scalar unit sees it: extents (R169),
the waits of fences and releases (R174 to R177), bank commands still to complete (R179, R180), host requests (R308). -/

namespace Sys2Proof.Machine

/-! ### Extents of V memory instructions (R169) -/

/-- What an entry accesses in memory: nothing, the bytes from `lo` up to `hi`, or every address. -/
inductive Extent where
  | none
  | bytes (lo hi : Int)
  | all
  deriving DecidableEq, Repr

/-- The bytes of `n` elements of `e` bytes at a signed distance from one another. -/
def strideExtent (base : Dword) (n : Nat) (dist : Int) (e : Nat) : Extent :=
  if n = 0 then .none
  else
    let last := (base.toNat : Int) + (n - 1 : Nat) * dist
    .bytes (min base.toNat last) (max (base.toNat : Int) last + e)

/-- Rows of `w` bytes at a signed pitch (R156). -/
def tileExtent (base : Dword) (rows : Nat) (pitch : Int) (w : Nat) : Extent :=
  if w = 0 then .none else strideExtent base rows pitch w

/-- The extent of an addressing mode (R169): the mask is left out, which only lets a later access wait longer. -/
def modeExtent (e : VEntry) (m : AMode) (y : Ty) : Extent :=
  let n := e.ctl.vl.toNat
  match m with
  | .unit => strideExtent e.x n y.bytes y.bytes
  | .strided => strideExtent e.x n e.ctl.vstride.toInt y.bytes
  | .segment f => strideExtent e.x n (y.bytes * (f.toNat + 1)) (y.bytes * (f.toNat + 1))
  | .tile => tileExtent e.x e.ctl.rowcnt.toNat e.ctl.rowpitch.toInt (n * y.bytes)
  | .indexed _ | .stream _ => .all

/-- The extent of an entry. -/
def VEntry.extent (e : VEntry) : Extent :=
  match e.op with
  | .load _ m _ _ y | .store _ m _ _ y => modeExtent e m y
  | .atomic _ _ _ _ _ _ _ => .all
  | .tld _ _ _ y | .tst _ _ _ y =>
    tileExtent e.x e.ctl.rowcnt.toNat e.ctl.rowpitch.toInt (packedBytes y e.ctl.vl.toNat)
  | .ucommit _ _ | .udirty _ | .ucfg | .jadd | .jcommit | .jdrop => .all
  | _ => .none

/-- Whether an entry's memory accesses may be overtaken by later scalar ones (O = 1, R169). -/
def VEntry.overtakes (e : VEntry) : Bool :=
  match e.op with
  | .load _ _ _ o _ | .store _ _ _ o _ | .atomic _ _ _ _ _ o _ | .tld _ _ o _ | .tst _ _ o _ => o
  | _ => false

/-- Whether an extent meets `n` bytes at an address. -/
def Extent.meets (x : Extent) (a n : Nat) : Bool :=
  match x with
  | .none => false
  | .all => true
  | .bytes lo hi => decide (lo < (a + n : Nat)) && decide ((a : Int) < hi)

/-- The V-stream entries of the LC in focus in its partition: the matrix instruction in the unit, and the queue. -/
def State.queuedV (s : State) : List VEntry :=
  if s.lc.status == .resident then (s.part.mslot.map (·.entry)).toList ++ s.part.vqueue else []

/-- The V-stream entries of the LC in focus that can still complete before an ERET: none behind a stalled one
(R271). -/
def State.liveV (s : State) : List VEntry := if s.lc.vstalled.isNone then s.queuedV else []

/-- Whether a scalar access waits for a queued V memory instruction: one whose extent it meets, O = 0 or in the
scratchpad window (R169, R170). -/
def State.scalarWaits (s : State) (a : Dword) (n : Nat) : Bool :=
  s.liveV.any (fun e => (!e.overtakes || inWindow a) && e.extent.meets a.toNat n)

/-- V-stream entries whose accesses are not yet performed: those queued, and a stalled one; not those a supervisor entry
has held aside (log 49). -/
def State.unperformedV (s : State) : List VEntry :=
  s.lc.vstalled.toList ++ s.queuedV

/-- Every V-stream entry of the LC whose accesses are not yet performed, those held aside included. -/
def State.everyV (s : State) : List VEntry :=
  s.unperformedV ++ s.lc.vheld.flatMap (fun g => g.stalled.toList ++ g.queue)

/-- Whether `n` bytes at a location meet the bytes of a store that waits. -/
def PStore.meets (x : PStore) (l : Loc) (n : Nat) : Bool :=
  match l with
  | .window o => x.window && decide (x.place < o + n) && decide (o < x.place + x.n)
  | .phys p _ => !x.window && decide (x.place < p + n) && decide (p < x.place + x.n)

/-- Every earlier V access of the LC is performed: V stores that containment holds do not count (R388), nor what a
supervisor entry has held aside (log 49). -/
def State.vDone (s : State) : Bool := s.unperformedV.all (fun e => e.extent == .none)

/-- Every scalar store of the LC has left it, apart from those that wait for what a supervisor entry has held aside
(log 49). -/
def State.storesDone (s : State) : Bool := s.lc.stores.all (fun x => decide (x.depth < s.lc.vheld.length))

/-- Every earlier S and V access of the LC is performed (R174). -/
def State.svDone (s : State) : Bool := s.vDone && s.storesDone

/-- A channel with no transfer still moving: complete, or stopped on a fault (R174). -/
def Chan.quiet (c : Chan) : Bool := c.cmds.isEmpty || c.err.isSome

/-- Every earlier X access is performed, or its transfer stopped on a fault (R174). -/
def State.xDone (s : State) : Bool := s.lc.chans.all Chan.quiet

/-- Every earlier S, V and X access of the LC is performed: what fences and releases wait for (R174, R175, R177). -/
def State.svxDone (s : State) : Bool := s.svDone && s.xDone && s.dev.hostReqs.all (fun r => r.who != s.lc.key || !r.store)

/-- Every earlier K-stream instruction the LC passed on has completed (R178). -/
def State.kDone (s : State) : Bool :=
  s.lc.kqueue.isEmpty && (match s.lc.ctx with
    | none => true
    | some c => c.stalled.isNone && decide (c.buf.length ≤ c.pos))

/-- Earlier V- and K-stream instructions that can complete before ERET have completed (R40, R74, R271). -/
def State.vkQuiet (s : State) : Bool :=
  s.liveV.isEmpty && ((s.lc.ctx.map (fun c => c.stalled.isSome)).getD false || s.kDone)

/-! ### Bank commands -/

/-- The banks of one channel a wave names (R226): banks of the page's channel pair by BANKMASK. -/
def WaveDesc.names (d : WaveDesc) (chanInPair bank : Nat) : Bool := d.bankmask.getLsbD (32 * chanInPair + bank % 32)

/-- Whether a command writes in a bank (R180); a wave in any bank its mask names. -/
def BKind.writesBank (k : BKind) (l : Line) : Bool :=
  match k with
  | .op _ _ dst _ _ _ _ _ => dst.stack == l.stack && dst.chan == l.chan && dst.bank == l.bank
  | .wave d => d.names (l.chan % 2) l.bank
  | .open _ _ _ | .release _ _ | .stat _ _ | .sbar _ => false

/-- Whether a command is a wave. -/
def BKind.isWave : BKind → Bool
  | .wave _ => true
  | _ => false

/-- Commands the LC passed to its B stream that have not completed; a wave held on a fault has started no unit
(R227). -/
def State.bankWork (s : State) : List BCmd :=
  s.lc.bqueue ++ (s.dev.seqs.filter (fun c =>
    c.who == s.lc.key && !(s.lc.breport.isSome && c.cmd.kind.isWave && !c.probed))).map (·.cmd)

/-- Whether an access of the LC waits for its own bank commands that write in the same bank (R180): those that came
before the `n`-th instruction it passed to the V or the K stream. -/
def State.bankWaitsAt (s : State) (n : Nat) (l : Loc) : Bool :=
  match l with
  | .window _ => false
  | .phys p _ => decide (p < hbmSize) && s.bankWork.any (fun c => decide (c.no ≤ n) && c.kind.writesBank (paLine p))

/-- The same for an access of the scalar stream, which comes after all of them. -/
def State.bankWaits (s : State) (l : Loc) : Bool := s.bankWaitsAt s.lc.passed l

/-! ### Host memory (R308) -/

/-- The cause of a host request that did not succeed (R308). -/
def hostCause : HostStatus → Option Cause
  | .success => none
  | .unsupported => some .hostPageUnavailable
  | .abort => some .hostCompletionError

/-- Whether a location is host memory. -/
def Loc.isHost : Loc → Bool
  | .window _ => false
  | .phys p _ => paKind p == .host

/-- A read of host memory: when the scalar unit runs ahead it sends a request and waits for the answer, which a
HOST_REQUEST_COMPLETION gives; otherwise the request succeeds at once. -/
def State.hostRead (s : State) (l : Loc) (va : Dword) (n : Nat) : Except Halt State :=
  if !s.runAhead || !l.isHost then .ok s
  else
    let mine (r : HostReq) : Bool := r.who == s.lc.key && !r.store && r.va == va
    match s.dev.hostReqs.find? mine with
    | none =>
      let pa := match l with
        | .phys p _ => p
        | .window o => o
      .error <| .waitIn { s with dev := { s.dev with hostReqs := s.dev.hostReqs ++ [⟨s.lc.key, va, false, pa, n, none, none⟩] } }
    | some r => match r.answer with
      | none => .error .wait
      | some a =>
        let t := { s with dev := { s.dev with hostReqs := s.dev.hostReqs.filter (fun r => !mine r) } }
        match hostCause a with
        | none => .ok t
        | some c => .error (.trapIn t (s.report c va))

/-- A store that failed at the host is raised at the next fence, release or EXIT (R308). -/
def State.hostFault (s : State) : Except Halt Unit :=
  match s.lc.hostErr with
  | none => .ok ()
  | some (c, va) => .error (.trapIn { s with lc := { s.lc with hostErr := none } } (s.report c va))

/-- The bytes a load of the scalar stream reads at a location, with its own earlier stores that wait on top (R168). -/
def PStore.onto (v : Nat) (l : Loc) (n : Nat) (x : PStore) : Nat :=
  if x.meets l n then
    let a := match l with
      | .window o => o
      | .phys p _ => p
    (List.range n).foldl (fun v i =>
      if decide (x.place ≤ a + i) && decide (a + i < x.place + x.n) then putE v 8 i (getE x.data 8 (a + i - x.place)) else v) v
  else v

/-- Whether a store that waits may be performed: the V accesses and bank commands it waits for, and the LC's earlier
stores to its bytes, have been; a release waits for every one of them (R168, R169, R175, R180). -/
def State.storeReady (s : State) (before : List PStore) (x : PStore) : Bool :=
  let l := if x.window then Loc.window x.place else .phys x.place x.leaf
  !(s.everyV.any (fun e => x.after.contains e.no)) && !s.bankWaitsAt x.no l
    && (if x.release then before.isEmpty && s.xDone && s.dev.hostReqs.all (fun r => r.who != s.lc.key || !r.store)
        else before.all (fun y => !y.meets l x.n && !y.release))

/-- Whether a store does not leave at once: an earlier V access to its bytes, an earlier bank command or an earlier store
to its bytes has still to be performed; for a release, any earlier S, V or X access (R169, R170, R175, R180, R388). -/
def State.storeWaits (s : State) (l : Loc) (va : Dword) (n : Nat) (release : Bool) : Bool :=
  s.scalarWaits va n || s.bankWaits l || s.lc.stores.any (fun y => y.meets l n || y.release) || (release && !s.svxDone)

/-- The state with a store kept until it may be performed. -/
def State.keepStore (s : State) (l : Loc) (va : Dword) (n x : Nat) (poison release : Bool) : State :=
  let blocks (e : VEntry) : Bool :=
    if release then e.extent != .none else (!e.overtakes || inWindow va) && e.extent.meets va.toNat n
  let place : Bool × Nat × Dword := match l with
    | .window o => (true, o, 0)
    | .phys p e => (false, p, e)
  let y : PStore :=
    { window := place.1, place := place.2.1, leaf := place.2.2, va := va, n := n, data := x % 2 ^ (8 * n), poison := poison
      release := release, no := s.lc.passed, after := (s.liveV.filter blocks).map (·.no), depth := s.lc.vheld.length }
  { s with lc := { s.lc with stores := s.lc.stores ++ [y] } }

/-- The first store that may be performed, and the others. -/
def State.pickStore (s : State) : List PStore → List PStore → Option (PStore × List PStore)
  | _, [] => none
  | before, x :: r => if s.storeReady before x then some (x, before ++ r) else s.pickStore (before ++ [x]) r

/-- A store performed: at its bank, cache or home slice (R166); one to host memory is on its way there from now on when
the scalar unit runs ahead (R308). -/
def State.storeAt (s : State) (l : Loc) (va : Dword) (n x : Nat) (poison : Bool) : State :=
  let t := s.writeLoc l n x poison
  match l with
  | .phys p _ =>
    if s.runAhead && l.isHost then
      { t with dev := { t.dev with hostReqs := t.dev.hostReqs ++ [⟨s.lc.key, va, true, p, n, none, none⟩] } }
    else t
  | .window _ => t

/-- The first store that may be performed is performed. -/
def State.storeStep (s : State) : Option State :=
  match s.pickStore [] s.lc.stores with
  | none => none
  | some (x, r) =>
    let t := { s with lc := { s.lc with stores := r } }
    -- an open combining entry is recalled first (R204)
    let t := if x.window then t else { t with dev := t.dev.settle x.place x.n }
    some (t.storeAt (if x.window then .window x.place else .phys x.place x.leaf) x.va x.n x.data x.poison)

/-- At most `n` of them. -/
def State.storeSteps : Nat → State → State
  | 0, s => s
  | n + 1, s => match s.storeStep with
    | some t => State.storeSteps n t
    | none => s

/-- What a fence, a release or an acquire-release waits for: earlier S, V and X accesses (R174, R175, R177). -/
def State.releaseWait (s : State) : Except Halt Unit := if s.svxDone then s.hostFault else .error .wait

end Sys2Proof.Machine
end

