-- ==== Sys2Proof/Machine/Check.lean ====
section
/-! DEFINITION. Check.lean: the checks the scalar unit makes before an instruction enters any stream: steps 4 to 10 of
R103 with R72, R86, R87 and the TVALs of R445, and the capture of operands at hand-off (R40, R191, R238, R249). -/

namespace Sys2Proof.Machine

/-- The element types an operation accepts (R85). -/
def tyF (t : Ty) : Bool := t.cls == .F
def tyI (t : Ty) : Bool := t.cls == .I
def tyM (t : Ty) : Bool := t.cls == .M
/-- F and I. -/
def tyFI (t : Ty) : Bool := tyF t || tyI t
/-- F, F8 and I: everything but class M. -/
def tyMove (t : Ty) : Bool := !tyM t
/-- f32 and f64. -/
def tyWideF (t : Ty) : Bool := t == .f64 || t == .f32
/-- f32 alone. -/
def tyF32 (t : Ty) : Bool := t == .f32

/-- The code of an element type as TVAL reports it (R445). -/
def tyCode (t : Ty) : Nat := t.ctorIdx

/-- What the scalar unit checks of an instruction at hand-off (R103, steps 4 to 10). -/
structure Guard where
  /-- register fields: lowest bit of the field, and whether it names a register -/
  regs : List (Nat × Bool) := []
  /-- type fields in the order they are reported: the code, and whether it is accepted -/
  types : List (Nat × Bool) := []
  /-- vector, mask, tile or accumulator instruction (step 7) -/
  vector : Bool := true
  /-- tile or accumulator instruction other than TEN (step 8) -/
  tile : Bool := false
  /-- needs a bound context (step 9) -/
  context : Bool := false
  /-- widest element in bits (R86); 0 for an instruction R86 does not name -/
  bits : Nat := 8
  /-- MVL of the stack (R71) -/
  placed : Bool := false
  /-- the element count is VL × ROWCNT (am 4) -/
  twoD : Bool := false
  /-- governed by the mask (R87) -/
  governed : Bool := false
  /-- reads or writes a k register per element (R87) -/
  perK : Bool := false
  /-- uses the draft view (R86) -/
  draft : Bool := false
  /-- largest VL besides MVL (R409) -/
  maxVl : Nat := 8192
  deriving DecidableEq, Repr

/-- A vector register field: 0 to 31, or 0 to 23 when placed (R72). -/
def vecOk (placed : Bool) (r : VReg) : Bool := !placed || decide (r.toNat < 24)
/-- A field that names a k register (R72). -/
def kOk (r : VReg) : Bool := decide (r.toNat < 8)

/-- TSTATE.EN as later instructions see it: TEN and TDIS passed on earlier count at once (R389). -/
def State.enView (s : State) : Bool :=
  s.part.vqueue.foldl (fun b e => match e.op with
    | .ten => true
    | .tdis => false
    | _ => b) (s.part.tstate.getLsbD 0)

/-- ACCALLOC as later instructions see it (R389). -/
def State.accView (s : State) : BitVec 16 :=
  if s.part.vqueue.any (fun e => e.op == .tdis) then 0 else s.part.accalloc

/-- MVL for an element width (R71). -/
def mvlOf (placed : Bool) (bits : Nat) : Nat := if placed then mvl bits / 4 else mvl bits

/-- Step 10 of R103: the VL checks of R86 and R87, with the bound of R156 for am 4. -/
def State.checkVl (s : State) (g : Guard) : Except Halt Unit :=
  let c := s.lc.vec
  let vl := c.vl.toNat
  let most := mvlOf g.placed g.bits
  let count := if g.twoD then vl * c.rowcnt.toNat else vl
  let draft := c.seqn.toNat * c.draftn.toNat
  if g.bits = 0 then .ok ()
  else if most < vl then s.raise .badControlState 0
  else if g.draft && (draft == 0 || decide (most < draft)) then s.raise .badControlState 7
  else if most < count then s.raise .badControlState 5
  else if decide (1024 < count) && (g.perK || (g.governed && c.vmsel != 8)) then s.raise .badControlState 0
  else if g.maxVl < vl then s.raise .badControlState 0
  else .ok ()

/-- Steps 4 to 10 of R103, first cause that applies; TVAL by R445. -/
def State.guard (s : State) (g : Guard) : Except Halt Unit :=
  match ((g.regs.filter (fun r => !r.2)).map (·.1)).min? with
  | some b => s.raise .badRegister (BitVec.ofNat 64 b)
  | none => match g.types.find? (fun t => !t.2) with
    | some t => s.raise .badType (BitVec.ofNat 64 t.1)
    | none =>
      if g.vector && !s.owns then s.raise .vectorStateNotOwned 0
      else if g.tile && !s.enView then s.raise .tileStateDisabled 0
      else if g.context && !s.lc.saff.getLsbD 63 then s.raise .stackContextUnbound 0
      else s.checkVl g

/-- The low `n` bits of a mask register. -/
def lowMask (n : Nat) (k : KBits) : KBits := k &&& BitVec.ofNat 1024 (2 ^ n - 1)

/-- Whether an operation is a two-dimensional access (R156), whose mask governs VL × ROWCNT register elements. -/
def VOp.twoD (o : VOp) : Bool :=
  match o with
  | .load _ .tile _ _ _ | .store _ .tile _ _ _ => true
  | _ => false

/-- An instruction captured at hand-off with the scalar operands x, y and z (R40, R238, R249); for a placed one, the
governing mask and the head flags of `kb` (R191). -/
def State.capture (s : State) (op : VOp) (placed : Bool) (x y z : Dword) (xp : Bool) (kb : Option VReg := none) :
    VEntry :=
  let vl := s.lc.vec.vl.toNat
  let kreg (n : Nat) : KBits := s.part.k[n]?.getD 0
  let governed := if op.twoD then vl * s.lc.vec.rowcnt.toNat else vl
  { op := op, word := s.ir, pc := s.lc.pc.setWidth 64, placed := placed, super := s.super, x := x, y := y, z := z, xPoison := xp,
    ctl := s.lc.vec, ftrapen := s.lc.ftrapen, gen := s.lc.gen, env := s.env, tcfg := s.lc.tcfg, accalloc := s.accView,
    kmask := if placed && s.lc.vec.vmsel != 8 then lowMask governed (kreg s.lc.vec.vmsel.toNat) else 0
    khead := if placed then (match kb with
      | some r => lowMask vl (kreg r.toNat)
      | none => 0) else 0
    restart := none, rm := none, no := s.lc.passed }

end Sys2Proof.Machine
end

