-- ==== Sys2Proof/Machine/VecCore.lean ====
section
/-! DEFINITION. VecCore.lean: how an instruction passed to the V or K stream runs: its registers (v of the partition or
w of the context), its active elements (R104, R191, R272), poison (R285), flags and FP traps (R130, R131), and what it
reports when it faults (R208, R271, R276, R280). -/

namespace Sys2Proof.Machine

/-- What stops a V- or K-stream instruction: it waits at its queue's head, or it faults and stalls there. -/
inductive VStop where
  | block (s : State)
  | fault (s : State) (r : TrapRec)
  deriving DecidableEq, Repr

/-- What running an entry gives: the state in which it has completed, or what stopped it. -/
abbrev VRun := Except VStop State

/-! ### Registers -/

/-- The value of a v register, or of a w register of the bound context. -/
def State.vreg (s : State) (placed : Bool) (r : VReg) : Nat :=
  if placed then match s.lc.ctx with
    | some c => (c.w[r.toNat]?.getD 0).toNat
    | none => 0
  else s.part.v[r.toNat].toNat

/-- The poison of its granules. -/
def State.vpoison (s : State) (placed : Bool) (r : VReg) : Nat :=
  if placed then match s.lc.ctx with
    | some c => (c.wPoison[r.toNat]?.getD 0).toNat
    | none => 0
  else s.part.vPoison[r.toNat].toNat

/-- The state with a register and its poison replaced. -/
def State.setVreg (s : State) (placed : Bool) (r : VReg) (x p : Nat) : State :=
  if placed then match s.lc.ctx with
    | some c => { s with lc := { s.lc with ctx := some { c with
        w := c.w.setIfInBounds r.toNat (BitVec.ofNat 8192 x)
        wPoison := c.wPoison.setIfInBounds r.toNat (BitVec.ofNat 16 p) } } }
    | none => s
  else { s with part := { s.part with
    v := s.part.v.set r.toNat (BitVec.ofNat 32768 x)
    vPoison := s.part.vPoison.set r.toNat (BitVec.ofNat 64 p) } }

/-- Bytes of a register (R71). -/
def regBytes (placed : Bool) : Nat := if placed then 1024 else 4096

/-- An element to write: its index, its value, and whether it carries poison. -/
abbrev EltW := Nat × Nat × Bool

/-- The granule of element `i` of width `w`. -/
def granuleOf (w i : Nat) : Nat := w * i / 512

/-- Poison of a register after writes of elements of width `w`: a granule that receives a poisoned element is poisoned
whole, one written whole with clean data is cleared (R285). -/
def poisonAfter (p w : Nat) (ws : List EltW) : Nat :=
  (ws.map (fun e => granuleOf w e.1)).eraseDups.foldl (fun p g =>
    let here := ws.filter (fun e => granuleOf w e.1 == g)
    if here.any (·.2.2) then p ||| 2 ^ g
    else if here.length * w == 512 then p ^^^ (p &&& 2 ^ g)
    else p) p

/-- The granules that writes of elements of width `w` cover whole. -/
def wholeGranules (w : Nat) (ws : List EltW) : List Nat :=
  (ws.map (fun e => granuleOf w e.1)).eraseDups.filter
    (fun g => (ws.filter (fun e => granuleOf w e.1 == g)).length * w == 512)

/-- A granule of a w register that is written whole holds no error any more (R283). -/
def State.wOverwritten (s : State) (placed : Bool) (r : VReg) (gs : List Nat) : State :=
  if placed then match s.lc.ctx with
    | some c => { s with lc := { s.lc with ctx := some { c with
        wError := c.wError.setIfInBounds r.toNat
          (gs.foldl (fun x g => x &&& ~~~ BitVec.ofNat 16 (2 ^ g)) (c.wError[r.toNat]?.getD 0)) } } }
    | none => s
  else s

/-- Elements of width `w` written to a register. -/
def State.writeElems (s : State) (placed : Bool) (r : VReg) (w : Nat) (ws : List EltW) : State :=
  (s.setVreg placed r (ws.foldl (fun x e => putE x w e.1 e.2.1) (s.vreg placed r))
    (poisonAfter (s.vpoison placed r) w ws)).wOverwritten placed r (wholeGranules w ws)

/-- Element `i` of width `w` of a register of an entry. -/
def State.velem (s : State) (e : VEntry) (r : VReg) (w i : Nat) : Nat := getE (s.vreg e.placed r) w i

/-- Whether element `i` of width `w` of a register lies in a poisoned granule. -/
def State.vbad (s : State) (e : VEntry) (r : VReg) (w i : Nat) : Bool := (s.vpoison e.placed r).testBit (granuleOf w i)

/-- The partition that holds the LC's vector state (R287): its own, or one that it has left; none once VSAVE has moved
the state to a frame. -/
def State.vectorHome (s : State) : Option Part :=
  if s.owns then some s.part else s.parts.find? (fun p => p.ownerKey == some s.lc.key)

/-- A k register of the LC (k0 to k7). -/
def State.kreg (s : State) (n : Nat) : KBits := s.part.k[n]?.getD 0

/-- Poison of the two granules of a k register (R356). -/
def State.kpois (s : State) (n : Nat) : BitVec 2 := s.part.kPoison[n]?.getD 0

/-- A partition with a k register written, with its poison. -/
def Part.setK (q : Part) (n : Nat) (x : KBits) (p : BitVec 2) : Part :=
  { q with k := q.k.setIfInBounds n x, kPoison := q.kPoison.setIfInBounds n p }

/-- The state with a k register of the LC written, with its poison, wherever its vector state is (R192, R287); nothing
while no partition holds it (log 80). -/
def State.setK (s : State) (n : Nat) (x : KBits) (p : BitVec 2) : State :=
  match s.vectorHome with
  | some q => s.setPart (q.setK n x p)
  | none => s

/-- The mask register of a set of elements. -/
def laneMask (l : List Nat) : KBits := BitVec.ofNat 1024 (l.foldl (fun m i => m ||| 2 ^ i) 0)

/-! ### Active elements -/

/-- Whether the governing mask holds element `i`: the live k register, or the captured one (R104, R191). -/
def State.governs (s : State) (e : VEntry) (i : Nat) : Bool :=
  e.ctl.vmsel == 8 || (if e.placed then e.kmask.getLsbD i else (s.kreg e.ctl.vmsel.toNat).getLsbD i)

/-- Whether re-execution under k7 leaves element `i` in the active set (R272). -/
def VEntry.allows (e : VEntry) (i : Nat) : Bool :=
  match e.rm with
  | some k => k.getLsbD i
  | none => true

/-- First element to execute (R76). -/
def State.start (s : State) (e : VEntry) : Nat :=
  match e.restart with
  | some r => r.1.toNat
  | none => s.lc.vstart.toNat

/-- Captured VL. -/
def VEntry.vl (e : VEntry) : Nat := e.ctl.vl.toNat

/-- Captured rounding mode. -/
def VEntry.mode (e : VEntry) : Nat := e.ctl.frm.toNat

/-- Elements from the start to VL. -/
def State.elems (s : State) (e : VEntry) : List Nat := (List.range e.vl).drop (s.start e)

/-- The active elements, ascending (R104). -/
def State.actives (s : State) (e : VEntry) : List Nat :=
  (s.elems e).filter (fun i => s.governs e i && e.allows i)

/-- A vector instruction that has completed sets VSTART to 0 (R76). -/
def State.vdone (s : State) : State := { s with lc := { s.lc with vstart := 0 } }

/-- A vector memory access that has completed sets VSTART and EPR to 0 (R156, R412, R423). -/
def State.mdone (s : State) : State := { s with lc := { s.lc with vstart := 0, epr := 0 } }

/-! ### Faults -/

/-- A report of a stream instruction (R208, R268, R280). -/
def VEntry.report (e : VEntry) (c : Cause) (tval : Dword) : TrapRec :=
  { no := e.no, cause := c, tval := tval, pc := e.pc, insn := e.word, deferred := e.placed, rm := some false, first := 0,
    faddr := if c.addressed then tval else 0, pages := if c.addressed then [(tval, c)] else [],
    storeGroup := false, k7valid := false, copy := false, bank := false, xid := 0, vl := e.ctl.vl.setWidth 16,
    rowcnt := e.ctl.rowcnt, vstride := e.ctl.vstride, rowpitch := e.ctl.rowpitch }

/-- A fault with no k7. -/
def State.vraise {α : Type} (s : State) (e : VEntry) (c : Cause) (tval : Dword) : Except VStop α :=
  .error (.fault s (e.report c tval))

/-- k7 receives lanes, when the element count lets it (R87). -/
def State.setLanes (s : State) (count : Nat) (lanes : List Nat) : State :=
  if count ≤ 1024 then s.setK 7 (laneMask lanes) 0 else s

/-- A fault that leaves lanes in k7 when the element count is at most 1,024, the first of them in FIRST (R87, R276,
R280). -/
def State.vraiseLanes {α : Type} (s : State) (e : VEntry) (c : Cause) (tval : Dword) (lanes : List Nat) :
    Except VStop α :=
  .error (.fault (s.setLanes e.vl lanes) { e.report c tval with k7valid := decide (e.vl ≤ 1024), first := lanes.min?.getD 0 })

/-- POISON_VECTOR for elements that read poisoned granules: TVAL names the first such register in operand order
(R285). Each source is a register with the width and the index at which element i reads it. -/
def State.clean (s : State) (e : VEntry) (act : List Nat) (srcs : List (VReg × Nat)) : Except VStop Unit :=
  let bad := act.filter (fun i => srcs.any (fun r => s.vbad e r.1 r.2 i))
  match srcs.find? (fun r => act.any (fun i => s.vbad e r.1 r.2 i)) with
  | some r => s.vraiseLanes e .poisonVector (r.1.setWidth 64) bad
  | none => .ok ()

/-- A poisoned governing mask raises POISON_VECTOR with the elements it governs there (R285); a placed instruction
captured it clean (R191). -/
def State.maskCleanOf (s : State) (e : VEntry) (els : List Nat) : Except VStop Unit :=
  let n := e.ctl.vmsel.toNat
  if e.ctl.vmsel == 8 || e.placed || s.kpois n == 0 then .ok ()
  else
    let bad := els.filter (fun i => (s.kpois n).getLsbD (i / 512))
    if bad.isEmpty then .ok ()
    else s.vraiseLanes e .poisonVector (BitVec.ofNat 64 (0x100 + n)) bad

/-- The same of the elements from the start to VL. -/
def State.maskClean (s : State) (e : VEntry) : Except VStop Unit := s.maskCleanOf e (s.elems e)

/-- FFLAGS receives the flags the active elements raised; an enabled one traps with the elements that raised it in k7
(R131). `all` is k7 for a reduction or scan. -/
def State.commitFlags (s : State) (e : VEntry) (fl : List (Nat × Flags)) (all : Option (List Nat)) :
    Except VStop State :=
  let u : Flags := fl.foldl (fun f r => f ||| r.2) 0
  let s := { s with lc := { s.lc with fflags := s.lc.fflags ||| u } }
  match leastBelow (fun b => (u.setWidth 6 &&& e.ftrapen).getLsbD b) 6 with
  | none => .ok s
  | some b =>
    let lanes := all.getD ((fl.filter (fun r => r.2.setWidth 6 &&& e.ftrapen != 0)).map (·.1))
    let c : Cause := match b with
      | 0 => .fpInvalid | 1 => .fpDivzero | 2 => .fpOverflow | 3 => .fpUnderflow | 4 => .fpInexact
      | _ => .fpConversionSat
    s.vraiseLanes e c ((u.setWidth 6 &&& e.ftrapen).setWidth 64) lanes

/-- The elementwise frame (R398): sources checked for poison, results computed from the old state, flags, then the
active elements written. -/
def State.elementwise (s : State) (e : VEntry) (d : VReg) (w : Nat) (srcs : List (VReg × Nat))
    (f : Nat → Nat × Flags) : VRun := do
  s.maskClean e
  let act := s.actives e
  s.clean e act srcs
  let rs := act.map (fun i => (i, f i))
  let s ← s.commitFlags e (rs.map (fun r => (r.1, r.2.2))) none
  .ok (s.writeElems e.placed d w (rs.map (fun r => (r.1, r.2.1, false)))).vdone

/-- The frame for operations that move bits and carry poison (R285). -/
def State.moveElems (s : State) (e : VEntry) (d : VReg) (w : Nat) (els : List Nat) (f : Nat → Nat × Bool) : VRun :=
  .ok (s.writeElems e.placed d w (els.map (fun i => (i, f i)))).vdone

end Sys2Proof.Machine
end

