-- ==== Sys2Proof/Machine/VecAlu.lean ====
section
/-! DEFINITION. VecAlu.lean: the vector operations of MAJ 20 to 27 as they run: binary, ternary, unary, conversion,
compare, select, permute, queues, reduce and scan, mask (R45, R113 to R136, R355, R356, R398 to R422). -/

namespace Sys2Proof.Machine

/-- An element's value as an integer of its type. -/
def intVal (t : Ty) (x : Nat) : Int := if t.signed then toSigned t.bits x else (x : Int)

/-- Integer binary operations at an element's width (R401, R132). -/
def vbinInt (o : VBin) (t : Ty) (a b : Nat) : Nat :=
  let w := t.bits
  let n := b % w
  match o with
  | .add => ofSigned w (a + b : Nat)
  | .sub => ofSigned w ((a : Int) - b)
  | .mul => ofSigned w (a * b : Nat)
  | .div => if b = 0 then 2 ^ w - 1 else ofSigned w ((intVal t a).tdiv (intVal t b))
  | .min => if intVal t b < intVal t a then b else a
  | .max => if intVal t a < intVal t b then b else a
  | .and => a &&& b
  | .or => a ||| b
  | .xor => a ^^^ b
  | .shl => (a <<< n) % 2 ^ w
  | .shr => a >>> n
  | .sra => ofSigned w (toSigned w a / 2 ^ n)

/-- Binary operations (R401): F types under the captured mode, I types by R132. -/
def vbin (o : VBin) (t : Ty) (mode a b : Nat) : Nat × Flags :=
  if t.cls == .F then
    let f := Ty.fmt t
    match o with
    | .add => f.add mode a b
    | .sub => f.sub mode a b
    | .mul => f.mul mode a b
    | .div => f.div mode a b
    | .min => f.minmax false a b
    | .max => f.minmax true a b
    | .and | .or | .xor | .shl | .shr | .sra => (a, 0)
  else (vbinInt o t a b, 0)

/-- Fused operations (R414): one rounding; I types wrap. -/
def vtern (o : VTern) (t : Ty) (mode a b d : Nat) : Nat × Flags :=
  if t.cls == .F then
    match o with
    | .ma => (Ty.fmt t).fma mode a b d
    | .ms => (Ty.fmt t).fma mode a b d false true
    | .nma => (Ty.fmt t).fma mode a b d true true
  else
    let p : Int := (a * b : Nat)
    (ofSigned t.bits (match o with
      | .ma => p + d
      | .ms => p - d
      | .nma => - p - d), 0)

/-- Unary operations (R399, R120, R123, R140, R141). -/
def vun (o : VUn) (t : Ty) (mode a : Nat) : Nat × Flags :=
  let w := t.bits
  let f := Ty.fmt t
  let isF := t.cls == .F
  match o with
  | .neg => (if isF then a ^^^ 2 ^ (w - 1) else ofSigned w (-(a : Int)), 0)
  | .abs => (if isF then a % 2 ^ (w - 1) else if t.signed then ofSigned w (toSigned w a).natAbs else a, 0)
  | .sqrt => f.sqrt mode a
  | .rcp => f.rcp mode a
  | .rsq => f.rsq mode a
  | .exp2 => f.exp2 mode a
  | .log2 => f.log2 mode a
  | .cls => (f.cls a, 0)
  | .mov => (a, 0)

/-- A predicate (R121). -/
def vpred (c : CmpPred) (t : Ty) (a b : Nat) : Bool × Flags :=
  if t.cls == .F then (Ty.fmt t).pred c a b
  else
    let x := intVal t a
    let y := intVal t b
    (match c with
      | .eq => x == y
      | .ne => x != y
      | .lt => decide (x < y)
      | .le => decide (x ≤ y)
      | .gt => decide (y < x)
      | .ge => decide (y ≤ x)
      | .un => false
      | .ord => true, 0)

/-! ### Conversions (R409) -/

/-- The value of an F or F8 element, or of an integer. -/
def cvtVal (t : Ty) (x : Nat) : FVal :=
  match t.cls with
  | .I => .fin (decide (intVal t x < 0)) (intVal t x).natAbs 0
  | _ => (Ty.fmt t).val x

/-- A conversion between types other than class M (R125 to R128). -/
def vcvt (sat : Bool) (src dst : Ty) (mode x : Nat) : Nat × Flags :=
  match src.cls, dst.cls with
  | .I, .I =>
    let v := intVal src x
    let (lo, hi) := intRange dst.signed dst.bits
    if sat && decide (v < lo) then (ofSigned dst.bits lo, flSAT)
    else if sat && decide (hi < v) then (ofSigned dst.bits hi, flSAT)
    else (ofSigned dst.bits v, 0)
  | _, .I => cvtFI (Ty.fmt src) dst.signed dst.bits mode x
  | _, .F8 => roundFP8 (Ty.fmt dst) mode sat (cvtVal src x)
  | _, _ => (Ty.fmt dst).roundVal mode (cvtVal src x)

/-- The value of an element of an MX block under its scale (R113). -/
def mxVal (f : Fmt) (code scale : Nat) : FVal :=
  match e8m0 scale, f.val code with
  | none, _ => .nan false
  | some k, .fin n m e => .fin n m (e + k)
  | some _, v => v

/-- Byte at which the scale of block `b` stands in a register (R409). -/
def scaleByte (placed : Bool) (b : Nat) : Nat := regBytes placed - 64 + b

/-- Largest exponent of an element format (R129). -/
def emax (t : Ty) : Int :=
  match t with
  | .mx8 => 8
  | .mx6 => 4
  | _ => 2

/-- The exponent of a nonzero finite value; 0 has none. -/
def FVal.exponent : FVal → Option Int
  | .fin _ m e => if m = 0 then none else some (e + (bitLen m : Int) - 1)
  | _ => none

/-- Whether a value is NaN or infinite. -/
def FVal.special : FVal → Bool
  | .nan _ | .inf _ => true
  | .fin _ _ _ => false

/-- One MX block (R129): its scale, and each element's code and flags. -/
def mxBlock (t : Ty) (mode : Nat) (vs : List FVal) : Nat × List (Nat × Flags) :=
  if vs.any FVal.special then (255, vs.map (fun v => (0, nvIf v.special)))
  else match (vs.filterMap FVal.exponent).max? with
  | none => (0, vs.map (fun v => roundFP8 (Ty.fmt t) mode true v))
  | some x =>
    let k : Int := max (-127) (min 127 (x - emax t))
    ((k + 127).toNat, vs.map (fun v => roundFP8 (Ty.fmt t) mode true (match v with
      | .fin n m e => .fin n m (e - k)
      | v => v)))

/-- The bytes of packed elements of `w` bits (R114). -/
def packBytes (w : Nat) (codes : List Nat) : List Nat :=
  let x := codes.foldr (fun c a => c + a * 2 ^ w) 0
  (List.range (codes.length * w / 8)).map (fun i => getE x 8 i)

/-- VCVT from class M (R409): an element's value times its block's scale. -/
def State.cvtFromM (s : State) (e : VEntry) (d a : VReg) (src dst : Ty) : VRun := do
  s.maskClean e
  let act := s.actives e
  let r := s.vreg e.placed a
  let p := s.vpoison e.placed a
  let w := src.bits
  let reads (i : Nat) : Bool :=
    p.testBit (w * i / 512) || p.testBit ((w * i + w - 1) / 512) || p.testBit (scaleByte e.placed (i / 32) / 64)
  let bad := act.filter reads
  if !bad.isEmpty then s.vraiseLanes e .poisonVector (a.setWidth 64) bad
  else
    let rs := act.map (fun i =>
      (i, (Ty.fmt dst).roundVal e.mode (mxVal (Ty.fmt src) (getE r w i) (getE r 8 (scaleByte e.placed (i / 32))))))
    let s ← s.commitFlags e (rs.map (fun r => (r.1, r.2.2))) none
    .ok (s.writeElems e.placed d dst.bits (rs.map (fun r => (r.1, r.2.1, false)))).vdone

/-- VCVT into class M (R129, R409): whole blocks are written. -/
def State.cvtToM (s : State) (e : VEntry) (d a : VReg) (src dst : Ty) : VRun := do
  s.maskClean e
  let act := s.actives e
  s.clean e act [(a, src.bits)]
  let val (i : Nat) : FVal :=
    if act.contains i then (Ty.fmt src).val (s.velem e a src.bits i) else .fin false 0 0
  let blocks := (List.range ((e.vl + 31) / 32)).map (fun b =>
    (b, mxBlock dst e.mode ((List.range 32).map (fun j => val (32 * b + j)))))
  let flags := blocks.flatMap (fun x => (x.2.2.zipIdx).filterMap (fun c =>
    let i := 32 * x.1 + c.2
    if act.contains i then some (i, c.1.2) else none))
  let s ← s.commitFlags e flags none
  let bytes := blocks.flatMap (fun x =>
    let data := packBytes dst.bits (x.2.2.map (·.1))
    (data.zipIdx.map (fun c => (x.1 * data.length + c.2, c.1, false))) ++ [(scaleByte e.placed x.1, x.2.1, false)])
  .ok (s.writeElems e.placed d 8 bytes).vdone

/-- VCVT (R409). -/
def State.runCvt (s : State) (e : VEntry) (d a : VReg) (sat : Bool) (src dst : Ty) : VRun :=
  if src.cls == .M then s.cvtFromM e d a src dst
  else if dst.cls == .M then s.cvtToM e d a src dst
  else s.elementwise e d dst.bits [(a, src.bits)] (fun i => vcvt sat src dst e.mode (s.velem e a src.bits i))

/-! ### Compare, select, permute -/

/-- VCMP (R407): bits below VL that are inactive or below VSTART stay, bits from VL on are cleared. -/
def State.runCmp (s : State) (e : VEntry) (k a b : VReg) (t : Ty) (c : CmpPred) : VRun := do
  s.maskClean e
  let act := s.actives e
  s.clean e act [(a, t.bits), (b, t.bits)]
  let rs := act.map (fun i => (i, vpred c t (s.velem e a t.bits i) (s.velem e b t.bits i)))
  let s ← s.commitFlags e (rs.map (fun r => (r.1, r.2.2))) none
  let ones := laneMask ((rs.filter (·.2.1)).map (·.1))
  let kept := lowMask e.vl (s.kreg k.toNat) &&& ~~~ laneMask act
  -- a granule is written whole when each of its bits is an active element's or lies from VL on (R285)
  let whole (g : Nat) : Bool := (List.range 512).all (fun b => decide (e.vl ≤ 512 * g + b) || act.contains (512 * g + b))
  let p : BitVec 2 := s.kpois k.toNat &&& ~~~ ((if whole 0 then 1 else 0) ||| (if whole 1 then 2 else 0))
  .ok (s.setK k.toNat (kept ||| ones) (if s.kpois k.toNat = 0 then 0 else p)).vdone

/-- VSEL (R421): the mask selects and does not govern. -/
def State.runSel (s : State) (e : VEntry) (d a b : VReg) (t : Ty) : VRun := do
  s.maskClean e
  s.moveElems e d t.bits ((s.elems e).filter e.allows) (fun i =>
    let r := if s.governs e i then a else b
    (s.velem e r t.bits i, s.vbad e r t.bits i))

/-- VPERM (R416): a poisoned index traps, a poisoned selected element is carried. -/
def State.runPerm (s : State) (e : VEntry) (d a b : VReg) (t : Ty) : VRun := do
  s.maskClean e
  let act := s.actives e
  s.clean e act [(b, t.bits)]
  s.moveElems e d t.bits act (fun i =>
    let j := s.velem e b t.bits i
    if j < e.vl then (s.velem e a t.bits j, s.vbad e a t.bits j) else (0, false))

/-- VSLIDE (R422). -/
def State.runSlide (s : State) (e : VEntry) (d a : VReg) (t : Ty) : VRun := do
  s.maskClean e
  s.moveElems e d t.bits (s.actives e) (fun i =>
    let j : Int := i + e.x.toInt
    if 0 ≤ j && decide (j < e.vl) then (s.velem e a t.bits j.toNat, s.vbad e a t.bits j.toNat) else (0, false))

/-- VCOMPRESS (R408). -/
def State.runCompress (s : State) (e : VEntry) (d a : VReg) (t : Ty) : VRun := do
  if s.start e ≠ 0 then s.vraise e .badControlState 3
  else
    s.maskClean e
    let act := s.actives e
    let ws := act.zipIdx.map (fun x => (x.2, s.velem e a t.bits x.1, s.vbad e a t.bits x.1))
    .ok (s.writeElems e.placed d t.bits ws).vdone

/-- VBCAST (R406): carries the poison of the scalar register. -/
def State.runBcast (s : State) (e : VEntry) (d : VReg) (t : Ty) : VRun := do
  s.maskClean e
  s.moveElems e d t.bits (s.actives e) (fun _ => (e.x.toNat % 2 ^ t.bits, e.xPoison))

/-- VMOV (R399, R285). -/
def State.runMov (s : State) (e : VEntry) (d a : VReg) (t : Ty) : VRun := do
  s.maskClean e
  s.moveElems e d t.bits (s.actives e) (fun i => (s.velem e a t.bits i, s.vbad e a t.bits i))

/-- A scalar register that a stream instruction writes when it completes (R192, R249); its pending claim ends. -/
def State.deliverS (s : State) (d : SReg) (v : Dword) (poison : Bool) : State :=
  if d = 0 then s else { s with lc := { s.lc.setS d v poison with pending := s.lc.pending.erase d } }

/-- Element 0 extended to 64 bits (R411). -/
def elem0 (t : Ty) (x : Nat) : Dword := extendLoad t.signed t.bytes x

/-- VEXTRACT (R411). -/
def State.runExtract (s : State) (e : VEntry) (d : SReg) (a : VReg) (t : Ty) : VRun :=
  let v := elem0 t (s.velem e a t.bits 0)
  let p := s.vbad e a t.bits 0
  .ok (if e.placed then s.setSP d v p else s.deliverS d v p).vdone

/-- VQSEND (R417, R418). -/
def State.runQsend (s : State) (e : VEntry) (q : QReg) (a : VReg) (t : Ty) : VRun :=
  if s.vbad e a t.bits 0 then s.vraiseLanes e .poisonVector (a.setWidth 64) [0]
  else
    let l := s.lc.q[q.toNat]
    if 16 ≤ l.length then .error (.block s)
    else .ok { s.vdone with lc := { s.vdone.lc with q := s.lc.q.set q.toNat (l ++ [elem0 t (s.velem e a t.bits 0)]) } }

/-- VQRECV (R417): one entry leaves the queue whatever VL holds. -/
def State.runQrecv (s : State) (e : VEntry) (d : VReg) (q : QReg) (t : Ty) : VRun := do
  match s.lc.q[q.toNat] with
  | [] => .error (.block s)
  | v :: rest =>
    s.maskClean e
    let act := s.actives e
    let s := { s with lc := { s.lc with q := s.lc.q.set q.toNat rest } }
    s.moveElems e d t.bits act (fun _ => (v.toNat % 2 ^ t.bits, false))

/-! ### Reduce and scan (R134 to R136, R405, R419, R420) -/

/-- Pairs of lanes summed down to one (R134). -/
def laneTree (add : Nat → Nat → Nat × Flags) : Nat → List (Nat × Flags) → Nat × Flags
  | 0, l => l.headD (0, 0)
  | n + 1, l =>
    let h := 2 ^ n
    laneTree add n (((l.take h).zip (l.drop h)).map (fun x =>
      let r := add x.1.1 x.2.1
      (r.1, x.1.2 ||| x.2.2 ||| r.2)))

/-- A sequential sum from a value (R135). -/
def seqSum (add : Nat → Nat → Nat × Flags) (z : Nat) (l : List Nat) : Nat × Flags :=
  l.foldl (fun a x => let r := add a.1 x; (r.1, a.2 ||| r.2)) (z, 0)

/-- The sum of a segment over 256 virtual lanes; each element comes with its lane (R134). -/
def laneSum (add : Nat → Nat → Nat × Flags) (z : Nat) (l : List (Nat × Nat)) : Nat × Flags :=
  laneTree add 8 ((List.range 256).map (fun k => seqSum add z ((l.filter (·.1 == k)).map (·.2))))

/-- Whether the rank of x is greater than that of y in VARGMAX, or less in VARGMIN (R124). -/
def ranksOver (isMax : Bool) (t : Ty) (x y : Nat) : Bool :=
  if t.cls == .F then
    let a := (Ty.fmt t).val x
    let b := (Ty.fmt t).val y
    let o : Ordering :=
      if a.isNaN then (if b.isNaN then .eq else .lt) else if b.isNaN then .gt else a.cmp b
    o == (if isMax then .gt else .lt)
  else if isMax then decide (intVal t y < intVal t x) else decide (intVal t x < intVal t y)

/-- The index of the winner (R124, R405). -/
def argWin (isMax : Bool) (t : Ty) : List (Nat × Nat) → Nat
  | [] => 0xFFFF_FFFF
  | x :: r => (r.foldl (fun b y => if ranksOver isMax t y.2 b.2 then y else b) x).1

/-- VREDMAX and VREDMIN of a segment (R122, R136). -/
def foldMinmax (isMax : Bool) (t : Ty) (l : List Nat) : Nat × Flags :=
  let f := Ty.fmt t
  if t.cls == .F then
    match l with
    | [] => ((if isMax then f.signBit else 0) + f.infBits, 0)
    | x :: r =>
      let v := r.foldl (fun a y => (f.minmax isMax a y).1) x
      (if (f.val v).isNaN then f.canon else v, nvIf (l.any (fun y => (f.val y).isSig)))
  else match l with
    | [] => let (lo, hi) := intRange t.signed t.bits; (ofSigned t.bits (if isMax then lo else hi), 0)
    | x :: r => (r.foldl (vbinInt (if isMax then .max else .min) t) x, 0)

/-- Addition of elements as reductions use it (R134 to R136). -/
def redAdd (t : Ty) (mode a b : Nat) : Nat × Flags := vbin .add t mode a b

/-- The value a sum starts from: −0.0, or 0. -/
def redZero (t : Ty) : Nat := if t.cls == .F then (Ty.fmt t).signBit else 0

/-- The result of a reduction over a segment: pairs of index and value, and the segment's head (R45, R419). -/
def redSegment (o : VRed) (t : Ty) (mode head : Nat) (l : List (Nat × Nat)) : Nat × Flags :=
  let vals := l.map (·.2)
  match o with
  | .sum =>
    if t.cls == .F then laneSum (redAdd t mode) (redZero t) (l.map (fun x => ((x.1 - head) % 256, x.2)))
    else seqSum (redAdd t mode) 0 vals
  | .osum | .scan => seqSum (redAdd t mode) (redZero t) vals
  | .max => foldMinmax true t vals
  | .min => foldMinmax false t vals
  | .argmax => (argWin true t l, 0)
  | .argmin => (argWin false t l, 0)

/-- The running sums of a segment, with each element's index (R135). -/
def scanSegment (t : Ty) (mode : Nat) : Nat → List (Nat × Nat) → List (Nat × Nat × Flags)
  | _, [] => []
  | acc, x :: r => let y := redAdd t mode acc x.2; (x.1, y.1, y.2) :: scanSegment t mode y.1 r

/-- The segments of elements 0 to n − 1 by their heads, each with its head (R45). -/
def segments (heads : Nat → Bool) (n : Nat) : List (Nat × List Nat) :=
  let hs := (List.range n).filter (fun i => i == 0 || heads i)
  hs.zipIdx.map (fun h => (h.1, (List.range ((hs[h.2 + 1]?.getD n) - h.1)).map (· + h.1)))

/-- Width of a reduction's result (R405, R420). -/
def redBits (o : VRed) (t : Ty) : Nat :=
  match o with
  | .argmax | .argmin => 32
  | _ => t.bits

/-- MAJ 26 (R45, R405, R419, R420). -/
def State.runRed (s : State) (e : VEntry) (o : VRed) (d a kb : VReg) (t : Ty) (seg : Bool) : VRun := do
  if s.start e ≠ 0 then s.vraise e .badControlState 3
  else if seg && e.ctl.vmsel.toNat == kb.toNat then s.vraise e .segmentFlagsInvalid (kb.setWidth 64)
  else
    s.maskClean e
    let flagsBad := (List.range e.vl).filter (fun i => (s.kpois kb.toNat).getLsbD (i / 512))
    if seg && !e.placed && !flagsBad.isEmpty then
      s.vraiseLanes e .poisonVector (BitVec.ofNat 64 (0x100 + kb.toNat)) flagsBad
    else
      let act := s.actives e
      s.clean e act [(a, t.bits)]
      let heads (i : Nat) : Bool :=
        seg && (if e.placed then e.khead.getLsbD i else (s.kreg kb.toNat).getLsbD i)
      let segs := (segments heads e.vl).map (fun g =>
        (g.1, (g.2.filter (fun i => s.governs e i && e.allows i)).map (fun i => (i, s.velem e a t.bits i))))
      if o == .scan then
        let rs := segs.flatMap (fun g => scanSegment t e.mode (redZero t) g.2)
        let s ← s.commitFlags e (rs.map (fun r => (r.1, r.2.2))) (some act)
        .ok (s.writeElems e.placed d t.bits (rs.map (fun r => (r.1, r.2.1, false)))).vdone
      else
        let rs := segs.map (fun g => redSegment o t e.mode g.1 g.2)
        let s ← s.commitFlags e (rs.zipIdx.map (fun r => (r.2, r.1.2))) (some act)
        .ok (s.writeElems e.placed d (redBits o t) (rs.zipIdx.map (fun r => (r.2, r.1.1, false)))).vdone

/-! ### Mask instructions (R355, R356) -/

/-- The result of a logical mask operation before its high bits are cleared (R356). -/
def kop (o : KOp) (a b : KBits) : KBits :=
  match o with
  | .and => a &&& b
  | .or => a ||| b
  | .xor => a ^^^ b
  | .not => ~~~ a
  | .mov => a

/-- A poisoned source of a mask instruction: TVAL 0x100 + register, k7 unchanged (R356). -/
def State.kclean (s : State) (e : VEntry) (ks : List Nat) : Except VStop Unit :=
  match ks.find? (fun k => (List.range 2).any (fun g => (s.kpois k).getLsbD g && decide (512 * g < e.vl))) with
  | some k => s.vraise e .poisonVector (BitVec.ofNat 64 (0x100 + k))
  | none => .ok ()

/-- KAND, KOR, KXOR, KNOT and KMOV (R356); KMOV carries poison granule by granule. -/
def State.runMask (s : State) (e : VEntry) (o : KOp) (k a b : VReg) : VRun := do
  if e.vl ≤ s.start e then .ok s.vdone
  else
    let srcs := match o with
      | .and | .or | .xor => [a.toNat, b.toNat]
      | .not => [a.toNat]
      | .mov => []
    s.kclean e srcs
    -- every bit of kd is written, so its granules are clean but for those KMOV carries
    let p : BitVec 2 := if o == .mov then s.kpois a.toNat &&& (if 512 < e.vl then 3 else 1) else 0
    .ok (s.setK k.toNat (lowMask e.vl (kop o (s.kreg a.toNat) (s.kreg b.toNat))) p).vdone

/-- KPOP and KFIRST (R356). -/
def State.runKscalar (s : State) (e : VEntry) (first : Bool) (d : SReg) (a : VReg) : VRun := do
  if e.vl ≤ s.start e then .ok (s.deliverS d (if first then BitVec.allOnes 64 else 0) false).vdone
  else
    s.kclean e (a.toNat :: (if e.ctl.vmsel == 8 then [] else [e.ctl.vmsel.toNat]))
    let hits := (List.range e.vl).filter (fun i => s.governs e i && (s.kreg a.toNat).getLsbD i)
    let v : Dword := if first then (match hits with
      | [] => BitVec.allOnes 64
      | i :: _ => BitVec.ofNat 64 i) else BitVec.ofNat 64 hits.length
    .ok (s.deliverS d v false).vdone

/-! ### MAJ 20 to 27 -/

/-- MAJ 20 to 27 as an entry runs; none for the operations of other families. -/
def State.runAlu (s : State) (e : VEntry) : Option VRun :=
  let el (r : VReg) (t : Ty) (i : Nat) : Nat := s.velem e r t.bits i
  let skip (r : VRun) : Option VRun := some (if e.vl ≤ s.start e then .ok s.vdone else r)
  match e.op with
  | .bin o d a b t =>
    skip (s.elementwise e d t.bits [(a, t.bits), (b, t.bits)] (fun i => vbin o t e.mode (el a t i) (el b t i)))
  | .binS o d a t =>
    skip (s.elementwise e d t.bits [(a, t.bits)] (fun i => vbin o t e.mode (el a t i) (e.x.toNat % 2 ^ t.bits)))
  | .bcast d t => skip (s.runBcast e d t)
  | .slide d a t => skip (s.runSlide e d a t)
  | .extract d a t => some (s.runExtract e d a t)
  | .tern o d a b t =>
    skip (s.elementwise e d t.bits [(a, t.bits), (b, t.bits), (d, t.bits)]
      (fun i => vtern o t e.mode (el a t i) (el b t i) (el d t i)))
  | .un .mov d a t => skip (s.runMov e d a t)
  | .un o d a t => skip (s.elementwise e d t.bits [(a, t.bits)] (fun i => vun o t e.mode (el a t i)))
  | .iota d t => skip (s.elementwise e d t.bits [] (fun i => (i % 2 ^ t.bits, 0)))
  | .cvt d a sat src dst => skip (s.runCvt e d a sat src dst)
  | .cmp k a b t c => skip (s.runCmp e k a b t c)
  | .sel d a b t => skip (s.runSel e d a b t)
  | .perm d a b t => skip (s.runPerm e d a b t)
  | .compress d a t => skip (s.runCompress e d a t)
  | .qsend q a t => some (s.runQsend e q a t)
  | .qrecv d q t => some (s.runQrecv e d q t)
  | .red o d a kb t seg => skip (s.runRed e o d a kb t seg)
  | .mask o k a b => some (s.runMask e o k a b)
  | .kscalar f d a => some (s.runKscalar e f d a)
  | _ => none

end Sys2Proof.Machine
end

