-- ==== Sys2Proof/Machine/Mem.lean ====
section
/-! DEFINITION. Mem.lean: scalar memory, MAJ 0A to 0E, with PROBE, CWB, CINV and MWAIT of MAJ 1C (R175, R185, R331 to
R333, R341, R357 to R359, R365, R366, R369, R386 to R388). -/

namespace Sys2Proof.Machine

/-! ### Loads and stores -/

/-- A scalar load of `n` bytes at a location that `va` translates to: its waits, its faults in order, the value and its
poison (R357, R358, R283, R285, R286). -/
def State.loadAt (s : State) (l : Loc) (va : Dword) (n : Nat) : Except Halt (State × Nat × Bool) := do
  if s.watched s.super false true va n then s.raise .debugWatch va
  else if s.scalarWaits va n || s.bankWaits l then .error .wait
  else
    let s ← s.hostRead l va n
    let own := s.lc.stores.filter (fun x => x.meets l n)
    let v := own.foldl (fun v x => x.onto v l n) (s.readLoc l n)
    if s.badAt l then .error (.trapIn (s.markBad l) (s.report (s.badCause l) va))
    else if s.poisonAt l then
      if l.por then s.raise .poisonScalar va
      else .ok ({ s with lc := s.lc.logPoison va }, v, true)
    else .ok (s, v, own.any (·.poison))

/-- A scalar load of `n` bytes at `va`. -/
def State.load (s : State) (va : Dword) (n : Nat) : Except Halt (State × Nat × Bool) := do
  if !aligned va n then s.raise .misalignedLoad va
  else
    let l ← s.locS .load va
    s.loadAt l va n

/-- A scalar store of the low `n` bytes of a value (R386 to R388): once it is known to raise nothing it leaves the
scalar unit, performed at once, or kept until what it waits for has been performed. -/
def State.store (s : State) (va : Dword) (n x : Nat) (poison release : Bool) : Except Halt State := do
  if !aligned va n then s.raise .misalignedStore va
  else
    let l ← s.locS .store va
    if s.watched s.super true false va n then s.raise .debugWatch va
    else if s.linkBad l then .error (.trapIn (s.markBad l) (s.report .linkDataError va))
    else if s.storeWaits l va n release then .ok (s.keepStore l va n x poison release)
    else .ok (s.storeAt l va n x poison)

/-- LD (R357): s0 as destination discards the value, the access and its faults take place. -/
def execLd (d a : SReg) (z : BitVec 2) (x : Bool) (i : BitVec 11) (s : State) : Out := s.finish do
  let b ← s.useS a
  s.claimS d
  let (t, v, p) ← s.load (b + imm i) (szBytes z)
  .ok (t.setSP d (extendLoad x (szBytes z) v) p).retire

/-- ST (R386). -/
def execSt (r a : SReg) (z : BitVec 2) (i : BitVec 11) (s : State) : Out := s.finish do
  let b ← s.useS a
  let (v, p) ← s.moveS r
  let t ← s.store (b + imm i) (szBytes z) v.toNat p false
  .ok t.retire

/-- LDA (R175, R359): zero-extends; its acquire holds since later accesses follow it in the model. -/
def execLda (d a : SReg) (z : BitVec 2) (_c : Scope) (s : State) : Out := s.finish do
  let b ← s.useS a
  s.claimS d
  let (t, v, p) ← s.load b (szBytes z)
  .ok (t.setSP d (extendLoad false (szBytes z) v) p).retire

/-- STL (R175, R388): its store waits until every earlier S, V and X access is performed, and holds no later access; a
failed host store is raised at it (R308). -/
def execStl (r a : SReg) (z : BitVec 2) (_c : Scope) (s : State) : Out := s.finish do
  let b ← s.useS a
  let (v, p) ← s.moveS r
  if !aligned b (szBytes z) then s.raise .misalignedStore b
  else
    s.hostFault
    let t ← s.store b (szBytes z) v.toNat p true
    .ok t.retire

/-! ### Atomics -/

/-- New value of an AMO on `n` bytes (R331): none when a cas fails. `old`, `x` and `c` are the low 8n bits of memory,
sb and sd. -/
def amoNew (o : AmoOp) (n old x c : Nat) : Option Nat :=
  let w := 8 * n
  match o with
  | .swap => some x
  | .add => some ((old + x) % 2 ^ w)
  | .and => some (old &&& x)
  | .or => some (old ||| x)
  | .xor => some (old ^^^ x)
  | .min => some (if toSigned w x < toSigned w old then x else old)
  | .max => some (if toSigned w old < toSigned w x then x else old)
  | .minu => some (if x < old then x else old)
  | .maxu => some (if old < x then x else old)
  | .fadd => some ((if n = 4 then Fmt.f32 else Fmt.f64).add 0 old x).1
  | .cas => if old = c then some x else none

/-- Whether the old value is sign-extended into sd (R331). -/
def amoSigns (o : AmoOp) : Bool := o == .min || o == .max

/-- AMO (R331 to R333). -/
def execAmo (d a : SReg) (z : BitVec 2) (_c : Scope) (b : SReg) (o : AmoOp) (s : State) : Out := s.finish do
  if o == .fadd && decide (z.toNat < 2) then s.raise .badType (z.setWidth 64)
  else
    let n := szBytes z
    let va ← s.useS a
    let x ← s.useS b
    let c ← if o == .cas then s.useS d else (do s.claimS d; .ok 0)
    if !aligned va n then s.raise .misalignedAmo va
    else
      let l ← s.locS .amo va
      if s.watched s.super true true va n then s.raise .debugWatch va
      else
        s.releaseWait
        if s.bankWaits l then .error .wait
        else
          let s ← s.hostRead l va n
          if s.badAt l then .error (.trapIn (s.markBad l) (s.report (if s.linkBad l then .linkDataError else .uncorrectableLoad) va))
          else
            let p := s.poisonHome l
            let s := if p then { s with lc := s.lc.logPoison va } else s
            let old := s.readHome l n
            let t := match amoNew o n old (x.toNat % 2 ^ (8 * n)) (c.toNat % 2 ^ (8 * n)) with
              | some v => s.writeLoc l n v p
              | none => s
            .ok (t.setSP d (extendLoad (amoSigns o) n old) p).retire

/-! ### Cache-line hints and probes -/

/-- Whether an address translates to a peer address, which CWB and CINV leave alone whatever it would raise (R341). -/
def State.peerAt (s : State) (va : Dword) : Bool :=
  match s.dev.leafOf (s.space s.super) .load va.toNat with
  | .error _ => false
  | .ok l => field va 57 7 == 0 && leafAllows (s.space s.super) .load l.entry && !leafC l.entry
      && (match paKind (leafFrame l.entry * 65536) with
        | .peer _ _ => true
        | .hbm | .unassigned | .host => false)

/-- CWB and CINV (R341): sa is translated as a load; the line's place is all that changes, and the model has no
caches. -/
def State.cacheHint (s : State) (a : SReg) : Except Halt State := do
  let va ← s.useS a
  if inWindow va then .ok s.retire
  else match s.locate s.super .load va with
  | .ok _ => .ok s.retire
  | .error .expand => .error (.expand va)
  | .error (.recall _) => .ok s.retire
  | .error (.cause c) => if s.peerAt va then .ok s.retire else s.raise c va

/-- CWB (R341). -/
def execCwb (a : SReg) (s : State) : Out := s.finish (s.cacheHint a)

/-- CINV (R341). -/
def execCinv (a : SReg) (s : State) : Out := s.finish (s.cacheHint a)

/-- The code PROBE reports for a load or a store at a valid leaf: step 4 of R301, then R145 without reachability
(R369). -/
def State.probeCode (s : State) (k : Acc) (e : Dword) (pa : Nat) : Nat :=
  if !leafAllows (s.space s.super) k e then k.access.code
  else if leafC e then 0
  else match paKind pa with
  | .hbm => if (s.dev.stack (homeStack pa)).degraded then k.access.code else 0
  | .unassigned => k.access.code
  | .peer _ off => if hbmSize ≤ off then k.access.code else 0
  | .host => 0

/-- The value PROBE writes (R369). -/
def State.probe (s : State) (va : Dword) : Dword :=
  if inWindow va then
    let o := va.toNat - windowBase
    let bad := s.core.role (o / 131072) != 1 || s.contained o
    bitAt true 0 ||| bitAt true 2 ||| bitAt true 4
      ||| (if bad then at_ Cause.loadAccess.code 8 ||| at_ Cause.storeAccess.code 52 else 0)
  else if field va 57 7 ≠ 0 then at_ Cause.loadAccess.code 8 ||| at_ Cause.storeAccess.code 52
  else match s.dev.walk (s.space s.super) .load va.toNat with
  | .error c =>
    let st := match s.dev.walk (s.space s.super) .store va.toNat with
      | .error d => d.code
      | .ok _ => 0
    at_ c.code 8 ||| at_ st 52
  | .ok l =>
    let e := l.entry
    let pa := leafFrame e * 65536 + (if l.block then va.toNat % 2 ^ 28 else va.toNat % 2 ^ 16)
    let frame := if !s.super || leafC e then 0 else pa / 65536
    bitAt true 0 ||| at_ (field e 1 7) 1 ||| at_ (s.probeCode .load e pa) 8 ||| at_ frame 16
      ||| at_ (s.probeCode .store e pa) 52 ||| at_ (leafHstack e) 60

/-- PROBE (R369). -/
def execProbe (d a : SReg) (s : State) : Out := s.finish do
  let va ← s.useS a
  s.claimS d
  .ok (s.setS d (s.probe va)).retire

/-! ### MWAIT (R185, R365) -/

/-- The physical address MWAIT monitors: local HBM, or at a peer. -/
def Loc.monitored : Loc → Option Nat
  | .window _ => none
  | .phys p _ => match paKind p with
    | .hbm | .peer _ _ => some p
    | .unassigned | .host => none

/-- The state without the monitor of the LC in focus. -/
def State.disarm (s : State) : State :=
  { s with dev := { s.dev with monitors := s.dev.monitors.filter (fun m => m.who != s.lc.key) } }

/-- What MWAIT returns of a read: the value with its poison, POISON_SCALAR under poison-on-read, or UNCORRECTABLE_LOAD
(R365). -/
def State.mwaitRead (s : State) (d : SReg) (l : Loc) (va : Dword) (r : Woken) : Except Halt State :=
  let t := s.disarm
  if r.bad then .error (.trapIn (t.markBad l) (t.report (if s.linkBad l then .linkDataError else .uncorrectableLoad) va))
  else if r.poison && l.por then .error (.trapIn t (t.report .poisonScalar va))
  else .ok (({ t with lc := if r.poison then t.lc.logPoison va else t.lc }).setSP d r.value r.poison).retire

/-- MWAIT (R365): compares and arms in one step; once a write has reached the granule it returns what was read with that
write. A path to a peer that fails meanwhile disarms it. Its compare reads what containment holds of the LC's own V
stores, as any S load of the LC does (log 36). -/
def State.mwait (s : State) (d a b : SReg) : Except Halt State := do
  let va ← s.useS a
  let x ← s.useS b
  s.claimS d
  if !aligned va 8 || inWindow va then s.raise .monitorInvalid va
  else match s.locate s.super .load va with
  | .error (.cause c) => .error (.trapIn s.disarm (s.report c va))
  | .error .expand => .error (.expand va)
  | .error (.recall g) => .error (.recall g)
  | .ok l => match l.monitored with
    | none => s.raise .monitorInvalid va
    | some pa =>
      if s.watched s.super false true va 8 then s.raise .debugWatch va
      else if s.scalarWaits va 8 || s.bankWaits l || s.lc.stores.any (fun y => y.meets l 8) then .error .wait
      else match s.dev.monitors.find? (fun m => m.who == s.lc.key) with
        | some m =>
          if m.pa = pa then
            match m.got with
            | some v => s.mwaitRead d l va v
            | none => .error .wait
          else .error (.waitIn s.disarm)
        | none =>
          let v : Woken := ⟨BitVec.ofNat 64 (s.readLoc l 8), s.poisonAt l, s.badAt l⟩
          if v.value ≠ x || v.bad || (v.poison && l.por) then s.mwaitRead d l va v
          else .error (.waitIn { s with dev := { s.dev with monitors := ⟨s.lc.key, pa, none⟩ :: s.dev.monitors } })

/-- MWAIT. -/
def execMwait (d a b : SReg) (s : State) : Out := s.finish (s.mwait d a b)

end Sys2Proof.Machine
end

