-- ==== Sys2Proof/Machine/VecMem.lean ====
section
/-! DEFINITION. VecMem.lean: element accesses of the V and K streams as they run: addresses (R91, R156, R412), translation
(R193, R301), lane- and element-granular loads (R276), probe groups (R277), containment (R281, R282), and VLD, VST,
VAMO and VAMON (R402, R403, R412, R413, R423, R424). -/

namespace Sys2Proof.Machine

/-- An element access: the element it belongs to, its address and its bytes; `sub` tells apart the fields of a
record. -/
structure VItem where
  idx : Nat
  va : Dword
  sub : Nat
  deriving DecidableEq, Repr

/-! ### Addresses -/

/-- Row and element at which a two-dimensional access starts (R156). -/
def State.eprAt (s : State) (e : VEntry) : Nat × Nat :=
  match e.restart with
  | some r => (r.2.toNat / 65536, r.2.toNat % 65536)
  | none => (s.lc.epr.toNat / 65536, s.lc.epr.toNat % 65536)

/-- Whether a two-dimensional access has passed element i of row r (R156). -/
def State.passed (s : State) (e : VEntry) (r i : Nat) : Bool :=
  decide (r < (s.eprAt e).1) || (r == (s.eprAt e).1 && decide (i < (s.eprAt e).2))

/-- The active element accesses of an addressing mode from the restart point, in ascending element (R412, R423). For
am 5, `base` is the popped address. -/
def State.items (s : State) (e : VEntry) (m : AMode) (t : Ty) (base : Dword) : List VItem :=
  let w := t.bytes
  let off (n : Nat) : Dword := BitVec.ofNat 64 n
  match m with
  | .unit | .stream _ => (s.actives e).map (fun i => ⟨i, base + off (i * w), 0⟩)
  | .strided => (s.actives e).map (fun i => ⟨i, base + off i * e.ctl.vstride, 0⟩)
  | .indexed x => (s.actives e).map (fun i => ⟨i, base + indexOffset t (s.velem e x t.bits i), 0⟩)
  | .segment x =>
    let n := x.toNat + 1
    (s.actives e).flatMap (fun i => (List.range n).map (fun j => ⟨i, base + off ((i * n + j) * w), j⟩))
  | .tile =>
    (List.range e.ctl.rowcnt.toNat).flatMap (fun r =>
      ((List.range e.vl).filter (fun i =>
        !s.passed e r i && s.governs e (r * e.vl + i) && e.allows (r * e.vl + i))).map
        (fun i => ⟨r * e.vl + i, base + off r * e.ctl.rowpitch + off (i * w), 0⟩))

/-- The element count (R87, R276). -/
def VEntry.count (e : VEntry) (m : AMode) : Nat :=
  match m with
  | .tile => e.vl * e.ctl.rowcnt.toNat
  | _ => e.vl

/-! ### Translation of an element -/

/-- Where the bound context lies: its stack and SVU (R189). -/
def State.ctxHome (s : State) : Nat × Nat :=
  match s.dev.ctxUses.find? (fun u => u.owner == s.lc.key) with
  | some u => (u.stack, u.svu)
  | none => (0, 0)

/-- The space of the bound context (R303): the address space captured at SKBIND, in the TLB of its SVU. -/
def State.ctxSpace (s : State) (super : Bool) : Space :=
  match s.lc.ctx with
  | some c => s.dev.svuSpace s.ctxHome.1 s.ctxHome.2 c.ptbase c.asid super
  | none => s.space super

/-- The space an entry's accesses translate in: that of its hand-off (R74), at its level, or its context's in the base
die (R193). -/
def State.vspace (s : State) (e : VEntry) : Space :=
  if e.placed then s.ctxSpace e.super else s.spaceOf e.env e.super

/-- What an address of the base die reaches: neither the scratchpad window nor host memory (R193). -/
def baseReach (k : Acc) : Except Cause Xl → Except Cause Loc
  | .error c => .error c
  | .ok y => if paKind y.pa == .host then .error k.access else .ok (.phys y.pa y.leaf)

/-- Where an address of the base die lies, with everything that comes before the access (R153, R204). -/
def State.baseReach (s : State) (x : Space) (k : Acc) (va : Dword) : State × Except Cause Loc :=
  if inWindow va then (s, .error k.access)
  else
    let r := s.dev.fetchXl x k va
    ({ s with dev := r.1 }, Machine.baseReach k r.2)

/-- Where an update for a scatter-add unit goes (R203): it joins an open entry of its granule and recalls none. -/
def State.scatterReach (s : State) (x : Space) (va : Dword) : State × Except Cause Loc :=
  if inWindow va then (s, .error .amoAccess)
  else match s.dev.xlate x .amo va with
  | .ok p => (s, Machine.baseReach .amo (.ok p))
  | .error (some c) => (s, .error c)
  | .error none => s.baseReach x .amo va

/-- Where an element lies (R104, R193). -/
def State.vreach (s : State) (e : VEntry) (k : Acc) (va : Dword) : State × Except Cause Loc :=
  if !e.placed then s.reachIn (s.vspace e) k va
  else if k == .amo then s.scatterReach (s.vspace e) va
  else s.baseReach (s.vspace e) k va

/-- The misalignment cause of a kind. -/
def Acc.misaligned : Acc → Cause
  | .load | .fetch => .misalignedLoad
  | .store => .misalignedStore
  | .amo => .misalignedAmo

/-- An element access with what its probe found. -/
structure Probed where
  item : VItem
  res : Except Cause Loc
  deriving Repr

/-- Whether the probe found a location. -/
def Probed.loc? (p : Probed) : Option Loc :=
  match p.res with
  | .ok l => some l
  | .error _ => none

/-- The probe of every element, in order (R104, R277). -/
def State.probeItems (s : State) (e : VEntry) (k : Acc) (w : Nat) (l : List VItem) : State × List Probed :=
  l.foldl (fun a i =>
    if !aligned i.va w then (a.1, a.2 ++ [⟨i, .error k.misaligned⟩])
    else
      let r := a.1.vreach e k i.va
      (r.1, a.2 ++ [⟨i, r.2⟩])) (s, [])

/-- Failed elements' pages in order of first faulting element, each with its cause (R280). -/
def faultPages (l : List (Dword × Cause)) : List (Dword × Cause) :=
  l.foldl (fun a p => if a.any (fun q => q.1.toNat / 65536 == p.1.toNat / 65536) then a else a ++ [p]) []

/-- The register a load writes, which POISON_VECTOR names (R274). -/
def VEntry.target (e : VEntry) (sub : Nat) : Dword :=
  match e.op with
  | .load t _ _ _ _ => (t + BitVec.ofNat 5 sub).setWidth 64
  | .tld t _ _ _ => t.setWidth 64
  | _ => 0

/-- The report of faulting elements: cause, TVAL and FIRST of the lowest, and every faulting page (R274, R280). -/
def VEntry.reportAt (e : VEntry) (bad : List (VItem × Cause)) (group rm k7 : Bool) : TrapRec :=
  match bad with
  | [] => e.report .loadAccess 0
  | (i, c) :: _ =>
    { e.report c (if c == .poisonVector then e.target i.sub else i.va) with
      rm := some rm, first := i.idx, faddr := i.va, pages := faultPages (bad.map (fun b => (b.1.va, b.2))),
      storeGroup := group, k7valid := k7 }

/-- DEBUG_WATCH as a stream trap (R286): the watching lanes in k7. -/
def State.watchItems (s : State) (e : VEntry) (isStore isLoad : Bool) (w count : Nat) (l : List VItem) :
    Except VStop Unit :=
  let hit := l.filter (fun i => !e.placed && e.env.watches e.super isStore isLoad i.va w)
  match hit with
  | [] => .ok ()
  | i :: _ =>
    .error (.fault (s.setLanes count ((hit.map (·.idx)).eraseDups))
      { e.report .debugWatch i.va with k7valid := decide (count ≤ 1024) })

/-- Whether an access waits for the LC's own earlier bank commands that write in its bank (R180). -/
def State.itemsWait (s : State) (e : VEntry) (l : List Probed) : Bool :=
  l.any (fun p => (p.loc?.map (s.bankWaitsAt e.no)).getD false)

/-! ### Host memory (R308) -/

/-- The answers that host reads of `n` bytes need when the scalar unit runs ahead: the state with their requests sent, and
whether one is still to come. -/
def State.hostAsk (s : State) (n : Nat) (l : List Probed) : State × Bool :=
  if !s.runAhead then (s, false)
  else l.foldl (fun a p => match p.loc? with
    | some (.phys pa f) =>
      if (Loc.phys pa f).isHost then
        match a.1.dev.hostReqs.find? (fun r => r.who == s.lc.key && !r.store && r.va == p.item.va) with
        | some r => (a.1, a.2 || r.answer.isNone)
        | none => ({ a.1 with dev := { a.1.dev with
            hostReqs := a.1.dev.hostReqs ++ [⟨s.lc.key, p.item.va, false, pa, n, none, none⟩] } }, true)
      else a
    | _ => a) (s, false)

/-- The cause of a host request that failed. -/
def State.hostBad (s : State) (p : Probed) : Option Cause :=
  match s.dev.hostReqs.find? (fun r => r.who == s.lc.key && !r.store && r.va == p.item.va) with
  | some r => r.answer.bind hostCause
  | none => none

/-- The requests of the accesses are used up. -/
def State.hostUsed (s : State) (l : List Probed) : State :=
  { s with dev := { s.dev with
      hostReqs := s.dev.hostReqs.filter (fun r => !(r.who == s.lc.key && !r.store && l.any (fun p => p.item.va == r.va))) } }

/-! ### Loads (R276) -/

/-- What the loads of an entry give: the state, the values loaded with their poison, and the faulting accesses. -/
structure Loaded where
  st : State
  vals : List (VItem × Nat × Bool)
  bad : List (VItem × Cause)
  deriving Repr

/-- The cause a probed load meets at its granule: a failed host request, an uncorrectable error (R283), poison-on-read
(R285). -/
def State.loadCause (s : State) (own : Bool) (p : Probed) : Option Cause :=
  match p.res with
  | .error c => some c
  | .ok l =>
    match s.hostBad p with
    | some c => some c
    | none => if s.badAt l then some (s.badCause l)
      else if s.poisonFor own l && l.por then some .poisonVector
      else none

/-- Loads the items: waits, watch, and for each item its value or its cause. An item whose element has a failed field
is not loaded (R412). -/
def State.loadItems (s : State) (e : VEntry) (w count : Nat) (l : List VItem) : Except VStop Loaded := do
  let (s, ps) := s.probeItems e .load w l
  s.watchItems e false true w count l
  if s.itemsWait e ps then .error (.block s)
  else
    let (s, more) := s.hostAsk w ps
    if more then .error (.block s)
    else
      let bad := ps.filterMap (fun p => (s.loadCause (!e.placed) p).map (fun c => (p.item, c)))
      let failed := bad.map (·.1.idx)
      let good := ps.filter (fun p => !failed.contains p.item.idx)
      let vals := good.filterMap (fun p => p.loc?.map (fun x => (p.item, s.readFor (!e.placed) x w, s.poisonFor (!e.placed) x)))
      -- the granules that failed are marked poisoned, and POISONLOG holds the last one consumed
      let s := ps.foldl (fun a p => match p.loc? with
        | some x => if s.badAt x && (s.hostBad p).isNone then a.markBad x else a
        | none => a) s
      let s := vals.foldl (fun a v => if v.2.2 then { a with lc := a.lc.logPoison v.1.va } else a) s
      .ok ⟨s.hostUsed ps, vals, bad⟩

/-- The state with VSTART, or EPR of a two-dimensional access, at an element. -/
def State.setRestart (s : State) (e : VEntry) (twoD : Bool) (idx : Nat) : State :=
  if twoD then { s with lc := { s.lc with epr := BitVec.ofNat 32 (idx / e.vl * 65536 + idx % e.vl) } }
  else { s with lc := { s.lc with vstart := BitVec.ofNat 16 idx } }

/-- Finishes a load: every element done, or the report of R276, which leaves EPR alone (log 93); `write` puts loaded values in their registers. -/
def State.endLoad (r : Loaded) (e : VEntry) (twoD : Bool) (count : Nat) (lane : Bool)
    (write : State → List (VItem × Nat × Bool) → State) : VRun :=
  match r.bad with
  | [] => .ok (write r.st r.vals).mdone
  | (f, _) :: _ =>
    if lane then
      let lanes := (r.bad.map (·.1.idx)).eraseDups
      .error (.fault ((write r.st r.vals).setLanes count lanes) (e.reportAt r.bad false true true))
    else
      let s := write r.st (r.vals.filter (fun v => v.1.idx < f.idx))
      .error (.fault (s.setRestart e twoD f.idx) (e.reportAt r.bad false false false))

/-- Loaded values written to registers vt, vt + 1, … by field. -/
def State.putLoaded (e : VEntry) (d : VReg) (w : Nat) (s : State) (vals : List (VItem × Nat × Bool)) : State :=
  (List.range 8).foldl (fun a m =>
    let ws := (vals.filter (fun v => v.1.sub == m)).map (fun v => (v.1.idx, v.2.1, v.2.2))
    if ws.isEmpty then a else a.writeElems e.placed (d + BitVec.ofNat 5 m) w ws) s

/-- The elements whose governing bits an access reads (R156, R285): those of the rows from EPR on, or from VSTART to
VL. -/
def State.governed (s : State) (e : VEntry) (m : AMode) : List Nat :=
  match m with
  | .tile => (List.range (e.count m)).filter (fun i => !s.passed e (i / e.vl) (i % e.vl))
  | _ => s.elems e

/-- The index register of an addressing mode, read for addresses (R285). -/
def indexSrc (m : AMode) (t : Ty) : List (VReg × Nat) :=
  match m with
  | .indexed x => [(x, t.bits)]
  | _ => []

/-- VLD from a base address (R412, R413). -/
def State.runLoad (s : State) (e : VEntry) (d : VReg) (m : AMode) (t : Ty) (base : Dword) : VRun := do
  s.maskCleanOf e (s.governed e m)
  s.clean e (s.actives e) (indexSrc m t)
  let count := e.count m
  let r ← s.loadItems e t.bytes count (s.items e m t base)
  State.endLoad r e (m == .tile) count (decide (count ≤ 1024)) (State.putLoaded e d t.bits)

/-! ### Stores (R277) -/

/-- Splits accesses into probe groups: elements in order while their distinct pages number at most 64. All accesses of
one element stay together. -/
def probeGroups (l : List VItem) : List (List VItem) :=
  let pages (g : List VItem) : List Nat := (g.map (fun i => i.va.toNat / 65536)).eraseDups
  let elems := l.splitBy (fun a b => a.idx == b.idx)
  (elems.foldl (fun a x =>
    match a with
    | [] => [x]
    | g :: r => if (pages (g ++ x)).length ≤ 64 then (g ++ x) :: r else x :: g :: r) []).reverse

/-- A byte merged into held granules, in order of first write (R281). -/
def holdByte (l : List Held) (pa : Nat) (b : Byte) (p : Bool) : List Held :=
  let g := pa / 64
  let o := pa % 64
  let put (h : Held) : Held :=
    { h with
      mask := h.mask ||| BitVec.ofNat 64 (2 ^ o)
      data := setElem h.data 8 o b.toNat
      poison := h.poison || p }
  if l.any (·.granule == g) then l.map (fun h => if h.granule = g then put h else h)
  else l ++ [put ⟨g, 0, 0, false⟩]

/-- `n` bytes merged into held granules. -/
def holdBytes (l : List Held) (pa n x : Nat) (p : Bool) : List Held :=
  (bytesOf n x).zipIdx.foldl (fun a b => holdByte a (pa + b.2) b.1 p) l

/-- Whether an entry's stores are held by containment (R281): an unplaced VST or TST of a contained task. -/
def State.holds (s : State) (e : VEntry) : Bool := !e.placed && s.sccOf s.lc

/-- One element stored: held, or written, and on its way to the host (R281, R308). -/
def State.putItem (s : State) (e : VEntry) (l : Loc) (i : VItem) (w x : Nat) (p : Bool) : State :=
  match l with
  | .window _ => s.writeLoc l w x p
  | .phys pa _ =>
    if s.holds e then { s with lc := { s.lc with contain := holdBytes s.lc.contain pa w x p } }
    else s.storeAt l i.va w x p

/-- The byte addresses of a store's clean items in one space, and of its poisoned ones. -/
def coveredAll (l : List (Nat × Nat × Bool)) (g : Nat) : Bool :=
  (List.range 64).all (fun b => l.any (fun i => decide (i.1 ≤ 64 * g + b) && decide (64 * g + b < i.1 + i.2.1)))
    && !l.any (fun i => i.2.2 && decide (i.1 / 64 == g))

/-- A granule that the items of one store wrote whole with clean data loses its poison (R285): in memory, in the
scratchpad, or where containment holds it. -/
def State.clearWhole (s : State) (e : VEntry) (w : Nat) (l : List (Loc × Bool)) : State :=
  let phys := l.filterMap (fun i => match i.1 with
    | .phys p _ => some (p, w, i.2)
    | .window _ => none)
  let wins := l.filterMap (fun i => match i.1 with
    | .window o => some (o, w, i.2)
    | .phys _ _ => none)
  let s := { s with core := { s.core with
    scratchPoison := s.core.scratchPoison.filter (fun g => !coveredAll wins g)
    scratchError := s.core.scratchError.filter (fun g => !coveredAll wins g) } }
  if s.holds e then
    { s with lc := { s.lc with contain := s.lc.contain.map (fun h => if coveredAll phys h.granule then { h with poison := false } else h) } }
  else
    { s with dev := { s.dev with
        memPoison := s.dev.memPoison.filter (fun g => !coveredAll phys g)
        memError := s.dev.memError.filter (fun g => !coveredAll phys g)
        l2Error := s.dev.l2Error.filter (fun g => !coveredAll phys g) } }

/-- SCCTL.CAP of the LC in focus (R281). -/
def State.cap (s : State) : Nat := if (s.core.containAt s.part.no).isSome then containCap else 0

/-- STRIP_COMMIT_OVERFLOW before any element is held (R282). -/
def State.checkHeld (s : State) (e : VEntry) (ps : List Probed) : Except VStop Unit :=
  if !s.holds e then .ok ()
  else
    let new := (ps.filterMap (fun p => match p.loc? with
      | some (.phys pa _) => some (pa / 64)
      | _ => none)).eraseDups.filter (fun g => !s.lc.contain.any (·.granule == g))
    if new.isEmpty then .ok ()
    else if s.cap < s.lc.contain.length + new.length then
      s.vraise e .stripCommitOverflow (BitVec.ofNat 64 s.lc.contain.length)
    else .ok ()

/-- The report of a probe group that faults (R277). -/
def State.groupFault (s : State) (e : VEntry) (twoD : Bool) (count : Nat) (g : List VItem) (bad : List (VItem × Cause)) :
    VStop :=
  let at_ := (g.head?.map (·.idx)).getD 0
  .fault ((s.setLanes count ((bad.map (·.1.idx)).eraseDups)).setRestart e twoD at_)
    (e.reportAt bad true false (decide (count ≤ 1024)))

/-- One probe group after another (R277): probed, then written in ascending element (R173). `val` gives an element's
bytes and whether its source is poisoned. -/
def State.storeGroups (s : State) (e : VEntry) (twoD : Bool) (w count : Nat) (val : VItem → Nat × Bool) :
    List (List VItem) → VRun
  | [] => .ok s.mdone
  | g :: rest =>
    let (s, ps) := s.probeItems e .store w g
    let bad := ps.filterMap (fun p => match p.res with
      | .error c => some (p.item, c)
      | .ok l => if s.linkBad l then some (p.item, .linkDataError) else none)
    match s.watchItems e true false w count g with
    | .error (.fault t r) => .error (.fault (t.setRestart e twoD ((g.head?.map (·.idx)).getD 0)) r)
    | .error x => .error x
    | .ok () =>
      if !bad.isEmpty then .error (s.groupFault e twoD count g bad)
      else if s.itemsWait e ps then .error (.block (s.setRestart e twoD ((g.head?.map (·.idx)).getD 0)))
      else
        let s := ps.foldl (fun a p => match p.loc? with
          | some l => let v := val p.item; a.putItem e l p.item w v.1 v.2
          | none => a) s
        let s := s.clearWhole e w (ps.filterMap (fun p => p.loc?.map (fun l => (l, (val p.item).2))))
        State.storeGroups s e twoD w count val rest

/-- Stores of an entry: the containment check, then its groups (R277, R281, R282). -/
def State.storeItems (s : State) (e : VEntry) (twoD : Bool) (w count : Nat) (l : List VItem)
    (val : VItem → Nat × Bool) : VRun := do
  let (s, ps) := if s.holds e then s.probeItems e .store w l else (s, [])
  s.checkHeld e ps
  s.storeGroups e twoD w count val (probeGroups l)

/-- VST to a base address (R423, R424). -/
def State.runStore (s : State) (e : VEntry) (d : VReg) (m : AMode) (t : Ty) (base : Dword) : VRun := do
  s.maskCleanOf e (s.governed e m)
  s.clean e (s.actives e) (indexSrc m t)
  let src := s
  s.storeItems e (m == .tile) t.bytes (e.count m) (s.items e m t base) (fun i =>
    let r := d + BitVec.ofNat 5 i.sub
    (src.velem e r t.bits i.idx, src.vbad e r t.bits i.idx))

/-! ### Atomic updates (R402, R403) -/

/-- The physical address of an update that a scatter-add unit performs, when the scalar unit runs ahead (R203): a placed
one in local HBM. Otherwise every update is performed where the element lies, with the same result (log 3). -/
def State.scattered (s : State) (e : VEntry) (l : Loc) : Option Nat :=
  match l with
  | .phys pa _ => if e.placed && s.runAhead && decide (pa < hbmSize) then some pa else none
  | .window _ => none

/-- The chain of one address: its value after the elements that name it, and what each received (R182, R403). -/
def amoChain (o : VamoOp) (t : Ty) (x : Nat → Nat) (old : Nat) (ids : List Nat) : Nat × List (Nat × Nat) :=
  ids.foldl (fun a i => (vamoOp o t a.1 (x i), a.2 ++ [(i, a.1)])) (old, [])

/-- Entries of a channel's combining store. -/
def combineCap : Nat := 128

/-- The channel, stack included, whose unit serves an address. -/
def unitChan (pa : Nat) : Nat × Nat := (homeStack pa, paChan pa)

/-- Entries in use at the unit of an address. -/
def Device.combining (d : Device) (pa : Nat) : List Combine :=
  d.combines.filter (fun c => unitChan (64 * c.granule) == unitChan pa)

/-- An entry whose chain has been applied, which may be written back. -/
def Combine.idle (c : Combine) : Bool := c.chain.isEmpty && c.value.isSome

/-- Whether the unit of an address can take an update of it now. -/
def Device.takes (d : Device) (pa : Nat) : Bool :=
  let l := d.combining pa
  l.any (fun c => c.granule == pa / 64) || decide (l.length < combineCap) || l.any Combine.idle

/-- An update joins the entry of its granule: applied at once when the old value is there. -/
def Combine.join (u : ScUpdate) (c : Combine) : Combine :=
  if c.granule != u.pa / 64 then c
  else match c.value with
  | some v => { c with value := some (BitVec.ofNat 512 (u.apply v.toNat)) }
  | none => { c with chain := c.chain ++ [u] }

/-- An update joins or opens an entry; a full store writes its oldest idle entry back (R203). -/
def Device.join (d : Device) (u : ScUpdate) : Device :=
  let l := d.combining u.pa
  if l.any (fun c => c.granule == u.pa / 64) then { d with combines := d.combines.map (Combine.join u) }
  else
    let d1 := if l.length < combineCap then d else match l.find? Combine.idle with
      | some c => d.giveBack c.granule
      | none => d
    { d1 with combines := d1.combines ++ [⟨u.pa / 64, [u], none⟩] }

/-- The old value of an entry arrives, and its chain is applied (R203). -/
def Device.scatterOld (d : Device) (granule : Nat) : Device :=
  { d with combines := d.combines.map (fun (c : Combine) =>
      if c.granule = granule && c.value.isNone then
        { c with value := some (BitVec.ofNat 512 (c.settled d)), chain := [] } else c) }

/-- The value of the update's bytes after every update that has arrived (R203). -/
def Device.arrived (d : Device) (pa n : Nat) : Nat := d.read pa n

/-- One probe group of updates (R403): for each address, in the order of the first element that names it, one update of
the merged chain at its home, performed now (log 92); what each element received, with its poison, and the elements whose old value was
uncorrectable. -/
def State.amoGroup (s : State) (e : VEntry) (o : VamoOp) (t : Ty) (ret ko : Bool) (x : Nat → Nat) (ps : List Probed) :
    State × List EltW × List (VItem × Cause) :=
  ((ps.map (·.item.va)).eraseDups).foldl (fun a va =>
    let mine := ps.filter (fun p => p.item.va == va)
    let ids := mine.map (·.item.idx)
    match mine.head?.bind Probed.loc? with
    | none => a
    | some l =>
      if a.1.badAt l then (a.1.markBad l, a.2.1, a.2.2 ++ mine.map (fun p => (p.item, Cause.uncorrectableLoad)))
      else
        let poison := a.1.poisonHome l
        match a.1.scattered e l with
        | some pa =>
          let u : ScUpdate := ⟨pa, o, t, ids.map (fun i => BitVec.ofNat 64 (x i)), ko || leafH (match l with
            | .phys _ f => f
            | .window _ => 0), s.lc.key, e.no⟩
          if ret then
            -- the elements receive their values, so the old value has arrived
            let r := amoChain o t x (a.1.dev.arrived pa t.bytes) ids
            ({ a.1 with dev := (a.1.dev.join u).scatterOld (pa / 64) }, a.2.1 ++ r.2.map (fun q => (q.1, q.2, poison)), a.2.2)
          else ({ a.1 with dev := { a.1.dev with scUpdates := a.1.dev.scUpdates ++ [u] } }, a.2)
        | none =>
          let r := amoChain o t x (a.1.readHome l t.bytes) ids
          (a.1.writeLoc l t.bytes r.1 poison, a.2.1 ++ r.2.map (fun q => (q.1, q.2, poison)), a.2.2)) (s, [], [])

/-- VAMO and VAMON, one probe group after another (R403). The requests that an update of host memory makes are answered
before its group (R308). -/
def State.amoGroups (s : State) (e : VEntry) (o : VamoOp) (d : VReg) (t : Ty) (ret ko : Bool) (x : Nat → Nat) :
    List (List VItem) → VRun
  | [] => .ok s.vdone
  | g :: rest =>
    let at_ := (g.head?.map (·.idx)).getD 0
    let (s, ps) := s.probeItems e .amo t.bytes g
    match s.watchItems e true true t.bytes e.vl g with
    | .error (.fault u r) => .error (.fault (u.setRestart e false at_) r)
    | .error y => .error y
    | .ok () =>
      -- an update that returns a value comes after those on their way to its unit, which must be able to take it
      let queued := ret && ps.any (fun p => match p.loc?.bind (s.scattered e) with
        | some pa => !s.dev.takes pa || s.dev.scUpdates.any (fun u => u.who == s.lc.key && unitChan pa == unitChan u.pa)
        | none => false)
      let (s, more) := s.hostAsk t.bytes ps
      let bad := ps.filterMap (fun p => match p.res with
        | .error c => some (p.item, c)
        | .ok l => if s.linkBad l then some (p.item, .linkDataError) else (s.hostBad p).map (fun c => (p.item, c)))
      if s.itemsWait e ps || queued || more then .error (.block (s.setRestart e false at_))
      else if !bad.isEmpty then .error ((s.hostUsed ps).groupFault e false e.vl g bad)
      else
        let (s, got, lost) := (s.hostUsed ps).amoGroup e o t ret ko x ps
        let s := if ret then s.writeElems e.placed d t.bits got else s
        if lost.isEmpty then State.amoGroups s e o d t ret ko x rest
        else .error (.fault (s.setLanes e.vl (lost.map (·.1.idx))) (e.reportAt lost false true true))

/-- VAMO and VAMON (R402, R403). -/
def State.runAtomic (s : State) (e : VEntry) (o : VamoOp) (d x : VReg) (ret ko : Bool) (t : Ty) : VRun := do
  s.maskClean e
  s.clean e (s.actives e) [(x, t.bits), (d, t.bits)]
  let src := s
  s.amoGroups e o d t ret ko (fun i => src.velem e d t.bits i) (probeGroups (s.items e (.indexed x) t e.x))

/-- Whether a memory instruction has nothing to execute: VSTART at or beyond VL for the modes it restarts (R86), no row
for am 4 (R156). -/
def State.memSkips (s : State) (e : VEntry) (m : AMode) : Bool :=
  match m with
  | .tile => e.vl == 0 || e.ctl.rowcnt == 0
  | _ => decide (e.vl ≤ s.start e)

end Sys2Proof.Machine
end

