-- ==== Sys2Proof/Machine/Bank.lean ====
section
/-! DEFINITION. Bank.lean: row lines, pins and their slots (R212 to R221), the operations of bank commands and waves
(R222 to R224, R226), and the bank sequencers (R61, R62, R227 to R233, R336, R339). -/

namespace Sys2Proof.Machine

/-! ### Lines and handles -/

/-- Handle bits of a row line's slot, with RO and GEN (R214). -/
def handleWord (l : Line) (ro : Bool) (gen : Nat) : BitVec 32 :=
  BitVec.ofNat 32 (l.stack * 2 ^ 28 + l.chan * 2 ^ 23 + l.bank * 2 ^ 17 + rowSlot l.row * 2 ^ 15
    + (if ro then 2 ^ 14 else 0) + gen % 256)

/-- Unit of a bank within its stack (R212). -/
def Line.unit (l : Line) : Nat := 32 * l.chan + l.bank / 2

/-- Whether two lines lie in one bank. -/
def Line.sameBank (a b : Line) : Bool := a.stack == b.stack && a.chan == b.chan && a.bank == b.bank

/-- Whether a slot is that of a line (R212, R213). -/
def Slot.isOf (x : Slot) (l : Line) : Bool :=
  x.stack == l.stack && x.chan == l.chan && x.bank == l.bank && x.slot == rowSlot l.row

/-- A pin slot of the device; one that was never used is Free (R215). -/
def Device.slotOf (d : Device) (l : Line) : Slot :=
  (d.slots.find? (·.isOf l)).getD ⟨l.stack, l.chan, l.bank, rowSlot l.row, .free, 0, 0, none⟩

/-- The device with a slot replaced. -/
def Device.setSlot (d : Device) (x : Slot) : Device :=
  { d with slots := x :: d.slots.filter (fun y =>
      !(y.stack == x.stack && y.chan == x.chan && y.bank == x.bank && y.slot == x.slot)) }

/-! ### Activation counters and closing events (R220, R233) -/

/-- The row that a slot pins. -/
def Slot.line (x : Slot) : Line := ⟨x.stack, x.chan, x.bank, x.row⟩

/-- What the controller finds at a precharge (R233): the next count, whether the neighbours are refreshed, and what is
logged. `corrupt` is a counter whose ECC check fails. -/
def actNext (actth count : Nat) (corrupt : Bool) : Nat × Bool × Option Cause :=
  if corrupt then (0, true, some .actCounterCorrupt)
  else if 0xFFFF ≤ count + 1 then (0, true, some .actCounterSaturated)
  else if actth != 0 && decide (actth ≤ count + 1) then (0, true, none)
  else (count + 1, false, none)

/-- The activation counter of a row after its precharge, and whether its neighbours are refreshed (R233). -/
def Device.countAct (d : Device) (l : Line) : Device × Bool :=
  let old := ((d.actcnt.find? (·.1 == l)).map (·.2)).getD 0
  let r := actNext d.mgmt.actth.toNat old (d.actError.contains l)
  let rest := d.actcnt.filter (fun x => x.1 != l)
  ({ d with
      actcnt := if r.1 = 0 then rest else (l, r.1) :: rest
      actError := d.actError.filter (· != l)
      mgmt := { d.mgmt with log := d.mgmt.log ++ r.2.2.toList } }, r.2.1)

/-- Precharges of rows one after another: each is counted, and a refresh of its neighbours closes the pins of its
subarray, whose rows are then precharged too (R220, R233). -/
def Device.precharges : Nat → List Line → Device → Device
  | 0, _, d => d
  | _, [], d => d
  | n + 1, l :: r, d =>
    let (d, refresh) := d.countAct l
    if !refresh then Device.precharges n r d
    else
      let hit (x : Slot) : Bool := x.st == .pinned && x.isOf l && x.row != l.row
      Device.precharges n (r ++ (d.slots.filter hit).map Slot.line)
        { d with slots := d.slots.map (fun x => if hit x then { x with st := .closed } else x) }

/-- The precharge of one row. -/
def Device.precharge (d : Device) (l : Line) : Device := Device.precharges (d.slots.length + 2) [l] d

/-- A closing event (R220): pinned rows that match are written back and precharged, and enter Closed. -/
def Device.closeSlots (d : Device) (which : Slot → Bool) : Device :=
  let hit (x : Slot) : Bool := x.st == .pinned && which x
  Device.precharges (2 * d.slots.length + 2) ((d.slots.filter hit).map Slot.line)
    { d with slots := d.slots.map (fun x => if hit x then { x with st := .closed } else x) }

/-- Whether a slot holds a row as a pin. -/
def Slot.pins (x : Slot) (l : Line) : Bool := x.isOf l && x.row == l.row && (x.st == .pinned || x.st == .closed)

/-- A row is used at its bank (R213, R220): a pin of another row of its subarray closes, and a closed pin of the row itself
is reopened. -/
def Device.openRow (d : Device) (l : Line) : Device :=
  let d := d.closeSlots (fun x => x.isOf l && x.row != l.row)
  { d with slots := d.slots.map (fun x => if x.pins l then { x with st := .pinned } else x) }

/-- The row closes after its use: a pinned one stays in its slot's buffer (R228). -/
def Device.closeRow (d : Device) (l : Line) : Device := if d.slots.any (·.pins l) then d else d.precharge l

/-- An ordinary access that reaches its bank (R213, R220, R233). -/
def Device.accessRow (d : Device) (l : Line) : Device := (d.openRow l).closeRow l

/-- The live entry that holds a register value (R217). -/
def Lc.handle (l : Lc) (v : Dword) : Option HEntry :=
  l.handles.find? (fun e => e.granted && !e.lost && e.handle.setWidth 64 == v)

/-- R217: the live entry of a handle operand, or its cause. -/
def State.useHandle (s : State) (v : Dword) : Except Halt HEntry :=
  match s.lc.handle v with
  | some e => .ok e
  | none =>
    if s.lc.handles.any (fun e => e.lost && e.handle.setWidth 64 == v) then
      .error (.trapIn { s with lc := { s.lc with
        handles := s.lc.handles.filter (fun e => !(e.lost && e.handle.setWidth 64 == v)) } } (s.report .rowLineLost v))
    else s.raise .rowLineStaleHandle v

/-! ### Line contents -/

/-- The granules of a row line, in order of its bytes (R212). -/
def lineGranules (l : Line) : List Nat := (List.range 16).map (fun g => lineAddr l (64 * g) / 64)

/-- The directory recalls the lines of a row that becomes bank-held, and the unit those its combining store holds
(R179, R204). -/
def Device.settleLine (d : Device) (l : Line) : Device :=
  (List.range 16).foldl (fun d g => d.settle (lineAddr l (64 * g)) 64) d

/-- The 1,024 bytes of a row line. -/
def Device.readLine (d : Device) (l : Line) : Nat :=
  (List.range 16).foldr (fun g a => Memory.read d.mem (lineAddr l (64 * g)) 64 + a * 2 ^ 512) 0

/-- Which granules of a line are in a list, granule 0 lowest. -/
def lineMask (l : Line) (gs : List Nat) : Nat :=
  (lineGranules l).zipIdx.foldl (fun m g => if gs.contains g.1 then m + 2 ^ g.2 else m) 0

/-- Granules `which` of a line written, each as one update (R181), with the poison of the results (R222, R283). -/
def Device.writeLine (d : Device) (l : Line) (which : List Nat) (x poison : Nat) : Device :=
  which.foldl (fun d g =>
    let pa := lineAddr l (64 * g)
    d.writeAt pa 64 (x >>> (512 * g)) (poison.testBit g)) d

/-- The uncorrectable granules of a line among those read are marked poisoned (R283). -/
def Device.markLine (d : Device) (l : Line) (reads : Nat) : Device :=
  let bad := ((lineGranules l).zipIdx.filter (fun g => reads.testBit g.2 && d.memError.contains g.1)).map (·.1)
  bad.foldl Device.poison { d with memError := d.memError.filter (fun g => !bad.contains g) }

/-! ### Operations (R222 to R224) -/

/-- Element format of a line: BF16 or FP32. -/
def lineFmt (w : Bool) : Fmt := if w then .bf16 else .f32

/-- One element: destination d, source s, scalar a (R223). `fold` is a wave with ACC = 1, whose scale is fused
(R226). -/
def bankElem (o : BkOp) (w fold : Bool) (a d s : Nat) : Nat :=
  let f := lineFmt w
  let scaled (x : Nat) : FVal := FVal.mul (Fmt.f32.val a) (f.val x)
  match o with
  | .zero => 0
  | .copy => s
  | .add => (f.add 0 d s).1
  | .scale => if fold then (f.roundVal 0 (FVal.add 0 (scaled s) (f.val d))).1 else (f.roundVal 0 (scaled d)).1
  | .axpy => (f.roundVal 0 (FVal.add 0 (scaled s) (f.val d))).1
  | .max => (f.minmax true d s).1
  | .lse | .fadd => d

/-- Exp2 of R224. -/
def bankExp2 (x y : Nat) : Nat :=
  let f := Fmt.f32
  (f.exp2 0 (if x == f.infBits && y == f.infBits then 0 else (f.sub 0 x y).1)).1

/-- One element folded into a lane pair (R224). -/
def lseStep (p : Nat × Nat) (x : Nat) : Nat × Nat :=
  let f := Fmt.f32
  if (f.val x).isNaN || x == 0xFF80_0000 then p
  else
    let mn := (f.minmax true p.1 x).1
    (mn, (f.add 0 (f.mul 0 p.2 (bankExp2 p.1 mn)).1 (bankExp2 x mn)).1)

/-- A line with a log-sum-exp partial folded over a source (R224). -/
def lseLine (d s : Nat) : Nat :=
  (List.range 16).foldl (fun x l =>
    let p := (List.range 16).foldl (fun p j => lseStep p (getE s 32 (16 * j + l))) (getE d 32 l, getE d 32 (16 + l))
    putE (putE x 32 l p.1) 32 (16 + l) p.2) d

/-- A whole line operation on values: result, and the poison of its granules from that of d and s (R222, R223). -/
def bankLine (o : BkOp) (w fold : Bool) (a d s pd ps : Nat) : Nat × Nat :=
  let wb := if w then 16 else 32
  match o with
  -- t depends on m (R224)
  | .lse => (lseLine d s, if ps != 0 then pd ||| 3 else if pd.testBit 0 then pd ||| 2 else pd)
  | .zero => (0, 0)
  | .copy => (s, ps)
  | .scale =>
    ((List.range (8192 / wb)).foldl (fun x e =>
      putE x wb e (bankElem o w fold a (getE d wb e) (getE s wb e))) 0, if fold then pd ||| ps else pd)
  | _ =>
    ((List.range (8192 / wb)).foldl (fun x e =>
      putE x wb e (bankElem o w fold a (getE d wb e) (getE s wb e))) 0, pd ||| ps)

/-- Granules an operation writes (R223). -/
def bankWrites (o : BkOp) : List Nat :=
  match o with
  | .lse => [0, 1]
  | _ => List.range 16

/-- Every granule of a line. -/
def wholeLine : Nat := 2 ^ 16 - 1

/-- The granules of its destination that an operation reads, and those of a source line (R223, R224). -/
def bankReads (o : BkOp) (fold : Bool) : Nat × Nat :=
  match o with
  | .zero => (0, 0)
  | .copy => (0, wholeLine)
  | .scale => (wholeLine, if fold then wholeLine else 0)
  | .fadd => (wholeLine, 0)
  | .lse => (3, wholeLine)
  | .add | .axpy | .max => (wholeLine, wholeLine)

/-- The poisoned granules of a line among those an operation reads, and whether one is uncorrectable. -/
def Device.lineBad (d : Device) (l : Line) (reads : Nat) : Nat × Bool :=
  let err := lineMask l d.memError &&& reads
  ((lineMask l d.memPoison &&& reads) ||| err, err != 0)

/-- A BKOP on its lines (R222, R223, R336): the device, and whether an input was uncorrectable. -/
def Device.runBkop (d : Device) (o : BkOp) (w : Bool) (dst : Line) (src : Option Line) (a : BitVec 32) (off : Nat) :
    Device × Bool :=
  let reads := bankReads o false
  let d := match src with
    | some l => (d.settleLine dst).settleLine l
    | none => d.settleLine dst
  match o with
  | .fadd =>
    let pa := lineAddr dst off
    let bad := d.memError.contains (pa / 64)
    let poison := bad || d.memPoison.contains (pa / 64)
    let d := if bad then d.markLine dst (2 ^ (off / 64)) else d
    (d.writeP pa 4 (Fmt.f32.add 0 (Memory.read d.mem pa 4) a.toNat).1 poison, bad)
  | _ =>
    let dl := d.readLine dst
    let sl := (src.map d.readLine).getD 0
    let (pd, bd) := d.lineBad dst reads.1
    let (ps, bs) := match src with
      | some l => d.lineBad l reads.2
      | none => (0, false)
    let r := bankLine o w false a.toNat dl sl pd ps
    let d := if bd then d.markLine dst reads.1 else d
    let d := match src with
      | some l => if bs then d.markLine l reads.2 else d
      | none => d
    (d.writeLine dst (bankWrites o) r.1 r.2, bd || bs)

/-! ### Waves: their layout (R225 to R227) -/

/-- Whether a wave's operation uses L (R226). -/
def WaveDesc.usesL (d : WaveDesc) : Bool :=
  !d.acc && (d.op == .copy || d.op == .add || d.op == .axpy || d.op == .max)

/-- Whether the combination of operation and ACC is in the table of R226. -/
def WaveDesc.listed (d : WaveDesc) : Bool :=
  match d.op with
  | .zero | .copy | .axpy => !d.acc
  | .add | .scale | .max => true
  | .lse => d.acc && !d.w
  | .fadd => false

/-- The operation of a descriptor's code (R225). -/
def bkOpOf (n : Nat) : BkOp :=
  match n with
  | 0 => .zero | 1 => .copy | 2 => .add | 3 => .scale | 4 => .axpy | 5 => .max | 6 => .lse | _ => .fadd

/-- The descriptor's 64 bytes read as fields (R225). -/
def waveOf (sa : Dword) (x : Nat) (bnkwin : BitVec 3) : WaveDesc :=
  let f (o n : Nat) : Nat := (x >>> (8 * o)) % 2 ^ (8 * n)
  let q (o : Nat) : Dword := BitVec.ofNat 64 (f o 8)
  let ctl := f 0x3C 4
  { at_ := sa, vbase := q 0, rstride := q 8, pstride := q 0x10, bankmask := q 0x18, scalars := q 0x20, loff := q 0x28,
    roff := q 0x30, scalar := BitVec.ofNat 32 (f 0x38 4), count := ctl >>> 17, npage := (ctl >>> 12) % 32,
    acc := ctl.testBit 4, w := ctl.testBit 3, op := bkOpOf (ctl % 8), bnkwin := bnkwin }

/-- Whether a descriptor fails a check of R226. `ctl` is its control word. -/
def WaveDesc.invalid (d : WaveDesc) (ctl : Nat) : Bool :=
  let odd (v : Dword) : Bool := v.toNat % 65536 != 0
  (ctl >>> 5) % 128 != 0 || odd d.vbase || odd d.rstride || odd d.pstride || d.scalars.toNat % 4 != 0
    || d.bankmask == 0 || !d.listed || (d.usesL && (d.loff == 0 || odd d.loff)) || (d.acc && (d.roff == 0 || odd d.roff))

/-- Virtual address of page p of row step k (R225). -/
def WaveDesc.pageVa (d : WaveDesc) (k p : Nat) : Dword :=
  d.vbase + BitVec.ofNat 64 k * d.rstride + BitVec.ofNat 64 p * d.pstride

/-- The pages a wave probes, in order, with the kind of access: rows, L pages, Y pages (R227). -/
def WaveDesc.probes (d : WaveDesc) : List (Dword × Acc) :=
  let ps := List.range (d.npage + 1)
  ((List.range (d.count + 1)).flatMap (fun k => ps.map (fun p => (d.pageVa k p, if d.acc then .load else .store))))
    ++ (if d.usesL then ps.map (fun p => (d.pageVa 0 p + d.loff, .load)) else [])
    ++ (if d.acc then ps.map (fun p => (d.pageVa 0 p + d.roff, .store)) else [])

/-- A row page reached by a probe: its frame if it is local HBM of this device in a stack that is not degraded. -/
def Device.rowFrame (d : Device) (x : Space) (k : Acc) (va : Dword) : Except XErr (Option (Nat × Dword)) :=
  if inWindow va || field va 57 7 != 0 then .error (.cause k.access)
  else match d.leafOf x k va.toNat with
  | .error c => .error (.cause c)
  | .ok l =>
    if !leafAllows x k l.entry then .error (.cause k.access)
    else if leafC l.entry then .error .expand
    else
      let pa := leafFrame l.entry * 65536 + (if l.block then va.toNat % 2 ^ 28 else va.toNat % 2 ^ 16)
      match paKind pa with
      | .hbm => .ok (if (d.stack (homeStack pa)).degraded then none else some (pa, l.entry))
      | .unassigned => .error (.cause k.access)
      | .peer _ _ | .host => .ok none

/-- One probe of a wave, with the expansion of a compressed page (R153): the device, and the frame or the cause. -/
def Device.rowProbe (d : Device) (x : Space) (k : Acc) (va : Dword) : Device × Except Cause (Option Nat) :=
  match d.rowFrame x k va with
  | .ok r => (d, .ok (r.map (·.1 / 65536)))
  | .error (.cause c) => (d, .error c)
  | .error (.recall _) => (d, .error k.access)
  | .error .expand => match d.expand x va with
    | (d1, some c) => (d1, .error c)
    | (d1, none) => match d1.rowFrame x k va with
      | .ok r => (d1, .ok (r.map (·.1 / 65536)))
      | .error (.cause c) => (d1, .error c)
      | .error _ => (d1, .error k.access)

/-- Probes in order until one faults. -/
def Device.rowProbes (d : Device) (x : Space) : List (Dword × Acc) → Device × Except (Cause × Dword) (List (Option Nat))
  | [] => (d, .ok [])
  | p :: r => match d.rowProbe x p.2 p.1 with
    | (d1, .error c) => (d1, .error (c, p.1))
    | (d1, .ok f) => match Device.rowProbes d1 x r with
      | (d2, .ok fs) => (d2, .ok (f :: fs))
      | (d2, .error e) => (d2, .error e)

/-- The stacks whose sequencers a wave runs in (R61, R227): those of the pages of its first row step, as far as they
translate. -/
def Device.waveStacks (d : Device) (w : WaveDesc) (env : AccEnv) (super : Bool) : List Nat :=
  ((List.range (w.npage + 1)).filterMap (fun p =>
    match d.walk (d.central env.ptbase env.asid super) .load (w.pageVa 0 p).toNat with
    | .ok l => if paKind (leafFrame l.entry * 65536) == .hbm then some (homeStack (leafFrame l.entry * 65536)) else none
    | .error _ => none)).eraseDups

/-- Where a frame's rows lie: stack, channel pair and pseudo-channel; every wave bank of a page shares them (R212). -/
def framePlace (f : Nat) : Nat × Nat × Nat :=
  let pa := f * 65536
  (homeStack pa, chanPair pa, (pa >>> 20) % 2)

/-- The first page that makes a wave invalid, after its probes passed (R227). -/
def WaveDesc.offends (d : WaveDesc) (fs : List (Option Nat)) : Option Dword :=
  let np := d.npage + 1
  let place (i : Nat) : Option (Nat × Nat × Nat) := (fs.getD i none).map framePlace
  let rows := np * (d.count + 1)
  let bad (i : Nat) : Bool :=
    match place i with
    | none => true
    | some c =>
      let p := if i < rows then i % np else (i - rows) % np
      -- a bank that changes between row steps, or differs from its wave bank's rows; two pages of one step on one bank
      (decide (np ≤ i) && place p != some c) || (decide (i < np) && (List.range i).any (fun j => place j == some c))
  (d.probes.zipIdx.find? (fun q => bad q.2)).map (·.1.1)

/-- The lines a wave bank works on: the row line of bit `b` in a frame (R212, R225). -/
def waveLine (frame b : Nat) : Line := paLine (frame * 65536 + 2048 * (b % 32) + 256 * (b / 32))

/-- The wave banks of a unit, lower bank first: page and mask bit (R225, R228). -/
def SeqCmd.unitBanks (c : SeqCmd) (d : WaveDesc) (stack unit : Nat) : List (Nat × Nat) :=
  let all := (List.range (d.npage + 1)).flatMap (fun p =>
    ((List.range 64).filter (fun b => d.bankmask.getLsbD b)).map (fun b => (p, b)))
  let on (half : Nat) : List (Nat × Nat) := all.filter (fun x =>
    let l := waveLine (c.frames.getD x.1 0) x.2
    l.stack == stack && l.unit == unit && l.bank % 2 == half)
  on 0 ++ on 1

/-- Every unit a wave runs on. -/
def SeqCmd.units (c : SeqCmd) (d : WaveDesc) : List (Nat × Nat) :=
  ((List.range (d.npage + 1)).flatMap (fun p =>
    ((List.range 64).filter (fun b => d.bankmask.getLsbD b)).map (fun b =>
      let l := waveLine (c.frames.getD p 0) b
      (l.stack, l.unit)))).eraseDups

/-! ### The sequencers (R61, R216, R218, R219) -/

/-- Whether a command of the sequencers, or of the B stream, names a handle. -/
def BKind.namesHandle (k : BKind) (h : BitVec 32) : Bool :=
  match k with
  | .op _ _ _ src _ _ d s => d == h || (src.isSome && s == h)
  | _ => false

/-- Whether a command names a bank, for the order of one LC's commands (R232). An unprobed wave may name every bank of
its mask's numbers. -/
def SeqCmd.namesBank (c : SeqCmd) (l : Line) : Bool :=
  match c.cmd.kind with
  | .op _ _ dst src _ _ _ _ => dst.sameBank l || src.any (·.sameBank l)
  | .wave d =>
    if !c.probed then d.names (l.chan % 2) l.bank
    else
      (c.todo.any (fun u => u == (l.stack, l.unit)) || c.runs.any (fun r => r.stack == l.stack && r.unit == l.unit))
        && (c.unitBanks d l.stack l.unit).any (fun x => (waveLine (c.frames.getD x.1 0) x.2).sameBank l)
  | _ => false

/-- Whether an earlier command of the same LC that names the bank has still to complete there (R232). -/
def blockedBank (before : List SeqCmd) (who : LcKey) (l : Line) : Bool :=
  before.any (fun c => c.who == who && c.namesBank l)

/-- The value of RLSTAT (R219). -/
def State.stat (s : State) (v : Dword) : Dword :=
  let stack := field v 28 4
  if field v 32 32 != 0 || field v 8 6 != 0 || 12 ≤ stack || (s.dev.stack stack).degraded then 0
  else
    let l : Line := ⟨stack, field v 23 5, field v 17 6, field v 15 2 * 8192⟩
    let x := s.dev.slotOf l
    let st := match x.st with
      | .free => 0 | .opening => 1 | .pinned => 2 | .closed => 3 | .released => 4
    bitAt (s.lc.handle v).isSome 31 ||| at_ (if x.st == .free then 0 else x.row) 16 ||| at_ x.gen.toNat 8 ||| at_ st 0

/-- A number no held command has. -/
def Device.freshNo (d : Device) : Nat := (d.seqs.map (·.no)).foldl max 0 + 1

/-- The waves that the sequencer of a stack holds (R61). -/
def Device.wavesAt (d : Device) (stack : Nat) : Nat :=
  (d.seqs.filter (fun c => match c.cmd.kind with
    | .wave w =>
      if c.probed then (c.frames.take (w.npage + 1)).any (fun f => homeStack (f * 65536) == stack)
      else (d.waveStacks w c.cmd.env c.cmd.super).contains stack
    | .open .. | .release .. | .stat .. | .op .. | .sbar _ => false)).length

/-- Every stack's sequencer has reached an admission point (R61). -/
def Device.admitAll (d : Device) : Device := { d with admits := List.range 12 }

/-- The head of the B stream of the LC in focus reaches its sequencer, or an RLSTAT executes (R61, R216, R219), which does
not wait for a wave whose fault is held (log 23). -/
def State.bankSend (s : State) : Option State :=
  let mine (c : SeqCmd) : Bool := c.who == s.lc.key
  let held (c : SeqCmd) : Bool := s.lc.breport.isSome && c.cmd.kind.isWave && !c.probed
  let opens (c : SeqCmd) : Bool := match c.cmd.kind with
    | .open .. => true
    | _ => false
  match s.lc.bqueue with
  | [] => none
  | c :: rest =>
    if s.dev.seqs.any (fun x => mine x && opens x) then none
    else
      let t := { s with lc := { s.lc with bqueue := rest } }
      -- the arrival of a command is an admission point (R61)
      let sent := { t with dev := { t.dev.admitAll with
        seqs := t.dev.seqs ++ [⟨s.dev.freshNo, s.lc.key, c, false, [], false, [], [], [], false⟩] } }
      match c.kind with
      | .sbar _ => none
      | .stat d v =>
        if s.dev.seqs.any (fun x => mine x && !held x) then none
        else some (t.deliverS d (t.stat v) false)
      | .open .. | .release .. => some sent
      | .op _ _ dst _ _ _ _ _ =>
        if 256 ≤ (s.dev.seqs.filter (fun x => match x.cmd.kind with
          | .op _ _ l _ _ _ _ _ => l.stack == dst.stack
          | _ => false)).length then none else some sent
      | .wave d =>
        if (s.dev.waveStacks d c.env c.super).any (fun k => decide (64 ≤ s.dev.wavesAt k)) then none else some sent

/-- ROW_PIN_GRANT (R216): the oldest waiting RLOPEN whose slot is Free takes it; the slot enters Opening, its lines are
recalled (R179), and sh receives the handle. -/
def State.pinGrant (s : State) : Option State :=
  let ready (c : SeqCmd) : Bool := match c.cmd.kind with
    | .open _ l _ => (s.dev.slotOf l).st == .free
    | _ => false
  match s.dev.seqs.find? ready with
  | none => none
  | some c => match c.cmd.kind with
    | .open h l ro =>
      let x := s.dev.slotOf l
      let v := handleWord l ro x.gen.toNat
      let d := (s.dev.settleLine l).closeSlots (fun y => y.isOf l)
      let t := { s with dev := { (d.setSlot { x with st := .opening, row := l.row, holder := some c.who }) with
        seqs := d.seqs.filter (·.no != c.no) } }
      some (t.updLc c.who (fun lc =>
        { lc.setS h (v.setWidth 64) false with
          pending := if h = 0 then lc.pending else lc.pending.erase h
          handles := lc.handles.map (fun e => if e.line == l && !e.granted then { e with handle := v, granted := true } else e) }))
    | _ => none

/-- PIN_OPENED (R215): after the recall and tRCD an Opening slot becomes Pinned; one that no LC holds any more enters
Released at once, and its generation rises. -/
def State.pinOpened (s : State) (x : Slot) : State :=
  if x.st == .opening then
    let y := if x.holder.isSome then { x with st := .pinned } else { x with st := .released, gen := x.gen + 1 }
    { s with dev := (s.dev.settleLine x.line).setSlot y }
  else s

/-- PIN_RELEASED (R218): a slot whose RLREL has reached the sequencer enters Released once every earlier command of the
LC that names the handle has completed, and its opening is over; its generation rises (R215). -/
def State.pinReleased (s : State) (which : Line → Bool) : Option State :=
  let rec go (before : List SeqCmd) : List SeqCmd → Option State
    | [] => none
    | c :: rest => match c.cmd.kind with
      | .release h l =>
        if which l && (s.dev.slotOf l).st != .opening && !before.any (fun b => b.who == c.who && b.cmd.kind.namesHandle h) then
          let x := s.dev.slotOf l
          some { s with dev := { (s.dev.setSlot { x with st := .released, gen := x.gen + 1, holder := none }) with
            seqs := s.dev.seqs.filter (·.no != c.no) } }
        else go (before ++ [c]) rest
      | _ => go (before ++ [c]) rest
  go [] s.dev.seqs

/-- SLOT_FREED (R215): after the precharge and tRP a Released slot becomes Free. -/
def State.slotFreed (s : State) (x : Slot) : State :=
  if x.st == .released then
    let d := s.dev.setSlot { x with st := .free, row := 0 }
    { s with dev := d.precharge ⟨x.stack, x.chan, x.bank, x.row⟩ }
  else s

/-! ### Probing a wave (R227) -/

/-- The scalars of a wave as read: their values, whether one was poisoned or uncorrectable, and the first address that
lies in a degraded stack. -/
structure Scalars where
  alphas : List (BitVec 32)
  poison : Bool
  degraded : Option Dword
  deriving DecidableEq, Repr

/-- Whether an address of the scalars lies in a degraded stack, which makes the wave invalid instead of faulting its
probe (R21, R227). -/
def Device.inDegraded (d : Device) (x : Space) (va : Dword) : Bool :=
  match d.rowFrame x .load va with
  | .ok none => match d.leafOf x .load va.toNat with
    | .ok l => paKind (leafFrame l.entry * 65536) == .hbm
    | .error _ => false
  | _ => false

/-- The scalars of a wave, read as loads in the base die (R227, R338). -/
def State.readScalars (s : State) (x : Space) (va : Dword) : Nat → State × Except (Cause × Dword) Scalars
  | 0 => (s, .ok ⟨[], false, none⟩)
  | n + 1 =>
    if s.dev.inDegraded x va then
      match State.readScalars s x (va + 4) n with
      | (u, .ok r) => (u, .ok ⟨0 :: r.alphas, r.poison, some va⟩)
      | (u, .error e) => (u, .error e)
    else match s.baseReach x .load va with
    | (t, .error c) => (t, .error (c, va))
    | (t, .ok l) =>
      let bad := t.badAt l || t.poisonHome l
      let v := BitVec.ofNat 32 (t.readHome l 4)
      let t := if t.badAt l then t.markBad l else t
      match State.readScalars t x (va + 4) n with
      | (u, .ok r) => (u, .ok ⟨v :: r.alphas, r.poison || bad, r.degraded⟩)
      | (u, .error e) => (u, .error e)

/-- The probe of a wave, in the space of its hand-off (R74): the command with its frames and scalars, or the cause to
hold. -/
def State.probeWave (s : State) (c : SeqCmd) (d : WaveDesc) : State × Except (Cause × Dword) SeqCmd :=
  let stack := ((s.dev.waveStacks d c.cmd.env c.cmd.super).head?).getD 0
  let x := s.dev.baseDie stack c.cmd.env.ptbase c.cmd.env.asid c.cmd.super
  match s.dev.rowProbes x d.probes with
  | (dev, .error e) => ({ s with dev := dev }, .error e)
  | (dev, .ok fs) =>
    let s := { s with dev := dev }
    let (s, r) := if d.scalars == 0 then (s, .ok ⟨List.replicate (d.count + 1) d.scalar, false, none⟩)
      else s.readScalars x d.scalars (d.count + 1)
    match r with
    | .error e => (s, .error e)
    | .ok as => match (d.offends fs).or as.degraded with
      | some va => (s, .error (.bankCommandInvalid, va))
      | none =>
        let c1 := { c with
          probed := true, alphas := as.alphas, alphaPoison := as.poison, frames := fs.map (fun f => Option.getD f 0) }
        (s, .ok { c1 with todo := c1.units d })

/-- WAVE_PROBE (R227): the oldest wave not yet probed, of an LC with no held fault, is probed whole. -/
def State.waveProbe (s : State) : Option State :=
  let ready (c : SeqCmd) : Bool :=
    c.cmd.kind.isWave && !c.probed && ((s.findLc c.who).map (fun l => l.breport.isNone)).getD false
  match s.dev.seqs.find? ready with
  | none => none
  | some c => match c.cmd.kind with
    | .wave d => match s.probeWave c d with
      | (t, .ok c1) => some { t with dev := { t.dev.admitAll with
          seqs := t.dev.seqs.map (fun x => if x.no = c.no then c1 else x) } }
      | (t, .error (k, va)) =>
        let r : TrapRec := { t.report k va with pc := c.cmd.pc, insn := c.cmd.word, bank := true }
        some (t.updLc c.who (fun l => { l with breport := some r, braised := false }))
    | .open .. | .release .. | .stat .. | .op .. | .sbar _ => none

/-! ### Admission (R61, R62) -/

/-- Units of a stack that run a command. -/
def Device.busyUnits (d : Device) (stack : Nat) : List Nat :=
  d.seqs.flatMap (fun c => (c.runs.filter (·.stack == stack)).map (·.unit))

/-- The limit of active units of a stack (R61, R325). -/
def Stack.unitLimit (x : Stack) : Nat := min x.limit x.thermal

/-- The pass of a unit at its beginning. -/
def UnitRun.start (stack sub unit : Nat) : UnitRun := ⟨stack, unit, 0, 0, 0, false, sub, 0, 0⟩

/-- A command at an admission point: with the units it is given, and the room left. -/
def SeqCmd.admitted (stack : Nat) (before : List SeqCmd) (busy : List Nat) (room : Nat) (c : SeqCmd) :
    SeqCmd × List Nat × Nat :=
  match c.cmd.kind with
  | .op _ _ dst src _ _ _ _ =>
    if dst.stack = stack && c.runs.isEmpty && room != 0 && !busy.contains dst.unit
        && !blockedBank before c.who dst && !src.any (blockedBank before c.who) then
      ({ c with runs := [UnitRun.start stack 0 dst.unit] }, dst.unit :: busy, room - 1)
    else (c, busy, room)
  | .wave d =>
    if !c.probed then (c, busy, room)
    else
      let free := (List.range 1024).filter (fun u => c.todo.contains (stack, u) && !busy.contains u
        && !(c.unitBanks d stack u).any (fun x => blockedBank before c.who (waveLine (c.frames.getD x.1 0) x.2)))
      let take := free.take room
      let sub := (c.runs.map (·.sub)).foldl max 0 + 1
      ({ c with
          todo := c.todo.filter (fun u => !(u.1 == stack && take.contains u.2))
          runs := c.runs ++ take.map (UnitRun.start stack sub) }, take ++ busy, room - take.length)
  | _ => (c, busy, room)

/-- BANK_ADMISSION (R61): at an admission point the sequencer of a stack goes through its commands, oldest first. -/
def State.bankAdmit (s : State) (stack : Nat) : State :=
  if !s.dev.admits.contains stack then s
  else
  let busy := s.dev.busyUnits stack
  let room := (s.dev.stack stack).unitLimit - busy.length
  let r := s.dev.seqs.foldl (fun (a : List SeqCmd × List Nat × Nat) c =>
    let x := c.admitted stack a.1 a.2.1 a.2.2
    (a.1 ++ [x.1], x.2.1, x.2.2)) ([], busy, room)
  { s with dev := { s.dev with seqs := r.1, admits := s.dev.admits.filter (· != stack) } }

/-! ### A unit's pass (R228) -/

/-- The run of a unit of a stack, with its command. -/
def Device.runOn (d : Device) (stack unit : Nat) : Option (SeqCmd × UnitRun) :=
  d.seqs.findSome? (fun c => (c.runs.find? (fun r => r.stack == stack && r.unit == unit)).map (fun r => (c, r)))

/-- The device with a unit's run, and whether its command met an uncorrectable input, replaced. -/
def Device.setRun (d : Device) (c : SeqCmd) (r r1 : UnitRun) (bad : Bool) : Device :=
  { d with seqs := d.seqs.map (fun x =>
      if x.no = c.no then { x with runs := x.runs.map (fun y => if y == r then r1 else y), bad := x.bad || bad } else x) }

/-- The frame of the L or Y page of page p (R227: they follow the rows in the probe order). -/
def SeqCmd.operandFrame (c : SeqCmd) (d : WaveDesc) (p : Nat) : Nat := c.frames.getD ((d.npage + 1) * (d.count + 1) + p) 0

/-- Rows a unit runs between yields: BNKWIN, 0 counting as 1 (R79). -/
def WaveDesc.window (d : WaveDesc) : Nat := max 1 d.bnkwin.toNat

/-- The unit after row k: the next row, or the next bank (R228). -/
def UnitRun.next (r : UnitRun) (d : WaveDesc) : UnitRun :=
  let since := r.sinceYield + 1
  let r := if r.k < d.count then { r with k := r.k + 1 } else { r with k := 0, bank := r.bank + 1 }
  if d.window ≤ since then { r with sinceYield := 0, yielded := true } else { r with sinceYield := since }

/-- One row of a wave at a unit (R226, R228): the device, the unit's run, and whether an input was uncorrectable. -/
def Device.waveRow (dev : Device) (c : SeqCmd) (d : WaveDesc) (r : UnitRun) (pb : Nat × Nat) :
    Device × UnitRun × Bool :=
  let x := waveLine (c.frames.getD ((d.npage + 1) * r.k + pb.1) 0) pb.2
  let other := waveLine (c.operandFrame d pb.1) pb.2
  let a := ((c.alphas[r.k]?).getD d.scalar).toNat
  let spoil (p : Nat) : Nat := if c.alphaPoison && (d.op == .scale || d.op == .axpy) then 2 ^ 16 - 1 else p
  let reads := bankReads d.op d.acc
  if d.acc then
    -- Y is opened before row 0 and written back after the last
    let dev := if r.k = 0 then (dev.openRow other).settleLine other else dev
    let (py, by_) := if r.k = 0 then dev.lineBad other reads.1 else (r.ypoison.toNat, false)
    let y := if r.k = 0 then dev.readLine other else r.ybuf.toNat
    let dev := if by_ then dev.markLine other reads.1 else dev
    let dev := (dev.openRow x).settleLine x
    let (px, bx) := dev.lineBad x wholeLine
    let res := bankLine d.op d.w true a y (dev.readLine x) py px
    let dev := (if bx then dev.markLine x wholeLine else dev).closeRow x
    let p := spoil res.2
    let dev := if r.k = d.count then (dev.writeLine other (bankWrites d.op) res.1 p).closeRow other else dev
    (dev, { r with ybuf := BitVec.ofNat 8192 res.1, ypoison := BitVec.ofNat 16 p }, by_ || bx)
  else
    let dev := (dev.openRow x).settleLine x
    let dev := if d.usesL then dev.settleLine other else dev
    let (px, bx) := dev.lineBad x reads.1
    let (pl, bl) := if d.usesL then dev.lineBad other reads.2 else (0, false)
    let res := bankLine d.op d.w false a (dev.readLine x) (if d.usesL then dev.readLine other else 0) px pl
    let dev := if bx then dev.markLine x reads.1 else dev
    let dev := if bl then dev.markLine other reads.2 else dev
    ((dev.writeLine x (bankWrites d.op) res.1 (spoil res.2)).closeRow x, r, bx || bl
      || (c.alphaPoison && (d.op == .scale || d.op == .axpy)))

/-- BNKLIM reaches a stack's sequencer (R231), which is an admission point (R61). -/
def Device.takeLimit (d : Device) (stack : Nat) : Device :=
  let x := d.stack stack
  if x.limit = d.mgmt.bnklim then d
  else { (d.setStack { x with limit := d.mgmt.bnklim }) with admits := addOnce d.admits stack }

/-- WAVE_ROW_STEP (R228): the unit finishes the row operation it is at, and a written BNKLIM arrives (R231). -/
def State.waveRowStep (s : State) (stack unit : Nat) : State :=
  match s.dev.runOn stack unit with
  | some (c, r) => match c.cmd.kind with
    | .wave d => match (c.unitBanks d stack unit)[r.bank]? with
      | some pb =>
        if r.yielded then s
        else
          let (dev, r1, bad) := s.dev.waveRow c d r pb
          { s with dev := (dev.setRun c r (r1.next d) bad).takeLimit stack }
      | none => s
    | _ => s
  | none => s

/-- WAVE_RESUME (R228): after its yield the unit goes on at the next row. -/
def State.waveResume (s : State) (stack unit : Nat) : State :=
  match s.dev.runOn stack unit with
  | some (c, r) => { s with dev := s.dev.setRun c r { r with yielded := false } false }
  | none => s

/-- A command leaves the sequencers; an uncorrectable input is raised later at its LC (R227, R336). -/
def State.bankDone (s : State) (c : SeqCmd) (tval : Dword) : State :=
  let t := { s with dev := { s.dev with seqs := s.dev.seqs.filter (·.no != c.no) } }
  if c.bad then t.updLc c.who (fun l => { l with bankErr := l.bankErr ++ [tval] }) else t

/-- Whether a unit has run all its banks. -/
def SeqCmd.ranAll (c : SeqCmd) (d : WaveDesc) (r : UnitRun) : Bool :=
  decide ((c.unitBanks d r.stack r.unit).length ≤ r.bank)

/-- SUBWAVE_COMPLETE (R61): once every unit of a sub-wave has run all its banks, its units are free, which is an admission
point; the wave completes with its last sub-wave. -/
def State.subwaveComplete (s : State) (stack unit : Nat) : State :=
  match s.dev.runOn stack unit with
  | some (c, r) => match c.cmd.kind with
    | .wave d =>
      let mine (x : UnitRun) : Bool := x.stack == stack && x.sub == r.sub
      if c.runs.any (fun x => mine x && !c.ranAll d x) then s
      else
        let c1 := { c with runs := c.runs.filter (fun x => !mine x) }
        let t := { s with dev := { s.dev with
          seqs := s.dev.seqs.map (fun x => if x.no = c.no then c1 else x), admits := addOnce s.dev.admits stack } }
        if c1.todo.isEmpty && c1.runs.isEmpty then t.bankDone c1 d.at_ else t
    | _ => s
  | none => s

/-- BKOP_COMPLETE (R336): the BKOP of a unit executes whole and completes, which is an admission point (R61); it waits
while a slot it names is Opening. -/
def State.bkopComplete (s : State) (stack unit : Nat) : State :=
  match s.dev.runOn stack unit with
  | some (c, _) => match c.cmd.kind with
    | .op o w dst src a off dh _ =>
      if (dst :: src.toList).any (fun l => (s.dev.slotOf l).st == .opening) then s
      else
        -- a Closed line is reopened before the command (R220)
        let dev := (dst :: src.toList).foldl Device.openRow s.dev
        let (dev, bad) := dev.runBkop o w dst src a off
        let c1 := { c with bad := bad }
        let t := { s with dev := { dev with
          seqs := dev.seqs.map (fun (x : SeqCmd) => if x.no = c.no then c1 else x), admits := addOnce dev.admits stack } }
        t.bankDone c1 (dh.setWidth 64)
    | _ => s
  | none => s

/-! ### The sequencers in order (log 3) -/

/-- Rows a unit still has to run, as a bound. -/
def Device.rowsLeft (d : Device) : Nat :=
  (d.seqs.map (fun c => match c.cmd.kind with
    | .wave w => c.runs.length * 2 * (w.count + 1) + 1
    | _ => 1)).sum

/-- Runs a unit to the end of its command. -/
def State.runUnit (stack unit : Nat) : Nat → State → State
  | 0, s => s
  | n + 1, s => match s.dev.runOn stack unit with
    | none => s
    | some (c, r) => match c.cmd.kind with
      | .op .. => s.bkopComplete stack unit
      | .wave d =>
        if r.bank < (c.unitBanks d stack unit).length then
          State.runUnit stack unit n ((s.waveRowStep stack unit).waveResume stack unit)
        else s.subwaveComplete stack unit
      | _ => s

/-- Runs every unit that has been admitted. -/
def State.runUnits (s : State) : State :=
  (s.dev.seqs.flatMap (fun c => c.runs.map (fun r => (r.stack, r.unit)))).foldl
    (fun s u => State.runUnit u.1 u.2 (s.dev.rowsLeft + 2) s) s

/-- Lets every released slot become Free and every Opening slot Pinned. -/
def State.settleSlots (s : State) : State :=
  s.dev.slots.foldl (fun s x => (s.pinOpened (s.dev.slotOf ⟨x.stack, x.chan, x.bank, x.slot * 8192⟩)).slotFreed
    ((s.pinOpened (s.dev.slotOf ⟨x.stack, x.chan, x.bank, x.slot * 8192⟩)).dev.slotOf
      ⟨x.stack, x.chan, x.bank, x.slot * 8192⟩)) s

/-- Sends, grants, releases, probes, admissions and passes, in this order, at most `n` times. -/
def State.drainBank : Nat → State → State
  | 0, s => s
  | n + 1, s =>
    let s := (s.bankSend).getD s
    let s := ((s.pinReleased (fun _ => true)).getD s).settleSlots
    let s := ((s.pinGrant).getD s).settleSlots
    let s := (s.waveProbe).getD s
    let s := ((List.range 12).foldl State.bankAdmit s).runUnits
    State.drainBank n s

/-- Runs the B stream of the LC in focus as far as it goes, when the model follows the streams in order. -/
def State.drainB (s : State) : State :=
  if s.lc.bqueue.isEmpty && s.dev.seqs.isEmpty && s.dev.slots.all (fun x => x.st != .opening && x.st != .released) then s
  else State.drainBank (s.lc.bqueue.length + 13 * s.dev.seqs.length + 2) s

end Sys2Proof.Machine
end

