-- ==== Sys2Proof/Machine/Copy.lean ====
section
/-! DEFINITION. Copy.lean: how a copy channel moves its transfers: XCPY, XDEIL and XRED (R157, R160 to R165, R184, R427,
R428, R430), in units of a destination line (R147), and the staging of deterministic contributions (R162). -/

namespace Sys2Proof

/-- The element type of a reduction (R100). -/
def RedTy.ty : RedTy → Ty
  | .f64 => .f64 | .f32 => .f32 | .f16 => .f16 | .bf16 => .bf16
  | .i64 => .i64 | .n64 => .n64 | .i32 => .i32 | .n32 => .n32

end Sys2Proof

namespace Sys2Proof.Machine

/-- Why a transfer does not move on: it waits, or it stops on a fault (R164). -/
inductive XStop where
  | wait (s : State)
  | fault (s : State) (c : Cause) (va : Dword)
  deriving DecidableEq, Repr

/-- What one access of a transfer leaves. -/
abbrev XRun (α : Type) := Except XStop α

/-! ### Accesses of the X stream -/

/-- Where an address of a copy command lies (R160), under the address space of its hand-off (R74). -/
def State.xreach (s : State) (c : XCmd) (k : Acc) (va : Dword) : XRun (State × Loc) :=
  match s.reachIn (s.spaceOf c.env c.super) k va with
  | (t, .ok l) => .ok (t, l)
  | (t, .error e) => .error (.fault t e va)

/-- The granule of an address, under which a transfer's host requests are kept. -/
def granuleVa (va : Dword) : Dword := va &&& ~~~63#64

/-- A host request of a transfer's reads (R308). -/
def State.xAsked (s : State) (va : Dword) (r : HostReq) : Bool :=
  r.who == s.lc.key && !r.store && r.bytes == 64 && r.va == granuleVa va

/-- A location read by a transfer: host memory answers, and the answer stays until the unit has been written, since the
unit begins anew while it waits (R308); an uncorrectable error stops the transfer (R283). -/
def State.xgate (s : State) (l : Loc) (va : Dword) : XRun State :=
  let bad (s : State) : XRun State := if s.badAt l then .error (.fault (s.markBad l) (s.badCause l) va) else .ok s
  match l with
  | .window _ => bad s
  | .phys pa _ =>
    if !s.runAhead || !l.isHost then bad s
    else match s.dev.hostReqs.find? (s.xAsked va) with
    | none => .error (.wait { s with dev := { s.dev with
        hostReqs := s.dev.hostReqs ++ [⟨s.lc.key, granuleVa va, false, pa / 64 * 64, 64, none, none⟩] } })
    | some r => match r.answer with
      | none => .error (.wait s)
      | some a => match hostCause a with
        | none => bad s
        | some k =>
          .error (.fault { s with dev := { s.dev with hostReqs := s.dev.hostReqs.filter (fun r => !s.xAsked va r) } } k va)

/-- The host requests of a unit that has been written are used up. -/
def State.xUsed (s : State) (vas : List Dword) : State :=
  let gs := (vas.map granuleVa).eraseDups
  { s with dev := { s.dev with hostReqs := s.dev.hostReqs.filter (fun r => !gs.any (fun g => s.xAsked g r)) } }

/-- One byte read by a transfer, with its poison; `gated` when the transfer has just read another byte of the
granule. -/
def State.xbyte (s : State) (c : XCmd) (gated : Bool) (va : Dword) : XRun (State × Byte × Bool) := do
  let (s, l) ← s.xreach c .load va
  let s ← if gated then .ok s else s.xgate l va
  .ok (s, BitVec.ofNat 8 (s.readHome l 1), s.poisonHome l)

/-- Bytes read in order until one fails: the bytes with the poison of any of them, and what stopped the reading.
`prev` is the address read before. -/
def State.xbytes (s : State) (c : XCmd) (prev : Option Dword) : List Dword → State × List Byte × Bool × Option XStop
  | [] => (s, [], false, none)
  | va :: r => match s.xbyte c (prev.any (fun p => p.toNat / 64 == va.toNat / 64)) va with
    | .error (.wait t) => (t, [], false, some (.wait t))
    | .error (.fault t k a) => (t, [], false, some (.fault t k a))
    | .ok (t, b, p) =>
      let (u, bs, q, e) := State.xbytes t c (some va) r
      (u, b :: bs, p || q, e)

/-- A write of a transfer at its destination's home; one to a peer may fail on its link (R319). -/
def State.xwrite (s : State) (l : Loc) (va : Dword) (n x : Nat) (poison : Bool) : XRun State :=
  if s.linkBad l then .error (.fault (s.markBad l) .linkDataError va) else .ok (s.storeAt l va n x poison)

/-! ### Channels -/

/-- The state with a channel of the LC in focus changed. -/
def State.updChan (s : State) (h : BitVec 2) (f : Chan → Chan) : State :=
  { s with lc := { s.lc with chans := s.lc.chans.set h.toNat (f s.lc.chans[h.toNat]) } }

/-- Bytes a transfer writes, as XWP counts them; an XDEIL has none. -/
def XCmd.total (c : XCmd) : Nat :=
  match c.kind with
  | .cpy _ => c.len * c.rows
  | .deil _ _ | .sbar _ => 0
  | .red t _ _ => c.len * c.rows * t.ty.bytes

/-- Whether an XCPY runs descending (R160). -/
def XCmd.descends (c : XCmd) : Bool :=
  match c.kind with
  | .cpy false => decide (c.src.toNat < c.dst.toNat) && decide (c.dst.toNat < c.src.toNat + c.len * c.rows)
  | _ => false

/-- The source address of byte `i` of a copy (R158, R160). -/
def XCmd.srcAt (c : XCmd) (i : Nat) : Dword :=
  match c.kind with
  | .cpy true => c.src + BitVec.ofNat 64 (i / c.len) * c.pitch + BitVec.ofNat 64 (i % c.len)
  | _ => c.src + BitVec.ofNat 64 i

/-- One unit of an XCPY after `wp` bytes: the bytes of one destination line, in transfer order; a line is written whole
when nothing faults, so that no other party sees a part of it, and up to the fault when one does (R160, R184). The
answer holds the state, the bytes written, and what stopped the unit. -/
def State.copyUnit (s : State) (c : XCmd) (wp : Nat) : State × Nat × Option XStop :=
  let left := c.total - wp
  let first := if c.descends then c.total - 1 - wp else wp
  let d := c.dst + BitVec.ofNat 64 first
  let n := min left (if c.descends then d.toNat % 64 + 1 else 64 - d.toNat % 64)
  match s.xreach c .store d with
  | .error e => (s, 0, some e)
  | .ok (s, _) =>
    let idx := (List.range n).map (fun j => if c.descends then first - j else first + j)
    let (s, bs, poison, e) := s.xbytes c none (idx.map c.srcAt)
    let m := bs.length
    match e, m with
    | some (.wait t), _ => (t, 0, some (.wait t))
    | e, 0 => (s, 0, e)
    | e, _ =>
      let low := if c.descends then first + 1 - m else first
      let va := c.dst + BitVec.ofNat 64 low
      match s.xreach c .store va with
      | .error e => (s, 0, some e)
      | .ok (s, l) => match s.xwrite l va m (ofBytes (if c.descends then bs.reverse else bs)) poison with
        | .error x => (s, 0, some x)
        | .ok s => (s.xUsed (idx.map c.srcAt), m, e)

/-! ### XRED (R162, R430) -/

/-- Add of R430: to nearest-even, no flag; integers wrap. -/
def redElem (t : Ty) (old c : Nat) : Nat :=
  if t.cls == .F then ((Ty.fmt t).add 0 old c).1 else (old + c) % 2 ^ t.bits

/-- Elements of `b` bytes each added: the covered elements of `x` into `old`, both 64-byte values. -/
def redGranule (t : Ty) (old cover x : Nat) : Nat :=
  (List.range (64 / t.bytes)).foldl (fun v i =>
    if cover.testBit (i * t.bytes) then putE v t.bits i (redElem t (getE old t.bits i) (getE x t.bits i)) else v) old

/-- A contribution offered to its home slice (R162): refused, or staged; the last rank makes the slice sum in rank order
and write the granule. -/
def State.offer (s : State) (k : Stage) (p : StagePart) : Option State :=
  let same (g : Stage) : Bool := g.fn == k.fn && g.taskid == k.taskid && g.gid == k.gid && g.granule == k.granule
  let g := (s.dev.stages.find? same).getD { k with parts := [] }
  if g.count != k.count || g.t != k.t || g.parts.any (·.rank == p.rank) then none
  else
    let g := { g with parts := g.parts ++ [p] }
    let rest := s.dev.stages.filter (fun g => !same g)
    if g.parts.length < g.count then some { s with dev := { s.dev with stages := rest ++ [g] } }
    else
      let s := { s with dev := { s.dev with stages := rest } }
      let pa := 64 * g.granule
      let s := { s with dev := s.dev.giveBack g.granule }
      let old := Memory.read s.dev.mem pa 64
      let bad := s.dev.memPoison.contains g.granule || s.dev.memError.contains g.granule
        || s.dev.l2Error.contains g.granule || g.parts.any (·.poison)
      let v := (List.range g.count).foldl (fun v r =>
        match g.parts.find? (·.rank == r) with
        | some q => redGranule g.t.ty v q.cover.toNat q.data.toNat
        | none => v) old
      some { s with dev := s.dev.writeP pa 64 v bad }

/-- The contributions of a deterministic transfer of a channel that are offered and not yet summed. -/
def Device.detOpen (d : Device) (k : LcKey) (h : Nat) : List StagePart :=
  (d.stages.flatMap (·.parts) ++ d.contributions.map (·.part)).filter (fun p => p.who == k && p.ch.toNat == h)

/-- XWP of a deterministic transfer: the bytes from its start whose granules have all been written (R163). -/
def Chan.detWp (c : Chan) (opened : List StagePart) : BitVec 32 :=
  match (opened.map (·.off)).min? with
  | some o => BitVec.ofNat 32 o
  | none => c.pos

/-- The oldest command of a channel, when it is a deterministic XRED. -/
def Chan.isDet (c : Chan) : Bool :=
  match c.cmds.head? with
  | some x => (match x.kind with
    | .red _ d _ => d
    | .cpy _ | .deil _ _ | .sbar _ => false)
  | none => false

/-- XWP of the deterministic transfers of an LC, as their slices have written (R83, R163). -/
def Lc.detSync (d : Device) (l : Lc) : Lc :=
  let chans := l.chans.mapIdx (fun i c => if c.isDet then { c with wp := c.detWp (d.detOpen l.key i) } else c)
  let bytes := ((chans.zip l.chans).map (fun c => c.1.wp.toNat - c.2.wp.toNat)).toList.sum
  ({ l with chans := chans }).count 9 bytes

/-- One unit of an XRED after `wp` bytes: the elements that fall in one destination granule (R430). -/
def State.redUnit (s : State) (h : BitVec 2) (c : XCmd) (t : Ty) (rt : RedTy) (det : Bool) (redgrp : Dword) (wp : Nat) :
    State × Nat × Option XStop :=
  let d := c.dst + BitVec.ofNat 64 wp
  let o := d.toNat % 64
  let n := min (c.total - wp) (64 - o)
  let src := (List.range n).map (fun j => c.src + BitVec.ofNat 64 (wp + j))
  let (s, bs, poison, e) := s.xbytes c none src
  match e with
  | some x => (s, 0, some x)
  | none => match s.xreach c .store d with
    | .error x => (s, 0, some x)
    | .ok (s, l) => match s.xgate l d with
      | .error x => (s, 0, some x)
      | .ok s =>
        let s := s.xUsed (d :: src)
        let cover := (2 ^ n - 1) <<< o
        let data := ofBytes bs <<< (8 * o)
        if !det then
          let v := redGranule t (s.readHome l n <<< (8 * o)) cover data >>> (8 * o)
          (s.writeLoc l n v (poison || s.poisonHome l), n, none)
        else match l with
          | .window _ => (s, 0, some (.fault s .copyChannelInvalid 0))
          | .phys pa _ =>
            let k : Stage := ⟨(s.task.map (·.fn)).getD 0, s.lc.taskid, redgrp.extractLsb' 16 16, pa / 64,
              field redgrp 8 6, rt, []⟩
            let p : StagePart :=
              ⟨field redgrp 0 4, wp, BitVec.ofNat 64 cover, BitVec.ofNat 512 data, poison, s.lc.key, h⟩
            if s.runAhead then
              ({ s with dev := { s.dev with contributions := s.dev.contributions ++ [⟨k, p⟩] } }, n, none)
            else match s.offer k p with
              | some u => (u, n, none)
              | none => (s, 0, some (.fault s .reductionGroupInvalid 0))

/-! ### XDEIL (R161, R428) -/

/-- The 32-bit fields of the records, read once in ascending address, with their poison. -/
def State.deilFields (s : State) (c : XCmd) (n : Nat) : XRun (State × List (Nat × Bool)) :=
  (List.range n).foldlM (fun (a : State × List (Nat × Bool)) i => do
    let va := c.src + BitVec.ofNat 64 (4 * i)
    let (s, l) ← a.1.xreach c .load va
    let s ← s.xgate l va
    .ok (s, a.2 ++ [(s.readHome l 4, s.poisonHome l)])) (s, [])

/-- XDEIL: nothing is written unless the whole transfer completes. -/
def State.deilUnit (s : State) (c : XCmd) (v : VReg) (f : Nat) : XRun State := do
  let x := v + BitVec.ofNat 5 f
  let idx (i : Nat) : Nat := getE (s.vreg false x) 32 i
  if (List.range c.len).any (fun i => (s.vpoison false x).testBit (granuleOf 32 i)) then
    .error (.fault s .poisonVector (x.setWidth 64))
  else
    let (s, fs) ← s.deilFields c (c.len * f)
    .ok ((List.range f).foldl (fun st m =>
      st.writeElems false (v + BitVec.ofNat 5 m) 32 ((List.range c.len).map (fun i =>
        let r := if idx i < c.len then fs.getD (idx i * f + m) (0, false) else (0, false)
        (i, r.1, r.2)))) (s.xUsed ((List.range (c.len * f)).map (fun i => c.src + BitVec.ofNat 64 (4 * i)))))

/-! ### The channel's turn (R157, R164, R165) -/

/-- The oldest transfer of a channel completes: XDONE rises, XWP starts over (R157). -/
def State.xcomplete (s : State) (h : BitVec 2) : State :=
  s.updChan h (fun c => { c with cmds := c.cmds.tail, done := c.done + 1, wp := 0, pos := 0 })

/-- The channel's transfer stops on a fault, or waits. -/
def State.xstop (h : BitVec 2) (x : XStop) : State × Bool :=
  match x with
  | .wait s => (s, false)
  | .fault s c va => (s.updChan h (fun x => { x with err := some (c, va), raised := false }), true)

/-- XWP moves over bytes written, which a counter counts (R83). -/
def State.advanceWp (s : State) (h : BitVec 2) (n : Nat) : State :=
  (s.updChan h (fun x => { x with wp := x.wp + BitVec.ofNat 32 n })).count 9 n

/-- A unit of an XCPY or XRED: XWP counts its bytes, and the transfer completes with its last one. -/
def State.xadvance (h : BitVec 2) (c : XCmd) (r : State × Nat × Option XStop) : State × Bool :=
  match r.2.2 with
  | some (.fault t k va) =>
    let t := if r.2.1 = 0 then t else r.1
    State.xstop h (.fault (t.advanceWp h r.2.1) k va)
  | some (.wait t) =>
    if r.2.1 = 0 then (t, false) else (r.1.advanceWp h r.2.1, true)
  | none =>
    let u := r.1.advanceWp h r.2.1
    if (u.lc.chans[h.toNat]).wp.toNat = c.total then (u.xcomplete h, true) else (u, r.2.1 != 0)

/-- Every LC's deterministic transfers count what has been written (R163). -/
def State.detSync (s : State) : State := s.mapLcs (Lc.detSync s.dev)

/-- A unit of a deterministic XRED: its bytes are offered, and the transfer completes when every granule has been
written (R162, R430). -/
def State.detStep (s : State) (h : BitVec 2) (c : XCmd) (t : RedTy) (g : Dword) : State × Bool :=
  let ch := s.lc.chans[h.toNat]
  if ch.pos.toNat = c.total then
    let u := s.detSync
    if (u.lc.chans[h.toNat]).wp.toNat = c.total then (u.xcomplete h, true) else (u, false)
  else
    let r := s.redUnit h c t.ty t true g ch.pos.toNat
    match r.2.2 with
    | some x => State.xstop h x
    | none => ((r.1.updChan h (fun x => { x with pos := x.pos + BitVec.ofNat 32 r.2.1 })).detSync, true)

/-- The state with another partition in focus, the LC as it is. -/
def State.withPart (s : State) (core no : Nat) : State :=
  if s.part.core = core && s.part.no = no then s
  else { s with
    part := s.findPart core no
    parts := s.part :: s.parts.filter (fun p => !(p.core == core && p.no == no)) }

/-- XDEIL writes the registers of the LC, in the partition that holds its vector state (R161, R287). -/
def State.deilHome (s : State) (c : XCmd) (v : VReg) (f : Nat) : XRun State :=
  match s.vectorHome with
  | none => .error (.wait s)
  | some p =>
    let back (t : State) : State := t.withPart s.part.core s.part.no
    match (s.withPart p.core p.no).deilUnit c v f with
    | .ok t => .ok (back t)
    | .error (.wait t) => .error (.wait (back t))
    | .error (.fault t k va) => .error (.fault (back t) k va)

/-- COPY_TRANSFER_STEP: the channel moves one unit of its oldest transfer; whether it moved. -/
def State.copyStep (s : State) (h : BitVec 2) : State × Bool :=
  let ch := s.lc.chans[h.toNat]
  match ch.cmds with
  | [] => (s, false)
  | c :: _ =>
    if ch.err.isSome then (s, false)
    else match c.kind with
    | .sbar _ => (s, false)
    | k => if c.len = 0 then (s.xcomplete h, true) else match k with
    | .sbar _ => (s, false)
    | .deil v f => match s.deilHome c v f with
      | .ok t => (t.xcomplete h, true)
      | .error x => State.xstop h x
    | .cpy _ => State.xadvance h c (s.copyUnit c ch.wp.toNat)
    | .red t true g => s.detStep h c t g
    | .red t false g => State.xadvance h c (s.redUnit h c t.ty t false g ch.wp.toNat)

/-- At most `n` units of a channel, until it stops. -/
def State.copySteps (h : BitVec 2) : Nat → State → State
  | 0, s => s
  | n + 1, s =>
    let r := s.copyStep h
    if r.2 then State.copySteps h n r.1 else r.1

/-- Runs every channel of the LC as far as it goes, when the model follows the streams in order (log 3). -/
def State.drainX (s : State) : State :=
  [0, 1, 2, 3].foldl (fun s h =>
    let n := ((s.lc.chans[(h : BitVec 2).toNat]).cmds.map (fun c => c.total + 2)).sum
    State.copySteps h n s) s

/-- A deterministic contribution reaches its slice (XRED_CONTRIBUTION_ARRIVAL); one that is refused stops its channel
and is offered again once the channel resumes (R162, R164). -/
def State.contribute (s : State) : State :=
  let open_ (c : Contribution) : Bool :=
    match s.findLc c.part.who with
    | some l => (l.chans[c.part.ch.toNat]).err.isNone
    | none => false
  match s.dev.contributions.find? open_ with
  | none => s
  | some c =>
    match ({ s with dev := { s.dev with contributions := s.dev.contributions.erase c } }).offer c.key c.part with
    | some t => t.detSync
    | none => s.updLc c.part.who (fun l =>
        let h := { l.chans[c.part.ch.toNat] with err := some (.reductionGroupInvalid, 0), raised := false }
        { l with chans := l.chans.set c.part.ch.toNat h })

end Sys2Proof.Machine
end

