-- ==== Sys2Proof/Machine/Gen.lean ====
section
/-! DEFINITION. Gen.lean: the generation and journal instructions as they run in the V stream (R249 to R266, R352,
R353, R382, R383, R394 to R397, R400, R410, R415). -/

namespace Sys2Proof.Machine

/-! ### Memory accesses (R249, R257) -/

/-- An access at an address. -/
def genItem (va : Dword) : VItem := ⟨0, va, 0⟩

/-- The pages of faulting accesses in ascending address, with the lowest faulting address of each (R249). -/
def genPages (bad : List (Dword × Cause)) : List (Dword × Cause) :=
  let rec insert (p : Dword × Cause) : List (Dword × Cause) → List (Dword × Cause)
    | [] => [p]
    | q :: r =>
      if p.1.toNat / 65536 == q.1.toNat / 65536 then (if p.1.toNat < q.1.toNat then p :: r else q :: r)
      else if p.1.toNat < q.1.toNat then p :: q :: r
      else q :: insert p r
  bad.foldl (fun l p => insert p l) []

/-- The report of R249: TVAL the lowest faulting address, FIRST 0, FLAGS bit 0, k7 unchanged. -/
def VEntry.genFault (e : VEntry) (s : State) (bad : List (Dword × Cause)) : VStop :=
  match genPages bad with
  | [] => .fault s (e.report .loadAccess 0)
  | (va, c) :: r => .fault s { e.report c va with faddr := va, pages := (va, c) :: r, storeGroup := true }

/-- The host requests of the LC's reads in a range of addresses are used up. -/
def State.hostUsedIn (s : State) (lo hi : Nat) : State :=
  { s with dev := { s.dev with
      hostReqs := s.dev.hostReqs.filter (fun r =>
        !(r.who == s.lc.key && !r.store && decide (lo ≤ r.va.toNat) && decide (r.va.toNat < hi))) } }

/-- Probes accesses of `w` bytes and their granules: the state and the located accesses, or the stop. Stores of a page
read first (`reads`) meet the granule's errors too. The answers of the host stay until the instruction has ended, since
it begins anew while it waits for one. -/
def State.genReach (s : State) (e : VEntry) (k : Acc) (w : Nat) (reads : Bool) (por : Bool) (vas : List Dword) :
    Except VStop (State × List Probed) :=
  let (s, ps) := vas.foldl (fun (a : State × List Probed) va =>
    let r := a.1.vreach e k va
    (r.1, a.2 ++ [⟨genItem va, r.2⟩])) (s, [])
  let bad := ps.filterMap (fun p => match p.res with
    | .error c => some (p.item.va, c)
    | .ok _ => none)
  if !bad.isEmpty then .error (e.genFault s bad)
  else if vas.any (fun va => e.env.watches e.super (k != .load) (reads || k == .load) va w) then
    .error (.fault s (e.report .debugWatch ((vas.find? (fun va =>
      e.env.watches e.super (k != .load) (reads || k == .load) va w)).getD 0)))
  else if s.itemsWait e ps then .error (.block s)
  else
    let (s, more) := if reads || k == .load then s.hostAsk w ps else (s, false)
    if more then .error (.block s)
    else
      let cause (p : Probed) : Option Cause :=
        match p.loc? with
          | none => none
          | some l =>
            if !(reads || k == .load) then (if s.linkBad l then some .linkDataError else none)
            else match s.hostBad p with
              | some c => some c
              | none => if s.badAt l then some (s.badCause l)
                else if por && s.poisonAt l && l.por then some .poisonVector else none
      let lost := ps.filterMap (fun p => (cause p).map (fun c => (p.item.va, c)))
      if lost.isEmpty then .ok (s, ps)
      else
        let s := ps.foldl (fun a p => match p.loc? with
          | some l => if a.badAt l then a.markBad l else a
          | none => a) s
        .error (e.genFault (s.hostUsed ps) lost)

/-- The bytes read at a location, with POISONLOG set when they are poisoned (R285). -/
def State.genRead (s : State) (p : Probed) (n : Nat) : State × Nat :=
  match p.loc? with
  | none => (s, 0)
  | some l =>
    (if s.poisonAt l then { s with lc := s.lc.logPoison p.item.va } else s, s.readLoc l n)

/-- A write that containment does not hold (R281, R395), performed at its home, on its way to the host from there
(R308). -/
def State.genWrite (s : State) (p : Probed) (n x : Nat) : State :=
  match p.loc? with
  | none => s
  | some l => s.storeAt l p.item.va n x false

/-- A single-copy-atomic read and write of a map word at its home slice (R264, R265): no part of it is seen through what
containment holds. -/
def State.mapWord (s : State) (p : Probed) (f : Nat → Nat) : State :=
  match p.loc? with
  | none => s
  | some l => s.writeLoc l 8 (f (s.readHome l 8)) (s.poisonHome l)

/-! ### Draws (R250 to R253) -/

/-- The counter of a draw (R250, R142). -/
def drawCounter (base : Dword) (a d cls o : Nat) : Dword :=
  at_ ((field base 44 20 + a) % 2 ^ 20) 44 ||| at_ ((field base 20 24 + d) % 2 ^ 24) 20 ||| at_ (cls % 16) 16
    ||| at_ ((field base 0 16 + o) % 2 ^ 16) 0

/-- VGUMBEL and VDRAW (R251). -/
def State.runDraw (s : State) (e : VEntry) (d : VReg) (g : Bool) : VRun :=
  s.elementwise e d 32 [] (fun i =>
    let u := uniform e.gen.rngkey (drawCounter e.x 0 0 (field e.x 16 4) i)
    (if g then gumbel u else u, 0))

/-- Positions of the draft view (R86). -/
def VEntry.draft (e : VEntry) : Nat := e.ctl.seqn.toNat * e.ctl.draftn.toNat

/-- A poisoned k register read over its first `n` bits: TVAL 0x100 + register, k7 unchanged (R356). -/
def State.kcleanTo (s : State) (e : VEntry) (k n : Nat) : Except VStop Unit :=
  if (List.range 2).any (fun g => (s.kpois k).getLsbD g && decide (512 * g < n)) then
    s.vraise e .poisonVector (BitVec.ofNat 64 (0x100 + k))
  else .ok ()

/-- VACCEPT (R252, R400). -/
def State.runVaccept (s : State) (e : VEntry) (k a : VReg) : VRun := do
  let sel := e.ctl.vmsel.toNat
  if e.ctl.vmsel != 8 then s.kcleanTo e sel e.draft
  let pos := (List.range e.draft).filter (fun i => e.ctl.vmsel == 8 || (s.kreg sel).getLsbD i)
  s.clean e pos [(a, 32), (a + 1, 64)]
  let tok (i : Nat) : Nat := s.velem e (a + 1) 64 i / 2 ^ 32
  let out (i : Nat) : Bool := decide (e.gen.vocabn.toNat ≤ tok i)
  let takes (i : Nat) : Bool :=
    let p := if out i then 0 else s.velem e a 32 i
    let q := s.velem e (a + 1) 64 i % 2 ^ 32
    let u := uniform e.gen.rngkey (drawCounter e.x (i / e.ctl.draftn.toNat) (i % e.ctl.draftn.toNat) 0 0)
    (Fmt.f32.pred .le (Fmt.f32.mul 0 u q).1 p).1
  let s := if pos.any out then { s with lc := { s.lc with fflags := s.lc.fflags ||| flDOR } } else s
  .ok (s.setK k.toNat (laneMask (pos.filter takes)) 0).vdone

/-- VPAND (R253, R415). -/
def State.runVpand (s : State) (e : VEntry) (k a : VReg) : VRun := do
  s.kcleanTo e a.toNat e.draft
  let ka := s.kreg a.toNat
  let w := e.ctl.draftn.toNat
  let kept := (List.range e.draft).filter (fun i =>
    (List.range (i % w + 1)).all (fun j => ka.getLsbD (i - j)))
  .ok (s.setK k.toNat (laneMask kept) 0).vdone

/-! ### The streaming sampler (R258 to R260, R382, R383) -/

/-- The sampler's state. -/
structure Sampler where
  m : Nat
  t : Nat
  best : Nat
  base : Nat
  cand : Nat
  deriving DecidableEq, Repr

/-- FP32 −∞. -/
def negInf : Nat := 0xFF80_0000

/-- The lowest offending register of an invalid state, relative to the first (R259). -/
def Sampler.invalid (x : Sampler) : Option Nat :=
  let none32 := 0xFFFF_FFFF
  let f := Fmt.f32
  let tBad := (f.val x.t).isNaN || x.t == f.infBits || decide (2 ^ 31 ≤ x.t)
    || (x.m == negInf && x.t != 0)
    || (x.m != negInf && !(f.val x.m).isNaN && (f.pred .lt x.t 0x3F80_0000).1)
  if (f.val x.m).isNaN then some 0
  else if tBad then some 1
  else if (f.val x.best).isNaN then some 2
  else if (x.m == negInf && x.cand != none32) || (x.cand != none32 && decide (x.base ≤ x.cand)) then some 3
  else none

/-- E(a, b) of R259. -/
def expDiff (a b : Nat) : Nat :=
  let f := Fmt.f32
  let d := if a == f.infBits && b == f.infBits then 0 else if a == negInf then negInf else (f.sub 0 a b).1
  (f.exp2 0 (f.mul 0 d 0x3FB8_AA3B).1).1

/-- One element folded (R259). -/
def Sampler.fold (x : Sampler) (tok logit key : Nat) : Sampler :=
  let f := Fmt.f32
  if (f.val logit).isNaN || logit == negInf then x
  else
    let mn := (f.minmax true x.m logit).1
    let t := (f.add 0 (f.mul 0 x.t (expDiff x.m mn)).1 (expDiff logit mn)).1
    let k := (f.add 0 logit key).1
    let wins := !(f.val k).isNaN && (x.cand == 0xFFFF_FFFF || (f.pred .gt k x.best).1)
    { x with m := mn, t := t, best := if wins then k else x.best, cand := if wins then tok else x.cand }

/-- The four state registers. -/
def samplerRegs (b : SReg) : List SReg := [b, b + 1, b + 2, b + 3]

/-- SMPSTEP (R259, R383). -/
def State.runSmpstep (s : State) (e : VEntry) (d a : VReg) (b : SReg) : VRun := do
  match (samplerRegs b).find? s.poisonedS with
  | some r => s.vraise e .poisonScalar (r.setWidth 64)
  | none =>
    let w (r : SReg) : Nat := (s.getS r).toNat % 2 ^ 32
    let x : Sampler := ⟨w b, w (b + 1), w (b + 2), (s.getS (b + 3)).toNat / 2 ^ 32, w (b + 3)⟩
    match x.invalid with
    | some i => s.vraise e .samplerStateInvalid (BitVec.ofNat 64 (b.toNat + i))
    | none =>
      s.maskClean e
      let act := (s.actives e).filter (fun i => decide (x.base + i < e.gen.vocabn.toNat))
      s.clean e (s.actives e) [(a, 32), (d, 32)]
      let y := act.foldl (fun y i => y.fold (x.base + i) (s.velem e a 32 i) (s.velem e d 32 i)) x
      let n := min (x.base + e.vl) 0xFFFF_FFFF
      let put (s : State) (r : SReg) (v : Nat) : State := s.deliverS r (BitVec.ofNat 64 v) false
      .ok (put (put (put (put s b y.m) (b + 1) y.t) (b + 2) y.best) (b + 3) (n * 2 ^ 32 + y.cand)).vdone

/-! ### The unmasking engine (R261 to R265, R394 to R397) -/

/-- URANK (R263, R397). -/
def State.runUrank (s : State) (e : VEntry) (k a : VReg) : VRun := do
  s.maskClean e
  let cands := s.actives e
  s.clean e cands [(a, 32)]
  let c := cands.length
  let share := e.gen.umcfg.toNat % 2 ^ 16
  let n := if c = 0 then 0 else min c (max 1 ((share * c + 65535) / 65536))
  let v (i : Nat) : Nat := s.velem e a 32 i
  let before (j i : Nat) : Bool :=
    ranksOver true .f32 (v j) (v i) || (!ranksOver true .f32 (v i) (v j) && decide (j < i))
  .ok (s.setK k.toNat (laneMask (cands.filter (fun i =>
    decide ((cands.filter (fun j => before j i)).length < n)))) 0).vdone

/-- The unmasking header (R261). -/
structure UmHeader where
  tokens : Dword
  posn : Nat
  seqs : Nat
  deriving DecidableEq, Repr

/-- The header loaded and checked (R261, R262). -/
def State.umHeader (s : State) (e : VEntry) : Except VStop (State × UmHeader) := do
  let va : Dword := e.gen.umdirty.setWidth 64
  let (s, ps) ← s.genReach e .load 64 true true [va]
  let (s, x) := match ps with
    | p :: _ => s.genRead p 64
    | [] => (s, 0)
  let tokens := x % 2 ^ 64
  let posn := (x >>> 64) % 2 ^ 32
  let seqs := (x >>> 96) % 2 ^ 32
  if tokens % 4 != 0 || posn % 512 != 0 || posn < 512 || 16777216 < posn || seqs < 1 || 1048576 < seqs
      || x >>> 128 != 0 then s.vraise e .unmaskConfigInvalid va
  else .ok (s, ⟨BitVec.ofNat 64 tokens, posn, seqs⟩)

/-- SEQ, POS and BLK of a position operand (R261). -/
def posSeq (x : Dword) : Nat := field x 44 20
def posPos (x : Dword) : Nat := field x 20 24
def posBlk (x : Dword) : Nat := field x 16 4

/-- The header and the range of SEQ and POS (R264, R265). -/
def State.umRange (s : State) (e : VEntry) : Except VStop (State × UmHeader) := do
  let (s, h) ← s.umHeader e
  if h.seqs ≤ posSeq e.x || h.posn < posPos e.x + e.vl then s.vraise e .unmaskConfigInvalid e.x
  else .ok (s, h)

/-- Address of the aligned 8-byte map word that holds dirty bit j (R261). -/
def dirtyWord (base : BitVec 57) (j : Nat) : Dword := base.setWidth 64 + 64 + BitVec.ofNat 64 (j / 64 * 8)

/-- The dirty bit of (sequence, block, position) (R261). -/
def dirtyBit (h : UmHeader) (sq blk x : Nat) : Nat := (16 * sq + blk) * h.posn + x

/-- The map words of a list of bits, each once, in order of first use, with the bits it covers. -/
def dirtyWords (bits : List Nat) : List (Nat × Nat) :=
  ((bits.map (· / 64)).eraseDups).map (fun w =>
    (w, (bits.filter (· / 64 == w)).foldl (fun m j => m ||| 2 ^ (j % 64)) 0))

/-- UCFG's second step: the header is checked (R262, R394). -/
def State.runUcfg (s : State) (e : VEntry) : VRun := do
  let (s, _) ← s.umHeader e
  .ok (s.hostUsedIn e.gen.umdirty.toNat (e.gen.umdirty.toNat + 64))

/-- The host requests of the header and of map words are used up. -/
def State.umUsed (s : State) (e : VEntry) (map : List Dword) : State :=
  map.foldl (fun st va => st.hostUsedIn va.toNat (va.toNat + 8))
    (s.hostUsedIn e.gen.umdirty.toNat (e.gen.umdirty.toNat + 64))

/-- UCOMMIT (R264, R395). -/
def State.runUcommit (s : State) (e : VEntry) (k a : VReg) : VRun := do
  let (s, h) ← s.umRange e
  s.kcleanTo e k.toNat e.vl
  let sq := posSeq e.x
  let pos := posPos e.x
  let idx := (List.range e.vl).filter (fun i => (s.kreg k.toNat).getLsbD i)
  let w := (e.gen.umcfg.toNat >>> 16) % 2 ^ 8
  let l0 := (e.gen.umcfg.toNat >>> 24) % 2 ^ 4
  let token (i : Nat) : Dword := h.tokens + BitVec.ofNat 64 (4 * (sq * h.posn + pos + i))
  let bits := idx.flatMap (fun i =>
    let x := pos + i
    let lo := x - w
    let hi := min (h.posn - 1) (x + w)
    (List.range (16 - l0)).flatMap (fun b => (List.range (hi + 1 - lo)).map (fun y => dirtyBit h sq (l0 + b) (lo + y))))
  let words := dirtyWords bits
  let map := words.map (fun x => dirtyWord e.gen.umdirty (64 * x.1))
  -- every page is probed before any byte is written; the map words are also read
  let (s, ts) ← s.genReach e .store 4 false false (idx.map token ++ map)
  let (s, ws) ← s.genReach e .store 8 true false map
  let bad := idx.filter (fun i => s.vbad e a 32 i)
  if !bad.isEmpty then s.vraiseLanes e .poisonVector (a.setWidth 64) bad
  else
    let src := s
    let s := (ts.zip idx).foldl (fun st p => st.genWrite p.1 4 (src.velem e a 32 p.2)) s
    let s := (ws.zip words).foldl (fun st p =>
      st.mapWord p.1 (fun old => old ||| p.2.2)) s
    let s := s.umUsed e map
    let sel := e.ctl.vmsel.toNat
    let s := if e.ctl.vmsel == 8 then s else s.setK sel (s.kreg sel &&& ~~~ laneMask idx) (s.kpois sel)
    .ok s.vdone

/-- UDIRTY (R265, R396). -/
def State.runUdirty (s : State) (e : VEntry) (k : VReg) : VRun := do
  let (s, h) ← s.umRange e
  let j0 := dirtyBit h (posSeq e.x) (posBlk e.x) (posPos e.x)
  let words := dirtyWords ((List.range e.vl).map (j0 + ·))
  let map := words.map (fun x => dirtyWord e.gen.umdirty (64 * x.1))
  let (s, ws) ← s.genReach e .store 8 true false map
  let (s, kd, p) := (ws.zip words).foldl (fun (a : State × Nat × Nat) x =>
    match x.1.loc? with
    | none => a
    | some l =>
      let old := a.1.readHome l 8
      let got := (List.range 64).filter (fun b => x.2.2.testBit b)
      let lanes := got.map (fun b => 64 * x.2.1 + b - j0)
      let poisoned := a.1.poisonHome l
      let st := if poisoned then { a.1 with lc := a.1.lc.logPoison x.1.item.va } else a.1
      (st.mapWord x.1 (fun old => old ^^^ (old &&& x.2.2)),
        a.2.1 ||| (got.filter (fun b => old.testBit b)).foldl (fun m b => m ||| 2 ^ (64 * x.2.1 + b - j0)) 0,
        if poisoned then lanes.foldl (fun m i => m ||| 2 ^ (i / 512)) a.2.2 else a.2.2)) (s, 0, 0)
  .ok ((s.umUsed e map).setK k.toNat (BitVec.ofNat 1024 kd) (BitVec.ofNat 2 p)).vdone

/-! ### The count journal (R255 to R257, R352, R353) -/

/-- A journal entry as read. -/
structure JEntry where
  va : Dword
  node : Nat
  token : Nat
  inc : Nat
  state : Nat
  deriving DecidableEq, Repr

/-- The 16 bytes JADD stores (R255, R256). -/
def journalWord (node token inc : Dword) : Nat :=
  field node 0 6 + field token 0 32 * 2 ^ 32 + field inc 0 32 * 2 ^ 64 + 1 * 2 ^ 96

/-- JADD's store, at the captured JBASE (R256, R353). -/
def State.runJadd (s : State) (e : VEntry) : VRun := do
  let (s, ps) ← s.genReach e .store 16 false false [e.gen.jbase.setWidth 64]
  .ok (ps.foldl (fun st p => st.genWrite p 16 (journalWord e.x e.y e.z)) s)

/-- The scan: entries read downward from an address until the boundary, at most `n` (R257). The list comes out in
ascending address. -/
def State.scanJournal (s : State) (e : VEntry) : Nat → Dword → List JEntry → Except VStop (State × List JEntry)
  | 0, _, _ => s.vraise e .journalOverflow (e.gen.jbase.setWidth 64)
  | n + 1, va, l => match s.genReach e .load 16 true true [va] with
    | .error x => .error x
    | .ok (s, ps) =>
      let (s, x) := match ps with
        | p :: _ => s.genRead p 16
        | [] => (s, 0)
      let st := x >>> 96
      if 4 ≤ st then s.vraise e .journalOverflow (e.gen.jbase.setWidth 64)
      else if st = 0 then .ok (s, l)
      else State.scanJournal s e n (va - 16) (⟨va, x % 64, (x >>> 32) % 2 ^ 32, (x >>> 64) % 2 ^ 32, st⟩ :: l)

/-- The host requests of count-table words are used up. -/
def State.tableUsed (s : State) (vas : List Dword) : State :=
  vas.foldl (fun st va => st.hostUsedIn va.toNat (va.toNat + 1)) s

/-- JCOMMIT and JDROP (R257). -/
def State.runJournal (s : State) (e : VEntry) (commit : Bool) : VRun := do
  if commit && !aligned e.y 4 then s.vraise e .misalignedStore e.y
  else
    let (s, l) ← s.scanJournal e 4097 (e.gen.jbase.setWidth 64 - 16) []
    let pend := l.filter (fun j => j.state == 1 && e.x.getLsbD j.node)
    let table (j : JEntry) : Dword := e.y + BitVec.ofNat 64 (4 * j.token)
    -- every page is probed before any byte is written
    let (s, ps) ← s.genReach e .store 4 false false (pend.map (fun j => j.va + 12)
      ++ (if commit then pend.map table else []))
    let (s, _) ← s.genReach e .store 4 true true (if commit then pend.map table else [])
    let marks := ps.take pend.length
    let counts := ps.drop pend.length
    let s := if commit then (counts.zip pend).foldl (fun st p =>
      match p.1.loc? with
      | some c => st.genWrite p.1 4 ((st.readLoc c 4 + p.2.inc) % 2 ^ 32)
      | none => st) s else s
    let s := marks.foldl (fun st p => st.genWrite p 4 (if commit then 2 else 3)) s
    .ok ((s.hostUsedIn (e.gen.jbase.toNat - 16 * 4097) e.gen.jbase.toNat).tableUsed (if commit then pend.map table else []))

/-! ### MAJ 3B and 3C as an entry runs -/

/-- The generation and journal entries; a SMPSTEP with no element only releases its registers (R383). -/
def State.runGen (s : State) (e : VEntry) : Option VRun :=
  let skip (r : VRun) : Option VRun := some (if e.vl ≤ s.start e then .ok s.vdone else r)
  match e.op with
  | .urank k a => skip (s.runUrank e k a)
  | .ucommit k a => skip (s.runUcommit e k a)
  | .udirty k => skip (s.runUdirty e k)
  | .ucfg => some (s.runUcfg e)
  | .smpstep d a b =>
    some (if e.vl ≤ s.start e then
      .ok { s.vdone with lc := { s.vdone.lc with pending := (samplerRegs b).foldl List.erase s.lc.pending } }
    else s.runSmpstep e d a b)
  | .vaccept k a => skip (s.runVaccept e k a)
  | .vpand k a => skip (s.runVpand e k a)
  | .draw d g => skip (s.runDraw e d g)
  | .jadd => some (s.runJadd e)
  | .jcommit => some (s.runJournal e true)
  | .jdrop => some (s.runJournal e false)
  | _ => none

end Sys2Proof.Machine
end

