-- ==== Sys2Proof/Machine/Matrix.lean ====
section
/-! DEFINITION. Matrix.lean: tiles, accumulators and the matrix unit as V-stream instructions run (R137, R138, R234 to
R247, R327, R361 to R363, R389 to R393). -/

namespace Sys2Proof.Machine

/-! ### Tile space: the segments a partition holds (R234, R237) -/

/-- Bytes of a tile row of `c` elements: a multiple of 64 (R236). -/
def pitchOf (c : Nat) (t : Ty) : Nat := 64 * ((c * t.bits + 511) / 512)

/-- The element type of a tile configuration. -/
def TCfg.type (c : TCfg) : Ty :=
  match c.ty.toNat with
  | 0 => .f64 | 1 => .f32 | 2 => .f16 | 3 => .bf16 | 4 => .e4m3 | 5 => .e5m2 | 6 => .i64 | 7 => .n64
  | 8 => .i32 | 9 => .n32 | 10 => .i8 | 11 => .n8 | 12 => .mx8 | 13 => .mx6 | 14 => .mx6b | _ => .mx4

/-- Bytes of a tile of a configuration. -/
def TCfg.size (c : TCfg) : Nat := c.rows.toNat * pitchOf c.cols.toNat c.type

/-- The first byte of tile t's region in the held segments, the regions lying in ascending tile number (R237; their
places are not observable, R150). -/
def Grant.base (g : Grant) (t : Nat) : Nat := ((g.cfg.toList.take t).map TCfg.size).sum

/-- The granted pitch of a tile (R237). -/
def Grant.pitch (g : Grant) (t : Nat) : Nat := match g.cfg[t]? with
  | some c => pitchOf c.cols.toNat c.type
  | none => 0

/-- A segment's contents. -/
def Core.seg (c : Core) (n : Nat) : ABits := ((c.segs.find? (·.1 == n)).map (·.2)).getD 0

/-- A core with a segment's contents replaced; a zero segment is unlisted. -/
def Core.setSeg (c : Core) (n : Nat) (x : ABits) : Core :=
  let rest := c.segs.filter (·.1 != n)
  { c with segs := if x = 0 then rest else (rest.takeWhile (·.1 < n)) ++ (n, x) :: rest.dropWhile (·.1 < n) }

/-- The partition's tile bytes as one value, byte 0 lowest. -/
def State.tiles (s : State) : Nat :=
  s.part.grant.segs.foldr (fun n a => (s.core.seg n).toNat + a * 2 ^ 524288) 0

/-- The state with the tile bytes replaced. -/
def State.setTiles (s : State) (x : Nat) : State :=
  let core := s.part.grant.segs.zipIdx.foldl
    (fun c g => c.setSeg g.1 (BitVec.ofNat 524288 (x >>> (524288 * g.2)))) s.core
  { s with core := core }

/-- Poison of the tile granules, granule 0 lowest (R285). -/
def State.tilePoison (s : State) : Nat := s.part.segPoison.toList.foldr (fun k a => k.toNat + a * 2 ^ 1024) 0

/-- The state with that poison replaced. -/
def State.setTilePoison (s : State) (p : Nat) : State :=
  { s with part := { s.part with segPoison := #v[BitVec.ofNat 1024 p, BitVec.ofNat 1024 (p >>> 1024)] } }

/-- The segment granules with an uncorrectable error, as granules of tile space. -/
def State.tileErrors (s : State) : List Nat :=
  s.part.grant.segs.zipIdx.flatMap (fun g =>
    (s.core.segError.filter (fun x => x / 1024 == g.1)).map (fun x => 1024 * g.2 + x % 1024))

/-- Granule `g` of tile space as a granule of its segment. -/
def State.segGranule (s : State) (g : Nat) : Nat := 1024 * (s.part.grant.segs[g / 1024]?.getD 0) + g % 1024

/-- Elements of width `w` written in tile space; a granule overwritten whole is good again. -/
def State.writeTiles (s : State) (w : Nat) (ws : List EltW) : State :=
  let good := (wholeGranules w ws).map s.segGranule
  let t := (s.setTiles (ws.foldl (fun x e => putE x w e.1 e.2.1) s.tiles)).setTilePoison (poisonAfter s.tilePoison w ws)
  { t with core := { t.core with segError := t.core.segError.filter (fun x => !good.contains x) } }

/-- Failed tile granules are marked poisoned where they lie (R283, R363). -/
def State.markTiles (s : State) (gs : List Nat) : State :=
  { s.setTilePoison (gs.foldl (fun p g => p ||| 2 ^ g) s.tilePoison) with
    core := { s.core with segError := s.core.segError.filter (fun x => !(gs.map s.segGranule).contains x) } }

/-- The bit of element (r, c) of tile t, as the captured configuration reads it, in tile space. -/
def State.tileBit (s : State) (t : Nat) (ty : Ty) (r c : Nat) : Nat :=
  8 * (s.part.grant.base t + r * s.part.grant.pitch t) + c * ty.bits

/-- Element (r, c) of tile t. -/
def State.tileElem (s : State) (x t : Nat) (ty : Ty) (r c : Nat) : Nat := (x >>> s.tileBit t ty r c) % 2 ^ ty.bits

/-- The granules element (r, c) of tile t lies in. -/
def State.tileGranules (s : State) (t : Nat) (ty : Ty) (r c : Nat) : List Nat :=
  let b := s.tileBit t ty r c
  [b / 512, (b + ty.bits - 1) / 512]

/-! ### TEN, TDIS, TSHAPE (R235, R236, R392) -/

/-- TEN (R235). -/
def State.runTen (s : State) : State :=
  if s.part.tstate.getLsbD 0 then s else { s with part := { s.part with tstate := 1 } }

/-- Releases the partition's segments. -/
def State.freeSegs (s : State) : State :=
  { s with part := { s.part with
      grant := ⟨Vector.replicate 8 TCfg.zero, []⟩, segPoison := Vector.replicate 2 0 } }

/-- TDIS (R235): segments and accumulators are freed. -/
def State.runTdis (s : State) : State :=
  let t := s.freeSegs
  { t with
    lc := { t.lc with tcfg := Vector.replicate 8 TCfg.zero }
    part := { t.part with tstate := 0, accalloc := 0 } }

/-- Footprint of R236. -/
def footprint (t : Ty) (m n k : Nat) : Nat :=
  2 * (m * pitchOf k t + k * pitchOf n t)
    + (if t.cls == .M then 2 * (m * 64 + (k + 31) / 32 * pitchOf n .n8) else 0)

/-- The reductions of R236 until the shape fits; each one lowers a dimension, so `fuel` of 64 is enough. -/
def fitShape (t : Ty) (M N K cap : Nat) : Nat → Nat × Nat × Nat → Nat × Nat × Nat
  | 0, x => x
  | fuel + 1, (m, n, k) =>
    if footprint t m n k ≤ cap then (m, n, k)
    else if min M 8 < m && (decide (n ≤ m) || decide (n ≤ min N 8)) then
      fitShape t M N K cap fuel (max (m - 8) (min M 8), n, k)
    else if min N 8 < n then fitShape t M N K cap fuel (m, max (n - 8) (min N 8), k)
    else if min K 32 < k then fitShape t M N K cap fuel (m, n, max (k - 32) (min K 32))
    else (0, 0, 0)

/-- Whether TSHAPE accepts a type (R236). -/
def shapeType (t : Ty) : Bool :=
  t == .f16 || t == .bf16 || t == .e4m3 || t == .e5m2 || t.cls == .M

/-- The tile configurations of a grant (R236). -/
def grantCfg (t : Ty) (m n k : Nat) : Vector TCfg 8 :=
  let cfg (y : Ty) (r c : Nat) : TCfg := ⟨BitVec.ofNat 4 y.ctorIdx, BitVec.ofNat 9 c, BitVec.ofNat 8 r⟩
  let kb := (k + 31) / 32
  let a := cfg t m k
  let b := cfg t k n
  let sa := if t.cls == .M then cfg .n8 m kb else TCfg.zero
  let sb := if t.cls == .M then cfg .n8 kb n else TCfg.zero
  #v[a, sa, b, sb, a, sa, b, sb]

/-- Segments of the core that no other partition holds, ascending (R234). -/
def State.freeSegments (s : State) : List Nat :=
  let held := (s.coreParts s.core.no).flatMap (fun p => if p.no = s.part.no then [] else p.grant.segs)
  ((s.core.banks 2).flatMap (fun b => [2 * b, 2 * b + 1])).filter (fun g => !held.contains g)

/-- The request layout of R236. -/
def shapeWord (ty m n k : Nat) : Dword := at_ k 23 ||| at_ n 15 ||| at_ m 7 ||| at_ ty 0

/-- TSTATE after a grant (R78). -/
def grantState (segs : List Nat) (m n k : Nat) : Dword :=
  at_ (segs.foldl (fun b g => b ||| 2 ^ (g / 2)) 0) 32 ||| at_ k 23 ||| at_ n 15 ||| at_ m 7 ||| at_ 1 0

/-- TSHAPE (R236, R392). -/
def State.runTshape (s : State) (e : VEntry) (d : SReg) : VRun :=
  let ty := (TCfg.mk (e.x.setWidth 4) 0 0).type
  if !shapeType ty then s.vraise e .badType (at_ (field e.x 0 4) 0)
  else
    let s := s.freeSegs
    let claimed := s.freeSegments.take ((s.core.banks 2).length / 4)
    let (K, N, M) := (field e.x 23 9, field e.x 15 8, field e.x 7 8)
    let z := M = 0 || N = 0 || K = 0
    let (m, n, k) := fitShape ty M N K (65536 * claimed.length) 64
      (if z then (0, 0, 0) else (min M 128, min N 128, min K 128))
    let kept := claimed.take ((footprint ty m n k + 65535) / 65536)
    let cfg := grantCfg ty m n k
    let core := kept.foldl (fun c g => c.setSeg g 0) s.core
    let s := { s with
      core := { core with segError := core.segError.filter (fun x => !kept.contains (x / 1024)) }
      lc := { s.lc with tcfg := cfg }
      part := { s.part with tstate := grantState kept m n k, grant := ⟨cfg, kept⟩ } }
    .ok (s.deliverS d (shapeWord (field e.x 0 4) m n k) false).vdone

/-! ### Moving tiles (R239, R240, R390, R393) -/

/-- A captured tile configuration. -/
def VEntry.tile (e : VEntry) (t : Nat) : TCfg := e.tcfg[t]?.getD TCfg.zero

/-- Byte accesses of TLD and TST in class M, element accesses otherwise, with the place in tile space each fills
(R156, R239): the access, and its index at width w. -/
def State.tileItems (s : State) (e : VEntry) (t : Nat) (y : Ty) : List (VItem × Nat) :=
  let isM := y.cls == .M
  let w := if isM then 8 else y.bits
  let n := if isM then packedBytes y e.vl else e.vl
  (List.range e.ctl.rowcnt.toNat).flatMap (fun r =>
    ((List.range n).filter (fun c => !s.passed e r (if isM then 8 * c / y.bits else c))).map (fun c =>
      (⟨r * e.vl + (if isM then 8 * c / y.bits else c),
        e.x + BitVec.ofNat 64 r * e.ctl.rowpitch + BitVec.ofNat 64 (c * w / 8), c⟩,
        8 * (s.part.grant.base t + r * s.part.grant.pitch t) / w + c)))

/-- TLD (R239, R390): element-granular. -/
def State.runTld (s : State) (e : VEntry) (t : TReg) (y : Ty) : VRun := do
  let w := if y.cls == .M then 8 else y.bits
  let its := s.tileItems e t.toNat y
  let r ← s.loadItems e (w / 8) (e.count .tile) (its.map (·.1))
  State.endLoad r e true 2048 false (fun s vals =>
    s.writeTiles w (vals.filterMap (fun v =>
      (its.find? (fun i => i.1 == v.1)).map (fun i => (i.2, v.2.1, v.2.2)))))

/-- TST (R239, R390): probe groups, held under containment. -/
def State.runTst (s : State) (e : VEntry) (t : TReg) (y : Ty) : VRun := do
  let w := if y.cls == .M then 8 else y.bits
  let its := s.tileItems e t.toNat y
  let x := s.tiles
  let p := s.tilePoison
  let lost := s.tileErrors.filter (fun g => its.any (fun i => i.2 * w / 512 == g))
  if !lost.isEmpty then .error (.fault (s.markTiles lost) (e.report .uncorrectableLocalStore 0))
  else
    s.storeItems e true (w / 8) (e.count .tile) (its.map (·.1)) (fun v =>
      match its.find? (fun i => i.1 == v) with
      | some i => (getE x w i.2, p.testBit (i.2 * w / 512))
      | none => (0, false))

/-- TZERO (R240): the tile's whole region. -/
def State.runTzero (s : State) (t : TReg) : State :=
  let g := s.part.grant
  let words := (match g.cfg[t.toNat]? with
    | some c => c.size
    | none => 0) / 64
  s.writeTiles 512 ((List.range words).map (fun i => (g.base t.toNat / 64 + i, 0, false)))

/-- TSLICE (R240): a row, or a column, of a tile; class M as codes in 8-bit elements. -/
def State.runTslice (s : State) (e : VEntry) (d : VReg) (t : TReg) (col : Bool) : VRun :=
  let c := e.tile t.toNat
  let y := c.type
  let j := e.x.toNat
  let n := if c.rows = 0 || c.cols = 0 then 0 else if col then c.rows.toNat else c.cols.toNat
  let at2 (i : Nat) : Nat × Nat := if col then (i, j) else (j, i)
  let gs (i : Nat) : List Nat := s.tileGranules t.toNat y (at2 i).1 (at2 i).2
  let lost := s.tileErrors.filter (fun g => (List.range n).any (fun i => (gs i).contains g))
  if !lost.isEmpty then .error (.fault (s.markTiles lost) (e.report .uncorrectableLocalStore 0))
  else
    let x := s.tiles
    let p := s.tilePoison
    let ws := (List.range n).map (fun i =>
      (i, s.tileElem x t.toNat y (at2 i).1 (at2 i).2, (gs i).any p.testBit))
    .ok (s.writeElems false d y.regBits ws).vdone

/-! ### Accumulators (R241, R242, R327) -/

/-- An accumulator of the core, its poison and its errors. -/
def State.acc (s : State) (c : AccReg) : ABits := s.core.acc[c.toNat]
def State.accPois (s : State) (c : AccReg) : KBits := s.core.accPoison[c.toNat]
def State.accErr (s : State) (c : AccReg) : KBits := s.core.accError[c.toNat]

/-- The state with an accumulator, its poison and its errors replaced. -/
def State.setAcc (s : State) (c : AccReg) (x : ABits) (p er : KBits) : State :=
  { s with core := { s.core with
      acc := s.core.acc.set c.toNat x
      accPoison := s.core.accPoison.set c.toNat p
      accError := s.core.accError.set c.toNat er } }

/-- FP32 elements written to an accumulator: element (i, j) is at index 128 i + j. -/
def State.writeAcc (s : State) (c : AccReg) (ws : List EltW) : State :=
  let x := ws.foldl (fun x e => putE x 32 e.1 e.2.1) (s.acc c).toNat
  s.setAcc c (BitVec.ofNat 524288 x) (BitVec.ofNat 1024 (poisonAfter (s.accPois c).toNat 32 ws))
    ((wholeGranules 32 ws).foldl (fun k g => k &&& ~~~ BitVec.ofNat 1024 (2 ^ g)) (s.accErr c))

/-- ACCRD (R242, R327). -/
def State.runAccrd (s : State) (e : VEntry) (d : VReg) (c : AccReg) : VRun := do
  s.maskClean e
  let at_ (i : Nat) : Nat := 128 * e.x.toNat + i
  let act := s.actives e
  let lost := act.filter (fun i => (s.accErr c).getLsbD (granuleOf 32 (at_ i)))
  if !lost.isEmpty then
    let gs := laneMask ((lost.map (fun i => granuleOf 32 (at_ i))).eraseDups)
    let t := s.setAcc c (s.acc c) (s.accPois c ||| gs) (s.accErr c &&& ~~~ gs)
    .error (.fault (t.setLanes e.vl lost)
      { e.report .uncorrectableAccumulator (c.setWidth 64) with
        rm := some true, k7valid := true, first := lost.min?.getD 0 })
  else
    s.moveElems e d 32 act (fun i => (getE (s.acc c).toNat 32 (at_ i), (s.accPois c).getLsbD (granuleOf 32 (at_ i))))

/-- ACCWR (R242). -/
def State.runAccwr (s : State) (e : VEntry) (d : VReg) (c : AccReg) : VRun := do
  s.maskClean e
  .ok (s.writeAcc c ((s.actives e).map (fun i =>
    (128 * e.x.toNat + i, s.velem e d 32 i, s.vbad e d 32 i)))).vdone

/-- ACCZ (R242). -/
def State.runAccz (s : State) (c : AccReg) : State := (s.setAcc c 0 0 0).vdone

/-! ### Products (R137, R138, R243, R244, R363) -/

/-- A matrix instruction's operands as captured. -/
structure MatOp where
  acc : AccReg
  ta : Nat
  tb : Nat
  x : Ty
  y : Ty
  mx : Bool
  /-- element format of an mx8 A and B operand: E5M2 instead of E4M3 (R92) -/
  e5a : Bool
  e5b : Bool
  sat : Bool
  deriving DecidableEq, Repr

/-- The matrix operands of an entry. -/
def VEntry.mat (e : VEntry) : Option MatOp :=
  match e.op with
  | .mma c a b x y mx fb ea sat => some ⟨c, a.toNat, b.toNat, x, y, mx, ea, fb, sat⟩
  | _ => none

/-- M, K and N (R243). -/
def VEntry.shape (e : VEntry) (o : MatOp) : Nat × Nat × Nat :=
  ((e.tile o.ta).rows.toNat, (e.tile o.ta).cols.toNat, (e.tile o.tb).cols.toNat)

/-- The number of bands; none when the product is empty. -/
def VEntry.bands (e : VEntry) (o : MatOp) : Nat :=
  let (m, k, n) := e.shape o
  if m = 0 || k = 0 || n = 0 then 0 else (m + 7) / 8

/-- The element format of an operand. -/
def matFmt (t : Ty) (e5 : Bool) : Fmt := if t == .mx8 && e5 then .e5m2 else Ty.fmt t

/-- The tiles a matrix instruction names (R246). -/
def MatOp.tiles (o : MatOp) : List Nat :=
  [o.ta, o.tb] ++ (if o.mx then [o.ta + 1, o.tb + 1] else [])

/-- The blocks of K: first depth and length of each (R137). -/
def kBlocks (k : Nat) : List (Nat × Nat) :=
  (List.range ((k + 31) / 32)).map (fun q => (32 * q, min 32 (k - 32 * q)))

/-- One element of a product: its blocks in ascending K (R137). -/
def matElem (sat : Bool) (c : Nat) (terms : Nat → FVal) (k : Nat) : Nat :=
  (kBlocks k).foldl (fun c b => matBlock sat c ((List.range b.2).map (fun j => terms (b.1 + j)))) c

/-- The scaled product of an A and a B element (R137, R244). -/
def matTerm (scale : Option Int) (a b : FVal) : FVal :=
  match scale with
  | none => .nan false
  | some x => match a.mul b with
    | .fin n m e => .fin n m (e + x)
    | v => v

/-- The tile granules a band reads, tile by tile (R363). -/
def State.bandGranules (s : State) (e : VEntry) (o : MatOp) (rows : List Nat) : List (Nat × Nat) :=
  let (_, k, n) := e.shape o
  let kb := (k + 31) / 32
  let cells (t : Nat) (y : Ty) (rs cs : List Nat) : List (Nat × Nat) :=
    (rs.flatMap (fun r => cs.flatMap (fun c => s.tileGranules t y r c))).eraseDups.map (fun g => (t, g))
  cells o.ta o.x rows (List.range k) ++ cells o.tb o.y (List.range k) (List.range n)
    ++ (if o.mx then
      cells (o.ta + 1) .n8 rows (List.range kb) ++ cells (o.tb + 1) .n8 (List.range kb) (List.range n) else [])

/-- The report of a band (R363): VSTART holds it, RM is unchanged. -/
def State.bandFault (s : State) (e : VEntry) (g : Nat) (c : Cause) (tval : Dword) : VStop :=
  .fault { s with lc := { s.lc with vstart := BitVec.ofNat 16 g } } { e.report c tval with rm := none }

/-- The errors a band meets before it writes anything (R363). -/
def State.bandCheck (s : State) (e : VEntry) (o : MatOp) (g : Nat) (rows : List Nat) : Except VStop Unit :=
  let (_, _, n) := e.shape o
  let reads := s.bandGranules e o rows
  let accGs := (rows.flatMap (fun i => (List.range n).map (fun j => granuleOf 32 (128 * i + j)))).eraseDups
  let lost := (reads.map (·.2)).filter s.tileErrors.contains
  let accLost := accGs.filter (fun x => (s.accErr o.acc).getLsbD x)
  if !lost.isEmpty then .error ((s.markTiles lost).bandFault e g .uncorrectableLocalStore 0)
  else if !accLost.isEmpty then
    let m := laneMask accLost
    .error ((s.setAcc o.acc (s.acc o.acc) (s.accPois o.acc ||| m) (s.accErr o.acc &&& ~~~ m)).bandFault e g
      .uncorrectableAccumulator (o.acc.setWidth 64))
  else match reads.find? (fun r => s.tilePoison.testBit r.2) with
    | some r => .error (s.bandFault e g .poisonVector (BitVec.ofNat 64 (0x10 + r.1)))
    | none =>
      if accGs.any (fun x => (s.accPois o.acc).getLsbD x) then
        .error (s.bandFault e g .poisonVector (BitVec.ofNat 64 (0x20 + o.acc.toNat)))
      else .ok ()

/-- The FP32 elements a band writes (R244): index and bits. -/
def State.bandValues (s : State) (e : VEntry) (o : MatOp) (rows : List Nat) : List EltW :=
  let (_, k, n) := e.shape o
  let x := s.tiles
  let old := (s.acc o.acc).toNat
  let col (j : Nat) : List FVal :=
    (List.range k).map (fun d => (matFmt o.y o.e5b).val (s.tileElem x o.tb o.y d j))
  let row (i : Nat) : List FVal :=
    (List.range k).map (fun d => (matFmt o.x o.e5a).val (s.tileElem x o.ta o.x i d))
  let scale (i j q : Nat) : Option Int :=
    if !o.mx then some 0
    else match e8m0 (s.tileElem x (o.ta + 1) .n8 i q), e8m0 (s.tileElem x (o.tb + 1) .n8 q j) with
      | some a, some b => some (a + b)
      | _, _ => none
  let cols := (List.range n).map col
  rows.flatMap (fun i =>
    let a := row i
    cols.zipIdx.map (fun c =>
      let j := c.2
      let terms (d : Nat) : FVal :=
        matTerm (scale i j (d / 32)) (a.getD d (.fin false 0 0)) (c.1.getD d (.fin false 0 0))
      (128 * i + j, matElem o.sat (getE old 32 (128 * i + j)) terms k, false)))

/-- One row band (R244, R363): eight output rows over all of K. -/
def State.runBand (s : State) (e : VEntry) (o : MatOp) (g : Nat) : Except VStop State := do
  let rows := (List.range (min 8 ((e.shape o).1 - 8 * g))).map (8 * g + ·)
  s.bandCheck e o g rows
  .ok ((s.writeAcc o.acc (s.bandValues e o rows)).count 4 1)

/-- `n` bands from `g` on. -/
def State.runBands (s : State) (e : VEntry) (o : MatOp) : Nat → Nat → VRun
  | 0, _ => .ok s.vdone
  | n + 1, g => match s.runBand e o g with
    | .ok t => State.runBands t e o n (g + 1)
    | .error x => .error x

/-- MMA and MMAX from the band VSTART holds (R244). -/
def State.runMma (s : State) (e : VEntry) (o : MatOp) : VRun :=
  s.runBands e o (e.bands o - s.start e) (s.start e)

/-! ### Waits at the queue head (R58, R246) -/

/-- Whether a matrix instruction still in the pending slot holds an entry back (R246). -/
def State.matrixHolds (s : State) (e : VEntry) : Bool :=
  match s.part.mslot with
  | none => false
  | some m => match m.entry.mat with
    | none => false
    | some o =>
      match e.op with
      | .mma .. | .tshape _ | .tdis => true
      | .accrd _ c => c == o.acc && (decide (m.band ≤ e.x.toNat / 8) )
      | .accwr _ c | .accz c => c == o.acc
      | .tld t _ _ _ | .tst t _ _ _ | .tzero t | .tslice _ t _ => o.tiles.contains t.toNat
      | _ => false

/-! ### MAJ 30 to 35 as an entry runs -/

/-- The tile, matrix and accumulator entries. -/
def State.runTile (s : State) (e : VEntry) : Option VRun :=
  match e.op with
  | .tshape d => some (s.runTshape e d)
  | .ten => some (.ok s.runTen.vdone)
  | .tdis => some (.ok s.runTdis.vdone)
  | .tzero t => some (.ok (s.runTzero t).vdone)
  | .tslice d t c => some (s.runTslice e d t c)
  | .tld t _ _ y => some (s.runTld e t y)
  | .tst t _ _ y => some (s.runTst e t y)
  | .mma .. => e.mat.map (s.runMma e)
  | .accrd d c => some (if e.vl ≤ s.start e then .ok s.vdone else s.runAccrd e d c)
  | .accwr d c => some (if e.vl ≤ s.start e then .ok s.vdone else s.runAccwr e d c)
  | .accz c => some (.ok (s.runAccz c))
  | _ => none

end Sys2Proof.Machine
end

