-- ==== Sys2Proof/Machine/Stack.lean ====
section
/-! DEFINITION. Stack.lean: a stack context: address streams (R198 to R201, R381), am 5 (R201), and the queue of a
context with its two loop levels (R194 to R197, R208). -/

namespace Sys2Proof.Machine

/-- The state with the bound context changed. -/
def State.updCtx (s : State) (f : StackCtx → StackCtx) : State := { s with lc := { s.lc with ctx := s.lc.ctx.map f } }

/-! ### Address streams -/

/-- What a read by a context's engine gives: it waits for the LC's earlier bank commands to that bank (R180), it meets a
cause, or the value. -/
inductive EngineRead where
  | wait (s : State)
  | cause (s : State) (c : Cause)
  | value (s : State) (x : Nat)
  deriving DecidableEq, Repr

/-- A read of `n` bytes within one granule by a context's engine, for an entry that has `no` before it. -/
def State.engineGranule (s : State) (x : Space) (no : Nat) (va : Dword) (n : Nat) : EngineRead :=
  match s.baseReach x .load va with
  | (s, .error c) => .cause s c
  | (s, .ok l) =>
    if s.bankWaitsAt no l then .wait s
    else if s.badAt l then .cause (s.markBad l) (s.badCause l)
    else if s.poisonHome l then
      (if l.por then .cause s .poisonVector else .value { s with lc := s.lc.logPoison va } (s.readHome l n))
    else .value s (s.readHome l n)

/-- A read of at most 64 bytes by a context's engine: granule by granule (R202), whatever the alignment (log 82). -/
def State.engineRead (s : State) (x : Space) (no : Nat) (va : Dword) (n : Nat) : EngineRead :=
  let m := 64 - va.toNat % 64
  if n ≤ m then s.engineGranule x no va n
  else match s.engineGranule x no va m with
    | .value s lo => match s.engineGranule x no (va + BitVec.ofNat 64 m) (n - m) with
      | .value s hi => .value s (lo + hi * 2 ^ (8 * m))
      | r => r
    | r => r

/-- Bytes of an index: 4 for n32 and i32, 8 for i64 (R199). -/
def AStream.indexBytes (a : AStream) : Nat := if a.idx = 2 then 8 else 4

/-- An index extended (R200). -/
def AStream.index (a : AStream) (x : Nat) : Dword :=
  if a.idx = 1 then signExtend64 32 x else zeroExtend64 64 x

/-- The address an index gives (R200). -/
def AStream.indexedAddr (a : AStream) (x : Nat) : Dword := a.base + (a.index x <<< a.shift) + a.addend

/-- The queue entry for an address: with the cause its translation met (R200). -/
def State.sqEntry (s : State) (super : Bool) (va : Dword) : State × SqEntry :=
  match s.baseReach (s.ctxSpace super) .load va with
  | (t, .error c) => (t, ⟨va, some c, false, false⟩)
  | (t, .ok _) => (t, ⟨va, none, false, false⟩)

/-- Entry of an index element at an address: the index read, then the address it gives (R200); none while the read
waits. -/
def State.indexEntry (s : State) (a : AStream) (iva : Dword) : State × Option SqEntry :=
  match s.engineRead (s.ctxSpace a.super) a.no iva a.indexBytes with
  | .wait t => (t, none)
  | .cause t c => (t, some ⟨iva, some c, true, false⟩)
  | .value t x =>
    let r := t.sqEntry a.super (a.indexedAddr x)
    (r.1, some r.2)

/-- Address k of a stream, as a queue entry (R200). -/
def State.streamEntry (s : State) (a : AStream) : State × Option SqEntry :=
  let k := BitVec.ofNat 64 a.next
  if a.indexed then s.indexEntry a (a.step + k * BitVec.ofNat 64 a.indexBytes)
  else
    let r := s.sqEntry a.super (a.base + k * a.step + a.addend)
    (r.1, some r.2)

/-- Stream j generates one address, if it has one left and sq j has room (R200). -/
def State.generate (s : State) (j : BitVec 2) : Option State :=
  match s.lc.ctx with
  | none => none
  | some c => match c.streams[j.toNat] with
    | none => none
    | some a =>
      if a.count ≤ a.next || 64 ≤ c.sq[j.toNat].length then none
      else
        match s.streamEntry a with
        | (_, none) => none
        | (t, some q) => some (t.updCtx (fun c => { c with
          sq := c.sq.set j.toNat (c.sq[j.toNat] ++ [q])
          streams := c.streams.set j.toNat (some { a with next := a.next + 1 }) }))

/-- Fills sq j, when the model follows the streams in order (log 3). -/
def State.fill (s : State) (j : BitVec 2) : Nat → State
  | 0 => s
  | n + 1 => if s.runAhead then s else match s.generate j with
    | some t => State.fill t j n
    | none => s

/-- The stream of a valid descriptor (R199). -/
def descStream (x : Nat) (super : Bool) (no : Nat) : Option AStream :=
  let f (o n : Nat) : Nat := (x >>> (8 * o)) % 2 ^ (8 * n)
  let ctl := f 0x1C 4
  let mode := ctl % 4
  let idx := (ctl >>> 2) % 4
  let shift := (ctl >>> 4) % 16
  if ctl >>> 8 != 0 || 2 ≤ mode || (mode == 0 && (idx != 0 || shift != 0)) || (mode == 1 && idx == 3) then none
  else some ⟨BitVec.ofNat 64 (f 0 8), BitVec.ofNat 64 (f 8 8), BitVec.ofNat 64 (f 16 8), f 24 4, shift, idx, mode == 1,
    0, super, no⟩

/-- SKSTRM (R198, R199). -/
def State.runSkstrm (s : State) (e : VEntry) (j : BitVec 2) : VRun :=
  let s := s.updCtx (fun c => { c with sq := c.sq.set j.toNat [], streams := c.streams.set j.toNat none })
  if !aligned e.x 32 then s.vraise e .badControlState e.x
  else match s.engineRead (s.vspace e) e.no e.x 32 with
  | .wait t => .error (.block t)
  | .cause t c => t.vraise e c e.x
  | .value t x => match descStream x e.super e.no with
    | none => t.vraise e .badControlState e.x
    | some a => .ok ((t.updCtx (fun c => { c with streams := c.streams.set j.toNat (some a) })).fill j 64)

/-! ### am 5 (R201) -/

/-- The number an am 5 field names: the low two bits; R201 gives sq0 to sq3. -/
def sqNo (x : VReg) : BitVec 2 := x.setWidth 2

/-- The base address an am 5 access takes from the head of its queue. The entry stays there until the access has
completed. -/
def State.popBase (s : State) (e : VEntry) (x : VReg) : Except VStop (State × Dword) :=
  let j := sqNo x
  match s.lc.ctx with
  | none => .error (.block s)
  | some c => match c.sq[j.toNat] with
    | [] => match c.streams[j.toNat] with
      | some a => if a.next < a.count then .error (.block s) else s.vraise e .badControlState (j.setWidth 64)
      | none => s.vraise e .badControlState (j.setWidth 64)
    | h :: rest =>
      let (t, again) := match h.tried, c.streams[j.toNat] with
        | true, some a =>
          if h.index then s.indexEntry a h.addr
          else
            let r := s.sqEntry a.super h.addr
            (r.1, some r.2)
        | _, _ => (s, some h)
      match again with
      | none => .error (.block t)
      | some h => match h.cause with
        | none => .ok (t, h.addr)
        | some k =>
          (t.updCtx (fun c => { c with sq := c.sq.set j.toNat ({ h with tried := true } :: rest) })).vraise e k h.addr

/-- The popped entry leaves its queue, and the stream goes on (R200, R201). -/
def State.popped (s : State) (x : VReg) : State :=
  let j := sqNo x
  (s.updCtx (fun c => { c with sq := c.sq.set j.toNat c.sq[j.toNat].tail })).fill j 64

/-- An access with am 5: the pop, then unit stride from the popped address. -/
def State.runPopped (s : State) (e : VEntry) (x : VReg) (run : State → Dword → VRun) : VRun := do
  let (s, base) ← s.popBase e x
  let s ← run s base
  .ok (s.popped x)

/-! ### The context's queue and its loops (R194 to R197) -/

/-- An entry that tells the context its open levels are abandoned (R195): it stands for no instruction. -/
def VEntry.abandons (e : VEntry) : Bool := e.op == .skend && e.x == 1

/-- Whether a level whose count is 0 keeps the body from executing (R196). -/
def StackCtx.silent (c : StackCtx) : Bool := c.levels.any (·.count == 0)

/-- The context after the entry at its position has been passed. -/
def StackCtx.advance (c : StackCtx) : StackCtx := { c with pos := c.pos + 1 }

/-- A loop entry of the buffer at the position (R196). -/
def StackCtx.loopStep (c : StackCtx) (e : VEntry) : StackCtx :=
  if e.op == .skloop then { c with levels := ⟨field e.x 0 32, 0, c.pos + 1⟩ :: c.levels, pos := c.pos + 1 }
  else match c.levels with
  | l :: rest =>
    if decide (l.iter + 1 < l.count) && !c.silent then { c with levels := { l with iter := l.iter + 1 } :: rest, pos := l.start }
    else { c with levels := rest, pos := c.pos + 1 }
  | [] => c.advance

/-- An entry arrives at the context (R195, R196): it opens or ends the outer level, or it joins the buffer; none when
it executes outside any loop. The flag says whether the entry leaves the queue. -/
def StackCtx.arrive (c : StackCtx) (e : VEntry) : Option (StackCtx × Bool) :=
  let closed : StackCtx := { c with levels := [], buf := [], pos := 0 }
  if e.abandons then some (closed, true)
  else match c.levels, e.op with
  | _, .sbar _ => none
  | [], .skloop => some ({ closed with levels := [⟨field e.x 0 32, 0, 0⟩] }, true)
  | [], .skend => some (closed, true)
  | [], _ => none
  | [l], .skend =>
    if l.iter + 1 < l.count then some ({ c with levels := [{ l with iter := l.iter + 1 }], pos := 0 }, false)
    else some (closed, true)
  | _, _ => some ({ c with buf := c.buf ++ [e] }, true)

/-- One move of the context (R194, R196, R208), with the run of an entry as `run`: none when it is stalled, blocked or
has nothing to do. -/
def State.kstepWith (run : State → VEntry → VRun) (s : State) : Option State :=
  match s.lc.ctx with
  | none => none
  | some c =>
    if c.stalled.isSome then none
    else match c.buf[c.pos]? with
    | some e =>
      if e.op == .skloop || e.op == .skend then some (s.updCtx (·.loopStep e))
      else if c.silent then some (s.updCtx (·.advance))
      else match run s e with
        | .ok t => some (t.updCtx (fun c => { c with
            buf := c.buf.set c.pos { e with rm := none, restart := none }, pos := c.pos + 1 }))
        | .error (.block _) => none
        | .error (.fault t r) =>
          let u := t.updCtx (fun c => { c with stalled := some e })
          some { u with lc := { u.lc with kreport := some r } }
    | none => match s.lc.kqueue with
      | [] => none
      | e :: rest => match c.arrive e with
        | some (c2, gone) =>
          let t := s.updCtx (fun _ => c2)
          some (if gone then { t with lc := { t.lc with kqueue := rest } } else t)
        | none => match run s e with
          | .ok t => some { t with lc := { t.lc with kqueue := rest } }
          | .error (.block _) => none
          | .error (.fault t r) =>
            let u := t.updCtx (fun c => { c with stalled := some e })
            some { u with lc := { u.lc with kqueue := rest, kreport := some r } }

end Sys2Proof.Machine
end

