-- ==== Sys2Proof/Machine/Run.lean ====
section
/-! DEFINITION. Run.lean: an entry of the V or K stream as it executes, the waits at the head of the vector queue (R161,
R192, R246), the streams run in order, and passing an instruction on (R46, R55). -/

namespace Sys2Proof.Machine

/-! ### One entry -/

/-- The v or w registers an entry reads, each with the granules that it reads for element i. -/
def State.reads (s : State) (e : VEntry) : List (VReg × (Nat → List Nat)) :=
  let el (r : VReg) (t : Ty) : VReg × (Nat → List Nat) := (r, fun i => [granuleOf t.regBits i])
  let index (m : AMode) (t : Ty) : List (VReg × (Nat → List Nat)) := (indexSrc m t).map (fun r => el r.1 t)
  match e.op with
  | .bin _ _ a b t | .cmp _ a b t _ => [el a t, el b t]
  | .binS _ _ a t | .un _ _ a t | .compress _ a t | .extract _ a t | .qsend _ a t | .red _ _ a _ t _ => [el a t]
  | .tern _ d a b t => [el a t, el b t, el d t]
  | .sel _ a b t =>
    [(a, fun i => if s.governs e i then [granuleOf t.bits i] else []),
     (b, fun i => if s.governs e i then [] else [granuleOf t.bits i])]
  | .slide _ a t =>
    [(a, fun i =>
      let j : Int := i + e.x.toInt
      if 0 ≤ j && decide (j < e.vl) then [granuleOf t.bits j.toNat] else [])]
  | .perm _ a b t =>
    [el b t, (a, fun i => if s.velem e b t.bits i < e.vl then [granuleOf t.bits (s.velem e b t.bits i)] else [])]
  | .cvt _ a _ src _ =>
    if src.cls == .M then
      [(a, fun i => [src.bits * i / 512, (src.bits * i + src.bits - 1) / 512, scaleByte e.placed (i / 32) / 64])]
    else [el a src]
  | .load _ m _ _ y => index m y
  | .store t m _ _ y => index m y ++ (List.range (match m with
      | .segment x => x.toNat + 1
      | _ => 1)).map (fun j => el (t + BitVec.ofNat 5 j) y)
  | .atomic _ t x _ _ _ y => [el x y, el t y]
  | _ => []

/-- The elements for which an entry reads them. -/
def State.readsAt (s : State) (e : VEntry) : List Nat :=
  match e.op with
  | .extract _ _ _ | .qsend _ _ _ => [0]
  | .sel _ _ _ _ => (s.elems e).filter e.allows
  | .load _ .tile _ _ y | .store _ .tile _ _ y => (s.items e .tile y e.x).map (·.idx)
  | _ => s.actives e

/-- A granule of a w register that an entry reads holds an uncorrectable error (R283): the granule is marked poisoned, k7
receives the elements that met one, and TVAL names the first such register. -/
def State.stackError (s : State) (e : VEntry) : Option VStop :=
  match s.lc.ctx with
  | none => none
  | some c =>
    let bad (r : VReg) (g : Nat) : Bool := (c.wError[r.toNat]?.getD 0).getLsbD g
    let els := s.readsAt e
    let hits := (s.reads e).filter (fun r => els.any (fun i => (r.2 i).any (bad r.1)))
    match hits with
    | [] => none
    | h :: _ =>
      let lanes := els.filter (fun i => hits.any (fun r => (r.2 i).any (bad r.1)))
      let mark (c : StackCtx) (r : VReg × (Nat → List Nat)) : StackCtx :=
        let gs := ((els.flatMap r.2).filter (bad r.1)).foldl (fun m g => m ||| BitVec.ofNat 16 (2 ^ g)) 0
        { c with
          wPoison := c.wPoison.setIfInBounds r.1.toNat ((c.wPoison[r.1.toNat]?.getD 0) ||| gs)
          wError := c.wError.setIfInBounds r.1.toNat ((c.wError[r.1.toNat]?.getD 0) &&& ~~~gs) }
      let t := { s with lc := { s.lc with ctx := some (hits.foldl mark c) } }
      some (.fault (t.setLanes e.vl lanes) { e.report .uncorrectableStackRegister (h.1.setWidth 64) with
        k7valid := decide (e.vl ≤ 1024), first := lanes.min?.getD 0 })

/-- An entry as it executes, its registers read. -/
def State.runOp (s : State) (e : VEntry) : VRun :=
  match e.op with
  | .load t m _ _ y => match m with
    | .stream x => s.runPopped e x (fun s base =>
        if s.memSkips e m then .ok s.mdone else s.runLoad e t m y base)
    | _ => if s.memSkips e m then .ok s.mdone else s.runLoad e t m y e.x
  | .store t m _ _ y => match m with
    | .stream x => s.runPopped e x (fun s base =>
        if s.memSkips e m then .ok s.mdone else s.runStore e t m y base)
    | _ => if s.memSkips e m then .ok s.mdone else s.runStore e t m y e.x
  | .atomic o t x ret ko _ y =>
    if e.vl ≤ s.start e then .ok s.vdone else s.runAtomic e o t x ret ko y
  | .skstrm j => s.runSkstrm e j
  | _ => match s.runAlu e with
    | some r => r
    | none => match s.runTile e with
      | some r => r
      | none => (s.runGen e).getD (.error (.block s))

/-- An entry as it executes. -/
def State.runEntry (s : State) (e : VEntry) : VRun :=
  if e.placed then (match s.stackError e with
    | some x => .error x
    | none => s.runOp e)
  else s.runOp e

/-! ### Registers of an entry -/

/-- Registers from one on. -/
def regsFrom (r : VReg) (n : Nat) : List Nat := (List.range n).map (r.toNat + ·)

/-- Fields of a record of an addressing mode. -/
def modeFields (m : AMode) : Nat :=
  match m with
  | .segment x => x.toNat + 1
  | _ => 1

/-- The index register of an addressing mode. -/
def modeIndex (m : AMode) : List Nat :=
  match m with
  | .indexed x => [x.toNat]
  | _ => []

/-- The v registers an unplaced entry writes. -/
def VEntry.vWrites (e : VEntry) : List Nat :=
  if e.placed then []
  else match e.op with
  | .bin _ d _ _ _ | .binS _ d _ _ | .bcast d _ | .slide d _ _ | .tern _ d _ _ _ | .un _ d _ _ | .iota d _
  | .cvt d _ _ _ _ | .sel d _ _ _ | .perm d _ _ _ | .compress d _ _ | .qrecv d _ _ | .red _ d _ _ _ _
  | .tslice d _ _ | .accrd d _ | .draw d _ => [d.toNat]
  | .load t m _ _ _ => regsFrom t (modeFields m)
  | .atomic _ t _ true _ _ _ => [t.toNat]
  | _ => []

/-- The v registers an unplaced entry reads besides. -/
def VEntry.vReads (e : VEntry) : List Nat :=
  if e.placed then []
  else match e.op with
  | .bin _ _ a b _ | .tern _ _ a b _ | .cmp _ a b _ _ | .sel _ a b _ | .perm _ a b _ => [a.toNat, b.toNat]
  | .binS _ _ a _ | .slide _ a _ | .extract _ a _ | .un _ _ a _ | .cvt _ a _ _ _ | .compress _ a _ | .qsend _ a _
  | .red _ _ a _ _ _ | .urank _ a | .ucommit _ a => [a.toNat]
  | .vaccept _ a => regsFrom a 2
  | .smpstep d a _ => [d.toNat, a.toNat]
  | .load _ m _ _ _ => modeIndex m
  | .store t m _ _ _ => regsFrom t (modeFields m) ++ modeIndex m
  | .atomic _ t x _ _ _ _ => [t.toNat, x.toNat]
  | .accwr d _ => [d.toNat]
  | _ => []

/-- The k registers an entry writes. -/
def VEntry.kWrites (e : VEntry) : List Nat :=
  match e.op with
  | .cmp k _ _ _ _ | .mask _ k _ _ | .urank k _ | .udirty k | .vaccept k _ | .vpand k _ => [k.toNat]
  | .ucommit _ _ => if e.ctl.vmsel == 8 then [] else [e.ctl.vmsel.toNat]
  | _ => []

/-- The k registers an unplaced entry reads. -/
def VEntry.kReads (e : VEntry) : List Nat :=
  if e.placed then []
  else (if e.ctl.vmsel == 8 then [] else [e.ctl.vmsel.toNat]) ++ (match e.op with
    | .mask _ _ a b => [a.toNat, b.toNat]
    | .kscalar _ _ a | .vpand _ a => [a.toNat]
    | .red _ _ _ b _ true => [b.toNat]
    | .ucommit k _ => [k.toNat]
    | _ => [])

/-- Whether an earlier V- or K-stream instruction still has to write a k register (R191). -/
def State.kBusy (s : State) (k : Nat) : Bool :=
  (s.unperformedV ++ s.lc.kOutstanding).any (fun e => e.kWrites.contains k)

/-- Registers of the LC's incomplete XDEIL transfers (R161). -/
def Lc.deilRegs (l : Lc) : List Nat :=
  l.chans.toList.flatMap (fun c => c.cmds.flatMap (fun x => match x.kind with
    | .deil v f => regsFrom v (f + 1)
    | _ => []))

/-- The SBAR an entry stands for. -/
def VEntry.barrier (e : VEntry) : Option Nat :=
  match e.op with
  | .sbar i => some i
  | _ => none

/-- The SBAR a copy command stands for. -/
def XCmd.barrier (c : XCmd) : Option Nat :=
  match c.kind with
  | .sbar i => some i
  | _ => none

/-- The SBAR a bank command stands for. -/
def BCmd.barrier (c : BCmd) : Option Nat :=
  match c.kind with
  | .sbar i => some i
  | _ => none

/-- Why the head of the vector queue does not begin: a matrix instruction (R246), an XDEIL (R161), a placed VCMP
(R192), an earlier scalar store to its bytes (R169), an SBAR (R172). -/
def State.headWaits (s : State) (e : VEntry) : Bool :=
  s.matrixHolds e
    || (e.vWrites ++ e.vReads).any s.lc.deilRegs.contains
    || (e.kWrites ++ e.kReads).any (fun k => s.lc.kOutstanding.any (fun x => x.kWrites.contains k))
    || s.lc.stores.any (fun x => decide (x.no ≤ e.no) && e.extent.meets x.va.toNat x.n)
    || e.barrier.isSome

/-! ### Element groups (before R55) -/

/-- Whether an operation works on elements of 64 bits. -/
def VOp.wide (o : VOp) : Bool :=
  let w (t : Ty) : Bool := t.regBits == 64
  match o with
  | .bin _ _ _ _ t | .binS _ _ _ t | .bcast _ t | .slide _ _ t | .extract _ _ t | .tern _ _ _ _ t | .un _ _ _ t
  | .iota _ t | .cmp _ _ _ t _ | .sel _ _ _ t | .perm _ _ _ t | .compress _ _ t | .qsend _ _ t | .qrecv _ _ t
  | .red _ _ _ _ t _ | .load _ _ _ _ t | .store _ _ _ _ t | .atomic _ _ _ _ _ _ t | .tld _ _ _ t | .tst _ _ _ t => w t
  | .cvt _ _ _ a b => w a || w b
  | _ => false

/-- Elements of an element group. -/
def VEntry.groupSize (e : VEntry) : Nat := if e.op.wide then 16 else 32

/-- Rem at the head of the queue: element groups not yet issued from an element on (before R55); one for a mask
instruction with an element to execute (R356). -/
def VEntry.groups (e : VEntry) (start : Nat) : Nat :=
  match e.op with
  | .mask _ _ _ _ | .kscalar _ _ _ => if e.vl ≤ start then 0 else 1
  | _ => (e.vl - start + e.groupSize - 1) / e.groupSize

/-- Rem of the head of the queue of the partition in focus. -/
def State.remOf (s : State) (e : VEntry) : Nat := s.part.rem.getD (e.groups (s.start e))

/-- Whether an entry accesses memory by element groups, each of which takes effect with its slot (R56, R69); another
instruction takes effect with its first slot, since nothing can see it begun and not completed. -/
def VEntry.stepwise (e : VEntry) : Bool :=
  match e.op with
  | .load _ _ _ _ _ | .store _ _ _ _ _ | .atomic _ _ _ _ _ _ _ | .tld _ _ _ _ | .tst _ _ _ _ => true
  | _ => false

/-- Whether an entry goes row by row, restarting through EPR (R69, R156). -/
def VEntry.byRows (e : VEntry) : Bool :=
  match e.op with
  | .load _ .tile _ _ _ | .store _ .tile _ _ _ | .tld _ _ _ _ | .tst _ _ _ _ => true
  | _ => false

/-- The first elements of the probe groups of a storing entry (R277). -/
def State.groupStarts (s : State) (e : VEntry) : List Nat :=
  let starts (l : List VItem) : List Nat := (probeGroups l).filterMap (fun g => g.head?.map (·.idx))
  match e.op with
  | .store _ m _ _ y => starts (s.items e m y e.x)
  | .atomic _ _ x _ _ _ y => starts (s.items e (.indexed x) y e.x)
  | .tst t _ _ y => starts ((s.tileItems e t.toNat y).map (·.1))
  | _ => []

/-- Whether an entry stores by probe groups. -/
def VEntry.grouped (e : VEntry) : Bool :=
  match e.op with
  | .store _ _ _ _ _ | .atomic _ _ _ _ _ _ _ | .tst _ _ _ _ => true
  | _ => false

/-- How far an entry has come after `got` of the `rem` slots still to be dealt to it: an element, or a row of one that
goes row by row, whose rows its slots share out evenly (log 83). A storing one goes on to the end of a probe group. -/
def State.slotEnd (s : State) (e : VEntry) (got rem : Nat) : Nat :=
  if e.byRows then
    let rows := e.ctl.rowcnt.toNat
    let row := (s.eprAt e).1
    let cut := row + got * ((rows - row + rem - 1) / rem)
    if !e.grouped then min rows cut
    else (((s.groupStarts e).filter (fun i => i % e.vl == 0 && decide (cut ≤ i / e.vl))).map (· / e.vl)).min?.getD rows
  else
    let cut := s.start e + got * e.groupSize
    if !e.grouped then min e.vl cut
    else ((s.groupStarts e).filter (fun i => decide (cut ≤ i))).min?.getD e.vl

/-- The state in which an entry executes, and the entry: what is left of an interrupted one begins at its restart index
(R69). -/
def State.atRestart (s : State) (e : VEntry) : State × VEntry :=
  match e.restart with
  | some r => ({ s with lc := { s.lc with vstart := r.1, epr := r.2 } }, { e with restart := none })
  | none => (s, e)

/-- An entry that has come as far as `t` stays at the head of the queue with its restart index there; VSTART and EPR are
those of `s`. -/
def State.stayed (s : State) (e : VEntry) (t : State) : State :=
  { t with
    lc := { t.lc with vstart := s.lc.vstart, epr := s.lc.epr }
    part := { t.part with vqueue := { e with restart := some (t.lc.vstart, t.lc.epr) } :: t.part.vqueue.tail } }

/-- The head executes, or what is left of it. -/
def State.runHead (s : State) (e : VEntry) : VRun :=
  let a := s.atRestart e
  match a.1.runEntry a.2 with
  | .error (.block t) => .error (.block (s.stayed e t))
  | r => r

/-- The entry limited to the elements or rows before one. -/
def VEntry.upTo (e : VEntry) (cut : Nat) : VEntry :=
  { e with ctl := if e.byRows then { e.ctl with rowcnt := BitVec.ofNat 16 cut } else { e.ctl with vl := BitVec.ofNat 13 cut } }

/-- The next of the `rem` element groups of the head: an entry that goes group by group goes on from where the group ends,
and another executes whole with its first one (R56, R69). A group that faults is met by the entry as a whole, whose
report it is (R276, R277). -/
def State.runSlot (s : State) (e : VEntry) (rem : Nat) : VRun :=
  if rem ≤ 1 || !e.stepwise then s.runHead e
  else
    let a := s.atRestart e
    let cut := a.1.slotEnd a.2 1 rem
    match a.1.runEntry (a.2.upTo cut) with
    | .ok t =>
      let l := if e.byRows then { t.lc with epr := BitVec.ofNat 32 (max cut (a.1.eprAt a.2).1 * 65536), vstart := a.1.lc.vstart }
        else { t.lc with vstart := BitVec.ofNat 16 (max cut (a.1.start a.2)), epr := a.1.lc.epr }
      .ok (s.stayed e { t with lc := l })
    | .error (.block t) => .error (.block (s.stayed e t))
    | .error (.fault _ _) => s.runHead e

/-! ### The V stream -/

/-- Whether a faulted entry stops the V stream until ERET (R271, R273). -/
def State.vStopped (s : State) : Bool := s.lc.vstalled.isSome

/-- The head of the vector queue leaves it. -/
def State.vpop (s : State) : State :=
  { s with part := { s.part with vqueue := s.part.vqueue.tail, rem := none, done := false } }

/-- A faulted entry stalls, and its report is pending at the scalar unit (R270, R271). -/
def State.stalls (s : State) (e : VEntry) (r : TrapRec) : State :=
  { s with lc := { s.lc with vstalled := some { e with restart := none, rm := none }, vreport := some r } }

/-- The faulted head leaves the queue and stalls. -/
def State.vstall (s : State) (e : VEntry) (r : TrapRec) : State := (s.stalls e r).vpop

/-- An entry queued again on a partition whose state its LC does not own: it raises VECTOR_STATE_NOT_OWNED (R287), and
its restart index waits in VSTART and EPR. -/
def State.vunowned (s : State) (e : VEntry) : State :=
  let l := match e.restart with
    | some r => { s.lc with vstart := r.1, epr := r.2 }
    | none => s.lc
  ({ s with lc := l }).vstall e { e.report .vectorStateNotOwned 0 with rm := some e.rm.isSome }

/-- Whether an entry works on the LC's vector state (R103 step 7). -/
def VEntry.vector (e : VEntry) : Bool :=
  match e.op with
  | .ucfg | .jadd | .jcommit | .jdrop | .sbar _ => false
  | _ => true

/-- The element groups that the head has issued when it stops on a fault (R83): those up to the first element of an access
by element, all of them otherwise. -/
def State.issuedAt (s : State) (e : VEntry) (r : TrapRec) : Nat :=
  let rem := s.remOf e
  if e.stepwise && !e.byRows && r.rm == some false then min rem ((r.first - s.start e) / e.groupSize + 1) else rem

/-- The head of the vector queue executes whole, or what is left of it: the state, and whether it moved. Its element
groups count as issued (R83). -/
def State.vstep (s : State) : State × Bool :=
  if s.vStopped then (s, false)
  else match s.part.vqueue with
  | [] => (s, false)
  | e :: _ =>
    if s.part.done then (s.vpop.count 2 (s.remOf e), true)
    else if s.headWaits e then (s, false)
    else if !s.owns && e.vector then (s.vunowned e, true)
    else match s.runHead e with
    | .ok t => (t.vpop.count 2 (s.remOf e), true)
    | .error (.block t) => (t, false)
    | .error (.fault t r) => ((t.vstall e r).count 2 (s.issuedAt e r), true)

/-- At most `n` entries of the vector queue. -/
def State.vsteps : Nat → State → State
  | 0, s => s
  | n + 1, s =>
    let r := s.vstep
    if r.2 then State.vsteps n r.1 else r.1

/-! ### The K stream -/

/-- One move of the bound context. -/
def State.kstep (s : State) : Option State := State.kstepWith State.runEntry s

/-- At most `n` moves of the bound context. -/
def State.ksteps : Nat → State → State
  | 0, s => s
  | n + 1, s => match s.kstep with
    | some t => State.ksteps n t
    | none => s

/-! ### SBAR in the streams (R172) -/

/-- The identifiers of barriers that stand in the streams of the LC in focus. -/
def State.barrierIds (s : State) : List Nat :=
  s.part.vqueue.filterMap VEntry.barrier ++ s.lc.kqueue.filterMap VEntry.barrier
    ++ s.lc.chans.toList.flatMap (fun c => c.cmds.filterMap XCmd.barrier) ++ s.lc.bqueue.filterMap BCmd.barrier

/-- The identifiers of barriers that their streams have reached: everything before them has been performed. -/
def State.barriersReached (s : State) : List Nat :=
  let vh := if !s.vStopped && s.part.mslot.isNone then s.part.vqueue.head?.bind VEntry.barrier else none
  let kHere := match s.lc.ctx with
    | some c => c.stalled.isNone && decide (c.buf.length ≤ c.pos)
    | none => true
  let kh := if kHere then s.lc.kqueue.head?.bind VEntry.barrier else none
  let xh := s.lc.chans.toList.filterMap (fun c => c.cmds.head?.bind XCmd.barrier)
  let idle := s.dev.seqs.all (fun c => c.who != s.lc.key || (s.lc.breport.isSome && c.cmd.kind.isWave && !c.probed))
  let bh := if idle then s.lc.bqueue.head?.bind BCmd.barrier else none
  vh.toList ++ kh.toList ++ xh ++ bh.toList

/-- A barrier that every stream it stands in has reached leaves them all. -/
def State.passBarrier (s : State) : State :=
  let all := s.barrierIds
  let here := s.barriersReached
  match here.find? (fun i => (here.filter (· == i)).length == (all.filter (· == i)).length) with
  | none => s
  | some i =>
    let keep (e : VEntry) : Bool := e.op != .sbar i
    { s with
      part := { s.part with vqueue := s.part.vqueue.filter keep }
      lc := { s.lc with
        kqueue := s.lc.kqueue.filter keep
        chans := s.lc.chans.map (fun c => { c with cmds := c.cmds.filter (fun x => x.kind != .sbar i) })
        bqueue := s.lc.bqueue.filter (fun b => b.kind != .sbar i) } }

/-! ### The streams in order (log 3) -/

/-- Moves of a context in one step, when the model follows the streams in order. -/
def kMoves : Nat := 256

/-- One round of the streams of the LC in focus. -/
def State.round (s : State) : State :=
  let s := State.storeSteps s.lc.stores.length s
  let s := State.vsteps (s.part.vqueue.length) s
  let s := State.ksteps kMoves s
  let s := (s.drainX).drainB.passBarrier
  State.storeSteps s.lc.stores.length s

/-- Runs the streams of the LC in focus as far as two rounds take them; nothing when the scalar unit runs ahead of
them. -/
def State.drain (s : State) : State := if s.runAhead then s else s.round.round

/-! ### QUEUE_DEADLOCK (R48) -/

/-- Whether an entry waits for an entry of an empty queue q0 to q3. -/
def State.readsEmpty (s : State) (e : VEntry) : Bool :=
  match e.op with
  | .qrecv _ q _ => s.lc.q[q.toNat].isEmpty
  | _ => false

/-- The V stream is empty, or blocked reading a queue. -/
def State.vIdle (s : State) : Bool :=
  (s.part.mslot.isNone && !s.vStopped && s.part.vqueue.head?.all s.readsEmpty)

/-- The K stream is empty, or blocked reading a queue. -/
def State.kIdle (s : State) : Bool :=
  match s.lc.ctx with
  | none => s.lc.kqueue.isEmpty
  | some c => c.stalled.isNone && ((c.buf[c.pos]?).or s.lc.kqueue.head?).all s.readsEmpty

/-- Whether the LC's streams can no longer make progress on their queues. -/
def State.deadlocked (s : State) : Bool := s.vIdle && s.kIdle

/-- A blocked scalar instruction waits, or raises QUEUE_DEADLOCK with the TVAL of R274. -/
def State.block {α : Type} (s : State) (tval : Dword) : Except Halt α :=
  if s.deadlocked then s.raise .queueDeadlock tval else .error .wait

/-- The same on a full send queue, where the stall is counted (R83). -/
def State.stall {α : Type} (s : State) : Except Halt α :=
  if s.deadlocked then s.raise .queueDeadlock 8
  else .error (.waitIn (s.count 3 (s.passing s.core.no).toNat))

/-! ### Addresses that name a place (R189, R216) -/

/-- The physical address and the leaf that an address translates to as a load, before the map of R145 is consulted. -/
def State.rawLoad (s : State) (va : Dword) : Except Halt (Nat × Dword) :=
  if inWindow va || field va 57 7 != 0 then s.raise .loadAccess va
  else match s.dev.leafOf (s.space s.super) .load va.toNat with
  | .error c => s.raise c va
  | .ok l =>
    if !leafAllows (s.space s.super) .load l.entry then s.raise .loadAccess va
    else if leafC l.entry then .error (.expand va)
    else .ok (leafFrame l.entry * 65536 + (if l.block then va.toNat % 2 ^ 28 else va.toNat % 2 ^ 16), l.entry)

/-! ### Passing an instruction on (R46, R55) -/

/-- Entries of the vector queue, and of the K send queue (R46). -/
def queueCap : Nat := 32

/-- The scalar registers a stream entry writes when it completes (R192, R249). -/
def VEntry.sWrites (e : VEntry) : List SReg :=
  match e.op with
  | .extract d _ _ => if e.placed then [] else [d]
  | .kscalar _ d _ | .tshape d => [d]
  | .smpstep _ _ b => samplerRegs b
  | _ => []

/-- The state without the claims on scalar registers that an entry would have made. -/
def State.unclaim (s : State) (e : VEntry) : State :=
  { s with lc := { s.lc with pending := e.sWrites.foldl (fun l d => l.erase d) s.lc.pending } }

/-- A V-stream instruction enters the vector queue. -/
def State.pass (s : State) (e : VEntry) : Except Halt State :=
  if queueCap ≤ s.part.vqueue.length then (s.unclaim e).stall
  else .ok ({ s with
    part := { s.part with vqueue := s.part.vqueue ++ [e] }, lc := { s.lc with passed := s.lc.passed + 1 } }).drain

/-- A K-stream instruction enters the K send queue, and the tracking of open loop levels becomes `loops` (R195). -/
def State.passK (s : State) (e : VEntry) (loops : List SkLevel) : Except Halt State :=
  if queueCap ≤ s.lc.kqueue.length then (s.unclaim e).stall
  else .ok (({ s with lc := { s.lc with
    kqueue := s.lc.kqueue ++ [e], passed := s.lc.passed + 1, loops := loops } }).count 7 1).drain

/-- A command enters the buffer of the B stream (R46: 16 commands). -/
def State.passB (s : State) (k : BKind) : Except Halt State :=
  if 16 ≤ s.lc.bqueue.length then .error .wait
  else
    let t := { s with lc := { s.lc with bqueue := s.lc.bqueue ++ [BCmd.mk k (s.lc.pc.setWidth 64) s.ir s.super s.env s.lc.passed] } }.count 8 1
    .ok (if t.runAhead then (t.bankSend).getD t else t.drain)

/-- A command enters a channel's buffer (R46: 8 commands). -/
def State.passX (s : State) (h : BitVec 2) (c : XCmd) : State :=
  (s.updChan h (fun x => { x with cmds := x.cmds ++ [c] })).drain

/-- A scalar register another stream will write. -/
def State.claim (s : State) (d : SReg) : State :=
  if d = 0 then s else { s with lc := { s.lc with pending := s.lc.pending ++ [d] } }

end Sys2Proof.Machine
end

