-- ==== Sys2Proof/Machine/BankOps.lean ====
section
/-! DEFINITION. BankOps.lean: the hand-off of row lines and bank commands, MAJ 3A (R179, R214 to R219, R222, R225 to
R227, R335, R372 to R374), and their meanings. What the sequencers do is in Bank.lean. -/

namespace Sys2Proof

/-- Whether an operation's sa is a source handle (R223). -/
def BkOp.sourced (o : BkOp) : Bool := o == .copy || o == .add || o == .axpy || o == .max || o == .lse

end Sys2Proof

namespace Sys2Proof.Machine

/-- A held wave fault, or an uncorrectable input of a command that has completed, is raised at the LC's next instruction
of MAJ 3A other than RLSTAT, or at EXIT (R227, R336). -/
def State.bankFault (s : State) : Except Halt Unit :=
  match s.lc.breport, s.lc.bankErr with
  | some r, _ =>
    .error (.trapIn { s with lc := { s.lc with braised := true } } { r with pc := s.lc.pc.setWidth 64, insn := s.ir })
  | none, v :: rest =>
    .error (.trapIn { s with lc := { s.lc with bankErr := rest } } { s.report .uncorrectableBank v with bank := true })
  | none, [] => .ok ()

/-- BANK_COMMAND_INVALID. -/
def State.bankInvalid {α : Type} (s : State) (v : Dword) : Except Halt α := s.raise .bankCommandInvalid v

/-- The row line RLOPEN names and whether its page is read-only: steps 1 and 2 of R216. -/
def State.rowTarget (s : State) (va : Dword) : Except Halt (Line × Bool) := do
  let (pa, e) ← s.rawLoad va
  match paKind pa with
  | .hbm =>
    if (s.dev.stack (homeStack pa)).degraded then s.bankInvalid va else .ok (paLine pa, !leafW e)
  | .unassigned | .peer _ _ | .host => s.raise .loadAccess va

/-- Whether two lines use one pin slot. -/
def Line.sameSlot (a b : Line) : Bool := a.sameBank b && rowSlot a.row == rowSlot b.row

/-- The handle part of ROW_LINE_LIMIT's TVAL (R216). -/
def HEntry.limitWord (e : HEntry) : BitVec 32 := if e.granted then e.handle else handleWord e.line false 0

/-- The LC's table with an entry added (R215). -/
def State.addHandle (s : State) (e : HEntry) : State := { s with lc := { s.lc with handles := s.lc.handles ++ [e] } }

/-- RLOPEN (R216, R372): the table entry is made at hand-off, the handle written at the grant. One of a row whose grant is
still to come waits for it (log 94). -/
def execRlopen (h a : SReg) (s : State) : Out := s.finish do
  s.bankFault
  let va ← s.useS a
  s.claimS h
  let (l, ro) ← s.rowTarget va
  match s.lc.handles.find? (fun e => !e.lost && e.line == l) with
  | some e => if e.granted then .ok (s.setS h (e.handle.setWidth 64)).retire else .error .wait
  | none => match s.lc.handles.find? (fun e => !e.lost && e.line.sameSlot l) with
    | some e => s.raise .rowLineLimit (0x1_0000_0000 + e.limitWord.setWidth 64)
    | none =>
      if 64 ≤ s.lc.handles.length then s.raise .rowLineLimit 64
      else
        let u ← (s.claim h).addHandle ⟨0, l, ro, false, false⟩ |>.passB (.open h l ro)
        .ok u.retire

/-- RLREL (R218): the entry leaves the table at hand-off. -/
def execRlrel (h : SReg) (s : State) : Out := s.finish do
  s.bankFault
  let v ← s.useS h
  let e ← s.useHandle v
  let t := { s with lc := { s.lc with handles := s.lc.handles.erase e } }
  let u ← t.passB (.release e.handle e.line)
  .ok u.retire

/-- RLSTAT (R219). -/
def execRlstat (h d : SReg) (s : State) : Out := s.finish do
  let v ← s.useS h
  s.claimS d
  let u ← (s.claim d).passB (.stat d v)
  .ok u.retire

/-- The live entry of a source handle, for an operation that has one. -/
def State.sourceOf (s : State) (o : BkOp) (x : Dword) : Except Halt (Option HEntry) := do
  if o.sourced then
    let e ← s.useHandle x
    .ok (some e)
  else .ok none

/-- BKOP (R222, R223, R335): its checks in their order, then the B stream. -/
def execBkop (h a b : SReg) (w : Bool) (o : BkOp) (s : State) : Out := s.finish do
  s.guard { types := [(3, !(w && (o == .lse || o == .fadd)))], vector := false, bits := 0 }
  s.bankFault
  let hv ← s.useS h
  let x ← s.useS a
  let y ← s.useS b
  let d ← s.useHandle hv
  let src ← s.sourceOf o x
  if src.any (fun e => e.line.stack != d.line.stack || e.line.unit != d.line.unit) then s.bankInvalid x
  else if d.ro then .error (.trap { s.report .storeAccess hv with bank := true })
  else if o == .fadd && (x.toNat % 4 != 0 || decide (1024 ≤ x.toNat)) then s.bankInvalid x
  else
    let scalar : Dword := if o == .scale then x else y
    let u ← s.passB (.op o w d.line (src.map (·.line)) (scalar.setWidth 32) (if o == .fadd then x.toNat else 0)
      d.handle ((src.map (·.handle)).getD 0))
    .ok u.retire

/-- BKWAVE (R225, R226, R337): the descriptor is read as an S-stream load. -/
def execBkwave (a : SReg) (s : State) : Out := s.finish do
  s.bankFault
  let va ← s.useS a
  if !aligned va 64 then s.bankInvalid va
  else
    let (t, x, _) ← s.load va 64
    let d := waveOf va x s.lc.bnkwin
    if d.invalid (x >>> 480) then .error (.trapIn t (s.report .bankCommandInvalid va))
    else
      let u ← t.passB (.wave d)
      .ok u.retire

/-- Whether a bank command is a BKOP or a wave. -/
def BKind.computes (k : BKind) : Bool :=
  match k with
  | .op .. | .wave _ => true
  | _ => false

/-- BKFENCE (R179): s0 covers every earlier BKOP and BKWAVE, a live handle the BKOPs that name it. -/
def execBkfence (h : SReg) (s : State) : Out := s.finish do
  s.bankFault
  if h = 0 then
    if s.bankWork.any (·.kind.computes) then .error .wait else .ok s.retire
  else
    let v ← s.useS h
    let e ← s.useHandle v
    if s.bankWork.any (·.kind.namesHandle e.handle) then .error .wait else .ok s.retire

end Sys2Proof.Machine
end

