-- ==== Sys2Proof/Machine/Branch.lean ====
section
/-! DEFINITION. Branch.lean: conditional branches and jumps, MAJ 10 to 17 (R334, R354). -/

namespace Sys2Proof.Machine

/-- A conditional branch: both registers are compared; the target is not checked here, and a fetch fault is raised at
it (R334). -/
def State.branch (s : State) (a b : SReg) (o : BitVec 14) (taken : Dword → Dword → Bool) : Except Halt State := do
  let x ← s.useS a
  let y ← s.useS b
  .ok (if taken x y then s.retireAt (s.lc.pc + (wordOffset o).setWidth 57) else s.retire)

/-- BEQ (R334). -/
def execBeq (a b : SReg) (o : BitVec 14) (s : State) : Out := s.finish (s.branch a b o (· == ·))
/-- BNE (R334). -/
def execBne (a b : SReg) (o : BitVec 14) (s : State) : Out := s.finish (s.branch a b o (· != ·))
/-- BLT (R334). -/
def execBlt (a b : SReg) (o : BitVec 14) (s : State) : Out := s.finish (s.branch a b o BitVec.slt)
/-- BGE (R334). -/
def execBge (a b : SReg) (o : BitVec 14) (s : State) : Out := s.finish (s.branch a b o (fun x y => !x.slt y))
/-- BLTU (R334). -/
def execBltu (a b : SReg) (o : BitVec 14) (s : State) : Out := s.finish (s.branch a b o BitVec.ult)
/-- BGEU (R334). -/
def execBgeu (a b : SReg) (o : BitVec 14) (s : State) : Out := s.finish (s.branch a b o (fun x y => !x.ult y))

/-- The address after the instruction, as JAL and JALR write it: PC + 4 of the 57-bit PC (R35, R354). -/
def State.nextPc (s : State) : Dword := s.lc.pc.setWidth 64 + 4

/-- A jump to `t`: its causes precisely at the jump, sd unchanged by them, then the link and the transfer; the second
cause is JALR's alone (R354). -/
def State.jump (s : State) (d : SReg) (t : Dword) (register : Bool) : Except Halt State := do
  s.claimS d
  if field t 57 7 ≠ 0 then s.raise .fetchAccess t
  else if register && field t 0 2 != 0 then s.raise .misalignedFetch t
  else .ok ((s.setS d s.nextPc).retireAt (t.setWidth 57))

/-- JAL (R354). -/
def execJal (d : SReg) (i : BitVec 20) (s : State) : Out := s.finish (s.jump d (s.lc.pc.setWidth 64 + wordOffset i) false)

/-- JALR (R354): sa is read before sd is written. -/
def execJalr (d a : SReg) (i : BitVec 14) (s : State) : Out := s.finish do
  let x ← s.useS a
  s.jump d (x + imm i) true

end Sys2Proof.Machine
end

