-- ==== Sys2Proof/Machine/CopyOps.lean ====
section
/-! DEFINITION. CopyOps.lean: the hand-off of the copy commands, MAJ 38 (R157 to R159, R164, R426 to R431), and their
meanings. What a transfer does is in Copy.lean. -/

namespace Sys2Proof.Machine

/-! ### Hand-off -/

/-- A fault pending on a channel is raised at the LC's next command to it, XWAIT on it or EXIT (R164): its record
carries the transfer's identifier and XWP. -/
def State.chanFault (s : State) (h : BitVec 2) : Except Halt Unit :=
  let c := s.lc.chans[h.toNat]
  match c.err with
  | none => .ok ()
  | some (k, va) =>
    let id := (c.cmds.head?.map (·.id)).getD 0
    .error (.trapIn (s.updChan h (fun c => { c with raised := true }))
      { s.report k va with copy := true, xid := id, first := c.wp.toNat })

/-- Steps 1 and 2 of R426: a pending fault, then COPY_ID_WRAP. -/
def State.chanReady (s : State) (h : BitVec 2) : Except Halt Unit := do
  s.chanFault h
  if (s.lc.chans[h.toNat]).next == 0xFFFF_FFFF then s.raise .copyIdWrap (h.setWidth 64) else .ok ()

/-- COPY_CHANNEL_INVALID of a channel (R159). -/
def State.chanInvalid (s : State) (h : BitVec 2) (bad : Bool) : Except Halt Unit :=
  if bad then s.raise .copyChannelInvalid (h.setWidth 64) else .ok ()

/-- Steps 4 and 5 of R426: the command takes its identifier and enters the channel. A full buffer holds the scalar unit
before either. -/
def State.takeCmd (s : State) (d : SReg) (h : BitVec 2) (k : XKind) (dst src : Dword) (len rows : Nat) :
    Except Halt State :=
  let c := s.lc.chans[h.toNat]
  if 8 ≤ c.cmds.length then .error .wait
  else
    let cmd : XCmd := ⟨c.next, k, dst, src, len, rows, s.lc.vec.rowpitch, s.super, s.env⟩
    let t := (s.updChan h (fun c => { c with next := c.next + 1 })).setS d (c.next.setWidth 64)
    .ok (t.passX h cmd).retire

/-- R of R158. -/
def State.copyRows (s : State) : Nat := max 1 s.lc.vec.rowcnt.toNat

/-- Whether two byte ranges share a byte. -/
def rangesMeet (a b : Int) (n m : Nat) : Bool := n != 0 && m != 0 && decide (a < b + m) && decide (b < a + n)

/-- Whether a two-dimensional XCPY reads, from its lowest to its highest source byte, any byte it writes (R159). -/
def copyMeets (dst src : Dword) (pitch : Int) (len rows : Nat) : Bool :=
  let last := (src.toNat : Int) + (rows - 1 : Nat) * pitch
  let lo := min (src.toNat : Int) last
  let hi := max (src.toNat : Int) last
  len != 0 && rangesMeet lo dst.toNat ((hi - lo).toNat + len) (len * rows)

/-! ### XCPY, XDEIL, XRED, XWAIT -/

/-- XCPY (R158 to R160, R427). -/
def execXcpy (d a b : SReg) (h : BitVec 2) (r : Bool) (s : State) : Out := s.finish do
  s.chanReady h
  let dst ← s.useS a
  let src ← s.useS b
  s.claimS d
  let len := s.lc.vec.vl.toNat
  s.chanInvalid h (r && copyMeets dst src s.lc.vec.rowpitch.toInt len s.copyRows)
  s.takeCmd d h (.cpy r) dst src len s.copyRows

/-- XDEIL (R161, R428): it enters its channel once earlier writers of its registers have completed. -/
def execXdeil (d : SReg) (v : VReg) (b : SReg) (h : BitVec 2) (f : BitVec 3) (s : State) : Out := s.finish do
  let n := f.toNat + 1
  s.guard { regs := [(14, decide (v.toNat + n ≤ 31))], bits := 0 }
  s.chanReady h
  let src ← s.useS b
  s.claimS d
  s.chanInvalid h (!aligned src 4)
  if 1024 < s.lc.vec.vl.toNat then s.raise .badControlState 0
  else if s.unperformedV.any (fun e => e.vWrites.any (regsFrom v (n + 1)).contains) then .error .wait
  else s.takeCmd d h (.deil v n) 0 src s.lc.vec.vl.toNat 1

/-- The first page numbers of a destination range. -/
def pagesOf (a : Dword) (n : Nat) : List Nat :=
  if n = 0 then [] else (List.range ((a.toNat + n - 1) / 65536 + 1 - a.toNat / 65536)).map (a.toNat / 65536 + ·)

/-- Whether a page of a deterministic destination is known not to be local HBM (R159): by the physical address of its
leaf, whatever that would raise. One whose walk faults, and a compressed one, are left to the transfer. -/
def State.notLocal (s : State) (page : Nat) : Bool :=
  let va : Dword := BitVec.ofNat 64 (page * 65536)
  inWindow va || (field va 57 7 == 0 && (match s.dev.leafOf (s.space s.super) .store va.toNat with
    | .ok l => !leafC l.entry && !isHbm (leafFrame l.entry * 65536 + (if l.block then va.toNat % 2 ^ 28 else 0))
    | .error _ => false))

/-- XRED (R162, R429, R430). -/
def execXred (d a b : SReg) (h : BitVec 2) (e : Bool) (t : RedTy) (s : State) : Out := s.finish do
  s.chanReady h
  let dst ← s.useS a
  let src ← s.useS b
  s.claimS d
  let w := t.ty.bytes
  let len := s.lc.vec.vl.toNat
  let n := len * s.copyRows * w
  let count := field s.lc.redgrp 8 6
  let rank := field s.lc.redgrp 0 4
  s.chanInvalid h (!aligned dst w || !aligned src w || rangesMeet dst.toNat src.toNat n n
    || (e && (pagesOf dst n).any s.notLocal))
  if e && decide (16 < count) then s.raise .deterministicSlotOverflow (BitVec.ofNat 64 count)
  else if e && (count == 0 || decide (count ≤ rank)) then s.raise .reductionGroupInvalid 0
  else s.takeCmd d h (.red t e s.lc.redgrp) dst src len s.copyRows

/-- XWAIT (R163, R431). -/
def execXwait (a : SReg) (h : BitVec 2) (s : State) : Out := s.finish do
  s.chanFault h
  let x ← s.useS a
  let c := s.lc.chans[h.toNat]
  s.chanInvalid h (decide (c.next.toNat ≤ x.toNat))
  if c.done.toNat ≤ x.toNat then .error .wait else .ok s.retire

end Sys2Proof.Machine
end

