-- ==== Sys2Proof/Decode.lean ====
section
/-! DEFINITION. Decode.lean: the decoder, total on every word, and the encoder. The decoder makes steps 1 to 3 of
R103 (illegal opcode, placement, reserved field, each with the TVAL of R445); the encoder writes the layouts of R88
to R102. -/

namespace Sys2Proof

/-- Why a word is not an instruction: steps 1 to 3 of R103. -/
inductive DecodeFault where
  | illegalOpcode
  | placementUnsupported
  /-- the lowest offending bit number (R445) -/
  | reservedField (bit : Nat)
  deriving DecidableEq, Repr

/-- Bits [lo + n - 1 : lo] of a word. -/
abbrev fld (w : IWord) (lo n : Nat) : BitVec n := w.extractLsb' lo n

/-- One bit of a word. -/
abbrev flag (w : IWord) (i : Nat) : Bool := w.getLsbD i

/-- The lowest set bit of a word, looking at bits below `n`. -/
def lowestBelow (w : IWord) : Nat → Option Nat
  | 0 => none
  | n + 1 => match lowestBelow w n with
    | some i => some i
    | none => if w.getLsbD n then some n else none

/-- Step 3 of R103 for a word whose reserved bits are `res` and whose reserved values stand at the bits of `bad`. -/
def accept (w res : IWord) (bad : List Nat) (i : Instr) : Except DecodeFault Instr :=
  match ((lowestBelow (w &&& res) 32).toList ++ bad).min? with
  | some b => .error (.reservedField b)
  | none => .ok i

/-- The bit number of a reserved value, when the condition holds. -/
def badAt (c : Bool) (bit : Nat) : List Nat := if c then [bit] else []

/-- Element-type codes of R85. -/
def Ty.ofCode (c : BitVec 4) : Ty :=
  match c.toNat with
  | 0 => .f64 | 1 => .f32 | 2 => .f16 | 3 => .bf16 | 4 => .e4m3 | 5 => .e5m2 | 6 => .i64 | 7 => .n64
  | 8 => .i32 | 9 => .n32 | 10 => .i8 | 11 => .n8 | 12 => .mx8 | 13 => .mx6 | 14 => .mx6b | _ => .mx4

/-- The code of an element type (R85). -/
def Ty.code : Ty → BitVec 4
  | .f64 => 0 | .f32 => 1 | .f16 => 2 | .bf16 => 3 | .e4m3 => 4 | .e5m2 => 5 | .i64 => 6 | .n64 => 7
  | .i32 => 8 | .n32 => 9 | .i8 => 10 | .n8 => 11 | .mx8 => 12 | .mx6 => 13 | .mx6b => 14 | .mx4 => 15

/-- Predicate codes of R97. -/
def CmpPred.ofCode (c : BitVec 3) : CmpPred :=
  match c.toNat with
  | 0 => .eq | 1 => .ne | 2 => .lt | 3 => .le | 4 => .gt | 5 => .ge | 6 => .un | _ => .ord

/-- The code of a predicate. -/
def CmpPred.code : CmpPred → BitVec 3
  | .eq => 0 | .ne => 1 | .lt => 2 | .le => 3 | .gt => 4 | .ge => 5 | .un => 6 | .ord => 7

/-- Operation codes of VAMO and VAMON (R91); 7 is reserved. -/
def VamoOp.ofCode (c : BitVec 3) : VamoOp :=
  match c.toNat with
  | 0 => .add | 1 => .min | 2 => .max | 3 => .and | 4 => .or | 5 => .xor | _ => .swap

/-- The code of a VAMO operation. -/
def VamoOp.code : VamoOp → BitVec 3
  | .add => 0 | .min => 1 | .max => 2 | .and => 3 | .or => 4 | .xor => 5 | .swap => 6

/-- Operation codes of AMO (R331); 0xB to 0xF are not listed. -/
def AmoOp.ofCode? (c : BitVec 4) : Option AmoOp :=
  match c.toNat with
  | 0 => some .swap | 1 => some .add | 2 => some .and | 3 => some .or | 4 => some .xor | 5 => some .min
  | 6 => some .max | 7 => some .minu | 8 => some .maxu | 9 => some .fadd | 10 => some .cas | _ => none

/-- The code of an AMO operation. -/
def AmoOp.code : AmoOp → BitVec 4
  | .swap => 0 | .add => 1 | .and => 2 | .or => 3 | .xor => 4 | .min => 5 | .max => 6 | .minu => 7
  | .maxu => 8 | .fadd => 9 | .cas => 10

/-- Operation codes of BKOP less 0x10 (R223). -/
def BkOp.ofCode (c : BitVec 3) : BkOp :=
  match c.toNat with
  | 0 => .zero | 1 => .copy | 2 => .add | 3 => .scale | 4 => .axpy | 5 => .max | 6 => .lse | _ => .fadd

/-- The code of a bank operation, less 0x10. -/
def BkOp.code : BkOp → BitVec 3
  | .zero => 0 | .copy => 1 | .add => 2 | .scale => 3 | .axpy => 4 | .max => 5 | .lse => 6 | .fadd => 7

/-- Type codes of XRED (R100). -/
def RedTy.ofCode (c : BitVec 3) : RedTy :=
  match c.toNat with
  | 0 => .f64 | 1 => .f32 | 2 => .f16 | 3 => .bf16 | 4 => .i64 | 5 => .n64 | 6 => .i32 | _ => .n32

/-- The code of an XRED type. -/
def RedTy.code : RedTy → BitVec 3
  | .f64 => 0 | .f32 => 1 | .f16 => 2 | .bf16 => 3 | .i64 => 4 | .n64 => 5 | .i32 => 6 | .n32 => 7

/-! ### The majors -/

/-- MAJ 01, layout S (R94). -/
def decInt (w : IWord) : Except DecodeFault Instr :=
  let d : SReg := fld w 20 6; let a : SReg := fld w 14 6; let b : SReg := fld w 8 6
  match (fld w 0 8).toNat with
  | 0x00 => accept w 0 [] (.add d a b)
  | 0x01 => accept w 0 [] (.sub d a b)
  | 0x02 => accept w 0 [] (.mul d a b)
  | 0x03 => accept w 0 [] (.mulh d a b)
  | 0x04 => accept w 0 [] (.mulhu d a b)
  | 0x05 => accept w 0 [] (.div d a b)
  | 0x06 => accept w 0 [] (.divu d a b)
  | 0x07 => accept w 0 [] (.rem d a b)
  | 0x08 => accept w 0 [] (.remu d a b)
  | 0x09 => accept w 0 [] (.and d a b)
  | 0x0A => accept w 0 [] (.or d a b)
  | 0x0B => accept w 0 [] (.xor d a b)
  | 0x0C => accept w 0 [] (.shl d a b)
  | 0x0D => accept w 0 [] (.shr d a b)
  | 0x0E => accept w 0 [] (.sra d a b)
  | 0x0F => accept w 0 [] (.slt d a b)
  | 0x10 => accept w 0 [] (.sltu d a b)
  | 0x11 => accept w 0 [] (.min d a b)
  | 0x12 => accept w 0 [] (.max d a b)
  | 0x13 => accept w 0x3F00 [] (.clz d a)
  | 0x14 => accept w 0x3F00 [] (.popc d a)
  | 0x15 => accept w 0 [] (.csel d a b)
  | _ => .error .illegalOpcode

/-- MAJ 07, layout SI with the selector in imm14[13:12] (R89, R94). -/
def decShiftImm (w : IWord) : Except DecodeFault Instr :=
  let d : SReg := fld w 20 6; let a : SReg := fld w 14 6; let n : BitVec 6 := fld w 0 6
  match (fld w 12 2).toNat with
  | 0 => accept w 0xFC0 [] (.shli d a n)
  | 1 => accept w 0xFC0 [] (.shri d a n)
  | 2 => accept w 0xFC0 [] (.srai d a n)
  | _ => .error .illegalOpcode

/-- MAJ 0E, layout SA (R331). -/
def decAmo (w : IWord) : Except DecodeFault Instr :=
  match AmoOp.ofCode? (fld w 0 4) with
  | some o => accept w 0 [] (.amo (fld w 20 6) (fld w 14 6) (fld w 12 2) (fld w 10 2) (fld w 4 6) o)
  | none => .error .illegalOpcode

/-- MAJ 18, layout S (R95). -/
def decFp (w : IWord) : Except DecodeFault Instr :=
  let d : SReg := fld w 20 6; let a : SReg := fld w 14 6; let b : SReg := fld w 8 6
  let t : BitVec 3 := fld w 0 3; let e := Ty.ofCode (fld w 8 4)
  match (fld w 3 5).toNat with
  | 0x00 => accept w 0 [] (.fadd d a b t)
  | 0x01 => accept w 0 [] (.fsub d a b t)
  | 0x02 => accept w 0 [] (.fmul d a b t)
  | 0x03 => accept w 0 [] (.fdiv d a b t)
  | 0x04 => accept w 0x3F00 [] (.fsqrt d a t)
  | 0x05 => accept w 0 [] (.fma d a b t)
  | 0x06 => accept w 0 [] (.fmin d a b t)
  | 0x07 => accept w 0 [] (.fmax d a b t)
  | 0x08 => accept w 0 [] (.fcmp d a b t)
  | 0x09 => accept w 0x3F00 [] (.fclass d a t)
  | 0x0A => accept w 0x3000 [] (.fcvtFromFp d a e t)
  | 0x0B => accept w 0x3000 [] (.fcvtFromInt d a e t)
  | _ => .error .illegalOpcode

/-- MAJ 19, layout SC (R96). -/
def decCsr (w : IWord) : Except DecodeFault Instr :=
  let r : SReg := fld w 20 6; let c : BitVec 14 := fld w 0 14
  match (fld w 14 6).toNat with
  | 0 => accept w 0 [] (.csrr r c)
  | 1 => accept w 0 [] (.csrw r c)
  | 2 => accept w 0 [] (.csrs r c)
  | 3 => accept w 0 [] (.csrc r c)
  | _ => .error .illegalOpcode

/-- MAJ 1B, layout S (R370). -/
def decQueue (w : IWord) : Except DecodeFault Instr :=
  match (fld w 0 8).toNat with
  | 0 => accept w 0x03F03800 [] (.qsend (fld w 14 6) (fld w 8 3))
  | 1 => accept w 0x000FF800 [] (.qrecv (fld w 20 6) (fld w 8 3))
  | 2 => accept w 0x000FF800 [] (.qstat (fld w 20 6) (fld w 8 3))
  | _ => .error .illegalOpcode

/-- MAJ 1C, layouts S and SN (R96). -/
def decSync (w : IWord) : Except DecodeFault Instr :=
  let d : SReg := fld w 20 6; let a : SReg := fld w 14 6; let b : SReg := fld w 8 6
  match (fld w 0 8).toNat with
  | 0x00 => accept w 0x03FFFF00 [] (.fence 0)
  | 0x01 => accept w 0x03FFFF00 [] (.fence 1)
  | 0x02 => accept w 0x03FFFF00 [] (.fence 2)
  | 0x03 => accept w 0x03FFFF00 [] (.fence 3)
  | 0x04 => accept w 0x03FF0000 [] (.sbar (fld w 8 8))
  | 0x08 => accept w 0 [] (.nexts (fld w 8 18))
  | 0x09 => accept w 0x03FFFF00 [] .exit
  | 0x0A => accept w 0x03FFFF00 [] .yieldLc
  | 0x0C => accept w 0x3F00 [] (.spawn d a)
  | 0x10 => accept w 0 [] (.mwait d a b)
  | 0x14 => accept w 0x03F03F00 [] (.gjoin a)
  | 0x15 => accept w 0x03F03F00 [] (.gleave a)
  | 0x16 => accept w 0x03F03F00 [] (.gbar a)
  | 0x18 => accept w 0x03F03F00 [] (.post a)
  | 0x19 => accept w 0x03F03F00 [] (.waiti a)
  | 0x1C => accept w 0x3F00 [] (.probe d a)
  | 0x20 => accept w 0x03F03F00 [] (.cwb a)
  | 0x21 => accept w 0x03F03F00 [] (.cinv a)
  | _ => .error .illegalOpcode

/-- MAJ 20, layout V (R97). -/
def decVBin (w : IWord) : Except DecodeFault Instr :=
  let p := flag w 25; let d : VReg := fld w 20 5; let a : VReg := fld w 15 5; let b : VReg := fld w 10 5
  let t := Ty.ofCode (fld w 6 4)
  match (fld w 0 6).toNat with
  | 0x00 => accept w 0 [] (.vadd p d a b t)
  | 0x01 => accept w 0 [] (.vsub p d a b t)
  | 0x02 => accept w 0 [] (.vmul p d a b t)
  | 0x03 => accept w 0 [] (.vdiv p d a b t)
  | 0x04 => accept w 0 [] (.vmin p d a b t)
  | 0x05 => accept w 0 [] (.vmax p d a b t)
  | 0x06 => accept w 0 [] (.vand p d a b t)
  | 0x07 => accept w 0 [] (.vor p d a b t)
  | 0x08 => accept w 0 [] (.vxor p d a b t)
  | 0x09 => accept w 0 [] (.vshl p d a b t)
  | 0x0A => accept w 0 [] (.vshr p d a b t)
  | 0x0B => accept w 0 [] (.vsra p d a b t)
  | _ => .error .illegalOpcode

/-- MAJ 21, layout VS (R97). -/
def decVBinS (w : IWord) : Except DecodeFault Instr :=
  let p := flag w 25; let d : VReg := fld w 20 5; let a : VReg := fld w 15 5; let b : SReg := fld w 9 6
  let t := Ty.ofCode (fld w 5 4)
  match (fld w 0 5).toNat with
  | 0x00 => accept w 0 [] (.vaddVs p d a b t)
  | 0x01 => accept w 0 [] (.vsubVs p d a b t)
  | 0x02 => accept w 0 [] (.vmulVs p d a b t)
  | 0x03 => accept w 0 [] (.vdivVs p d a b t)
  | 0x04 => accept w 0 [] (.vminVs p d a b t)
  | 0x05 => accept w 0 [] (.vmaxVs p d a b t)
  | 0x06 => accept w 0 [] (.vandVs p d a b t)
  | 0x07 => accept w 0 [] (.vorVs p d a b t)
  | 0x08 => accept w 0 [] (.vxorVs p d a b t)
  | 0x09 => accept w 0 [] (.vshlVs p d a b t)
  | 0x0A => accept w 0 [] (.vshrVs p d a b t)
  | 0x0B => accept w 0 [] (.vsraVs p d a b t)
  | 0x10 => accept w 0x000F8000 [] (.vbcast p d b t)
  | 0x11 => accept w 0 [] (.vslide p d a b t)
  | 0x12 => accept w 0x01F00000 [] (.vextract p a b t)
  | _ => .error .illegalOpcode

/-- MAJ 22 to 25, layout V (R97). -/
def decVTern (w : IWord) : Except DecodeFault Instr :=
  let p := flag w 25; let d : VReg := fld w 20 5; let a : VReg := fld w 15 5; let b : VReg := fld w 10 5
  let t := Ty.ofCode (fld w 6 4)
  match (fld w 0 6).toNat with
  | 0x00 => accept w 0 [] (.vma p d a b t)
  | 0x01 => accept w 0 [] (.vms p d a b t)
  | 0x02 => accept w 0 [] (.vnma p d a b t)
  | _ => .error .illegalOpcode

/-- MAJ 23, layout V (R97, R399, R409). -/
def decVUnary (w : IWord) : Except DecodeFault Instr :=
  let p := flag w 25; let d : VReg := fld w 20 5; let a : VReg := fld w 15 5
  let t := Ty.ofCode (fld w 6 4); let e := Ty.ofCode (fld w 10 4); let s := flag w 14
  match (fld w 0 6).toNat with
  | 0x00 => accept w 0x7C00 [] (.vneg p d a t)
  | 0x01 => accept w 0x7C00 [] (.vabs p d a t)
  | 0x02 => accept w 0x7C00 [] (.vsqrt p d a t)
  | 0x03 => accept w 0x7C00 [] (.vrcp p d a t)
  | 0x04 => accept w 0x7C00 [] (.vrsq p d a t)
  | 0x05 => accept w 0x7C00 [] (.vexp2 p d a t)
  | 0x06 => accept w 0x7C00 [] (.vlog2 p d a t)
  | 0x07 => accept w 0x7C00 [] (.vclass p d a t)
  | 0x08 => accept w 0x7C00 [] (.vmov p d a t)
  | 0x09 => accept w 0xFFC00 [] (.viota p d t)
  | 0x10 => accept w 0 (badAt (s && !satAllowed e t) 14) (.vcvt p d a s e t)
  | _ => .error .illegalOpcode

/-- MAJ 24, layout V (R97). -/
def decVCmp (w : IWord) : Except DecodeFault Instr :=
  let p := flag w 25; let d : VReg := fld w 20 5; let a : VReg := fld w 15 5; let b : VReg := fld w 10 5
  let t := Ty.ofCode (fld w 6 4)
  match (fld w 3 3).toNat with
  | 0 => accept w 0 [] (.vcmp p d a b t (CmpPred.ofCode (fld w 0 3)))
  | 1 => if fld w 0 3 = 0 then accept w 0 [] (.vsel p d a b t) else .error .illegalOpcode
  | _ => .error .illegalOpcode

/-- MAJ 25, layout V (R97, R417). -/
def decVPerm (w : IWord) : Except DecodeFault Instr :=
  let p := flag w 25; let d : VReg := fld w 20 5; let a : VReg := fld w 15 5; let b : VReg := fld w 10 5
  let t := Ty.ofCode (fld w 6 4)
  match (fld w 0 6).toNat with
  | 0x00 => accept w 0 [] (.vperm p d a b t)
  | 0x01 => accept w 0x7C00 [] (.vcompress p d a t)
  | 0x02 => accept w 0x01F06000 [] (.vqsend p a (fld w 10 3) t)
  | 0x03 => accept w 0x000FE000 [] (.vqrecv p d (fld w 10 3) t)
  | _ => .error .illegalOpcode

/-- MAJ 26, layout V with fn[5] = .seg (R97, R419). -/
def decVRed (w : IWord) : Except DecodeFault Instr :=
  let p := flag w 25; let d : VReg := fld w 20 5; let a : VReg := fld w 15 5; let b : VReg := fld w 10 5
  let t := Ty.ofCode (fld w 6 4); let g := flag w 5
  let res : IWord := if g then 0 else 0x7C00
  match (fld w 0 5).toNat with
  | 0x00 => accept w res [] (.vredsum p d a b t g)
  | 0x01 => accept w res [] (.vredosum p d a b t g)
  | 0x02 => accept w res [] (.vredmax p d a b t g)
  | 0x03 => accept w res [] (.vredmin p d a b t g)
  | 0x04 => accept w res [] (.vargmax p d a b t g)
  | 0x05 => accept w res [] (.vargmin p d a b t g)
  | 0x08 => accept w res [] (.vscan p d a b t g)
  | _ => .error .illegalOpcode

/-- Steps 2 and 3 of R103 for a word that has no placed form. -/
def unplaced (w : IWord) (r : Except DecodeFault Instr) : Except DecodeFault Instr :=
  if flag w 25 then .error .placementUnsupported else r

/-- MAJ 27, layouts V and VS (R90, R355). -/
def decMask (w : IWord) : Except DecodeFault Instr :=
  let k : VReg := fld w 20 5; let a : VReg := fld w 15 5; let b : VReg := fld w 10 5; let d : SReg := fld w 9 6
  match (fld w 0 5).toNat with
  | 0x00 => unplaced w (accept w 0x3E0 [] (.kand k a b))
  | 0x01 => unplaced w (accept w 0x3E0 [] (.kor k a b))
  | 0x02 => unplaced w (accept w 0x3E0 [] (.kxor k a b))
  | 0x03 => unplaced w (accept w 0x7FE0 [] (.knot k a))
  | 0x04 => unplaced w (accept w 0x7FE0 [] (.kmov k a))
  | 0x05 => unplaced w (accept w 0x01F001E0 [] (.kpop a d))
  | 0x06 => unplaced w (accept w 0x01F001E0 [] (.kfirst a d))
  | _ => .error .illegalOpcode

/-- MAJ 28 and 29, layout VM: the addressing modes of R91, am 5 by R103 step 2 and R201. -/
def decVMem (w : IWord) (mk : AMode → Instr) : Except DecodeFault Instr :=
  let x : VReg := fld w 0 5
  match (fld w 11 3).toNat with
  | 0 => accept w 0x1F [] (mk .unit)
  | 1 => accept w 0x1F [] (mk .strided)
  | 2 => accept w 0 [] (mk (.indexed x))
  | 3 => accept w 0 (badAt (!(decide (1 ≤ x.toNat) && decide (x.toNat ≤ 7))) 0) (mk (.segment x))
  | 4 => accept w 0x1F [] (mk .tile)
  | 5 => if flag w 25 then accept w 0x000FC000 [] (mk (.stream x)) else .error .placementUnsupported
  | _ => .error (.reservedField 11)

/-- MAJ 2A and 2B, layout VM with the operation in [13:11] (R91). -/
def decVamo (w : IWord) (mk : VamoOp → Instr) : Except DecodeFault Instr :=
  accept w 0 (badAt (fld w 11 3 == 7) 11) (mk (VamoOp.ofCode (fld w 11 3)))

/-- MAJ 30, layout S (R99). -/
def decTile (w : IWord) : Except DecodeFault Instr :=
  let d : SReg := fld w 20 6; let a : SReg := fld w 14 6; let t : TReg := fld w 8 3
  match (fld w 0 8).toNat with
  | 0x00 => accept w 0x3F00 [] (.tshape d a)
  | 0x01 => accept w 0x03FFFF00 [] .ten
  | 0x02 => accept w 0x03FFFF00 [] .tdis
  | 0x03 => accept w 0x03FFF800 [] (.tzero t)
  | 0x04 => accept w 0x3000 [] (.tslice d a (flag w 11) t)
  | _ => .error .illegalOpcode

/-- MAJ 31 and 32, layout VM with am 4 (R98). -/
def decTMem (w : IWord) (i : Instr) : Except DecodeFault Instr :=
  if flag w 25 || fld w 11 3 == 5 then .error .placementUnsupported
  else accept w 0x1F (badAt (fld w 11 3 != 4) 11) i

/-- MAJ 33 and 34, layout T (R99, R361). -/
def decMatrix (w : IWord) (x : Bool) : Except DecodeFault Instr :=
  let c : AccReg := fld w 22 4; let a : TReg := fld w 19 3; let b : TReg := fld w 16 3
  let ta := Ty.ofCode (fld w 12 4); let tb := Ty.ofCode (fld w 8 4); let s := flag w 4
  if fld w 0 4 ≠ 0 then .error .illegalOpcode
  else
    accept w 0x80 (badAt (flag w 5 && ta != .mx8) 5 ++ badAt (flag w 6 && tb != .mx8) 6)
      (if x then .mmax c a b ta tb (flag w 6) (flag w 5) s else .mma c a b ta tb ⟨flag w 6, flag w 5, s⟩)

/-- MAJ 35, layout S (R327). -/
def decAcc (w : IWord) : Except DecodeFault Instr :=
  let d : SReg := fld w 20 6; let a : SReg := fld w 14 6; let c : AccReg := fld w 8 4
  match (fld w 0 8).toNat with
  | 0x00 => accept w 0x3000 [] (.accrd d a c)
  | 0x01 => accept w 0x3000 [] (.accwr d a c)
  | 0x02 => accept w 0x03FFF000 [] (.accz c)
  | _ => .error .illegalOpcode

/-- MAJ 38, layout X (R100). -/
def decCopy (w : IWord) : Except DecodeFault Instr :=
  let d : SReg := fld w 20 6; let a : SReg := fld w 14 6; let b : SReg := fld w 8 6; let h : BitVec 2 := fld w 6 2
  match (fld w 4 2).toNat with
  | 0 => accept w 0xE [] (.xcpy d a b h (flag w 0))
  | 1 => accept w 0x80008 (badAt (fld w 0 3 == 0) 0) (.xdeil d (fld w 14 5) b h (fld w 0 3))
  | 2 => accept w 0 [] (.xred d a b h (flag w 3) (RedTy.ofCode (fld w 0 3)))
  | _ => accept w 0x03F03F0F [] (.xwait a h)

/-- MAJ 39, layout S (R101). -/
def decStack (w : IWord) : Except DecodeFault Instr :=
  let d : SReg := fld w 20 6; let a : SReg := fld w 14 6; let b : SReg := fld w 8 6
  match (fld w 0 8).toNat with
  | 0x00 => accept w 0x3F00 [] (.skbind d a)
  | 0x01 => accept w 0x03F00000 [] (.skloop a b)
  | 0x02 => accept w 0x03FFFF00 [] .skend
  | 0x03 => accept w 0x03FFFF00 [] .skfence
  | 0x04 => accept w 0x3F00 [] (.skstrm d a)
  | _ => .error .illegalOpcode

/-- The reserved bits of a BKOP word: the register fields its operation does not use (R222). -/
def bkopRes (o : BkOp) : IWord :=
  (if o.uses.1 then 0 else 0xFC000) ||| (if o.uses.2 then 0 else 0x3F00)

/-- MAJ 3A, layout K (R101, R222). -/
def decBank (w : IWord) : Except DecodeFault Instr :=
  let h : SReg := fld w 20 6; let a : SReg := fld w 14 6; let b : SReg := fld w 8 6
  let o := BkOp.ofCode (fld w 0 3)
  match (fld w 0 7).toNat with
  | 0x00 => accept w 0x3F80 [] (.rlopen h a)
  | 0x01 => accept w 0xFFF80 [] (.rlrel h)
  | 0x02 => accept w 0x3F80 [] (.rlstat h a)
  | 0x20 => accept w 0x03F03F80 [] (.bkwave a)
  | 0x21 => accept w 0xFFF80 [] (.bkfence h)
  | _ => if fld w 3 4 = 2 then accept w (bkopRes o) [] (.bkop h a b (flag w 7) o) else .error .illegalOpcode

/-- MAJ 3B, layouts V and VS (R90, R102). -/
def decGen (w : IWord) : Except DecodeFault Instr :=
  let k : VReg := fld w 20 5; let a : VReg := fld w 15 5; let b : SReg := fld w 9 6
  let tv := Ty.ofCode (fld w 6 4); let ts := Ty.ofCode (fld w 5 4)
  match (fld w 0 5).toNat with
  | 0x00 => unplaced w (accept w 0x7C20 [] (.urank k a tv))
  | 0x01 => unplaced w (accept w 0 [] (.ucommit k a b ts))
  | 0x02 => unplaced w (accept w 0xF81E0 [] (.udirty k b))
  | 0x03 => unplaced w (accept w 0x01FF81E0 [] (.ucfg b))
  | 0x08 => unplaced w (accept w 0 [] (.smpstep k a b ts))
  | 0x09 => unplaced w (accept w 0 [] (.vaccept k a b ts))
  | 0x0A => unplaced w (accept w 0x7FE0 [] (.vpand k a))
  | 0x0B => unplaced w (accept w 0xF8000 [] (.vgumbel k b ts))
  | 0x0C => unplaced w (accept w 0xF8000 [] (.vdraw k b ts))
  | _ => .error .illegalOpcode

/-- MAJ 3C, layout S (R352). -/
def decJournal (w : IWord) : Except DecodeFault Instr :=
  let d : SReg := fld w 20 6; let a : SReg := fld w 14 6; let b : SReg := fld w 8 6
  match (fld w 0 8).toNat with
  | 0x00 => accept w 0 [] (.jadd d a b)
  | 0x01 => accept w 0x03F00000 [] (.jcommit a b)
  | 0x02 => accept w 0x03F03F00 [] (.jdrop a)
  | _ => .error .illegalOpcode

/-- MAJ 3F, layout Y (R102). -/
def decSystem (w : IWord) : Except DecodeFault Instr :=
  match (fld w 20 6).toNat with
  | 0x00 => accept w 0xFFF00 [] (.scall (fld w 0 8))
  | 0x01 => accept w 0xFFF00 [] (.ebreak (fld w 0 8))
  | 0x02 => accept w 0xFFFFF [] .eret
  | 0x03 => accept w 0x20FF [] (.erpl (fld w 14 6) (fld w 8 5))
  | _ => .error .illegalOpcode

/-- The decoder: the major of R93 selects the layout, and steps 1 to 3 of R103 are made in order. -/
def decode (w : IWord) : Except DecodeFault Instr :=
  let s : SReg := fld w 20 6; let a : SReg := fld w 14 6
  let i14 : BitVec 14 := fld w 0 14; let i20 : BitVec 20 := fld w 0 20
  let z : BitVec 2 := fld w 12 2; let c : BitVec 2 := fld w 10 2
  let p := flag w 25; let vt : VReg := fld w 20 5; let x : VReg := fld w 0 5
  let k := flag w 10; let o := flag w 9; let y := Ty.ofCode (fld w 5 4)
  match (fld w 26 6).toNat with
  | 0x01 => decInt w
  | 0x02 => accept w 0 [] (.addi s a i14)
  | 0x03 => accept w 0 [] (.andi s a i14)
  | 0x04 => accept w 0 [] (.ori s a i14)
  | 0x05 => accept w 0 [] (.xori s a i14)
  | 0x06 => accept w 0 [] (.slti s a i14)
  | 0x07 => decShiftImm w
  | 0x08 => accept w 0 [] (.lui s i20)
  | 0x09 => accept w 0 [] (.addpc s i20)
  | 0x0A => accept w 0 (badAt (flag w 11 && z == 3) 11) (.ld s a z (flag w 11) (fld w 0 11))
  | 0x0B => accept w 0x800 [] (.st s a z (fld w 0 11))
  | 0x0C => accept w 0x3FF [] (.lda s a z c)
  | 0x0D => accept w 0x3FF [] (.stl s a z c)
  | 0x0E => decAmo w
  | 0x10 => accept w 0 [] (.beq s a i14)
  | 0x11 => accept w 0 [] (.bne s a i14)
  | 0x12 => accept w 0 [] (.blt s a i14)
  | 0x13 => accept w 0 [] (.bge s a i14)
  | 0x14 => accept w 0 [] (.bltu s a i14)
  | 0x15 => accept w 0 [] (.bgeu s a i14)
  | 0x16 => accept w 0 [] (.jal s i20)
  | 0x17 => accept w 0 [] (.jalr s a i14)
  | 0x18 => decFp w
  | 0x19 => decCsr w
  | 0x1A => accept w 0x3FF0 [] (.setvl s a (Ty.ofCode (fld w 0 4)))
  | 0x1B => decQueue w
  | 0x1C => decSync w
  | 0x20 => decVBin w
  | 0x21 => decVBinS w
  | 0x22 => decVTern w
  | 0x23 => decVUnary w
  | 0x24 => decVCmp w
  | 0x25 => decVPerm w
  | 0x26 => decVRed w
  | 0x27 => decMask w
  | 0x28 => decVMem w (fun m => .vld p vt a m k o y)
  | 0x29 => decVMem w (fun m => .vst p vt a m k o y)
  | 0x2A => decVamo w (fun op => .vamo p vt a op k o y x)
  | 0x2B => decVamo w (fun op => .vamon p vt a op k o y x)
  | 0x30 => decTile w
  | 0x31 => decTMem w (.tld vt a k o y)
  | 0x32 => decTMem w (.tst vt a k o y)
  | 0x33 => decMatrix w false
  | 0x34 => decMatrix w true
  | 0x35 => decAcc w
  | 0x38 => decCopy w
  | 0x39 => decStack w
  | 0x3A => decBank w
  | 0x3B => decGen w
  | 0x3C => decJournal w
  | 0x3F => decSystem w
  | _ => .error .illegalOpcode

/-- The instruction the decoder reads from a word of the opcode table. -/
def decodeTableWord (nbits w : Nat) : Option Instr :=
  match decode (BitVec.ofNat 32 (w % 2 ^ nbits)) with
  | .ok i => some i
  | .error _ => none

/-! ### The encoder (R88 to R102) -/

/-- A Boolean field. -/
abbrev bit1 (b : Bool) : BitVec 1 := BitVec.ofBool b

/-- Layout S. -/
def encS (maj : BitVec 6) (d a b : SReg) (fn : BitVec 8) : IWord := maj ++ d ++ a ++ b ++ fn
/-- Layout SI, and SM and SB, which have the same three fields. -/
def encSI (maj : BitVec 6) (d a : SReg) (i : BitVec 14) : IWord := maj ++ d ++ a ++ i
/-- Layout SU. -/
def encSU (maj : BitVec 6) (d : SReg) (i : BitVec 20) : IWord := maj ++ d ++ i
/-- Layout SA. -/
def encSA (maj : BitVec 6) (d a : SReg) (z c : BitVec 2) (b : SReg) (fn : BitVec 4) : IWord :=
  maj ++ d ++ a ++ z ++ c ++ b ++ fn
/-- Layout V. -/
def encV (maj : BitVec 6) (p : Bool) (d a b : VReg) (t : BitVec 4) (fn : BitVec 6) : IWord :=
  maj ++ bit1 p ++ d ++ a ++ b ++ t ++ fn
/-- Layout VS. -/
def encVS (maj : BitVec 6) (p : Bool) (d a : VReg) (b : SReg) (t : BitVec 4) (fn : BitVec 5) : IWord :=
  maj ++ bit1 p ++ d ++ a ++ b ++ t ++ fn
/-- Layout VM. -/
def encVM (maj : BitVec 6) (p : Bool) (t : VReg) (a : SReg) (am : BitVec 3) (k o : Bool) (y : BitVec 4)
    (x : VReg) : IWord :=
  maj ++ bit1 p ++ t ++ a ++ am ++ bit1 k ++ bit1 o ++ y ++ x
/-- Layout T. -/
def encT (maj : BitVec 6) (c : AccReg) (a b : TReg) (x y : BitVec 4) (fl fn : BitVec 4) : IWord :=
  maj ++ c ++ a ++ b ++ x ++ y ++ fl ++ fn
/-- Layout X. -/
def encX (maj : BitVec 6) (d a b : SReg) (h : BitVec 2) (fn : BitVec 6) : IWord := maj ++ d ++ a ++ b ++ h ++ fn
/-- Layout K. -/
def encK (maj : BitVec 6) (h a b : SReg) (w : Bool) (fn : BitVec 7) : IWord :=
  maj ++ h ++ a ++ b ++ bit1 w ++ fn

/-- The am and x fields of an addressing mode (R91). -/
def AMode.fields : AMode → BitVec 3 × VReg
  | .unit => (0, 0)
  | .strided => (1, 0)
  | .indexed x => (2, x)
  | .segment x => (3, x)
  | .tile => (4, 0)
  | .stream x => (5, x)

/-- Bits [10:5] of a reduction word: the type and .seg (R97). -/
def encRed (p : Bool) (d a b : VReg) (t : Ty) (g : Bool) (fn : BitVec 5) : IWord :=
  encV 0x26 p d a b t.code (bit1 g ++ fn)

/-- The encoder; an event has no word and gives the illegal all-zero word (R93). -/
def encode : Instr → IWord
  | .add d a b => encS 0x01 d a b 0x00
  | .sub d a b => encS 0x01 d a b 0x01
  | .mul d a b => encS 0x01 d a b 0x02
  | .mulh d a b => encS 0x01 d a b 0x03
  | .mulhu d a b => encS 0x01 d a b 0x04
  | .div d a b => encS 0x01 d a b 0x05
  | .divu d a b => encS 0x01 d a b 0x06
  | .rem d a b => encS 0x01 d a b 0x07
  | .remu d a b => encS 0x01 d a b 0x08
  | .and d a b => encS 0x01 d a b 0x09
  | .or d a b => encS 0x01 d a b 0x0A
  | .xor d a b => encS 0x01 d a b 0x0B
  | .shl d a b => encS 0x01 d a b 0x0C
  | .shr d a b => encS 0x01 d a b 0x0D
  | .sra d a b => encS 0x01 d a b 0x0E
  | .slt d a b => encS 0x01 d a b 0x0F
  | .sltu d a b => encS 0x01 d a b 0x10
  | .min d a b => encS 0x01 d a b 0x11
  | .max d a b => encS 0x01 d a b 0x12
  | .clz d a => encS 0x01 d a 0 0x13
  | .popc d a => encS 0x01 d a 0 0x14
  | .csel d a b => encS 0x01 d a b 0x15
  | .addi d a i => encSI 0x02 d a i
  | .andi d a i => encSI 0x03 d a i
  | .ori d a i => encSI 0x04 d a i
  | .xori d a i => encSI 0x05 d a i
  | .slti d a i => encSI 0x06 d a i
  | .shli d a n => encSI 0x07 d a ((0 : BitVec 8) ++ n)
  | .shri d a n => encSI 0x07 d a ((0x40 : BitVec 8) ++ n)
  | .srai d a n => encSI 0x07 d a ((0x80 : BitVec 8) ++ n)
  | .lui d i => encSU 0x08 d i
  | .addpc d i => encSU 0x09 d i
  | .ld d a z x i => encSI 0x0A d a (z ++ bit1 x ++ i)
  | .st s a z i => encSI 0x0B s a (z ++ (0 : BitVec 1) ++ i)
  | .lda d a z c => encSA 0x0C d a z c 0 0
  | .stl s a z c => encSA 0x0D s a z c 0 0
  | .amo d a z c b o => encSA 0x0E d a z c b o.code
  | .beq a b o => encSI 0x10 a b o
  | .bne a b o => encSI 0x11 a b o
  | .blt a b o => encSI 0x12 a b o
  | .bge a b o => encSI 0x13 a b o
  | .bltu a b o => encSI 0x14 a b o
  | .bgeu a b o => encSI 0x15 a b o
  | .jal d i => encSU 0x16 d i
  | .jalr d a i => encSI 0x17 d a i
  | .fadd d a b t => encS 0x18 d a b ((0x00 : BitVec 5) ++ t)
  | .fsub d a b t => encS 0x18 d a b ((0x01 : BitVec 5) ++ t)
  | .fmul d a b t => encS 0x18 d a b ((0x02 : BitVec 5) ++ t)
  | .fdiv d a b t => encS 0x18 d a b ((0x03 : BitVec 5) ++ t)
  | .fsqrt d a t => encS 0x18 d a 0 ((0x04 : BitVec 5) ++ t)
  | .fma d a b t => encS 0x18 d a b ((0x05 : BitVec 5) ++ t)
  | .fmin d a b t => encS 0x18 d a b ((0x06 : BitVec 5) ++ t)
  | .fmax d a b t => encS 0x18 d a b ((0x07 : BitVec 5) ++ t)
  | .fcmp d a b t => encS 0x18 d a b ((0x08 : BitVec 5) ++ t)
  | .fclass d a t => encS 0x18 d a 0 ((0x09 : BitVec 5) ++ t)
  | .fcvtFromFp d a e t => encS 0x18 d a ((0 : BitVec 2) ++ e.code) ((0x0A : BitVec 5) ++ t)
  | .fcvtFromInt d a e t => encS 0x18 d a ((0 : BitVec 2) ++ e.code) ((0x0B : BitVec 5) ++ t)
  | .csrr d c => encSI 0x19 d 0 c
  | .csrw a c => encSI 0x19 a 1 c
  | .csrs a c => encSI 0x19 a 2 c
  | .csrc a c => encSI 0x19 a 3 c
  | .setvl d a t => encS 0x1A d a 0 ((0 : BitVec 4) ++ t.code)
  | .qsend a q => encS 0x1B 0 a ((0 : BitVec 3) ++ q) 0
  | .qrecv d q => encS 0x1B d 0 ((0 : BitVec 3) ++ q) 1
  | .qstat d q => encS 0x1B d 0 ((0 : BitVec 3) ++ q) 2
  | .fence c => encS 0x1C 0 0 0 ((0 : BitVec 6) ++ c)
  | .sbar m => (0x1C : BitVec 6) ++ (0 : BitVec 10) ++ m ++ (0x04 : BitVec 8)
  | .nexts o => (0x1C : BitVec 6) ++ o ++ (0x08 : BitVec 8)
  | .exit => encS 0x1C 0 0 0 0x09
  | .yieldLc => encS 0x1C 0 0 0 0x0A
  | .spawn d a => encS 0x1C d a 0 0x0C
  | .mwait d a b => encS 0x1C d a b 0x10
  | .gjoin a => encS 0x1C 0 a 0 0x14
  | .gleave a => encS 0x1C 0 a 0 0x15
  | .gbar a => encS 0x1C 0 a 0 0x16
  | .post a => encS 0x1C 0 a 0 0x18
  | .waiti a => encS 0x1C 0 a 0 0x19
  | .probe d a => encS 0x1C d a 0 0x1C
  | .cwb a => encS 0x1C 0 a 0 0x20
  | .cinv a => encS 0x1C 0 a 0 0x21
  | .vadd p d a b t => encV 0x20 p d a b t.code 0x00
  | .vsub p d a b t => encV 0x20 p d a b t.code 0x01
  | .vmul p d a b t => encV 0x20 p d a b t.code 0x02
  | .vdiv p d a b t => encV 0x20 p d a b t.code 0x03
  | .vmin p d a b t => encV 0x20 p d a b t.code 0x04
  | .vmax p d a b t => encV 0x20 p d a b t.code 0x05
  | .vand p d a b t => encV 0x20 p d a b t.code 0x06
  | .vor p d a b t => encV 0x20 p d a b t.code 0x07
  | .vxor p d a b t => encV 0x20 p d a b t.code 0x08
  | .vshl p d a b t => encV 0x20 p d a b t.code 0x09
  | .vshr p d a b t => encV 0x20 p d a b t.code 0x0A
  | .vsra p d a b t => encV 0x20 p d a b t.code 0x0B
  | .vaddVs p d a b t => encVS 0x21 p d a b t.code 0x00
  | .vsubVs p d a b t => encVS 0x21 p d a b t.code 0x01
  | .vmulVs p d a b t => encVS 0x21 p d a b t.code 0x02
  | .vdivVs p d a b t => encVS 0x21 p d a b t.code 0x03
  | .vminVs p d a b t => encVS 0x21 p d a b t.code 0x04
  | .vmaxVs p d a b t => encVS 0x21 p d a b t.code 0x05
  | .vandVs p d a b t => encVS 0x21 p d a b t.code 0x06
  | .vorVs p d a b t => encVS 0x21 p d a b t.code 0x07
  | .vxorVs p d a b t => encVS 0x21 p d a b t.code 0x08
  | .vshlVs p d a b t => encVS 0x21 p d a b t.code 0x09
  | .vshrVs p d a b t => encVS 0x21 p d a b t.code 0x0A
  | .vsraVs p d a b t => encVS 0x21 p d a b t.code 0x0B
  | .vbcast p d b t => encVS 0x21 p d 0 b t.code 0x10
  | .vslide p d a b t => encVS 0x21 p d a b t.code 0x11
  | .vextract p a d t => encVS 0x21 p 0 a d t.code 0x12
  | .vma p d a b t => encV 0x22 p d a b t.code 0x00
  | .vms p d a b t => encV 0x22 p d a b t.code 0x01
  | .vnma p d a b t => encV 0x22 p d a b t.code 0x02
  | .vneg p d a t => encV 0x23 p d a 0 t.code 0x00
  | .vabs p d a t => encV 0x23 p d a 0 t.code 0x01
  | .vsqrt p d a t => encV 0x23 p d a 0 t.code 0x02
  | .vrcp p d a t => encV 0x23 p d a 0 t.code 0x03
  | .vrsq p d a t => encV 0x23 p d a 0 t.code 0x04
  | .vexp2 p d a t => encV 0x23 p d a 0 t.code 0x05
  | .vlog2 p d a t => encV 0x23 p d a 0 t.code 0x06
  | .vclass p d a t => encV 0x23 p d a 0 t.code 0x07
  | .vmov p d a t => encV 0x23 p d a 0 t.code 0x08
  | .viota p d t => encV 0x23 p d 0 0 t.code 0x09
  | .vcvt p d a s e t => encV 0x23 p d a (bit1 s ++ e.code) t.code 0x10
  | .vcmp p k a b t c => encV 0x24 p k a b t.code ((0 : BitVec 3) ++ c.code)
  | .vsel p d a b t => encV 0x24 p d a b t.code 0x08
  | .vperm p d a b t => encV 0x25 p d a b t.code 0x00
  | .vcompress p d a t => encV 0x25 p d a 0 t.code 0x01
  | .vqsend p a q t => encV 0x25 p 0 a ((0 : BitVec 2) ++ q) t.code 0x02
  | .vqrecv p d q t => encV 0x25 p d 0 ((0 : BitVec 2) ++ q) t.code 0x03
  | .vredsum p d a b t g => encRed p d a b t g 0x00
  | .vredosum p d a b t g => encRed p d a b t g 0x01
  | .vredmax p d a b t g => encRed p d a b t g 0x02
  | .vredmin p d a b t g => encRed p d a b t g 0x03
  | .vargmax p d a b t g => encRed p d a b t g 0x04
  | .vargmin p d a b t g => encRed p d a b t g 0x05
  | .vscan p d a b t g => encRed p d a b t g 0x08
  | .kand k a b => encV 0x27 false k a b 0 0x00
  | .kor k a b => encV 0x27 false k a b 0 0x01
  | .kxor k a b => encV 0x27 false k a b 0 0x02
  | .knot k a => encV 0x27 false k a 0 0 0x03
  | .kmov k a => encV 0x27 false k a 0 0 0x04
  | .kpop a d => encVS 0x27 false 0 a d 0 0x05
  | .kfirst a d => encVS 0x27 false 0 a d 0 0x06
  | .vld p t a m k o y => encVM 0x28 p t a m.fields.1 k o y.code m.fields.2
  | .vst p t a m k o y => encVM 0x29 p t a m.fields.1 k o y.code m.fields.2
  | .vamo p t a c k o y x => encVM 0x2A p t a c.code k o y.code x
  | .vamon p t a c k o y x => encVM 0x2B p t a c.code k o y.code x
  | .tshape d a => encS 0x30 d a 0 0x00
  | .ten => encS 0x30 0 0 0 0x01
  | .tdis => encS 0x30 0 0 0 0x02
  | .tzero t => encS 0x30 0 0 ((0 : BitVec 3) ++ t) 0x03
  | .tslice d a c t => encS 0x30 d a ((0 : BitVec 2) ++ bit1 c ++ t) 0x04
  | .tld t a k o y => encVM 0x31 false t a 4 k o y.code 0
  | .tst t a k o y => encVM 0x32 false t a 4 k o y.code 0
  | .mma c a b x y ⟨f, e, s⟩ => encT 0x33 c a b x.code y.code ((0 : BitVec 1) ++ bit1 f ++ bit1 e ++ bit1 s) 0
  | .mmax c a b x y f e s => encT 0x34 c a b x.code y.code ((0 : BitVec 1) ++ bit1 f ++ bit1 e ++ bit1 s) 0
  | .accrd d a c => encS 0x35 d a ((0 : BitVec 2) ++ c) 0x00
  | .accwr d a c => encS 0x35 d a ((0 : BitVec 2) ++ c) 0x01
  | .accz c => encS 0x35 0 0 ((0 : BitVec 2) ++ c) 0x02
  | .xcpy d a b h r => encX 0x38 d a b h ((0 : BitVec 5) ++ bit1 r)
  | .xdeil d v b h f => encX 0x38 d ((0 : BitVec 1) ++ v) b h ((0x2 : BitVec 3) ++ f)
  | .xred d a b h e t => encX 0x38 d a b h ((0x2 : BitVec 2) ++ bit1 e ++ t.code)
  | .xwait a h => encX 0x38 0 a 0 h 0x30
  | .skbind d a => encS 0x39 d a 0 0x00
  | .skloop a b => encS 0x39 0 a b 0x01
  | .skend => encS 0x39 0 0 0 0x02
  | .skfence => encS 0x39 0 0 0 0x03
  | .skstrm j a => encS 0x39 j a 0 0x04
  | .rlopen h a => encK 0x3A h a 0 false 0x00
  | .rlrel h => encK 0x3A h 0 0 false 0x01
  | .rlstat h d => encK 0x3A h d 0 false 0x02
  | .bkop h a b w o => encK 0x3A h a b w ((0x2 : BitVec 4) ++ o.code)
  | .bkwave a => encK 0x3A 0 a 0 false 0x20
  | .bkfence h => encK 0x3A h 0 0 false 0x21
  | .urank k a t => encV 0x3B false k a 0 t.code 0x00
  | .ucommit k a b t => encVS 0x3B false k a b t.code 0x01
  | .udirty k b => encVS 0x3B false k 0 b 0 0x02
  | .ucfg b => encVS 0x3B false 0 0 b 0 0x03
  | .smpstep d a b t => encVS 0x3B false d a b t.code 0x08
  | .vaccept k a b t => encVS 0x3B false k a b t.code 0x09
  | .vpand k a => encV 0x3B false k a 0 0 0x0A
  | .vgumbel d b t => encVS 0x3B false d 0 b t.code 0x0B
  | .vdraw d b t => encVS 0x3B false d 0 b t.code 0x0C
  | .jadd d a b => encS 0x3C d a b 0x00
  | .jcommit a b => encS 0x3C 0 a b 0x01
  | .jdrop a => encS 0x3C 0 a 0 0x02
  | .scall c => encS 0x3F 0 0 0 c
  | .ebreak c => encS 0x3F 1 0 0 c
  | .eret => encS 0x3F 2 0 0 0
  | .erpl a v => encS 0x3F 3 a ((0 : BitVec 1) ++ v) 0
  | _ => 0

end Sys2Proof
end

