-- ==== Sys2Proof/Machine/Vector.lean ====
section
/-! DEFINITION. Vector.lean: the hand-off of MAJ 20 to 27 (R40, R86, R87, R103, R191, R195) and their meanings (R355,
R398 to R401, R404 to R411, R414, R416 to R422). Each checks its fields, reads its scalar operand, and passes the
instruction to the V stream, or with P = 1 to the K stream; what it then computes is in VecAlu.lean. -/

namespace Sys2Proof.Machine

/-! ### Hand-off -/

/-- The open levels are abandoned: the context discards the captured entries (R195). -/
def State.abandonLoops (s : State) : State :=
  if s.lc.loops.isEmpty then s
  else
    let mark : VEntry := { s.capture .skend true 1 0 0 false with ctl := VecCtl.reset }
    { s with lc := { s.lc with loops := [], kqueue := if s.lc.ctx.isSome then s.lc.kqueue ++ [mark] else s.lc.kqueue } }

/-- A cause of R195: the open levels are abandoned. -/
def State.nesting {α : Type} (s : State) : Except Halt α :=
  .error (.trapIn s.abandonLoops (s.report .stackLoopNesting 0))

/-- The open levels with one more K-stream instruction counted in each. -/
def countedLoops (l : List SkLevel) : List SkLevel := l.map (fun l => { l with seen := l.seen + 1 })

/-- A K-stream instruction counts in every open level once it has been passed on; none may exceed its level's length
(R195). -/
def State.countLoop (s : State) : Except Halt (List SkLevel) :=
  match s.lc.loops with
  | [] => .ok []
  | l :: _ => if l.length.toNat ≤ l.seen then s.nesting else .ok (countedLoops s.lc.loops)

/-- The k registers a placed instruction captures: the governing mask and the head flags (R191). -/
def State.capturedK (s : State) (kb : Option VReg) : List Nat :=
  (if s.lc.vec.vmsel == 8 then [] else [s.lc.vec.vmsel.toNat]) ++ (kb.map (·.toNat)).toList

/-- Hands an instruction to the V stream, or a placed one to the K stream. -/
def State.handOff (s : State) (p : Bool) (op : VOp) (x y z : Dword) (xp : Bool) (kb : Option VReg := none) :
    Except Halt State := do
  if !p then s.pass (s.capture op false x y z xp)
  else
    let ks := s.capturedK kb
    if ks.any s.kBusy then .error .wait
    else match ks.find? (fun k => (List.range 2).any (fun g =>
        (s.kpois k).getLsbD g && decide (512 * g < s.lc.vec.vl.toNat))) with
    | some k => s.raise .poisonVector (BitVec.ofNat 64 (0x100 + k))
    | none =>
      let loops ← s.countLoop
      s.passK (s.capture op true x y z xp kb) loops

/-- The checks of a vector instruction: its vector fields, its k fields and its type. -/
def vguard (p : Bool) (vs : List (Nat × VReg)) (ks : List (Nat × VReg)) (t : Ty) (okTy : Bool) : Guard :=
  { regs := vs.map (fun r => (r.1, vecOk p r.2)) ++ ks.map (fun r => (r.1, kOk r.2))
    types := [(tyCode t, okTy)], placed := p, context := p, bits := t.regBits, governed := true }

/-- An instruction with no scalar operand. -/
def State.vop (s : State) (p : Bool) (g : Guard) (op : VOp) (kb : Option VReg := none) : Except Halt State := do
  s.guard g
  let t ← s.handOff p op 0 0 0 false kb
  .ok t.retire

/-- An instruction that captures a scalar register. -/
def State.vopS (s : State) (p : Bool) (g : Guard) (op : VOp) (b : SReg) : Except Halt State := do
  s.guard g
  let x ← s.useS b
  let t ← s.handOff p op x 0 0 false
  .ok t.retire

/-- An instruction that writes a scalar register when it completes, or each time its value returns (R192, R249). -/
def State.vopD (s : State) (p : Bool) (g : Guard) (op : VOp) (d : SReg) : Except Halt State := do
  s.guard g
  s.claimS d
  let t ← (if p then s else s.claim d).handOff p op 0 0 0 false
  .ok t.retire

/-- Binary form on two registers. -/
def State.vBin (s : State) (o : VBin) (p : Bool) (d a b : VReg) (t : Ty) (okTy : Bool) : Except Halt State :=
  s.vop p (vguard p [(20, d), (15, a), (10, b)] [] t okTy) (.bin o d a b t)

/-- Binary form on a register and a scalar. -/
def State.vBinS (s : State) (o : VBin) (p : Bool) (d a : VReg) (b : SReg) (t : Ty) (okTy : Bool) : Except Halt State :=
  s.vopS p (vguard p [(20, d), (15, a)] [] t okTy) (.binS o d a t) b

/-- Fused form. -/
def State.vTern (s : State) (o : VTern) (p : Bool) (d a b : VReg) (t : Ty) : Except Halt State :=
  s.vop p (vguard p [(20, d), (15, a), (10, b)] [] t (tyFI t)) (.tern o d a b t)

/-- Unary form. -/
def State.vUn (s : State) (o : VUn) (p : Bool) (d a : VReg) (t : Ty) (okTy : Bool) : Except Halt State :=
  s.vop p (vguard p [(20, d), (15, a)] [] t okTy) (.un o d a t)

/-- Reduction or scan; g is .seg, with its flags in kb (R45, R419). -/
def State.vRed (s : State) (o : VRed) (p : Bool) (d a b : VReg) (t : Ty) (g : Bool) : Except Halt State :=
  s.vop p { vguard p [(20, d), (15, a)] (if g then [(10, b)] else []) t (tyFI t) with perK := g } (.red o d a b t g)
    (if g then some b else none)

/-- Mask operation of MAJ 27 (R355): not governed by the mask, reserved ty, 8-bit width. -/
def State.kBin (s : State) (o : KOp) (k a b : VReg) (two : Bool) : Except Halt State :=
  s.vop false { regs := [(20, kOk k), (15, kOk a)] ++ (if two then [(10, kOk b)] else []), perK := true } (.mask o k a b)

/-- KPOP and KFIRST (R355). -/
def State.kScalar (s : State) (first : Bool) (a : VReg) (d : SReg) : Except Halt State :=
  s.vopD false { regs := [(15, kOk a)], perK := true, governed := true } (.kscalar first d a) d

/-! ### Binary operations, MAJ 20 and 21 (R401) -/

/-- VADD (R401). -/
def execVadd (p : Bool) (d a b : VReg) (t : Ty) (s : State) : Out := s.finish (s.vBin .add p d a b t (tyFI t))
/-- VSUB (R401). -/
def execVsub (p : Bool) (d a b : VReg) (t : Ty) (s : State) : Out := s.finish (s.vBin .sub p d a b t (tyFI t))
/-- VMUL (R401). -/
def execVmul (p : Bool) (d a b : VReg) (t : Ty) (s : State) : Out := s.finish (s.vBin .mul p d a b t (tyFI t))
/-- VDIV (R401). -/
def execVdiv (p : Bool) (d a b : VReg) (t : Ty) (s : State) : Out := s.finish (s.vBin .div p d a b t (tyWideF t || tyI t))
/-- VMIN (R401). -/
def execVmin (p : Bool) (d a b : VReg) (t : Ty) (s : State) : Out := s.finish (s.vBin .min p d a b t (tyFI t))
/-- VMAX (R401). -/
def execVmax (p : Bool) (d a b : VReg) (t : Ty) (s : State) : Out := s.finish (s.vBin .max p d a b t (tyFI t))
/-- VAND (R401). -/
def execVand (p : Bool) (d a b : VReg) (t : Ty) (s : State) : Out := s.finish (s.vBin .and p d a b t (tyI t))
/-- VOR (R401). -/
def execVor (p : Bool) (d a b : VReg) (t : Ty) (s : State) : Out := s.finish (s.vBin .or p d a b t (tyI t))
/-- VXOR (R401). -/
def execVxor (p : Bool) (d a b : VReg) (t : Ty) (s : State) : Out := s.finish (s.vBin .xor p d a b t (tyI t))
/-- VSHL (R401). -/
def execVshl (p : Bool) (d a b : VReg) (t : Ty) (s : State) : Out := s.finish (s.vBin .shl p d a b t (tyI t))
/-- VSHR (R401). -/
def execVshr (p : Bool) (d a b : VReg) (t : Ty) (s : State) : Out := s.finish (s.vBin .shr p d a b t (tyI t))
/-- VSRA (R401). -/
def execVsra (p : Bool) (d a b : VReg) (t : Ty) (s : State) : Out := s.finish (s.vBin .sra p d a b t (tyI t))
/-- VADD with a scalar (R401). -/
def execVaddVs (p : Bool) (d a : VReg) (b : SReg) (t : Ty) (s : State) : Out :=
  s.finish (s.vBinS .add p d a b t (tyFI t))
/-- VSUB with a scalar (R401). -/
def execVsubVs (p : Bool) (d a : VReg) (b : SReg) (t : Ty) (s : State) : Out :=
  s.finish (s.vBinS .sub p d a b t (tyFI t))
/-- VMUL with a scalar (R401). -/
def execVmulVs (p : Bool) (d a : VReg) (b : SReg) (t : Ty) (s : State) : Out :=
  s.finish (s.vBinS .mul p d a b t (tyFI t))
/-- VDIV with a scalar (R401). -/
def execVdivVs (p : Bool) (d a : VReg) (b : SReg) (t : Ty) (s : State) : Out :=
  s.finish (s.vBinS .div p d a b t (tyWideF t || tyI t))
/-- VMIN with a scalar (R401). -/
def execVminVs (p : Bool) (d a : VReg) (b : SReg) (t : Ty) (s : State) : Out :=
  s.finish (s.vBinS .min p d a b t (tyFI t))
/-- VMAX with a scalar (R401). -/
def execVmaxVs (p : Bool) (d a : VReg) (b : SReg) (t : Ty) (s : State) : Out :=
  s.finish (s.vBinS .max p d a b t (tyFI t))
/-- VAND with a scalar (R401). -/
def execVandVs (p : Bool) (d a : VReg) (b : SReg) (t : Ty) (s : State) : Out :=
  s.finish (s.vBinS .and p d a b t (tyI t))
/-- VOR with a scalar (R401). -/
def execVorVs (p : Bool) (d a : VReg) (b : SReg) (t : Ty) (s : State) : Out :=
  s.finish (s.vBinS .or p d a b t (tyI t))
/-- VXOR with a scalar (R401). -/
def execVxorVs (p : Bool) (d a : VReg) (b : SReg) (t : Ty) (s : State) : Out :=
  s.finish (s.vBinS .xor p d a b t (tyI t))
/-- VSHL with a scalar (R401). -/
def execVshlVs (p : Bool) (d a : VReg) (b : SReg) (t : Ty) (s : State) : Out :=
  s.finish (s.vBinS .shl p d a b t (tyI t))
/-- VSHR with a scalar (R401). -/
def execVshrVs (p : Bool) (d a : VReg) (b : SReg) (t : Ty) (s : State) : Out :=
  s.finish (s.vBinS .shr p d a b t (tyI t))
/-- VSRA with a scalar (R401). -/
def execVsraVs (p : Bool) (d a : VReg) (b : SReg) (t : Ty) (s : State) : Out :=
  s.finish (s.vBinS .sra p d a b t (tyI t))

/-- VBCAST (R406): the scalar's poison travels with it (R285). -/
def execVbcast (p : Bool) (d : VReg) (b : SReg) (t : Ty) (s : State) : Out := s.finish do
  s.guard (vguard p [(20, d)] [] t (tyMove t))
  let (x, xp) ← s.moveS b
  let u ← s.handOff p (.bcast d t) x 0 0 xp
  .ok u.retire
/-- VSLIDE (R422). -/
def execVslide (p : Bool) (d a : VReg) (b : SReg) (t : Ty) (s : State) : Out :=
  s.finish (s.vopS p (vguard p [(20, d), (15, a)] [] t (tyMove t)) (.slide d a t) b)
/-- VEXTRACT (R411): not governed by the mask. -/
def execVextract (p : Bool) (a : VReg) (d : SReg) (t : Ty) (s : State) : Out :=
  s.finish (s.vopD p { vguard p [(15, a)] [] t (tyMove t) with governed := false } (.extract d a t) d)

/-! ### Fused and unary operations, conversion, MAJ 22 and 23 (R399, R409, R414) -/

/-- VMA (R414). -/
def execVma (p : Bool) (d a b : VReg) (t : Ty) (s : State) : Out := s.finish (s.vTern .ma p d a b t)
/-- VMS (R414). -/
def execVms (p : Bool) (d a b : VReg) (t : Ty) (s : State) : Out := s.finish (s.vTern .ms p d a b t)
/-- VNMA (R414). -/
def execVnma (p : Bool) (d a b : VReg) (t : Ty) (s : State) : Out := s.finish (s.vTern .nma p d a b t)
/-- VNEG (R399). -/
def execVneg (p : Bool) (d a : VReg) (t : Ty) (s : State) : Out := s.finish (s.vUn .neg p d a t (tyFI t))
/-- VABS (R399). -/
def execVabs (p : Bool) (d a : VReg) (t : Ty) (s : State) : Out := s.finish (s.vUn .abs p d a t (tyFI t))
/-- VSQRT (R399). -/
def execVsqrt (p : Bool) (d a : VReg) (t : Ty) (s : State) : Out := s.finish (s.vUn .sqrt p d a t (tyWideF t))
/-- VRCP (R399). -/
def execVrcp (p : Bool) (d a : VReg) (t : Ty) (s : State) : Out := s.finish (s.vUn .rcp p d a t (tyF32 t))
/-- VRSQ (R399). -/
def execVrsq (p : Bool) (d a : VReg) (t : Ty) (s : State) : Out := s.finish (s.vUn .rsq p d a t (tyF32 t))
/-- VEXP2 (R399). -/
def execVexp2 (p : Bool) (d a : VReg) (t : Ty) (s : State) : Out := s.finish (s.vUn .exp2 p d a t (tyF32 t))
/-- VLOG2 (R399). -/
def execVlog2 (p : Bool) (d a : VReg) (t : Ty) (s : State) : Out := s.finish (s.vUn .log2 p d a t (tyF32 t))
/-- VCLASS (R399). -/
def execVclass (p : Bool) (d a : VReg) (t : Ty) (s : State) : Out := s.finish (s.vUn .cls p d a t (tyF t))
/-- VMOV (R399). -/
def execVmov (p : Bool) (d a : VReg) (t : Ty) (s : State) : Out := s.finish (s.vUn .mov p d a t (tyMove t))
/-- VIOTA (R399). -/
def execViota (p : Bool) (d : VReg) (t : Ty) (s : State) : Out :=
  s.finish (s.vop p (vguard p [(20, d)] [] t (tyI t)) (.iota d t))

/-- Whether a pair of types stands in the table of VCVT (R409). -/
def cvtPair (src dst : Ty) : Bool := (!tyM src || tyF dst) && (!tyM dst || tyF src)

/-- Largest VL of a conversion of class M: its elements and scales share a register (R409). -/
def cvtMax (p : Bool) (src dst : Ty) : Nat :=
  if !tyM src && !tyM dst then 8192
  else if !p then 2048
  else if src == .mx8 || dst == .mx8 then 960 else 1024

/-- VCVT (R409): destination type t, source type e. A bad pair reports the source's code (R445). -/
def execVcvt (p : Bool) (d a : VReg) (sat : Bool) (e t : Ty) (s : State) : Out :=
  s.finish (s.vop p { vguard p [(20, d), (15, a)] [] e (cvtPair e t) with
    bits := max e.regBits t.regBits, maxVl := cvtMax p e t } (.cvt d a sat e t))

/-! ### Compare, select, permute, queues, MAJ 24 and 25 (R407, R408, R416 to R418, R421) -/

/-- VCMP (R407). -/
def execVcmp (p : Bool) (k a b : VReg) (t : Ty) (c : CmpPred) (s : State) : Out :=
  s.finish (s.vop p { vguard p [(15, a), (10, b)] [(20, k)] t (tyFI t) with perK := true } (.cmp k a b t c))
/-- VSEL (R421). -/
def execVsel (p : Bool) (d a b : VReg) (t : Ty) (s : State) : Out :=
  s.finish (s.vop p (vguard p [(20, d), (15, a), (10, b)] [] t (tyMove t)) (.sel d a b t))
/-- VPERM (R416). -/
def execVperm (p : Bool) (d a b : VReg) (t : Ty) (s : State) : Out :=
  s.finish (s.vop p (vguard p [(20, d), (15, a), (10, b)] [] t (tyMove t)) (.perm d a b t))
/-- VCOMPRESS (R408). -/
def execVcompress (p : Bool) (d a : VReg) (t : Ty) (s : State) : Out :=
  s.finish (s.vop p (vguard p [(20, d), (15, a)] [] t (tyMove t)) (.compress d a t))
/-- VQSEND to q4–q7 (R417). -/
def execVqsend (p : Bool) (a : VReg) (q : QReg) (t : Ty) (s : State) : Out :=
  let g := vguard p [(15, a)] [] t (tyMove t)
  s.finish (s.vop p { g with regs := g.regs ++ [(10, decide (4 ≤ q.toNat))], governed := false } (.qsend q a t))
/-- VQRECV from q0–q3 (R417). -/
def execVqrecv (p : Bool) (d : VReg) (q : QReg) (t : Ty) (s : State) : Out :=
  let g := vguard p [(20, d)] [] t (tyMove t)
  s.finish (s.vop p { g with regs := g.regs ++ [(10, decide (q.toNat < 4))] } (.qrecv d q t))

/-! ### Reductions and the scan, MAJ 26 (R405, R419, R420) -/

/-- VREDSUM (R419). -/
def execVredsum (p : Bool) (d a b : VReg) (t : Ty) (g : Bool) (s : State) : Out :=
  s.finish (s.vRed .sum p d a b t g)
/-- VREDOSUM (R419). -/
def execVredosum (p : Bool) (d a b : VReg) (t : Ty) (g : Bool) (s : State) : Out :=
  s.finish (s.vRed .osum p d a b t g)
/-- VREDMAX (R419). -/
def execVredmax (p : Bool) (d a b : VReg) (t : Ty) (g : Bool) (s : State) : Out :=
  s.finish (s.vRed .max p d a b t g)
/-- VREDMIN (R419). -/
def execVredmin (p : Bool) (d a b : VReg) (t : Ty) (g : Bool) (s : State) : Out :=
  s.finish (s.vRed .min p d a b t g)
/-- VARGMAX (R405). -/
def execVargmax (p : Bool) (d a b : VReg) (t : Ty) (g : Bool) (s : State) : Out :=
  s.finish (s.vRed .argmax p d a b t g)
/-- VARGMIN (R405). -/
def execVargmin (p : Bool) (d a b : VReg) (t : Ty) (g : Bool) (s : State) : Out :=
  s.finish (s.vRed .argmin p d a b t g)
/-- VSCAN (R419). -/
def execVscan (p : Bool) (d a b : VReg) (t : Ty) (g : Bool) (s : State) : Out :=
  s.finish (s.vRed .scan p d a b t g)

/-! ### Masks, MAJ 27 (R355, R356) -/

/-- KAND (R355). -/
def execKand (k a b : VReg) (s : State) : Out := s.finish (s.kBin .and k a b true)
/-- KOR (R355). -/
def execKor (k a b : VReg) (s : State) : Out := s.finish (s.kBin .or k a b true)
/-- KXOR (R355). -/
def execKxor (k a b : VReg) (s : State) : Out := s.finish (s.kBin .xor k a b true)
/-- KNOT (R355). -/
def execKnot (k a : VReg) (s : State) : Out := s.finish (s.kBin .not k a 0 false)
/-- KMOV (R355). -/
def execKmov (k a : VReg) (s : State) : Out := s.finish (s.kBin .mov k a 0 false)
/-- KPOP (R355). -/
def execKpop (a : VReg) (d : SReg) (s : State) : Out := s.finish (s.kScalar false a d)
/-- KFIRST (R355). -/
def execKfirst (a : VReg) (d : SReg) (s : State) : Out := s.finish (s.kScalar true a d)

end Sys2Proof.Machine
end

