-- ==== Sys2Proof/Machine/StackOps.lean ====
section
/-! DEFINITION. StackOps.lean: binding a stack context (R59, R189, R190, R378) and the hand-off of MAJ 39 (R178, R195,
R198, R379 to R381), with its meanings. What a context does is in Stack.lean. -/

namespace Sys2Proof.Machine

/-! ### Contexts of the SVUs (R59) -/

/-- The number under which the device record keeps a stack of a member: its own stacks as 0 to 11, a peer's apart from
them. -/
def Device.stackKey (d : Device) (member stack : Nat) : Nat :=
  if member = d.member.toNat then stack else 16 * (member + 1) + stack

/-- The lowest-numbered free context of an SVU. -/
def Device.freeCtx (d : Device) (stack svu : Nat) : Option Nat :=
  leastBelow (fun c => !d.ctxUses.any (fun u => u.stack == stack && u.svu == svu && u.ctx == c)) 32

/-- CONTEXT_GRANT (R59): the oldest bind that waits at an SVU takes its lowest-numbered free context. -/
def State.contextGrant (s : State) (stack svu : Nat) : State :=
  let waits (b : Bind) : Bool := b.stack == stack && b.svu == svu && b.granted.isNone
  match s.dev.binds.find? waits, s.dev.freeCtx stack svu with
  | some b, some c =>
    { s with dev := { s.dev with
        ctxUses := s.dev.ctxUses ++ [⟨stack, svu, c, b.who⟩]
        binds := s.dev.binds.map (fun x => if x == b then { x with granted := some c } else x) } }
  | _, _ => s

/-- The state of a context that has just been taken (R188). -/
def StackCtx.fresh (bindAddr : Dword) (ptbase : BitVec 52) (asid : BitVec 16) : StackCtx :=
  { w := Vector.replicate 24 0, wPoison := Vector.replicate 24 0, wError := Vector.replicate 24 0,
    sq := Vector.replicate 4 [],
    streams := Vector.replicate 4 none, buf := [], pos := 0, levels := [], bindAddr := bindAddr, ptbase := ptbase,
    asid := asid, stalled := none }

/-- The LC leaves its context, which frees (R190). -/
def State.leaveCtx (s : State) : State :=
  { s with
    lc := { s.lc with ctx := none, saff := 0 }
    dev := { s.dev with ctxUses := s.dev.ctxUses.filter (fun u => u.owner != s.lc.key) } }

/-- SAFF of a binding (R79). -/
def saffWord (member stack svu ctx : Nat) : Dword :=
  bitAt true 63 ||| at_ member 48 ||| at_ stack 44 ||| at_ svu 40 ||| at_ ctx 32

/-- Where an address binds: member, stack and SVU (R189, R21). -/
def State.bindTarget (s : State) (va : Dword) : Except Halt (Nat × Nat × Nat) := do
  let place (m pa : Nat) : Nat × Nat × Nat := (m, homeStack pa, chanPair pa)
  let own (pa : Nat) : Except Halt (Nat × Nat × Nat) :=
    if (s.dev.stack (homeStack pa)).degraded then s.raise .remoteStackUnreachable va
    else .ok (place s.dev.member.toNat pa)
  let (pa, _) ← s.rawLoad va
  match paKind pa with
  | .hbm => own pa
  | .unassigned | .host => s.raise .loadAccess va
  | .peer m off =>
    if hbmSize ≤ off then s.raise .loadAccess va
    else if m = s.dev.member.toNat then own off
    else if s.dev.reachable.contains m then .ok (place m off)
    else s.raise .remoteStackUnreachable va

/-- The granted context is bound: SAFF and sd take its value (R189). -/
def State.bindTo (s : State) (d : SReg) (m st j c : Nat) (va : Dword) : State :=
  let v := saffWord m st j c
  let t := { s with
    lc := { s.lc with saff := v, ctx := some (StackCtx.fresh va s.lc.ptbase s.lc.asid) }
    dev := { s.dev with binds := s.dev.binds.filter (fun b => b.who != s.lc.key) } }
  (t.setS d v).retire

/-- SKBIND (R189, R378): the old context frees once its instructions have completed, then the bind waits at its SVU. -/
def execSkbind (d a : SReg) (s : State) : Out := s.finish do
  if !s.lc.loops.isEmpty then s.nesting
  else
    let va ← s.useS a
    s.claimS d
    let (m, st, j) ← s.bindTarget va
    let k := s.dev.stackKey m st
    let mine (b : Bind) : Bool := b.who == s.lc.key && b.stack == k && b.svu == j
    if s.dev.binds.any mine then
      let t := if s.runAhead then s else s.contextGrant k j
      match (t.dev.binds.find? mine).bind (·.granted) with
      | none => .error (.waitIn t)
      | some c => .ok (t.bindTo d m st j c va)
    else if s.lc.ctx.isSome && !s.kDone then .error .wait
    else
      let s : State := s.leaveCtx
      let old : List Bind := s.dev.binds.filter (fun b => b.who != s.lc.key)
      let t := { s with dev := { s.dev with binds := old ++ [⟨s.lc.key, k, j, none⟩] } }
      let t := if s.runAhead then t else t.contextGrant k j
      match (t.dev.binds.find? mine).bind (·.granted) with
      | none => .error (.waitIn t)
      | some c => .ok (t.bindTo d m st j c va)

/-! ### K-stream instructions of MAJ 39 -/

/-- The checks of MAJ 39 other than SKBIND (R103). -/
def kguard (regs : List (Nat × Bool)) : Guard := { regs := regs, vector := false, context := true, bits := 0 }

/-- SKLOOP (R195, R380). -/
def execSkloop (a b : SReg) (s : State) : Out := s.finish do
  s.guard (kguard [])
  let n ← s.useS a
  let len ← s.useS b
  let room ← match s.lc.loops with
    | [] => if 96 < len.toNat then s.raise .stackBufferOverflow len else .ok true
    | [l] => .ok (decide (len.toNat + 2 ≤ l.length.toNat - l.seen))
    | _ => .ok false
  if !room then s.nesting
  else
    let loops ← s.countLoop
    let u ← s.passK (s.capture .skloop true n len 0 false) (SkLevel.mk len 0 :: loops)
    .ok u.retire

/-- SKEND (R195, R380): it counts in the level around the one it ends. -/
def execSkend (s : State) : Out := s.finish do
  s.guard (kguard [])
  match s.lc.loops with
  | [] => s.nesting
  | l :: rest =>
    if l.seen < l.length.toNat then s.nesting
    else
      let u ← s.passK (s.capture .skend true 0 0 0 false) (countedLoops rest)
      .ok u.retire

/-- Whether a deferred trap has been taken and its ERET has not come (R209). -/
def State.deferredHandled (s : State) : Bool :=
  s.lc.kreport.isNone && ((s.lc.ctx.map (fun c => c.stalled.isSome)).getD false)

/-- SKFENCE (R178, R379). -/
def execSkfence (s : State) : Out := s.finish do
  s.guard (kguard [])
  if !s.lc.loops.isEmpty then s.nesting
  else if s.deferredHandled then s.raise .badControlState 0x61
  else if !s.kDone || !s.dev.scUpdates.isEmpty then .error .wait
  else .ok s.retire

/-- SKSTRM (R198, R381). -/
def execSkstrm (j a : SReg) (s : State) : Out := s.finish do
  s.guard (kguard [(20, decide (j.toNat < 4))])
  let x ← s.useS a
  let loops ← s.countLoop
  let u ← s.passK (s.capture (.skstrm (j.setWidth 2)) true x 0 0 false) loops
  .ok u.retire

end Sys2Proof.Machine
end

