-- ==== Sys2Proof/Machine/Task.lean ====
section
/-! DEFINITION. Task.lean: SETVL and the queues (MAJ 1A, 1B) and the synchronisation of MAJ 1C: FENCE, SBAR, strips
(R39), barrier groups (R41), the iteration ring (R43) and EXIT (R38, R344). -/

namespace Sys2Proof.Machine

/-! ### SETVL and the scalar queues -/

/-- SETVL (R376). -/
def execSetvl (d a : SReg) (t : Ty) (s : State) : Out := s.finish do
  s.guard { types := [(tyCode t, !tyM t)], vector := false, bits := 0 }
  let x ← s.useS a
  s.claimS d
  let v := min x.toNat (mvl t.bits)
  let u := { s with lc := { s.lc with vec := { s.lc.vec with vl := BitVec.ofNat 13 v } } }
  .ok (u.setS d (BitVec.ofNat 64 v)).retire

/-- The check that a queue is named with its direction (R47, R72): q0 to q3 are sent to, q4 to q7 received from. -/
def queueGuard (ok : Bool) : Guard := { regs := [(8, ok)], vector := false, bits := 0 }

/-- The state with a queue of the LC replaced. -/
def State.setQ (s : State) (q : QReg) (l : List Dword) : State := { s with lc := { s.lc with q := s.lc.q.set q.toNat l } }

/-- QSEND (R370, R371): waits while the queue holds 16 entries. -/
def execQsend (a : SReg) (q : QReg) (s : State) : Out := s.finish do
  s.guard (queueGuard (decide (q.toNat < 4)))
  let x ← s.useS a
  let l := s.lc.q[q.toNat]
  if 16 ≤ l.length then s.block (q.setWidth 64) else .ok (s.setQ q (l ++ [x])).retire

/-- QRECV (R370, R371): waits while the queue is empty. -/
def execQrecv (d : SReg) (q : QReg) (s : State) : Out := s.finish do
  s.guard (queueGuard (decide (4 ≤ q.toNat)))
  s.claimS d
  match s.lc.q[q.toNat] with
  | [] => s.block (q.setWidth 64)
  | x :: rest => .ok ((s.setQ q rest).setS d x).retire

/-- QSTAT (R370, R371). -/
def execQstat (d : SReg) (q : QReg) (s : State) : Out := s.finish do
  s.claimS d
  .ok (s.setS d (BitVec.ofNat 64 (s.lc.q[q.toNat]).length)).retire

/-! ### FENCE and SBAR -/

/-- FENCE (R174, R348): in the model an access is performed at every scope at once. -/
def execFence (_c : Scope) (s : State) : Out := s.finish do
  s.releaseWait
  .ok s.retire

/-- Whether every earlier access of the streams an SBAR names has been performed (R172, R374). -/
def State.sbarDone (s : State) (m : BitVec 8) : Bool :=
  (!m.getLsbD 0 || (s.storesDone && s.dev.hostReqs.all (fun r => r.who != s.lc.key || !r.store)))
    && (!m.getLsbD 1 || s.vDone) && (!m.getLsbD 2 || s.kDone)
    && (List.range 4).all (fun h => !m.getLsbD (3 + h) || (s.lc.chans[h]?.getD Chan.reset).quiet)
    && (!m.getLsbD 7 || s.bankWork.isEmpty)

/-- Whether the named streams can take an SBAR's place into their buffers (R46). -/
def State.sbarRoom (s : State) (m : BitVec 8) : Bool :=
  (!m.getLsbD 1 || decide (s.part.vqueue.length < queueCap)) && (!m.getLsbD 2 || decide (s.lc.kqueue.length < queueCap))
    && (List.range 4).all (fun h => !m.getLsbD (3 + h) || decide ((s.lc.chans[h]?.getD Chan.reset).cmds.length < 8))
    && (!m.getLsbD 7 || decide (s.lc.bqueue.length < 16))

/-- The place of an SBAR in each stream it names (R172). -/
def State.markSbar (s : State) (m : BitVec 8) : State :=
  let e := s.capture (.sbar s.tick) false (BitVec.ofNat 64 s.tick) 0 0 false
  let x : XCmd := ⟨0, .sbar s.tick, 0, 0, 0, 0, 0, s.super, s.env⟩
  let v := if m.getLsbD 1 then [e] else []
  let k := if m.getLsbD 2 then [e] else []
  let b := if m.getLsbD 7 then [BCmd.mk (.sbar s.tick) (s.lc.pc.setWidth 64) s.ir s.super s.env s.lc.passed] else []
  let chan (h : Nat) (c : Chan) : Chan := if m.getLsbD (3 + h) then { c with cmds := c.cmds ++ [x] } else c
  { s with
    part := { s.part with vqueue := s.part.vqueue ++ v }
    lc := { s.lc with kqueue := s.lc.kqueue ++ k, bqueue := s.lc.bqueue ++ b, chans := s.lc.chans.mapIdx chan } }

/-- SBAR (R172, R374): with S named the scalar stream waits; otherwise the named streams are held at its place. -/
def execSbar (m : BitVec 8) (s : State) : Out := s.finish do
  if m == 0 then .ok s.retire
  else if m.getLsbD 0 then (if s.sbarDone m then .ok s.retire else .error .wait)
  else if s.sbarRoom m then .ok ((s.markSbar m).drain).retire
  else .error .wait

/-! ### The iteration ring (R43) -/

/-- The frontier and the posted iterations above it. -/
def advanceRing : Nat → List Nat → Nat × List Nat
  | f, [] => (f, [])
  | f, x :: r => if x = f then advanceRing (f + 1) r else (f, x :: r)

/-- PostRange of R39: iterations a to b − 1. -/
def Task.postRange (t : Task) (a b : Nat) : Task :=
  let lo := max a t.frontier
  let all := t.posted.filter (· < lo) ++ (List.range (b - lo)).map (lo + ·) ++ t.posted.filter (fun i => lo ≤ i && b ≤ i)
  let r := advanceRing t.frontier all
  { t with frontier := r.1, posted := r.2 }

/-- Whether an iteration is posted. -/
def Task.isPosted (t : Task) (i : Nat) : Bool := decide (i < t.frontier) || t.posted.contains i

/-- The state with the task of the LC in focus changed. -/
def State.updTask (s : State) (f : Task → Task) : State := { s with dev := s.dev.updTask s.lc.key.task f }

/-- Whether the task has an iteration ring. -/
def State.ringed (s : State) : Bool := (s.task.map (·.ring)).getD false

/-- H of R39: the length of the held strip. -/
def State.heldLen (s : State) : Nat :=
  if s.lc.strip == BitVec.allOnes 64 then 0 else min ((s.task.map Task.mvl).getD 0) s.lc.erem.toNat

/-- POST (R43, R368). -/
def execPost (a : SReg) (s : State) : Out := s.finish do
  let i ← s.useS a
  if !s.ringed then s.raise .badControlState 0
  else if i.toNat < s.lc.ebase.toNat || s.lc.ebase.toNat + s.heldLen ≤ i.toNat then s.raise .iterationOrder i
  else
    s.releaseWait
    .ok (s.updTask (·.postRange i.toNat (i.toNat + 1))).retire

/-- WAITI (R43, R425). -/
def execWaiti (a : SReg) (s : State) : Out := s.finish do
  let i ← s.useS a
  if !s.ringed then s.raise .badControlState 0
  else if s.lc.ebase.toNat ≤ i.toNat || (s.task.map (·.elements)).getD 0 ≤ i.toNat then s.raise .iterationOrder i
  else if (s.task.map (·.isPosted i.toNat)).getD false then .ok s.retire
  else .error .wait

/-! ### Strips (R39, R281) -/

/-- The held bytes of a granule performed as one access (R181). -/
def Device.writeHeld (d : Device) (h : Held) : Device :=
  (d.giveBack h.granule).writeMasked h.granule h.mask h.data h.poison

/-- STRIP_COMMIT (R281): the held granules in order of their first write. -/
def State.commitHeld (s : State) : State :=
  { s with
    dev := s.lc.contain.foldl Device.writeHeld s.dev
    lc := { s.lc with contain := [] } }

/-- The post of every iteration of the strip held, in a task with RING (R38, R39). -/
def State.postStrip (s : State) : Except Halt State :=
  if s.heldLen ≠ 0 ∧ s.ringed then do
    s.releaseWait
    .ok (s.updTask (·.postRange s.lc.ebase.toNat (s.lc.ebase.toNat + s.heldLen)))
  else .ok s

/-- The commit of the containment buffer, under SCC, once earlier S- and V-stream work is performed (R281). -/
def State.commitStrip (s : State) : Except Halt State :=
  if !s.sccOf s.lc then .ok s
  else if s.svDone then .ok s.commitHeld
  else .error (.waitIn s)

/-- What NEXTS does with the strip it leaves (R39): it posts it, and commits under SCC, when a strip is held. -/
def State.leaveStrip (s : State) : Except Halt State := do
  let s ← s.postStrip
  if s.heldLen = 0 then .ok s else s.commitStrip

/-- Strips of a task (02, before R39). -/
def Task.strips (t : Task) : Nat := (t.elements + t.mvl - 1) / t.mvl

/-- Dispense of R39: the next strip, or none once all are handed out; no answer while the ring window holds the strip
back (R43). -/
def Task.dispense (t : Task) : Option (Task × Option Nat) :=
  if t.strips ≤ t.nextStrip then some (t, none)
  else if t.ring && decide (t.frontier + 2 ^ 20 ≤ min ((t.nextStrip + 1) * t.mvl) t.elements - 1) then none
  else some ({ t with nextStrip := t.nextStrip + 1 }, some t.nextStrip)

/-- The dispenser's answer to the LC in focus; a task that is not there has no strips. -/
def State.dispense (s : State) : Option (State × Option Nat) :=
  match s.task with
  | none => some (s, none)
  | some t => (t.dispense).map (fun r => (s.updTask (fun _ => r.1), r.2))

/-- NEXTS with its answer (R39). -/
def State.takeStrip (s : State) (a : Option Nat) (target : BitVec 57) : State :=
  let n := (s.task.map (·.elements)).getD 0
  let w := (s.task.map Task.mvl).getD 0
  let l := { s.lc with nextsWait := false, nextsAnswer := none }
  match a with
  | none => ({ s with lc := { l with
      strip := BitVec.allOnes 64, ebase := BitVec.ofNat 64 n, erem := 0, vec := { l.vec with vl := 0 } } }).retire
  | some k => ({ s with lc := { l with
      strip := BitVec.ofNat 64 k, ebase := BitVec.ofNat 64 (k * w), erem := BitVec.ofNat 64 (n - k * w)
      vec := { l.vec with vl := BitVec.ofNat 13 (min w (n - k * w)) } } }).retireAt target

/-- NEXTS (R39, R367). -/
def execNexts (o : BitVec 18) (s : State) : Out := s.finish do
  let target := s.lc.pc + (wordOffset o).setWidth 57
  match s.lc.nextsAnswer with
  | some a => .ok (s.takeStrip a target)
  | none =>
    let s ← s.leaveStrip
    if s.runAhead then .error (.waitIn { s with lc := { s.lc with nextsWait := true } })
    else match s.dispense with
      | none => .error (.waitIn s)
      | some (t, a) => .ok (t.takeStrip a target)

/-- STRIP_DISPENSE (R39): the dispenser answers the LC in focus, whose NEXTS waits, unless the ring holds it back. -/
def State.stripDispense (s : State) : State :=
  if !s.lc.nextsWait then s
  else match s.dispense with
    | none => s
    | some (t, a) => { t with lc := { t.lc with nextsWait := false, nextsAnswer := some a } }

/-! ### Barrier groups (R41, R350, R351) -/

/-- A generation completes: every waiting member is released, since its recorded generation is past. -/
def Group.settle (g : Group) : Group :=
  if g.arrived ≠ 0 ∧ g.arrived = g.members then { g with arrived := 0, generation := g.generation + 1 } else g

/-- The task with a group changed. -/
def Task.updGroup (t : Task) (g : Nat) (f : Group → Group) : Task :=
  match t.groups[g]? with
  | some x => { t with groups := t.groups.setIfInBounds g (f x) }
  | none => t

/-- A member leaves a group (R41). -/
def Group.leave (g : Group) : Group := ({ g with members := g.members - 1 }).settle

/-- A member arrives (R41). -/
def Group.arrive (g : Group) : Group := ({ g with arrived := g.arrived + 1 }).settle

/-- The group a register names, and whether the LC is a member. -/
def State.groupOf (s : State) (a : SReg) : Except Halt (Nat × Bool) := do
  let x ← s.useS a
  if 16 ≤ x.toNat then s.raise .groupInvalid x else .ok (x.toNat, s.lc.gmask.getLsbD x.toNat)

/-- GJOIN. -/
def execGjoin (a : SReg) (s : State) : Out := s.finish do
  let (g, member) ← s.groupOf a
  if member then .ok s.retire
  else
    let t := s.updTask (·.updGroup g (fun x => { x with members := x.members + 1 }))
    .ok ({ t with lc := { t.lc with gmask := t.lc.gmask ||| (1#16 <<< g) } }).retire

/-- GLEAVE. -/
def execGleave (a : SReg) (s : State) : Out := s.finish do
  let (g, member) ← s.groupOf a
  if !member then s.raise .groupNotMember (BitVec.ofNat 64 g)
  else
    let t := s.updTask (·.updGroup g Group.leave)
    .ok ({ t with lc := { t.lc with gmask := t.lc.gmask &&& ~~~(1#16 <<< g) } }).retire

/-- The generation of a group of the task. -/
def State.generation (s : State) (g : Nat) : Nat :=
  ((s.task.bind (fun t => t.groups[g]?)).map (·.generation)).getD 0

/-- GBAR: an arrival already recorded waits for its generation and does not arrive again (R68). -/
def execGbar (a : SReg) (s : State) : Out := s.finish do
  let (g, member) ← s.groupOf a
  if !member then s.raise .groupNotMember (BitVec.ofNat 64 g)
  else match s.lc.bars.find? (·.1 == g) with
  | some b =>
    if b.2 = s.generation g then .error .wait
    else .ok ({ s with lc := { s.lc with bars := s.lc.bars.filter (·.1 != g) } }).retire
  | none =>
    s.releaseWait
    let now := s.generation g
    let t := s.updTask (·.updGroup g Group.arrive)
    if t.generation g = now then .error (.waitIn { t with lc := { t.lc with bars := t.lc.bars ++ [(g, now)] } })
    else .ok t.retire

/-! ### EXIT (R38, R344) -/

/-- A stream has entries and is blocked reading a queue that nothing fills (R48). -/
def State.exitDeadlock (s : State) : Bool := s.deadlocked && !(s.part.vqueue.isEmpty && s.kDone)

/-- Faults that EXIT raises before its steps (R344). -/
def State.exitFaults (s : State) : Except Halt Unit := do
  if !s.lc.loops.isEmpty then s.nesting
  else
    s.chanFault 0
    s.chanFault 1
    s.chanFault 2
    s.chanFault 3
    s.bankFault
    if s.exitDeadlock then s.raise .queueDeadlock 8 else .ok ()

/-- The LC leaves every group of GMASK (R38). -/
def State.leaveGroups (s : State) : State :=
  let leave (t : Task) : Task :=
    { t with groups := t.groups.mapIdx (fun i g => if s.lc.gmask.getLsbD i then g.leave else g) }
  let t := s.updTask leave
  { t with lc := { t.lc with gmask := 0, bars := [] } }

/-- Every earlier access of every stream is performed (R38). -/
def State.allDone (s : State) : Bool :=
  s.unperformedV.isEmpty && s.kDone && s.lc.chans.all (fun c => c.cmds.isEmpty) && s.bankWork.isEmpty && s.svxDone
    && s.dev.scUpdates.isEmpty

/-- What an LC that has ended keeps: its place. -/
def Lc.ended (l : Lc) : Lc :=
  { Lc.reset with
    key := l.key, status := .exited, core := l.core, partNo := l.partNo, pc := l.pc, taskid := l.taskid,
    ptbase := l.ptbase, asid := l.asid, gmask := 0 }

/-- The LC has ended: its context, pins, tile state and accumulators are free (R38, R287). -/
def State.endLc (s : State) : State :=
  let mine (k : LcKey) : Bool := k == s.lc.key
  let clear (p : Part) : Part := if p.ownerKey == some s.lc.key then p.clear else p
  let d := (s.dev.releasePins mine).dropLcs mine
  { s with
    lc := s.lc.ended
    part := clear s.part
    parts := s.parts.map clear
    dev := d.updTask s.lc.key.task (fun t => { t with exited := t.exited + 1 }) }

/-- EXIT (R38, R344). -/
def execExit (s : State) : Out := s.finish do
  s.exitFaults
  let s ← s.postStrip
  let s ← s.commitStrip
  let s := s.leaveGroups
  if !s.allDone then .error (.waitIn s)
  else
    s.hostFault
    .ok s.endLc.retire

end Sys2Proof.Machine
end

