-- ==== Sys2Proof/Machine/Tile.lean ====
section
/-! DEFINITION. Tile.lean: the hand-off of tile, matrix and accumulator instructions, MAJ 30 to 35 (R238 to R243, R327,
R361, R389, R390, R392, R393), and their meanings. What they compute is in Matrix.lean. -/

namespace Sys2Proof.Machine

/-! ### Hand-off -/

/-- Whether an entry writes the tile configurations. -/
def VOp.shapes (o : VOp) : Bool :=
  match o with
  | .ten | .tdis | .tshape _ => true
  | _ => false

/-- An instruction that captures a tile configuration waits until the LC's earlier TEN, TDIS and TSHAPE have executed,
so that it captures what they leave (R238). -/
def State.shapesDone (s : State) : Except Halt Unit :=
  if s.liveV.any (·.op.shapes) then .error .wait else .ok ()

/-- The checks of a tile or accumulator instruction (R103, R238). -/
def tguard (regs types : List (Nat × Bool)) (bits : Nat) : Guard :=
  { regs := regs, types := types, tile := true, bits := bits }

/-- A field of six bits that names one of 32 vector registers (R240, R327). -/
def v6Ok (d : SReg) : Bool := decide (d.toNat < 32)

/-- TILE_SHAPE_MISMATCH naming a tile. -/
def State.tileMismatch {α : Type} (s : State) (t : Nat) : Except Halt α :=
  s.raise .tileShapeMismatch (BitVec.ofNat 64 (0x10 + t))

/-- The configuration of a tile as later instructions capture it. -/
def State.tcfgOf (s : State) (t : Nat) : TCfg := s.lc.tcfg[t]?.getD TCfg.zero

/-! ### Tile control, MAJ 30 (R235, R236, R240) -/

/-- TSHAPE (R236, R392). -/
def execTshape (d a : SReg) (s : State) : Out := s.finish do
  s.guard (tguard [] [] 8)
  let x ← s.useS a
  s.claimS d
  let t ← (s.claim d).handOff false (.tshape d) x 0 0 false
  .ok t.retire

/-- TEN (R235, R389): decoded whatever EN holds. -/
def execTen (s : State) : Out := s.finish (s.vop false {} .ten)

/-- TDIS (R235, R389). -/
def execTdis (s : State) : Out := s.finish (s.vop false (tguard [] [] 8) .tdis)

/-- TZERO (R240). -/
def execTzero (t : TReg) (s : State) : Out := s.finish do
  s.guard (tguard [] [] 8)
  s.shapesDone
  let u ← s.handOff false (.tzero t) 0 0 0 false
  .ok u.retire

/-- TSLICE (R240, R393): the row or column number must lie in the tile. -/
def execTslice (d a : SReg) (c : Bool) (t : TReg) (s : State) : Out := s.finish do
  s.guard (tguard [(20, v6Ok d)] [] 8)
  let x ← s.useS a
  s.shapesDone
  let f := s.tcfgOf t.toNat
  if (if c then f.cols.toNat else f.rows.toNat) ≤ x.toNat then s.raise .tileShapeMismatch x
  else
    let u ← s.handOff false (.tslice (d.setWidth 5) t c) x 0 0 false
    .ok u.retire

/-! ### Tile memory, MAJ 31 and 32 (R239, R390) -/

/-- The types of TLD and TST (R239). -/
def tileType (y : Ty) : Bool := shapeType y || y == .i8 || y == .n8

/-- The elements that a whole byte boundary needs (R239). -/
def packUnit (y : Ty) : Nat :=
  match y with
  | .mx6 | .mx6b => 4
  | .mx4 => 2
  | _ => 1

/-- The checks and the hand-off of TLD and TST. -/
def State.tileMove (s : State) (t : VReg) (a : SReg) (y : Ty) (op : VOp) : Except Halt State := do
  s.guard (tguard [(20, kOk t)] [(tyCode y, tileType y)] y.regBits)
  let x ← s.useS a
  s.shapesDone
  let f := s.tcfgOf t.toNat
  if f.ty.toNat != tyCode y || decide (f.rows.toNat < s.lc.vec.rowcnt.toNat) || decide (f.cols.toNat < s.lc.vec.vl.toNat)
  then s.tileMismatch t.toNat
  else if s.lc.vec.vl.toNat % packUnit y != 0 then s.raise .badControlState 0
  else
    let u ← s.handOff false op x 0 0 false
    .ok u.retire

/-- TLD (R239, R390). -/
def execTld (t : VReg) (a : SReg) (k o : Bool) (y : Ty) (s : State) : Out :=
  s.finish (s.tileMove t a y (.tld (t.setWidth 3) k o y))
/-- TST (R239, R390). -/
def execTst (t : VReg) (a : SReg) (k o : Bool) (y : Ty) (s : State) : Out :=
  s.finish (s.tileMove t a y (.tst (t.setWidth 3) k o y))

/-! ### Products, MAJ 33 and 34 (R243) -/

/-- Whether an accumulator is allocated to the partition as later instructions see it (R241, R389). -/
def State.allocated (s : State) (c : AccReg) : Except Halt Unit :=
  if s.accView.getLsbD c.toNat then .ok () else s.raise .accumulatorUnallocated (c.setWidth 64)

/-- The type of an MMA operand lies in some accepted pair, and the pair is accepted (R99). -/
def mmaSide (y : Ty) : Bool := y == .f16 || y == .bf16 || y == .e4m3 || y == .e5m2
def mmaPair (x y : Ty) : Bool := (x == y && mmaSide x) || (x.cls == .F8 && y.cls == .F8)

/-- The tile a shape check of R243 names, in the order of its rows; none when all hold. -/
def shapeError (a b sa sb : TCfg) (ta tb : Nat) (x y : Ty) (mx : Bool) : Option Nat :=
  let kb := (a.cols.toNat + 31) / 32
  if a.ty.toNat != tyCode x then some ta
  else if b.ty.toNat != tyCode y then some tb
  else if b.rows.toNat != a.cols.toNat then some tb
  else if 128 < b.cols.toNat then some tb
  else if !mx then none
  else if sa.ty.toNat != tyCode .n8 then some (ta + 1)
  else if sb.ty.toNat != tyCode .n8 then some (tb + 1)
  else if sa.rows.toNat < a.rows.toNat || sa.cols.toNat < kb then some (ta + 1)
  else if sb.rows.toNat < kb || sb.cols.toNat < b.cols.toNat then some (tb + 1)
  else none

/-- The checks and the hand-off of a product. -/
def State.product (s : State) (g : Guard) (c : AccReg) (a b : TReg) (x y : Ty) (mx f e sat : Bool) :
    Except Halt State := do
  s.guard g
  s.shapesDone
  s.allocated c
  let cfg (t : Nat) : TCfg := s.tcfgOf t
  match shapeError (cfg a.toNat) (cfg b.toNat) (cfg (a.toNat + 1)) (cfg (b.toNat + 1)) a.toNat b.toNat x y mx with
  | some t => s.tileMismatch t
  | none =>
    let u ← s.handOff false (.mma c a b x y mx f e sat) 0 0 0 false
    .ok u.retire

/-- MMA (R243, R361); its formats of an mx8 operand go with types that it refuses. -/
def execMma (c : AccReg) (a b : TReg) (x y : Ty) (v : MmaFlags) (s : State) : Out :=
  s.finish (s.product (tguard [] [(tyCode x, mmaSide x), (tyCode y, mmaSide y), (tyCode y, mmaPair x y)] 8)
    c a b x y false v.f v.e v.s)

/-- MMAX (R243, R361): tile pairs start at an even tile (R72). -/
def execMmax (c : AccReg) (a b : TReg) (x y : Ty) (f e t : Bool) (s : State) : Out :=
  s.finish (s.product (tguard [(19, !a.getLsbD 0), (16, !b.getLsbD 0)] [(tyCode x, tyM x), (tyCode y, tyM y)] 8)
    c a b x y true f e t)

/-! ### Accumulators, MAJ 35 (R241, R242, R327) -/

/-- ACCRD and ACCWR: the checks of R327 in their order. -/
def State.accMove (s : State) (d a : SReg) (c : AccReg) (op : VOp) : Except Halt State := do
  s.guard { tguard [(20, v6Ok d)] [] 32 with governed := true }
  let x ← s.useS a
  s.allocated c
  if 128 < s.lc.vec.vl.toNat then s.raise .badControlState 0
  else if 128 ≤ x.toNat then s.raise .tileShapeMismatch x
  else
    let u ← s.handOff false op x 0 0 false
    .ok u.retire

/-- ACCRD (R242, R327). -/
def execAccrd (d a : SReg) (c : AccReg) (s : State) : Out := s.finish (s.accMove d a c (.accrd (d.setWidth 5) c))
/-- ACCWR (R242, R327). -/
def execAccwr (d a : SReg) (c : AccReg) (s : State) : Out := s.finish (s.accMove d a c (.accwr (d.setWidth 5) c))
/-- ACCZ (R242, R327): the checks that name no register. -/
def execAccz (c : AccReg) (s : State) : Out := s.finish do
  s.guard (tguard [] [] 8)
  s.allocated c
  if 128 < s.lc.vec.vl.toNat then s.raise .badControlState 0
  else
    let u ← s.handOff false (.accz c) 0 0 0 false
    .ok u.retire

end Sys2Proof.Machine
end

