-- ==== Sys2Proof/Machine/Csr.lean ====
section
/-! DEFINITION. Csr.lean: the CSRs: which numbers exist, what each reads, which bits each level writes, which values
are not accepted, and what a write leaves (R36, R64, R73, R75 to R84, R269, R305, R306, R343). Numbers are those of
the tables of those rules. -/

namespace Sys2Proof.Machine

/-! ### Reading (R342) -/

/-- The layout of one tile configuration (R78). -/
def TCfg.word (c : TCfg) : Dword := at_ c.ty.toNat 28 ||| at_ c.cols.toNat 16 ||| at_ c.rows.toNat 0

/-- The configuration a word holds. -/
def TCfg.ofWord (v : Dword) : TCfg := ⟨v.extractLsb' 28 4, v.extractLsb' 16 9, v.extractLsb' 0 8⟩

/-- SSTATUS (R269). -/
def TrapRegs.sstatus (t : TrapRegs) : Dword :=
  bitAt t.rlost 9 ||| bitAt t.step 8 ||| bitAt t.uh 7 ||| bitAt t.plevel 4

/-- DRPC (R269). -/
def TrapRegs.drpc (t : TrapRegs) : Dword := t.drpcPc.setWidth 64 ||| bitAt t.drpcRm 1 ||| bitAt t.drpcV 0
/-- SDRPC (R269). -/
def TrapRegs.sdrpc (t : TrapRegs) : Dword := t.sdrpcPc.setWidth 64 ||| bitAt t.sdrpcRm 1 ||| bitAt t.sdrpcV 0
/-- PRIV (R82). -/
def TrapRegs.priv (t : TrapRegs) : Dword := at_ t.smode.toNat 1 ||| bitAt t.level 0
/-- POISONLOG (R82). -/
def TrapRegs.poisonLog (t : TrapRegs) : Dword := bitAt t.poisonValid 63 ||| t.poisonGranule.setWidth 64

/-- WATCH (R269). -/
def TrapRegs.watchWord (t : TrapRegs) : Dword := t.watch.setWidth 64 ||| bitAt t.watchLd 1 ||| bitAt t.watchSt 0

/-- The stack STKSEL names (R306). -/
def State.pool (s : State) : Stack := s.dev.stack s.lc.stksel.toNat

/-- A user CSR of R36 and R76 to R83; none for a number no table defines. -/
def State.userCsr (s : State) (n : Nat) : Option Dword :=
  let l := s.lc
  let w {k : Nat} (x : BitVec k) : Option Dword := some (x.setWidth 64)
  match n with
  | 0x000 => w l.vec.vl | 0x001 => w l.vec.vmsel | 0x002 => w l.vec.vstride | 0x003 => w l.vstart | 0x004 => w l.epr
  | 0x005 => w l.vec.rowcnt | 0x006 => w l.vec.rowpitch | 0x007 => w l.vec.seqn | 0x008 => w l.vec.draftn
  | 0x009 => w l.vec.frm | 0x00A => w l.fflags | 0x00B => w l.ftrapen
  | 0x018 => w s.part.tstate | 0x019 => w s.part.accalloc | 0x01A => w l.accrecomp | 0x01B => w l.restartpc
  | 0x020 => w s.core.bankrole | 0x021 => w l.saff | 0x022 => w l.bnkwin | 0x038 => w l.redgrp
  | 0x040 => w l.gen.jbase | 0x041 => w l.gen.jlimit | 0x042 => w l.gen.umcfg | 0x043 => w l.gen.umdirty
  | 0x044 => w l.gen.rngkey | 0x045 => w l.gen.vocabn
  | 0x050 => w l.strip | 0x051 => w l.ebase | 0x052 => w l.erem | 0x053 => w l.taskid
  | 0x054 => some (BitVec.ofNat 64 l.key.lcid) | 0x055 => w (s.cycleOf s.core.no) | 0x056 => w l.gmask
  | 0x060 => w l.trap.tvec | 0x061 => w l.trap.tcause | 0x062 => w l.trap.tepc | 0x063 => w l.trap.tval
  | 0x064 => w l.trap.tinsn | 0x065 => w l.trap.frecbase
  | 0x066 => some (at_ l.trap.frecCap.toNat 16 ||| at_ l.trap.frecIdx.toNat 0)
  | 0x067 => w l.trap.savebase | 0x068 => some l.trap.priv
  | 0x069 => some (at_ s.part.ownerLcid.toNat 32 ||| at_ s.part.ownerTask.toNat 0)
  | 0x06A => some l.trap.poisonLog
  | _ =>
    if 0x010 ≤ n ∧ n < 0x018 then some (s.tcfgOf (n - 0x010)).word
    else if 0x030 ≤ n ∧ n < 0x034 then (l.chans[n - 0x030]?).map (·.done.setWidth 64)
    else if 0x034 ≤ n ∧ n < 0x038 then (l.chans[n - 0x034]?).map (·.wp.setWidth 64)
    else if 0x070 ≤ n ∧ n < 0x078 then (l.pcsel[n - 0x070]?).map (·.setWidth 64)
    else if 0x078 ≤ n ∧ n < 0x080 then (l.pcval[n - 0x078]?).map (·.setWidth 64)
    else none

/-- A supervisor CSR of R84, R64, R269, R305 and R306; WO fields read 0. -/
def State.superCsr (s : State) (n : Nat) : Option Dword :=
  let t := s.lc.trap
  let w {k : Nat} (x : BitVec k) : Option Dword := some (x.setWidth 64)
  match n with
  | 0x100 => w s.lc.ptbase | 0x101 => w s.lc.asid | 0x102 => w s.core.preempt | 0x103 => some (bitAt s.core.pindrop 0)
  | 0x110 => w s.core.stvec | 0x111 => w t.scause | 0x112 => w t.sepc | 0x113 => w t.stval | 0x114 => w t.sinsn
  | 0x115 => some t.sstatus | 0x116 => some t.drpc | 0x117 => some t.sdrpc | 0x118 => w t.sscratch
  | 0x119 => some (at_ s.cap 32 ||| at_ s.lc.contain.length 16)
  | 0x11A | 0x11B | 0x11C | 0x11E | 0x11F | 0x120 => some 0
  | 0x11D => some t.watchWord
  | 0x122 => w s.lc.stksel | 0x123 => w s.pool.czbase | 0x124 => w s.pool.poolbase | 0x125 => w s.pool.poolsize
  | 0x126 => w s.pool.poolhead | 0x127 => w s.pool.pooltail
  | _ => none

/-- A CSR's value; none for a number that no table defines (R73). -/
def State.csr (s : State) (n : Nat) : Option Dword := if n < 0x100 then s.userCsr n else s.superCsr n

/-! ### Which bits are written (R73, R343) -/

/-- Bits [56:2] and [56:6]: a word address, a granule address. -/
def pcMask : Dword := 0x01FF_FFFF_FFFF_FFFC
def granuleMask : Dword := 0x01FF_FFFF_FFFF_FFC0

/-- The RW bits of a CSR at a level. -/
def csrRw (n : Nat) (super : Bool) : Dword :=
  let ones : Dword := BitVec.allOnes 64
  match n with
  | 0x000 | 0x007 => 0x1FFF | 0x001 => 0xF | 0x002 | 0x006 | 0x020 | 0x044 | 0x063 => ones
  | 0x003 | 0x005 | 0x019 | 0x01A => 0xFFFF | 0x004 | 0x045 | 0x064 | 0x066 => 0xFFFF_FFFF
  | 0x008 | 0x00B => 0x3F | 0x009 => 3 | 0x00A => 0x7F | 0x01B | 0x060 | 0x062 => pcMask | 0x022 => 7
  | 0x038 => 0xFFFF_3F0F | 0x040 | 0x041 => 0x01FF_FFFF_FFFF_FFF0 | 0x042 => 0x0FFF_FFFF
  | 0x043 | 0x065 => granuleMask | 0x061 => 0xFF
  | 0x067 => if super then granuleMask else 0
  | 0x068 => if super then 6 else 0
  | 0x069 => if super then 0x0FFF_FFFF_FFFF else 0
  | 0x100 => 0x000F_FFFF_FFFF_0000 | 0x101 => 0xFFFF | 0x102 => 0x80FF_FFFF_FFFF_FFFF | 0x103 => 1
  | 0x110 | 0x112 => pcMask | 0x111 => 0xFF | 0x113 | 0x118 => ones | 0x114 => 0xFFFF_FFFF | 0x115 => 0x190
  | 0x116 | 0x117 => 0x01FF_FFFF_FFFF_FFFF | 0x11D => granuleMask ||| 3
  | 0x122 => 0xF | 0x124 => 0x000F_FFFF_FFFF_FFF8 | 0x125 => 0x1_FFFF | 0x127 => 0xFFFF_FFFF
  | _ =>
    if 0x010 ≤ n ∧ n < 0x018 then 0xF1FF_00FF
    else if 0x070 ≤ n ∧ n < 0x078 then 0x3_FFFF
    else if 0x078 ≤ n ∧ n < 0x080 then 0xFFFF_FFFF_FFFF
    else 0

/-- The W1C bits of a CSR. -/
def csrW1c (n : Nat) : Dword :=
  match n with
  | 0x06A => 0x8000_0000_0000_0000
  | 0x115 => 0x200
  | _ => 0

/-- Whether a CSR has a WO field. -/
def csrWo (n : Nat) : Bool := (decide (0x119 ≤ n) && decide (n ≤ 0x11C)) || n == 0x11E || n == 0x11F || n == 0x120

/-- Whether a level may write some field of a CSR. -/
def csrWritable (n : Nat) (super : Bool) : Bool := csrRw n super != 0 || csrW1c n != 0 || csrWo n

/-- How a CSR instruction combines the register with the CSR (R342). -/
inductive CsrOp where
  | write | set | clear
  deriving DecidableEq, Repr

/-- The value a CSR takes (R342, R343). -/
def csrNew (o : CsrOp) (old v rw w1c : Dword) : Dword :=
  match o with
  | .write => ((old &&& ~~~rw) ||| (v &&& rw)) &&& ~~~(v &&& w1c)
  | .set => (old ||| (v &&& rw)) &&& ~~~(v &&& w1c)
  | .clear => old &&& ~~~(v &&& rw)

/-! ### Values that are not accepted (R73) -/

/-- Whether a ring size is a power of two from 1 to 65,536 (R306). -/
def ringSize (n : Nat) : Bool := (List.range 17).any (fun i => n == 2 ^ i)

/-- Whether a TCFG value is accepted: R78's ranges and R237's grant. -/
def State.tcfgOk (s : State) (t : Nat) (v : Dword) : Bool :=
  let c := TCfg.ofWord v
  let g := s.part.grant.cfg[t]?.getD TCfg.zero
  if !s.part.tstate.getLsbD 0 then v == 0
  else decide (c.cols.toNat ≤ 256) && decide (c.rows.toNat ≤ 128) && decide (c.rows.toNat ≤ g.rows.toNat)
    && decide (pitchOf c.cols.toNat c.type ≤ s.part.grant.pitch t)

/-- Whether the value a write would leave is accepted. -/
def State.csrAccepts (s : State) (n : Nat) (v : Dword) : Bool :=
  match n with
  | 0x000 | 0x007 => decide (v.toNat ≤ 4096)
  | 0x001 => decide (v.toNat ≤ 8)
  | 0x008 => decide (v.toNat ≤ 32)
  | 0x020 => (List.range 32).all (fun b => field v (2 * b) 2 != 3)
  | 0x022 => decide (v.toNat ≤ 4)
  | 0x122 => decide (v.toNat ≤ 11)
  | 0x124 => s.pool.poolhead == s.pool.pooltail
  | 0x125 => s.pool.poolhead == s.pool.pooltail && ringSize v.toNat
  | 0x127 => decide ((v.setWidth 32 - s.pool.poolhead).toNat ≤ s.pool.poolsize.toNat)
  | _ =>
    if 0x010 ≤ n ∧ n < 0x018 then s.tcfgOk (n - 0x010) v
    else if 0x070 ≤ n ∧ n < 0x078 then decide (field v 0 16 ≤ 9)
    else true

/-! ### Writing -/

/-- The state with a vector control changed. -/
def State.setVec (s : State) (f : VecCtl → VecCtl) : State := { s with lc := { s.lc with vec := f s.lc.vec } }
/-- The state with a generation control changed. -/
def State.setGen (s : State) (f : GenCtl → GenCtl) : State := { s with lc := { s.lc with gen := f s.lc.gen } }
/-- The state with a trap register changed. -/
def State.setTrap (s : State) (f : TrapRegs → TrapRegs) : State := { s with lc := { s.lc with trap := f s.lc.trap } }
/-- The state with the selected stack's registers changed. -/
def State.setPool (s : State) (f : Stack → Stack) : State := { s with dev := s.dev.setStack (f s.pool) }

/-- The LC that VOWNER names: the one resident here if it is that one, else any of the device (R82). -/
def State.ownerNamed (s : State) (lcid : Nat) (task : BitVec 32) : Option LcKey :=
  (s.allLcs.find? (fun l => l.status != .absent && l.status != .exited && l.key.lcid == lcid && l.taskid == task)).map
    (·.key)

/-- A user CSR with a new value; TCFG, ACCALLOC and BANKROLE are written by their actions. -/
def State.setUserCsr (s : State) (n : Nat) (v : Dword) : State :=
  match n with
  | 0x000 => s.setVec ({ · with vl := v.setWidth 13 })
  | 0x001 => s.setVec ({ · with vmsel := v.setWidth 4 })
  | 0x002 => s.setVec ({ · with vstride := v })
  | 0x003 => { s with lc := { s.lc with vstart := v.setWidth 16 } }
  | 0x004 => { s with lc := { s.lc with epr := v.setWidth 32 } }
  | 0x005 => s.setVec ({ · with rowcnt := v.setWidth 16 })
  | 0x006 => s.setVec ({ · with rowpitch := v })
  | 0x007 => s.setVec ({ · with seqn := v.setWidth 13 })
  | 0x008 => s.setVec ({ · with draftn := v.setWidth 6 })
  | 0x009 => s.setVec ({ · with frm := v.setWidth 2 })
  | 0x00A => { s with lc := { s.lc with fflags := v.setWidth 7 } }
  | 0x00B => { s with lc := { s.lc with ftrapen := v.setWidth 6 } }
  | 0x01A => { s with lc := { s.lc with accrecomp := v.setWidth 16 } }
  | 0x01B => { s with lc := { s.lc with restartpc := v.setWidth 57 } }
  | 0x022 => { s with lc := { s.lc with bnkwin := v.setWidth 3 } }
  | 0x038 => { s with lc := { s.lc with redgrp := v } }
  | 0x040 => s.setGen ({ · with jbase := v.setWidth 57 })
  | 0x041 => s.setGen ({ · with jlimit := v.setWidth 57 })
  | 0x042 => s.setGen ({ · with umcfg := v.setWidth 28 })
  | 0x043 => s.setGen ({ · with umdirty := v.setWidth 57 })
  | 0x044 => s.setGen ({ · with rngkey := v })
  | 0x045 => s.setGen ({ · with vocabn := v.setWidth 32 })
  | 0x060 => s.setTrap ({ · with tvec := v.setWidth 57 })
  | 0x061 => s.setTrap ({ · with tcause := v.setWidth 8 })
  | 0x062 => s.setTrap ({ · with tepc := v.setWidth 57 })
  | 0x063 => s.setTrap ({ · with tval := v })
  | 0x064 => s.setTrap ({ · with tinsn := v.setWidth 32 })
  | 0x065 => s.setTrap ({ · with frecbase := v.setWidth 57 })
  | 0x066 => s.setTrap ({ · with frecCap := v.extractLsb' 16 16, frecIdx := v.setWidth 16 })
  | 0x067 => s.setTrap ({ · with savebase := v.setWidth 57 })
  | 0x068 => s.setTrap ({ · with smode := v.extractLsb' 1 2 })
  | 0x069 =>
    let lcid : BitVec 12 := v.extractLsb' 32 12
    let task : BitVec 32 := v.setWidth 32
    { s with part := { s.part with
        ownerLcid := lcid, ownerTask := task, ownerKey := s.ownerNamed lcid.toNat task } }
  | 0x06A => s.setTrap ({ · with poisonValid := v.getLsbD 63 })
  | _ =>
    if 0x070 ≤ n ∧ n < 0x078 then
      { s with lc := { s.lc with pcsel := s.lc.pcsel.setIfInBounds (n - 0x070) (v.setWidth 18) } }
    else if 0x078 ≤ n ∧ n < 0x080 then
      { s with lc := { s.lc with pcval := s.lc.pcval.setIfInBounds (n - 0x078) (v.setWidth 48) } }
    else s

/-- A supervisor CSR with a new value; POOLTAIL and the registers of WO fields are written by their actions. -/
def State.setSuperCsr (s : State) (n : Nat) (v : Dword) : State :=
  match n with
  | 0x100 => { s with lc := { s.lc with ptbase := v.setWidth 52 } }
  | 0x101 => { s with lc := { s.lc with asid := v.setWidth 16 } }
  | 0x102 => { s with core := { s.core with preempt := v } }
  | 0x103 => { s with core := { s.core with pindrop := v.getLsbD 0 } }
  | 0x110 => { s with core := { s.core with stvec := v.setWidth 57 } }
  | 0x111 => s.setTrap ({ · with scause := v.setWidth 8 })
  | 0x112 => s.setTrap ({ · with sepc := v.setWidth 57 })
  | 0x113 => s.setTrap ({ · with stval := v })
  | 0x114 => s.setTrap ({ · with sinsn := v.setWidth 32 })
  | 0x115 => s.setTrap ({ · with
      rlost := v.getLsbD 9, step := v.getLsbD 8, uh := v.getLsbD 7, plevel := v.getLsbD 4 })
  | 0x116 => s.setTrap ({ · with drpcPc := v.setWidth 57 &&& ~~~3#57, drpcRm := v.getLsbD 1, drpcV := v.getLsbD 0 })
  | 0x117 => s.setTrap ({ · with sdrpcPc := v.setWidth 57 &&& ~~~3#57, sdrpcRm := v.getLsbD 1, sdrpcV := v.getLsbD 0 })
  | 0x118 => s.setTrap ({ · with sscratch := v })
  | 0x11D => s.setTrap ({ · with
      watch := v.setWidth 57 &&& ~~~63#57, watchLd := v.getLsbD 1, watchSt := v.getLsbD 0 })
  | 0x122 => { s with lc := { s.lc with stksel := v.setWidth 4 } }
  | 0x124 => s.setPool ({ · with poolbase := v.setWidth 52 })
  | 0x125 => s.setPool ({ · with poolsize := v.setWidth 17 })
  | _ => s

/-- A CSR with a new value. -/
def State.setCsr (s : State) (n : Nat) (v : Dword) : State :=
  if n < 0x100 then s.setUserCsr n v else s.setSuperCsr n v

/-- Whether a CSR is LC state, so that a frame holds it (R75). LEVEL, XDONE, XWP, CYCLE and the task CSRs are written to
the image like the others. -/
def csrOfLc (n : Nat) : Bool :=
  !(n == 0x018 || n == 0x019 || n == 0x020 || n == 0x069 || n == 0x102 || n == 0x103 || n == 0x110
    || (decide (0x115 ≤ n) && decide (n ≤ 0x117)) || n == 0x119 || decide (0x123 ≤ n))

end Sys2Proof.Machine
end

