-- ==== Sys2Proof/Machine/Frame.lean ====
section
/-! DEFINITION. Frame.lean: the save-area frame of R290 and the vector frame of R288 as lists of 64-byte granules, each
with its poison (R291): what they hold, how they are stored and loaded, and what a load gives back. The places inside
an entry, and of what the rules' tables do not place, are the model's (log 12). -/

namespace Sys2Proof.Machine

/-- A granule of a frame: its value, and whether it is poisoned. -/
abbrev Granule := Nat × Bool

/-! ### Packing -/

/-- Fields of given widths, the first lowest. -/
def packFields : List (Nat × Nat) → Nat
  | [] => 0
  | f :: r => f.2 % 2 ^ f.1 + 2 ^ f.1 * packFields r

/-- The fields of given widths of a value. -/
def unpackFields : List Nat → Nat → List Nat
  | [], _ => []
  | w :: r, x => x % 2 ^ w :: unpackFields r (x / 2 ^ w)

/-- Doublewords in ascending address. -/
def packWords (l : List Nat) : Nat := packFields (l.map (fun x => (64, x)))

/-- `n` granules of a value, with the poison of each. -/
def granulesOf (n x p : Nat) : List Granule := (List.range n).map (fun g => ((x >>> (512 * g)) % 2 ^ 512, p.testBit g))

/-- The doubleword at a byte offset of a list of granules. -/
def wordAt (g : List Granule) (o : Nat) : Dword := BitVec.ofNat 64 ((g.getD (o / 64) (0, false)).1 >>> (8 * (o % 64)))

/-- The value of `n` granules from one on. -/
def granuleSpan (g : List Granule) (at_ n : Nat) : Nat := packFields (((g.drop at_).take n).map (fun x => (512, x.1)))

/-- The poison of `n` granules from one on. -/
def poisonSpan (g : List Granule) (at_ n : Nat) : Nat := packFields (((g.drop at_).take n).map (fun x => (1, x.2.toNat)))

/-! ### Frame accesses (R289: any fault raises SAVE_AREA_FAULT) -/

/-- Granules stored in order. -/
def State.storeFrame (s : State) (va : Dword) : List Granule → Except Halt State
  | [] => .ok s
  | g :: r => match s.reachIn (s.space true) .store va with
    | (t, .ok l) =>
      if t.linkBad l then .error (.trapIn (t.markBad l) (t.report .saveAreaFault va))
      else (t.writeLoc l 64 g.1 g.2).storeFrame (va + 64) r
    | (_, .error _) => s.raise .saveAreaFault va

/-- `n` granules loaded in order; one that failed is marked poisoned (R283). -/
def State.loadFrame (s : State) (va : Dword) : Nat → Except Halt (State × List Granule)
  | 0 => .ok (s, [])
  | n + 1 => match s.reachIn (s.space true) .load va with
    | (t, .ok l) =>
      if t.badAt l then .error (.trapIn (t.markBad l) (t.report .saveAreaFault va))
      else do
        let (u, r) ← t.loadFrame (va + 64) n
        .ok (u, (t.readHome l 64, t.poisonHome l) :: r)
    | (_, .error _) => s.raise .saveAreaFault va

/-- The first granule of a frame whose reserved bits, those outside `known`, are not all zero: the frame is refused there
(R4, log 84). -/
def badGranule (g : List Granule) (known : List Nat) : Option Nat :=
  ((g.zip known).zipIdx.find? (fun x => x.1.1.1 &&& (2 ^ 512 - 1 - x.1.2) != 0)).map (·.2)

/-- A frame whose reserved bits must be zero. -/
def State.checkFrame (s : State) (va : Dword) (g : List Granule) (known : List Nat) : Except Halt Unit :=
  match badGranule g known with
  | none => .ok ()
  | some i => s.raise .saveAreaFault (va + BitVec.ofNat 64 (64 * i))

/-! ### V- and K-stream entries -/

/-- The operation of an instruction that V or K executes, and whether it is placed. -/
def Instr.streamOp (i : Sys2Proof.Instr) : Option (VOp × Bool) :=
  match i with
  | .vadd p d a b t => some (.bin .add d a b t, p) | .vsub p d a b t => some (.bin .sub d a b t, p)
  | .vmul p d a b t => some (.bin .mul d a b t, p) | .vdiv p d a b t => some (.bin .div d a b t, p)
  | .vmin p d a b t => some (.bin .min d a b t, p) | .vmax p d a b t => some (.bin .max d a b t, p)
  | .vand p d a b t => some (.bin .and d a b t, p) | .vor p d a b t => some (.bin .or d a b t, p)
  | .vxor p d a b t => some (.bin .xor d a b t, p) | .vshl p d a b t => some (.bin .shl d a b t, p)
  | .vshr p d a b t => some (.bin .shr d a b t, p) | .vsra p d a b t => some (.bin .sra d a b t, p)
  | .vaddVs p d a _ t => some (.binS .add d a t, p) | .vsubVs p d a _ t => some (.binS .sub d a t, p)
  | .vmulVs p d a _ t => some (.binS .mul d a t, p) | .vdivVs p d a _ t => some (.binS .div d a t, p)
  | .vminVs p d a _ t => some (.binS .min d a t, p) | .vmaxVs p d a _ t => some (.binS .max d a t, p)
  | .vandVs p d a _ t => some (.binS .and d a t, p) | .vorVs p d a _ t => some (.binS .or d a t, p)
  | .vxorVs p d a _ t => some (.binS .xor d a t, p) | .vshlVs p d a _ t => some (.binS .shl d a t, p)
  | .vshrVs p d a _ t => some (.binS .shr d a t, p) | .vsraVs p d a _ t => some (.binS .sra d a t, p)
  | .vbcast p d _ t => some (.bcast d t, p) | .vslide p d a _ t => some (.slide d a t, p)
  | .vextract p a d t => some (.extract d a t, p)
  | .vma p d a b t => some (.tern .ma d a b t, p) | .vms p d a b t => some (.tern .ms d a b t, p)
  | .vnma p d a b t => some (.tern .nma d a b t, p)
  | .vneg p d a t => some (.un .neg d a t, p) | .vabs p d a t => some (.un .abs d a t, p)
  | .vsqrt p d a t => some (.un .sqrt d a t, p) | .vrcp p d a t => some (.un .rcp d a t, p)
  | .vrsq p d a t => some (.un .rsq d a t, p) | .vexp2 p d a t => some (.un .exp2 d a t, p)
  | .vlog2 p d a t => some (.un .log2 d a t, p) | .vclass p d a t => some (.un .cls d a t, p)
  | .vmov p d a t => some (.un .mov d a t, p) | .viota p d t => some (.iota d t, p)
  | .vcvt p d a s e t => some (.cvt d a s e t, p)
  | .vcmp p k a b t c => some (.cmp k a b t c, p) | .vsel p d a b t => some (.sel d a b t, p)
  | .vperm p d a b t => some (.perm d a b t, p) | .vcompress p d a t => some (.compress d a t, p)
  | .vqsend p a q t => some (.qsend q a t, p) | .vqrecv p d q t => some (.qrecv d q t, p)
  | .vredsum p d a b t g => some (.red .sum d a b t g, p) | .vredosum p d a b t g => some (.red .osum d a b t g, p)
  | .vredmax p d a b t g => some (.red .max d a b t g, p) | .vredmin p d a b t g => some (.red .min d a b t g, p)
  | .vargmax p d a b t g => some (.red .argmax d a b t g, p)
  | .vargmin p d a b t g => some (.red .argmin d a b t g, p)
  | .vscan p d a b t g => some (.red .scan d a b t g, p)
  | .kand k a b => some (.mask .and k a b, false) | .kor k a b => some (.mask .or k a b, false)
  | .kxor k a b => some (.mask .xor k a b, false) | .knot k a => some (.mask .not k a 0, false)
  | .kmov k a => some (.mask .mov k a 0, false)
  | .kpop a d => some (.kscalar false d a, false) | .kfirst a d => some (.kscalar true d a, false)
  | .vld p t _ m k o y => some (.load t m k o y, p) | .vst p t _ m k o y => some (.store t m k o y, p)
  | .vamo p t _ c k o y x => some (.atomic c t x true k o y, p)
  | .vamon p t _ c k o y x => some (.atomic c t x false k o y, p)
  | .tshape d _ => some (.tshape d, false) | .ten => some (.ten, false) | .tdis => some (.tdis, false)
  | .tzero t => some (.tzero t, false) | .tslice d _ c t => some (.tslice (d.setWidth 5) t c, false)
  | .tld t _ k o y => some (.tld (t.setWidth 3) k o y, false)
  | .tst t _ k o y => some (.tst (t.setWidth 3) k o y, false)
  | .mma c a b x y v => some (.mma c a b x y false v.f v.e v.s, false)
  | .mmax c a b x y f e s => some (.mma c a b x y true f e s, false)
  | .accrd d _ c => some (.accrd (d.setWidth 5) c, false) | .accwr d _ c => some (.accwr (d.setWidth 5) c, false)
  | .accz c => some (.accz c, false)
  | .urank k a _ => some (.urank k a, false) | .ucommit k a _ _ => some (.ucommit k a, false)
  | .udirty k _ => some (.udirty k, false) | .ucfg _ => some (.ucfg, false)
  | .smpstep d a b _ => some (.smpstep d a b, false) | .vaccept k a _ _ => some (.vaccept k a, false)
  | .vpand k a => some (.vpand k a, false) | .vgumbel d _ _ => some (.draw d true, false)
  | .vdraw d _ _ => some (.draw d false, false)
  | .jadd _ _ _ => some (.jadd, false) | .jcommit _ _ => some (.jcommit, false) | .jdrop _ => some (.jdrop, false)
  | .skloop _ _ => some (.skloop, true) | .skend => some (.skend, true)
  | .skstrm j _ => some (.skstrm (j.setWidth 2), true)
  | _ => none

/-- A tile configuration in 21 bits. -/
def TCfg.pack (c : TCfg) : Nat := packFields [(4, c.ty.toNat), (9, c.cols.toNat), (8, c.rows.toNat)]
/-- The configuration of 21 bits. -/
def TCfg.unpack (x : Nat) : TCfg := ⟨BitVec.ofNat 4 x, BitVec.ofNat 9 (x / 16), BitVec.ofNat 8 (x / 8192)⟩

/-- The widths of an entry's fields: word, flags, PC, captured operands, controls and address space, restart index, its
place, and the controls of its family. -/
def entryLayout : List Nat :=
  [32, 8, 57, 64, 64, 64, 13, 4, 64, 16, 64, 13, 6, 2, 6, 52, 16, 57, 2, 16, 32, 20, 352]

/-- Whether an operation uses the generation controls; the others may use the tile configurations (R238, R249). -/
def VOp.generates (o : VOp) : Bool :=
  match o with
  | .urank _ _ | .ucommit _ _ | .udirty _ | .ucfg | .smpstep _ _ _ | .vaccept _ _ | .vpand _ _ | .draw _ _ | .jadd
  | .jcommit | .jdrop => true
  | _ => false

/-- The widths of the generation controls, and of the tile configurations with ACCALLOC. -/
def genLayout : List Nat := [57, 57, 28, 57, 64, 32]
def tileLayout : List Nat := List.replicate 8 21 ++ [16]

/-- An entry that stands for no instruction of its stream: the place of an SBAR, or of abandoned loop levels. -/
def VEntry.mark (e : VEntry) : Bool := e.barrier.isSome || e.abandons

/-- The fields of an entry; `stalled` says that it is the faulted entry that waits for ERET. -/
def VEntry.pack (e : VEntry) (stalled : Bool) : Nat :=
  let b (x : Bool) (i : Nat) : Nat := if x then 2 ^ i else 0
  let flags := b true 0 + b e.placed 1 + b e.super 2 + b e.xPoison 3 + b e.restart.isSome 4 + b e.rm.isSome 5
    + b stalled 6 + b e.mark 7
  let r := e.restart.getD (0, 0)
  let y : Dword := if e.mark then (if e.abandons then 1 else 0) else e.y
  let family :=
    if e.op.generates then packFields (genLayout.zip [e.gen.jbase.toNat, e.gen.jlimit.toNat, e.gen.umcfg.toNat,
      e.gen.umdirty.toNat, e.gen.rngkey.toNat, e.gen.vocabn.toNat])
    else packFields (tileLayout.zip (e.tcfg.toList.map TCfg.pack ++ [e.accalloc.toNat]))
  packFields (entryLayout.zip
    ([e.word.toNat, flags, e.pc.toNat, e.x.toNat, y.toNat, e.z.toNat, e.ctl.vl.toNat, e.ctl.vmsel.toNat,
      e.ctl.vstride.toNat, e.ctl.rowcnt.toNat, e.ctl.rowpitch.toNat, e.ctl.seqn.toNat, e.ctl.draftn.toNat,
      e.ctl.frm.toNat, e.ftrapen.toNat, e.env.ptbase.toNat, e.env.asid.toNat, e.env.watch.toNat,
      b e.env.watchLd 1 + b e.env.watchSt 0, r.1.toNat, r.2.toNat, e.no, family]))

/-- The entry of packed fields, with its masks and its place among those the LC has passed on, and whether it is stalled;
none for an empty slot or a word that no stream executes. -/
def VEntry.unpack (passed : Nat) (x : Nat) (rm kmask khead : Nat) : Option (VEntry × Bool) :=
  let f := unpackFields entryLayout x
  let n (i : Nat) : Nat := f.getD i 0
  let w : IWord := BitVec.ofNat 32 (n 0)
  let bit (i : Nat) : Bool := (n 1).testBit i
  let op : Option VOp :=
    if bit 7 then some (if n 4 = 1 then .skend else .sbar (n 3))
    else match decode w with
    | .ok i => (Instr.streamOp i).map (·.1)
    | .error _ => none
  let g := unpackFields genLayout (n 22)
  let t := unpackFields tileLayout (n 22)
  let gen (o : VOp) (i : Nat) : Nat := if o.generates then g.getD i 0 else 0
  let tile (o : VOp) (i : Nat) : Nat := if o.generates then 0 else t.getD i 0
  if !bit 0 then none
  else op.map (fun o =>
    ({ op := o, word := w, pc := BitVec.ofNat 64 (n 2), placed := bit 1, super := bit 2
       x := BitVec.ofNat 64 (n 3), y := if bit 7 then 0 else BitVec.ofNat 64 (n 4), z := BitVec.ofNat 64 (n 5)
       xPoison := bit 3
       ctl := ⟨BitVec.ofNat 13 (n 6), BitVec.ofNat 4 (n 7), BitVec.ofNat 64 (n 8), BitVec.ofNat 16 (n 9),
         BitVec.ofNat 64 (n 10), BitVec.ofNat 13 (n 11), BitVec.ofNat 6 (n 12), BitVec.ofNat 2 (n 13)⟩
       ftrapen := BitVec.ofNat 6 (n 14)
       gen := ⟨BitVec.ofNat 57 (gen o 0), BitVec.ofNat 57 (gen o 1), BitVec.ofNat 28 (gen o 2), BitVec.ofNat 57 (gen o 3),
         BitVec.ofNat 64 (gen o 4), BitVec.ofNat 32 (gen o 5)⟩
       env := ⟨BitVec.ofNat 52 (n 15), BitVec.ofNat 16 (n 16), BitVec.ofNat 57 (n 17), (n 18).testBit 1, (n 18).testBit 0⟩
       tcfg := Vector.ofFn (fun i => TCfg.unpack (tile o i.val))
       accalloc := BitVec.ofNat 16 (tile o 8), kmask := BitVec.ofNat 1024 kmask, khead := BitVec.ofNat 1024 khead
       restart := if bit 4 then some (BitVec.ofNat 16 (n 19), BitVec.ofNat 32 (n 20)) else none
       rm := if bit 5 then some (BitVec.ofNat 1024 rm) else none
       no := passed - (passed + 2 ^ 20 - n 21) % 2 ^ 20 }, bit 6))

/-- A stopped V-stream entry in its 256 bytes (R290). -/
def VEntry.granules (e : VEntry) (stalled : Bool) : List Granule :=
  granulesOf 4 (packFields [(1024, e.pack stalled), (1024, (e.rm.getD 0).toNat)]) 0

/-- A buffer entry of a context in its 384 bytes (R290). -/
def VEntry.bufGranules (e : VEntry) (stalled : Bool) : List Granule :=
  granulesOf 6 (packFields [(1024, e.pack stalled), (1024, e.kmask.toNat), (1024, e.khead.toNat)]) 0

/-! ### The scalar part of the frame (R290: offsets 0 to 0x3FFF) -/

/-- The entries of a group, the faulted one first. -/
def VGroup.entries (g : VGroup) : List (VEntry × Bool) :=
  g.stalled.toList.map (fun e => (e, true)) ++ g.queue.map (fun e => (e, false))

/-- The V-stream entries a frame holds: those that the LC's stream was stopped with, the latest stop first (R271, R273). -/
def State.frameEntries (s : State) : List (VEntry × Bool) := s.lc.vheld.flatMap VGroup.entries

/-- Entries put back into the groups they came from. -/
def refill : List VGroup → List (VEntry × Bool) → List VGroup
  | [], [] => []
  | [], e :: r => [⟨((e :: r).find? (·.2)).map (·.1), ((e :: r).filter (fun x => !x.2)).map (·.1)⟩]
  | g :: gs, l =>
    let n := g.entries.length
    ⟨((l.take n).find? (·.2)).map (·.1), ((l.take n).filter (fun x => !x.2)).map (·.1)⟩ :: refill gs (l.drop n)

/-- SKLOOP tracking in 8 bytes: the open levels, innermost first. -/
def loopWord (l : List SkLevel) : Nat :=
  packFields ((8, l.length) :: l.flatMap (fun x => [(8, x.length.toNat), (8, x.seen)]))

/-- The levels of that word. -/
def loopsOfWord (x : Nat) : List SkLevel :=
  (List.range (min 2 (x % 256))).map (fun i =>
    ⟨BitVec.ofNat 64 ((x >>> (8 + 16 * i)) % 256), (x >>> (16 + 16 * i)) % 256⟩)

/-- A handle-table entry: [31:0] handle, [46:32] row, [63] live. One that has been lost is not live; one not yet granted
stands with the handle of its line. -/
def HEntry.word (e : HEntry) : Nat :=
  (if e.granted then e.handle else handleWord e.line e.ro 0).toNat + e.line.row * 2 ^ 32 + (if e.lost then 0 else 2 ^ 63)

/-- The row line of a handle and a row (R214). -/
def lineOfHandle (h row : Nat) : Line := ⟨(h >>> 28) % 16, (h >>> 23) % 32, (h >>> 17) % 64, row⟩

/-- The table entry of a word. `old` is the entry of that place in the LC's record, which a grant may have reached
meanwhile (R216): it stands when it is of the same line. -/
def HEntry.ofWord (x : Dword) (old : Option HEntry) : Option HEntry :=
  let line := lineOfHandle (field x 0 32) (field x 32 15)
  match old.filter (fun e => e.line == line) with
  | some e => if x.getLsbD 63 then some e else some { e with lost := true }
  | none => if x == 0 then none else some ⟨x.setWidth 32, line, x.getLsbD 14, true, !x.getLsbD 63⟩

/-- The error state of a channel: whether its transfer stopped, the cause and the address. -/
def Chan.errWords (c : Chan) : List Nat :=
  match c.err with
  | some (k, va) => [2 ^ 63 + k.code + (if c.raised then 2 ^ 8 else 0), va.toNat]
  | none => [0, 0]

/-- The causes in the order of their codes (R274). -/
def allCauses : List Cause :=
  [.illegalOpcode, .reservedField, .badRegister, .placementUnsupported, .privileged, .misalignedFetch,
   .fetchPageFault, .fetchAccess, .breakpoint, .singleStep, .systemCall, .badType, .badControlState, .queueDeadlock,
   .progressWatchdog, .vectorStateNotOwned, .tileStateDisabled, .tileShapeMismatch, .accumulatorUnallocated,
   .stackContextUnbound, .stackBufferOverflow, .stackLoopNesting, .journalOverflow, .unmaskConfigInvalid,
   .samplerStateInvalid, .rowLineLost, .rowLineLimit, .rowLineStaleHandle, .bankCommandInvalid, .copyChannelInvalid,
   .copyIdWrap, .loadPageFault, .storePageFault, .amoPageFault, .loadAccess, .storeAccess, .amoAccess,
   .misalignedLoad, .misalignedStore, .misalignedAmo, .expansionPoolEmpty, .pageTableCorrupt, .strideSummaryMismatch,
   .remoteStackUnreachable, .hostPageUnavailable, .stripCommitOverflow, .stripAborted, .poisonScalar, .poisonVector,
   .uncorrectableLoad, .uncorrectableBank, .uncorrectableStackRegister, .uncorrectableAccumulator,
   .uncorrectableLocalStore, .uncorrectableL2, .linkDataError, .hostCompletionError, .fpInvalid, .fpDivzero,
   .fpOverflow, .fpUnderflow, .fpInexact, .fpConversionSat, .groupInvalid, .groupNotMember, .iterationOrder,
   .monitorInvalid, .spawnInvalid, .launchPacketInvalid, .preemptRequest, .sliceExpired, .saveAreaFault,
   .restartDiscard, .debugWatch, .counterOverflow, .ownershipReadonly, .segmentFlagsInvalid, .reductionGroupInvalid,
   .deterministicSlotOverflow, .actCounterSaturated, .actCounterCorrupt, .scrubCorrected, .scrubUncorrectable,
   .thermalBankLimit, .thermalCoreLimit, .linkRetrain, .linkDown, .spareRemap, .hbmTrainingFail, .bootStepFail,
   .signatureFail, .powerRailFault, .clockFault, .directoryParity, .stackUnitFail, .managementWatchdog]

/-- A pending deferred report in the frame (R289): its fault record, its TVAL, and whether there is one, with RM, the
instruction's place and its element. -/
def reportWords (r : Option TrapRec) (lcid : Nat) (erem : Dword) : List Nat :=
  match r with
  | none => List.replicate 42 0
  | some r => r.words lcid erem ++ [r.tval.toNat, packFields [(1, 1), (1, r.rm.isSome.toNat), (1, (r.rm.getD false).toNat),
      (61, r.no)]]

/-- The report of those words, at 0x1840. -/
def reportOfWords (g : List Granule) : Option TrapRec :=
  let w (i : Nat) : Dword := wordAt g (0x1840 + 8 * i)
  let meta_ := w 41
  let cause (c : Nat) : Option Cause := allCauses[c - 1]?
  let page (i : Nat) : Option (Dword × Cause) :=
    (cause (field (w (8 + i)) 0 16)).map (fun c => (w (8 + i) &&& ~~~0xFFFF, c))
  if !meta_.getLsbD 0 then none
  else (cause (field (w 0) 0 7)).map (fun c =>
    let pages := (List.range (field (w 0) 16 16)).filterMap page
    { no := field meta_ 3 61, cause := c, tval := w 40, pc := w 1, insn := (w 2).setWidth 32, deferred := (w 0).getLsbD 7
      rm := if meta_.getLsbD 1 then some (meta_.getLsbD 2) else none, first := field (w 0) 32 32, faddr := w 7
      pages := pages ++ List.replicate (field (w 2) 48 16 - pages.length) (0, c)
      storeGroup := (w 0).getLsbD 8, k7valid := (w 0).getLsbD 9, copy := (w 0).getLsbD 10, bank := (w 0).getLsbD 11
      xid := BitVec.ofNat 32 (field (w 3) 32 32), vl := (w 3).setWidth 16, rowcnt := BitVec.ofNat 16 (field (w 3) 16 16)
      vstride := w 4, rowpitch := w 5 })

/-- The control block at 0x1800, with a pending deferred report behind it. -/
def State.ctlWords (s : State) (pc : Dword) : List Nat :=
  let t := s.lc.trap
  let arrived := s.lc.bars.foldl (fun m b => m ||| 2 ^ b.1) 0
  [pc.toNat, t.drpc.toNat, t.sdrpc.toNat, t.sstatus.toNat, packFields (s.lc.q.toList.map (fun q => (8, q.length))),
    packFields [(16, arrived), (1, t.uv.toNat), (1, t.uk.toNat)], loopWord s.lc.loops, 0]
    ++ reportWords s.lc.kreport s.lc.key.lcid s.lc.erem

/-- The 256 granules of the scalar part, with the PC at which the LC resumes. -/
def State.scalarFrame (s : State) (pc : Dword) : List Granule :=
  let reg (n : Nat) : Granule := ((s.lc.s[n]?.getD 0).toNat, s.lc.sPoison.getLsbD n)
  let csr (n : Nat) : Nat := if csrOfLc n then ((s.csr n).getD 0).toNat else 0
  (List.range 64).map reg
    ++ granulesOf 16 (packWords ((List.range 128).map csr)) 0
    ++ granulesOf 16 (packWords (s.lc.q.toList.flatMap (fun q =>
        (List.range 16).map (fun i => (q.getD i 0).toNat)))) 0
    ++ granulesOf 8 (packWords (s.ctlWords pc)) 0
    ++ granulesOf 8 (packWords (s.lc.handles.map HEntry.word)) 0
    ++ s.lc.chans.toList.flatMap (fun c => granulesOf 1 (packWords (c.next.toNat :: c.errWords)) 0)
    ++ granulesOf 8 (packWords ((List.range 64).map (fun n => csr (0x100 + n)))) 0
    ++ granulesOf 4 0 0
    ++ ((s.frameEntries.take 32).flatMap (fun e => e.1.granules e.2)
      ++ granulesOf (4 * (32 - s.frameEntries.length)) 0 0)

/-- The defined bits of SAFF (R79) and of TSTATE (R78). -/
def saffMask : Dword := 0x83FF_FF1F_0000_0000
def tstateMask : Dword := 0xFFFF_FFFF_FFFF_FF81

/-- The defined bits of a CSR of the image. -/
def csrKnown (n : Nat) : Dword :=
  if !csrOfLc n then 0
  else match n with
  | 0x021 => saffMask
  | 0x050 | 0x051 | 0x052 | 0x055 => BitVec.allOnes 64
  | 0x053 => 0xFFFF_FFFF
  | 0x054 => 0xFFF
  | 0x056 => 0xFFFF
  | 0x068 => 7
  | 0x06A => 0x81FF_FFFF_FFFF_FFC0
  | _ => if 0x030 ≤ n ∧ n < 0x038 then 0xFFFF_FFFF else csrRw n true

/-- The bits of the scalar part that are not reserved, granule by granule (R290). The blocks that the rule gives a stream's
entries and the control block hold what the model places there (log 12). -/
def scalarKnown : List Nat :=
  let all := 2 ^ 512 - 1
  let csrs (base n : Nat) : List Nat :=
    (List.range (n / 8)).map (fun i => packWords ((List.range 8).map (fun j => (csrKnown (base + 8 * i + j)).toNat)))
  List.replicate 64 (2 ^ 64 - 1) ++ csrs 0 128 ++ List.replicate 16 all
    ++ (packFields [(448, 2 ^ 448 - 1)] :: List.replicate 7 all)
    ++ List.replicate 8 (packWords (List.replicate 8 (2 ^ 63 + 2 ^ 47 - 1)))
    ++ List.replicate 4 (packWords [2 ^ 32 - 1, 2 ^ 64 - 1, 2 ^ 64 - 1]) ++ csrs 0x100 64 ++ List.replicate 4 0
    ++ List.replicate 128 all

/-- A CSR of the image put back: the RW fields, and the read-only ones that are LC state; CYCLE goes on at its core. -/
def State.restoreCsr (s : State) (n : Nat) (v : Dword) : State :=
  match n with
  | 0x021 => { s with lc := { s.lc with saff := v &&& saffMask } }
  | 0x055 => s
  | 0x050 => { s with lc := { s.lc with strip := v } }
  | 0x051 => { s with lc := { s.lc with ebase := v } }
  | 0x052 => { s with lc := { s.lc with erem := v } }
  | 0x056 => { s with lc := { s.lc with gmask := v.setWidth 16 } }
  | 0x068 => s.setTrap ({ · with level := v.getLsbD 0, smode := v.extractLsb' 1 2 })
  | 0x06A => s.setTrap ({ · with poisonValid := v.getLsbD 63, poisonGranule := v.setWidth 57 &&& ~~~63#57 })
  | _ => if csrOfLc n then s.setCsr n (v &&& csrRw n true) else s

/-- The LC in focus with the scalar part of a frame put back. What the frame does not place stays with the LC's record:
its identity, the live XDONE and XWP (R293), scalar stores not yet performed, entries past the 32nd, and what has reached
its registers meanwhile (log 42). -/
def State.restoreScalar (s : State) (g : List Granule) : State :=
  let csrs (t : State) (base n at_ : Nat) : State :=
    (List.range n).foldl (fun t i => t.restoreCsr (base + i) (wordAt g (at_ + 8 * i))) t
  let t := csrs (csrs s 0 128 0x1000) 0x100 64 0x1D00
  let t := ((t.setCsr 0x116 (wordAt g 0x1808)).setCsr 0x117 (wordAt g 0x1810)).setCsr 0x115 (wordAt g 0x1818)
  let counts := wordAt g 0x1820
  let wait := wordAt g 0x1828
  let entries := (List.range 32).filterMap (fun i =>
    VEntry.unpack t.lc.passed (granuleSpan g (128 + 4 * i) 2) (granuleSpan g (130 + 4 * i) 2) 0 0)
  let l := t.lc
  let late (i : Nat) : Bool := l.away.contains (BitVec.ofNat 6 i)
  let lates : BitVec 64 := l.away.foldl (fun m r => m ||| (1#64 <<< r.toNat)) 0
  { t with lc := { l with
      s := Vector.ofFn (fun i => if i.val = 0 then 0 else if late i.val then l.s[i] else wordAt g (64 * i.val))
      sPoison := ((BitVec.ofNat 64 (poisonSpan g 0 64) &&& ~~~lates) ||| (l.sPoison &&& lates)) &&& ~~~1#64
      away := []
      q := Vector.ofFn (fun i => (List.range (min 16 (field counts (8 * i.val) 8))).map (fun j =>
        wordAt g (0x1400 + 128 * i.val + 8 * j)))
      pc := (wordAt g 0x1800 &&& pcMask).setWidth 57
      trap := { l.trap with uv := wait.getLsbD 16, uk := wait.getLsbD 17 }
      bars := l.bars.filter (fun b => wait.getLsbD b.1)
      loops := loopsOfWord (wordAt g 0x1830).toNat
      handles := (List.range 64).filterMap (fun i => HEntry.ofWord (wordAt g (0x1A00 + 8 * i)) l.handles[i]?)
      chans := l.chans.mapIdx (fun i c => { c with next := (wordAt g (0x1C00 + 64 * i)).setWidth 32 })
      kreport := reportOfWords g
      vstalled := none
      vheld := refill l.vheld (entries ++ s.frameEntries.drop 32) } }

/-! ### The stack-context image (0x4000) and the containment image (0x1_4000) -/

/-- The image of a context with the K-stream entries it has still to execute: 1,024 granules. A granule of a w register
that holds an error is saved poisoned (R283). -/
def State.ctxFrame (s : State) (c : StackCtx) : List Granule :=
  let behind := c.stalled.isSome && c.levels.isEmpty
  let entries := c.buf.zipIdx.map (fun e => (e.1, c.stalled.isSome && e.2 == c.pos && !behind))
    ++ (if behind then c.stalled.toList.map (fun e => (e, true)) else []) ++ s.lc.kqueue.map (fun e => (e, false))
  let bits (q : List SqEntry) (f : SqEntry → Bool) : Nat := q.zipIdx.foldl (fun m e => if f e.1 then m ||| 2 ^ e.2 else m) 0
  let stream (j : Nat) : Nat :=
    let q := c.sq[j]?.getD []
    let a := (c.streams[j]?.getD none)
    let z : AStream := a.getD ⟨0, 0, 0, 0, 0, 0, false, 0, false, 0⟩
    packFields [(64, z.base.toNat), (64, z.step.toNat), (64, z.addend.toNat), (64, z.count), (64, z.next),
      (64, bits q (·.cause.isSome)), (64, bits q (·.index)), (8, q.length), (8, z.shift), (8, z.idx), (1, z.indexed.toNat),
      (1, z.super.toNat), (1, a.isSome.toNat)]
  let level (i : Nat) : List (Nat × Nat) :=
    let l := c.levels.getD i ⟨0, 0, 0⟩
    [(32, l.count), (32, l.iter), (8, l.start)]
  let loop := packFields ([(8, c.pos), (8, c.levels.length), (8, c.buf.length), (8, entries.length)] ++ level 0 ++ level 1)
  (c.w.toList.zip (c.wPoison.toList.zip c.wError.toList)).flatMap (fun r => granulesOf 16 r.1.toNat (r.2.1 ||| r.2.2).toNat)
    |>.append (granulesOf 32 (packWords (c.sq.toList.flatMap (fun q =>
        (List.range 64).map (fun i => ((q[i]?).map (fun e => e.addr.toNat)).getD 0)))) 0)
    |>.append ((List.range 4).flatMap (fun j => granulesOf 1 (stream j) 0))
    |>.append (granulesOf 1 loop 0)
    |>.append (granulesOf 1 (packWords [c.bindAddr.toNat]) 0)
    |>.append (granulesOf 26 0 0)
    |>.append ((entries.take 96).flatMap (fun e => e.1.bufGranules e.2) ++ granulesOf (6 * (96 - entries.length)) 0 0)

/-- The bits of a context image that are not reserved. -/
def ctxKnown : List Nat :=
  let all := 2 ^ 512 - 1
  List.replicate 421 all ++ [2 ^ 64 - 1] ++ List.replicate 26 0 ++ List.replicate 576 all

/-- The context of an image, bound for an LC of the address space given, and the K-stream entries behind its buffer. -/
def ctxOfFrame (passed : Nat) (ptbase : BitVec 52) (asid : BitVec 16) (g : List Granule) : StackCtx × List VEntry :=
  let stream (j : Nat) : List Nat :=
    unpackFields [64, 64, 64, 64, 64, 64, 64, 8, 8, 8, 1, 1, 1] (granuleSpan g (416 + j) 1)
  let sq (j : Nat) : List SqEntry :=
    let f := stream j
    (List.range (min 64 (f.getD 7 0))).map (fun i =>
      let bad := (f.getD 5 0).testBit i
      ⟨wordAt g (0x6000 + 512 * j + 8 * i), if bad then some .loadAccess else none, (f.getD 6 0).testBit i, bad⟩)
  let loop := unpackFields [8, 8, 8, 8, 32, 32, 8, 32, 32, 8] (granuleSpan g 420 1)
  let n (i : Nat) : Nat := loop.getD i 0
  let entries := (List.range (min 96 (n 3))).filterMap (fun i =>
    VEntry.unpack passed (granuleSpan g (448 + 6 * i) 2) 0 (granuleSpan g (450 + 6 * i) 2) (granuleSpan g (452 + 6 * i) 2))
  let buf := (entries.take (n 2)).map (·.1)
  let rest := entries.drop (n 2)
  ({ w := Vector.ofFn (fun i => BitVec.ofNat 8192 (granuleSpan g (16 * i.val) 16))
     wPoison := Vector.ofFn (fun i => BitVec.ofNat 16 (poisonSpan g (16 * i.val) 16))
     wError := Vector.replicate 24 0
     sq := Vector.ofFn (fun i => sq i.val)
     streams := Vector.ofFn (fun i =>
       let f := stream i.val
       let m (k : Nat) : Nat := f.getD k 0
       if m 12 = 1 then some ⟨BitVec.ofNat 64 (m 0), BitVec.ofNat 64 (m 1), BitVec.ofNat 64 (m 2), m 3, m 8, m 9,
         m 10 == 1, m 4, m 11 == 1, passed - 1⟩ else none)
     buf := buf, pos := n 0
     levels := (List.range (min 2 (n 1))).map (fun i => ⟨n (4 + 3 * i), n (5 + 3 * i), n (6 + 3 * i)⟩)
     bindAddr := wordAt g 0x6940, ptbase := ptbase, asid := asid
     stalled := (entries.find? (·.2)).map (·.1) }, (rest.filter (fun e => !e.2)).map (·.1))

/-- The containment image: 819 granules of data, then their addresses, then their byte masks (R281). -/
def State.containFrame (s : State) : List Granule :=
  let l := s.lc.contain.take containCap
  let pad := containCap - l.length
  l.map (fun h => (h.data.toNat, h.poison)) ++ granulesOf pad 0 0
    ++ granulesOf 205 (packWords (l.map (fun h => 64 * h.granule) ++ List.replicate pad 0 ++ l.map (·.mask.toNat))) 0

/-- The held granules of an image. -/
def heldOfFrame (g : List Granule) : List Held :=
  (List.range containCap).filterMap (fun i =>
    let mask := wordAt g (64 * containCap + 8 * containCap + 8 * i)
    let x := g.getD i (0, false)
    if mask = 0 then none
    else some ⟨(wordAt g (64 * containCap + 8 * i)).toNat / 64, mask, BitVec.ofNat 512 x.1, x.2⟩)

/-- Granules of the scalar part, and where the images begin (R290). -/
def scalarGranules : Nat := 256
def ctxOffset : Dword := 0x4000
def containOffset : Dword := 0x1_4000
/-- Bytes of a frame (R290). -/
def frameBytes : Dword := 0x2_4000

/-! ### The vector frame (R288) -/

/-- The accumulators a set names, ascending. -/
def accNumbers (a : BitVec 16) : List Nat := (List.range 16).filter (fun i => a.getLsbD i)

/-- The granules of a partition's vector state up to 0x2_1000, with its owner's tile configurations. -/
def Part.frame (p : Part) (tcfg : Vector TCfg 8) : List Granule :=
  p.v.toList.zip p.vPoison.toList |>.flatMap (fun r => granulesOf 64 r.1.toNat r.2.toNat)
    |>.append (p.k.toList.zip p.kPoison.toList |>.flatMap (fun r => granulesOf 2 r.1.toNat r.2.toNat))
    |>.append (granulesOf 2 (packWords (tcfg.toList.map (fun c => c.word.toNat) ++ [p.tstate.toNat, p.accalloc.toNat])) 0)
    |>.append (granulesOf 46 0 0)

/-- The bits of a vector frame before its segments that are not reserved. -/
def vectorKnown : List Nat :=
  List.replicate 2064 (2 ^ 512 - 1)
    ++ [packWords (List.replicate 8 0xF1FF_00FF), packWords [tstateMask.toNat, 2 ^ 16 - 1]] ++ List.replicate 46 0

/-- The held segments and the allocated accumulators of a partition of a core; an uncorrectable granule is saved
poisoned (R283). -/
def Part.tileFrame (p : Part) (c : Core) : List Granule :=
  let lost (g : Nat) : Nat := ((c.segError.filter (fun x => x / 1024 == g)).map (· % 1024)).foldl (fun m i => m ||| 2 ^ i) 0
  p.grant.segs.zipIdx.flatMap (fun g => granulesOf 1024 (c.seg g.1).toNat ((p.segPoison[g.2]?.getD 0).toNat ||| lost g.1))
    ++ (accNumbers p.accalloc).flatMap (fun a =>
      granulesOf 1024 (c.acc[a]?.getD 0).toNat ((c.accPoison[a]?.getD 0) ||| (c.accError[a]?.getD 0)).toNat)

/-- Granules of the frame before its segments. -/
def vectorGranules : Nat := 2112

/-- The tile configurations of a vector frame. -/
def tcfgOfFrame (g : List Granule) : Vector TCfg 8 := Vector.ofFn (fun i => TCfg.ofWord (wordAt g (0x2_0400 + 8 * i.val)))

/-- The grant that a frame's TSTATE tells: the first half of each bank, for an LC whose record holds none (log 85). -/
def grantOfFrame (g : List Granule) : Grant :=
  ⟨tcfgOfFrame g, ((List.range 32).filter (fun b => (wordAt g 0x2_0440).getLsbD (32 + b))).map (2 * ·)⟩

/-- A partition with the vector state of a frame's first granules and the grant of its owner. -/
def Part.ofFrame (p : Part) (g : List Granule) (grant : Grant) : Part :=
  { p with
    v := Vector.ofFn (fun i => BitVec.ofNat 32768 (granuleSpan g (64 * i.val) 64))
    vPoison := Vector.ofFn (fun i => BitVec.ofNat 64 (poisonSpan g (64 * i.val) 64))
    k := Vector.ofFn (fun i => BitVec.ofNat 1024 (granuleSpan g (2048 + 2 * i.val) 2))
    kPoison := Vector.ofFn (fun i => BitVec.ofNat 2 (poisonSpan g (2048 + 2 * i.val) 2))
    tstate := wordAt g 0x2_0440 &&& tstateMask
    accalloc := (wordAt g 0x2_0448).setWidth 16
    grant := grant }

/-- A core with the segments and accumulators of a frame's last granules. -/
def Core.ofFrame (c : Core) (p : Part) (g : List Granule) : Core :=
  let c := p.grant.segs.zipIdx.foldl (fun c n =>
    c.setSeg n.1 (BitVec.ofNat 524288 (granuleSpan g (1024 * n.2) 1024))) c
  let at_ := 1024 * p.grant.segs.length
  (accNumbers p.accalloc).zipIdx.foldl (fun c a =>
    { c with
      acc := c.acc.setIfInBounds a.1 (BitVec.ofNat 524288 (granuleSpan g (at_ + 1024 * a.2) 1024))
      accPoison := c.accPoison.setIfInBounds a.1 (BitVec.ofNat 1024 (poisonSpan g (at_ + 1024 * a.2) 1024))
      accError := c.accError.setIfInBounds a.1 0 }) c

/-- The poison of the segments of a frame's last granules. -/
def segPoisonOf (p : Part) (g : List Granule) : Vector KBits 2 :=
  Vector.ofFn (fun i => if i.val < p.grant.segs.length then BitVec.ofNat 1024 (poisonSpan g (1024 * i.val) 1024) else 0)

end Sys2Proof.Machine
end

