-- ==== Sys2Proof/Machine/Switch.lean ====
section
/-! DEFINITION. Switch.lean: an LC leaves its partition and comes back: VSAVE and VLOAD (R288), SSWITCH (R289, R221,
R293), the yield (R63, R432), and the return of an LC to a partition (R52, R287, R289). -/

namespace Sys2Proof.Machine

/-! ### Vector state (R287, R288) -/

/-- The partition owned by an LC. -/
def Part.ownedBy (p : Part) (l : Lc) : Part :=
  { p with ownerTask := l.taskid, ownerLcid := BitVec.ofNat 12 l.key.lcid, ownerKey := some l.key }

/-- The partition with the zero state of R35. -/
def Part.zeroState (p : Part) : Part := { p.clear with vqueue := p.vqueue, mslot := p.mslot, rem := p.rem, done := p.done }

/-- Whether VSAVE may take the state of a partition: the writing one, or one whose resident LC is not its owner. -/
def State.vsaveAllowed (s : State) (n : Nat) : Bool :=
  n == s.part.no || (match s.residentOn s.core.no n with
    | some l => (s.findPart s.core.no n).ownerKey != some l.key
    | none => true)

/-- Whether the owner of a partition has no XDEIL under way (R161). -/
def State.deilDone (s : State) (p : Part) : Bool :=
  match p.ownerKey.bind s.findLc with
  | some l => l.deilRegs.isEmpty
  | none => true

/-- VSAVE (R288). -/
def State.vsave (s : State) (v : Dword) : Except Halt State :=
  let n := field v 0 3
  let p := s.findPart s.core.no n
  if !s.vsaveAllowed n then s.raise .badControlState 0x11B
  else if (n == s.part.no && !s.liveV.isEmpty) || !s.deilDone p then .error .wait
  else do
    let owner := p.ownerKey.bind s.findLc
    let tcfg := (owner.map (·.tcfg)).getD (Vector.replicate 8 TCfg.zero)
    let t ← s.storeFrame (v &&& granuleMask) (p.frame tcfg ++ p.tileFrame s.core)
    let t := match p.ownerKey with
      | some k => t.updLc k ({ · with vsaved := some p.grant })
      | none => t
    .ok (t.setPart { p.clear with vqueue := p.vqueue })

/-- VLOAD (R288): the frame's segments and accumulators must be free. -/
def State.vload (s : State) (v : Dword) : Except Halt State :=
  let va := v &&& granuleMask
  if !s.liveV.isEmpty then .error .wait
  else if va == 0 then
    .ok { s with
      part := s.part.zeroState.ownedBy s.lc, lc := { s.lc with vsaved := none, tcfg := Vector.replicate 8 TCfg.zero } }
  else do
    let (t, g) ← s.loadFrame va vectorGranules
    s.checkFrame va g vectorKnown
    let p := t.part.ofFrame g (t.lc.vsaved.getD (grantOfFrame g))
    let others := (t.coreParts t.core.no).filter (fun q => q.no != t.part.no)
    let banks := t.core.banks 2
    let free := p.grant.segs.all (fun x => banks.contains (x / 2) && others.all (fun q => !q.grant.segs.contains x))
      && others.all (fun q => q.accalloc &&& p.accalloc == 0)
    if !free then s.raise .badControlState 0x11C
    else
      let (u, h) ← t.loadFrame (va + 0x2_1000) (1024 * (p.grant.segs.length + (accNumbers p.accalloc).length))
      .ok { u with
        part := ({ p with segPoison := segPoisonOf p h }).ownedBy u.lc
        lc := { u.lc with vsaved := none, tcfg := tcfgOfFrame g }
        core := u.core.ofFrame p h }

/-! ### An LC leaves (R63, R221, R289) -/

/-- K-stream instructions not yet executed and the loop state are discarded; the registers they were to write are
free. -/
def State.dropK (s : State) : State :=
  let gone := s.lc.kOutstanding.flatMap VEntry.sWrites
  { s with lc := { s.lc with
      ctx := none, kqueue := [], loops := [], saff := 0
      pending := gone.foldl (fun l d => l.erase d) s.lc.pending } }

/-- PINPOLICY at the switch (R221): the slots enter Released; under DROP every entry is lost. -/
def State.switchPins (s : State) : State :=
  let t := { s with dev := s.dev.releasePins (· == s.lc.key) }
  if s.core.pindrop then
    { t with lc := { t.lc with handles := t.lc.handles.map (fun (e : HEntry) => { e with lost := true }) } }
  else t

/-- The context at the switch (R289): its image under SAVE, none under DROP; it frees either way. -/
def State.switchCtx (s : State) : State × List Granule :=
  let free (t : State) : State :=
    { t with dev := { t.dev with ctxUses := t.dev.ctxUses.filter (fun u => u.owner != s.lc.key) } }
  match s.lc.ctx with
  | none => (s, granulesOf 1024 0 0)
  | some c =>
    if s.core.pindrop then (free s.dropK, granulesOf 1024 0 0)
    else
      let used := c.buf.length + (if c.stalled.isSome && c.levels.isEmpty then 1 else 0)
      (free { s with lc := { s.lc with ctx := none, kqueue := s.lc.kqueue.drop (96 - used) } }, s.ctxFrame c)

/-- What the record of an LC off its partition keeps: its identity, channels, scalar stores, reports and bank work; its
stopped entries, of which the frame holds the first 32; and which registers other streams have still to write. -/
def State.recordOut (s : State) (st : LcStatus) : Lc :=
  { s.lc with
    status := st
    contain := [], leaving := false, waited := 0, wdog := 0, slice := 0
    away := s.lc.pending ++ s.lc.kOutstanding.filterMap VEntry.returns }

/-- The partition without the queue of the LC that has left it. -/
def Part.vacate (p : Part) : Part := { p with vqueue := [], mslot := none, rem := none, done := false, bcredit := 0 }

/-- The LC in focus gives up its partition: its record is kept beside the others, the partition is free. -/
def State.vacate (s : State) (st : LcStatus) : State :=
  { s with lc := s.recordOut st, part := s.part.vacate }

/-- Whether the engine of the core holds the channels of an LC that is off its partition (R293). -/
def Lc.inEngine (l : Lc) (core : Nat) : Bool :=
  (l.status == .preempted || l.status == .yielded) && l.core == core && l.chans.any (fun c => !c.cmds.isEmpty)

/-- Room in the copy engine for the channels of the LC in focus: 32 LCs (R293). -/
def State.engineRoom (s : State) : Bool :=
  s.lc.chans.all (fun c => c.cmds.isEmpty) || decide ((s.lcs.filter (·.inEngine s.core.no)).length < 32)

/-- The save area of an LC of a task (R289). -/
def Task.saveArea (t : Task) (lcid : Nat) : Dword := t.lcsave + frameBytes * BitVec.ofNat 64 lcid

/-- The LC in focus yields (R63): its V stream stops (R69), its scalar part and containment image are saved at LCSAVE, and
it waits as `w`. The PC saved is `pc`. -/
def State.yieldOut (s : State) (w : Wait) (pc : Dword) : Except Halt State :=
  match s.task with
  | none => .ok s
  | some t => do
    let s := s.holdV
    let at_ := t.saveArea s.lc.key.lcid
    let s ← s.storeFrame at_ (s.scalarFrame pc)
    let s ← if t.scc then s.storeFrame (at_ + containOffset) s.containFrame else .ok s
    .ok (({ s with lc := { s.lc with wait := w } }).vacate .yielded)

/-! ### An LC comes back -/

/-- The LC takes the partition in focus; whether an LC was there before is the caller's affair. -/
def Lc.comeIn (l : Lc) (s : State) : Lc :=
  { l with status := .resident, core := s.part.core, partNo := s.part.no, slice := 0, wdog := 0, waited := 0
           wait := .none, residentSince := (s.cycleOf s.part.core).toNat }

/-- RLOPENs that pin the rows of live entries again (R221): the handle values stay. -/
def State.repin (s : State) : State :=
  let live := s.lc.handles.filter (fun e => e.granted && !e.lost)
  let no := s.dev.freshNo
  let cmds : List SeqCmd := live.zipIdx.map (fun e =>
    ⟨no + e.2, s.lc.key, ⟨.open 0 e.1.line e.1.ro, s.lc.pc.setWidth 64, s.ir, true, s.env, s.lc.passed⟩, false, [], false, [], [], [], false⟩)
  { s with dev := { s.dev with seqs := s.dev.seqs ++ cmds } }

/-- Re-establishment of pins and context (R221, R289) from a context image: under DROP the handles are lost and the
binding gone. -/
def State.reestablish (s : State) (g : List Granule) : Except Halt State :=
  if s.core.pindrop then
    .ok { s with lc := { s.lc with
      saff := 0, handles := s.lc.handles.map (fun (e : HEntry) => { e with lost := true }) } }
  else
    let t := s.repin
    if !t.lc.saff.getLsbD 63 then .ok t
    else do
      let (c, behind) := ctxOfFrame t.lc.passed t.lc.ptbase t.lc.asid g
      let (m, st, j) ← t.bindTarget c.bindAddr
      let u := { t with
        lc := { t.lc with rebind := some c, kqueue := behind ++ t.lc.kqueue }
        dev := { t.dev with binds := t.dev.binds ++ [⟨t.lc.key, t.dev.stackKey m st, j, none⟩] } }
      .ok (if u.runAhead then u else u.contextGrant (t.dev.stackKey m st) j)

/-- The context granted to an LC that SSWITCH has loaded receives its image (R289). -/
def State.settleRebind (s : State) : State :=
  match s.lc.rebind, (s.dev.binds.find? (fun b => b.who == s.lc.key)) with
  | some c, some b => match b.granted with
    | some n =>
      let own := if b.stack < 16 then (s.dev.member.toNat, b.stack) else (b.stack / 16 - 1, b.stack % 16)
      { s with
        lc := { s.lc with ctx := some c, rebind := none, saff := saffWord own.1 own.2 b.svu n }
        dev := { s.dev with binds := s.dev.binds.filter (fun x => x.who != s.lc.key) } }
    | none => s
  | _, _ => s

/-- Whether an incoming LC's pins and context have been re-established (R289). -/
def State.established (s : State) : Bool :=
  s.lc.rebind.isNone && !s.dev.seqs.any (fun c => c.who == s.lc.key && (match c.cmd.kind with
      | .open .. => true
      | _ => false))
    && s.lc.handles.all (fun e => !(e.granted && !e.lost) || (s.dev.slotOf e.line).st != .opening)

/-- The partitions other than those never used. -/
def State.allParts (s : State) : List Part := s.part :: s.parts

/-- The LC in focus has become resident: on a partition that holds no state it receives the zero state, unless its own
state is held or saved elsewhere (R287). -/
def State.takeEmpty (s : State) : State :=
  if s.part.ownerKey.isNone && s.lc.vsaved.isNone && s.allParts.all (fun p => p.ownerKey != some s.lc.key) then
    { s with part := s.part.zeroState.ownedBy s.lc }
  else s

/-- The LC of a record in focus on the partition in focus, with a frame's scalar part and containment image put back. -/
def State.putBack (s : State) (l : Lc) (g : List Granule) (held : Option (List Granule)) : State :=
  let t := ({ s with lc := l.comeIn s }).restoreScalar g
  ({ t with lc := { t.lc with contain := (held.map heldOfFrame).getD [] } }).takeEmpty

/-- The record a frame belongs to: an LC off its partition with the frame's TASKID, LCID and ASID. -/
def State.recordOf (s : State) (g : List Granule) : Option Lc :=
  let task : BitVec 32 := (wordAt g 0x1298).setWidth 32
  let lcid := (wordAt g 0x12A0).toNat
  let asid : BitVec 16 := (wordAt g 0x1D08).setWidth 16
  s.lcs.find? (fun l => (l.status == .preempted || l.status == .yielded) && l.taskid == task && l.key.lcid == lcid
    && l.asid == asid)

/-- The V stream as its latest stop left it goes on (R69): the entries are queued again ahead of new ones, and VSTART no
longer shows the band of a matrix instruction among them (log 75). A faulted entry stalls again. -/
def State.requeue (s : State) : State :=
  match s.lc.vheld with
  | [] => s
  | g :: rest =>
    let band := (g.queue.head?.filter (fun e => e.mat.isSome)).bind (fun e => e.restart.map (·.1))
    { s with
      lc := { s.lc with
        vheld := rest, vstalled := g.stalled.or s.lc.vstalled
        vstart := if g.stalled.isNone && band == some s.lc.vstart then 0 else s.lc.vstart }
      part := { s.part with vqueue := g.queue ++ s.part.vqueue } }

/-- SSWITCH (R289). `next` is where the outgoing LC goes on; the answer says whether another LC came in. -/
def State.sswitch (s : State) (v : Dword) (next : BitVec 57) : Except Halt (State × Bool) :=
  let sa := v &&& granuleMask
  if s.lc.trap.plevel then s.raise .badControlState 0x11A
  else if !s.liveV.isEmpty || !s.bankWork.isEmpty || s.kstep.isSome || (s.pickStore [] s.lc.stores).isSome || !s.engineRoom
  then .error .wait
  else do
    let at_ := s.lc.trap.savebase.setWidth 64
    let (t, ctx) := s.switchPins.switchCtx
    let scc := s.sccOf s.lc
    let t ← t.storeFrame at_ (t.scalarFrame (next.setWidth 64))
    let t ← t.storeFrame (at_ + ctxOffset) ctx
    let t ← if scc then t.storeFrame (at_ + containOffset) t.containFrame else .ok t
    if sa == 0 then .ok ({ t with lc := { t.lc with leaving := true } }, false)
    else
      let (t, g) ← t.loadFrame sa scalarGranules
      s.checkFrame sa g scalarKnown
      let (t, c) ← t.loadFrame (sa + ctxOffset) 1024
      s.checkFrame (sa + ctxOffset) c ctxKnown
      let t := { t with lcs := t.recordOut .preempted :: t.lcs, part := t.part.vacate }
      match t.recordOf g with
      | none => s.raise .saveAreaFault sa
      | some l =>
        let t := { t with lcs := t.lcs.filter (fun x => x.key != l.key) }
        let (t, h) ← if t.sccOf l then (do
            let (t, h) ← t.loadFrame (sa + containOffset) 1024
            .ok (t, some h)) else .ok (t, none)
        let u := t.putBack l g h
        let u := { u with lc := { u.lc with trap := { u.lc.trap with savebase := sa.setWidth 57 } } }
        if l.status == .yielded then .ok (u.requeue, true)
        else
          let u ← u.reestablish c
          .ok (u, true)

/-- The LC of a record comes back to the partition in focus from its save area (R52, R63, R289). A fault of the load is
taken there as SAVE_AREA_FAULT. -/
def State.resume (s : State) (l : Lc) : State :=
  let here := { s with lc := l.comeIn s, lcs := s.lcs.filter (fun x => x.key != l.key) }
  let here := { here with dev := { here.dev with monitors := here.dev.monitors.filter (fun m => m.who != l.key) } }
  let yielded := l.status == .yielded
  let at_ : Dword := if yielded then ((here.task.map (·.saveArea l.key.lcid)).getD 0) else l.trap.savebase.setWidth 64
  let run : Except Halt State := do
    let (t, g) ← here.loadFrame at_ scalarGranules
    here.checkFrame at_ g scalarKnown
    let (t, h) ← if t.sccOf l then (do
        let (t, h) ← t.loadFrame (at_ + containOffset) 1024
        .ok (t, some h)) else .ok (t, none)
    if yielded then .ok (t.putBack { l with wait := .none } g h).requeue
    else
      let (t, c) ← t.loadFrame (at_ + ctxOffset) 1024
      here.checkFrame (at_ + ctxOffset) c ctxKnown
      (t.putBack l g h).reestablish c
  match run with
  | .ok t => t
  | .error (.trap r) => here.takeTrap r false
  | .error (.trapIn t r) => t.takeTrap r false
  | .error _ => here

end Sys2Proof.Machine
end

