-- ==== Sys2Proof/Machine/System.lean ====
section
/-! DEFINITION. System.lean: SCALL, BREAK, ERET and ERPL, MAJ 3F (R209, R272, R273, R284, R340, R375). -/

namespace Sys2Proof.Machine

/-- SCALL (R375): the trap is its effect. -/
def execScall (c : BitVec 8) (s : State) : Out := s.finish (s.raise .systemCall (c.setWidth 64))

/-- BREAK (R340). -/
def execEbreak (c : BitVec 8) (s : State) : Out := s.finish (s.raise .breakpoint (c.setWidth 64))

/-! ### ERET (R272) -/

/-- What ERET returns to: E, D's PC, RM and V, and DEFERRED of the cause. -/
structure Return where
  pc : Dword
  resume : Dword
  rm : Bool
  stream : Bool
  deferred : Bool
  deriving DecidableEq, Repr

/-- E and D of the supervisor level. -/
def TrapRegs.superReturn (t : TrapRegs) : Return :=
  ⟨t.sepc.setWidth 64, t.sdrpcPc.setWidth 64, t.sdrpcRm, t.sdrpcV, t.scause.getLsbD 7⟩

/-- E and D of the user level. -/
def TrapRegs.userReturn (t : TrapRegs) : Return :=
  ⟨t.tepc.setWidth 64, t.drpcPc.setWidth 64, t.drpcRm, t.drpcV, t.tcause.getLsbD 7⟩

/-- Where the scalar stream goes on. -/
def Return.target (r : Return) : Dword := if r.stream then r.resume else r.pc

/-- k7 as a re-execution mask of a stalled entry, when the trap that returns reported that entry and asks for one. -/
def State.remask (s : State) (r : Return) (e : VEntry) : Option KBits :=
  if r.stream && r.rm && e.pc == r.pc then some (s.kreg 7) else none

/-- The faulted V-stream entry goes back to the head of its queue, to execute from VSTART or EPR (R272). -/
def State.resumeV (s : State) (r : Return) (e : VEntry) : State :=
  { s with
    lc := { s.lc with vstalled := none }
    part := { s.part with vqueue := { e with rm := if r.deferred then none else s.remask r e, restart := none } :: s.part.vqueue } }

/-- The stalled context executes its instruction again, or discards it when the handler has cleared DEFERRED (R209). -/
def State.resumeK (s : State) (r : Return) : State :=
  match s.lc.ctx with
  | none => s
  | some c => match c.stalled with
    | none => s
    | some e =>
      let again := { e with rm := s.remask r e, restart := none }
      let skip := r.stream && e.pc == r.pc && !r.deferred
      -- a skipped entry executes whole again in its loop's next iteration (R197)
      let t := s.updCtx (fun c => { c with
        stalled := none
        pos := if skip && !c.levels.isEmpty then c.pos + 1 else c.pos
        buf := if c.levels.isEmpty then c.buf else c.buf.set c.pos (if skip then { e with rm := none, restart := none } else again) })
      let l := if skip then { t.lc with pending := e.sWrites.foldl (fun p d => p.erase d) t.lc.pending }
        else if c.levels.isEmpty then { t.lc with kqueue := again :: t.lc.kqueue } else t.lc
      { t with lc := l }

/-- Copy transfers and a wave whose faults an instruction has raised go on (R164, R227). -/
def State.resumeUnits (s : State) : State :=
  { s with lc := { s.lc with
      chans := s.lc.chans.map (fun c => if c.raised then { c with err := none, raised := false } else c)
      breport := if s.lc.braised then none else s.lc.breport
      braised := false } }

/-- The faulted V-stream entry goes on, unless its report is pending, or a user handler that is still active handles it. -/
def State.releaseStalled (s : State) (r : Return) : State :=
  match s.lc.vstalled with
  | some e => if s.lc.vreport.isSome || (!s.super && s.lc.trap.uh && s.lc.trap.uv) then s else s.resumeV r e
  | none => s

/-- A trap in a handler that reports an entry which the handler's own entry had stopped: the entry goes on with what it
lies among, from VSTART or EPR (R272, R275). -/
def State.releaseLower (s : State) (r : Return) : State :=
  match s.lc.vheld with
  | ⟨some e, q⟩ :: rest =>
    if s.super && r.stream && e.pc == r.pc && !r.deferred && s.lc.vreport.isNone then
      let again := { e with rm := s.remask r e, restart := some (s.lc.vstart, s.lc.epr) }
      { s with lc := { s.lc with vheld := ⟨none, again :: q⟩ :: rest } }
    else s
  | _ => s

/-- The context goes on (R209): at user level, unless its report is pending or a user handler that is still active
handles it; in a handler, when the trap that returns reported it. -/
def State.releaseK (s : State) (r : Return) : State :=
  let here := ((s.lc.ctx.bind (·.stalled)).map (fun e => r.stream && e.pc == r.pc)).getD false
  if s.lc.kreport.isSome || (if s.super then !here else s.lc.trap.uh && s.lc.trap.uk) then s else s.resumeK r

/-- ERET at supervisor level: the V stream goes on as the entry had stopped it (R272, R273). An LC that SSWITCH has taken
off its partition leaves it. -/
def State.eretSuper (s : State) : State :=
  let t := s.lc.trap
  let r := t.superReturn
  let u := { s with lc := { s.lc with
    trap := { t with level := t.plevel, sdrpcV := false } } }
  if s.lc.leaving then (u.vacate .preempted).retireAt (r.target.setWidth 57)
  else ((((u.resumeUnits.requeue).releaseStalled r).releaseLower r).releaseK r).retireAt (r.target.setWidth 57)

/-- ERET of a user handler. -/
def State.eretUser (s : State) : State :=
  let t := s.lc.trap
  let r := t.userReturn
  let u := { s with lc := { s.lc with trap := { t with uh := false, uv := false, uk := false, drpcV := false } } }
  ((u.resumeUnits.releaseStalled r).releaseK r).retireAt (r.target.setWidth 57)

/-- A bind that still waits for the incoming LC's context is offered one, when the model follows the streams in order. -/
def State.pushRebind (s : State) : State :=
  match s.lc.rebind, s.dev.binds.find? (fun b => b.who == s.lc.key) with
  | some _, some b => (if s.runAhead || b.granted.isSome then s else s.contextGrant b.stack b.svu).settleRebind
  | _, _ => s

/-- ERET (R272, R273, R289). -/
def execEret (s : State) : Out := s.finish do
  let t := s.pushRebind
  if t.super then
    if !t.liveV.isEmpty || !t.established then .error (.waitIn t) else .ok t.eretSuper
  else if t.lc.trap.uh then .ok t.eretUser
  else s.raise .badControlState 0x61

/-! ### ERPL (R284) -/

/-- The handler's cause, trapped word and return, if a handler is active. -/
def State.handled (s : State) : Option (BitVec 8 × IWord × Return) :=
  let t := s.lc.trap
  if t.level then some (t.scause, t.sinsn, t.superReturn)
  else if t.uh then some (t.tcause, t.tinsn, t.userReturn)
  else none

/-- EPC moves past the trapped instruction. -/
def State.skipTrapped (s : State) : State :=
  if s.super then s.setTrap (fun t => { t with sepc := t.sepc + 4 })
  else s.setTrap (fun t => { t with tepc := t.tepc + 4 })

/-- RM of the handler's level is cleared. -/
def State.clearRm (s : State) : State :=
  if s.super then s.setTrap ({ · with sdrpcRm := false }) else s.setTrap ({ · with drpcRm := false })

/-- The stalled VLD that the handler completes: placed or not. -/
def State.trappedVld (s : State) (r : Return) (placed : Bool) : Option VEntry :=
  if placed then (s.lc.ctx.bind (·.stalled)).filter (fun e => e.pc == r.pc)
  else (s.lc.vstalled.toList ++ s.lc.vheld.filterMap (·.stalled)).find? (fun e => e.pc == r.pc)

/-- Lanes of k7 of a VLD's destination take the elements of a core register, and the VLD completes at ERET. -/
def State.replaceLanes (s : State) (e : VEntry) (t b : VReg) (m : AMode) (y : Ty) : State :=
  let w := y.regBits
  let n := 8 * regBytes e.placed / w
  let ws := ((List.range (min 1024 n)).filter (fun i => (s.kreg 7).getLsbD i)).map (fun i =>
    (i, getE (s.vreg false b) w i, false))
  let u := (s.writeElems e.placed t w ws).clearRm
  { u with lc := { u.lc with
      vstart := e.ctl.vl.setWidth 16
      epr := if m == .tile then BitVec.ofNat 32 (e.ctl.rowcnt.toNat * 65536) else u.lc.epr } }

/-- ERPL (R284). -/
def execErpl (a : SReg) (v : VReg) (s : State) : Out := s.finish do
  let bad : Except Halt State := s.raise .badControlState 0x61
  match s.handled with
  | none => bad
  | some (cause, word, r) =>
    let code := cause.toNat % 128
    if code < 0x30 || 0x37 < code then bad
    else match decode word with
    | .ok (.ld d _ _ _ _) | .ok (.lda d _ _ _) =>
      let x ← s.useS a
      s.claimS d
      .ok ((s.setS d x).skipTrapped).retire
    | .ok (.vld p t _ m _ _ y) =>
      if !s.owns then s.raise .vectorStateNotOwned 0
      else if !s.liveV.isEmpty then .error .wait
      else match s.trappedVld r p with
      | some e => .ok (s.replaceLanes e t v m y).retire
      | none => bad
    | _ => bad

end Sys2Proof.Machine
end

