-- ==== Sys2Proof/Machine/CsrOps.lean ====
section
/-! DEFINITION. CsrOps.lean: CSRR, CSRW, CSRS and CSRC (R73, R74, R342, R343) and the actions of CSR writes, which the
event rows of the table name as well: BANKROLE (R150), ACCALLOC (R78, R241), TCFG (R237), TLBINV (R305), SSWITCH,
VSAVE and VLOAD (R288, R289), XRESET (R294), TKILL (R269), SCCTL.COMMIT (R281), POOLTAIL (R306). -/

namespace Sys2Proof.Machine

/-- BAD_CONTROL_STATE naming a CSR. -/
def State.badCsr {α : Type} (s : State) (n : Nat) : Except Halt α := s.raise .badControlState (BitVec.ofNat 64 n)

/-! ### Actions -/

/-- The state with the role of the local-store banks changed (R150): a bank entering or leaving the scratchpad role
reads zero there, and its errors and poison are gone. -/
def State.setRoles (s : State) (v : Dword) : State :=
  let c := s.core
  let changed (b : Nat) : Bool := field c.bankrole (2 * b) 2 != field v (2 * b) 2
  let keepAt (o : Nat) : Bool := !changed (o / 131072)
  { s with core := { c with
      bankrole := v
      scratch := c.scratch.filter (fun x => keepAt x.1)
      scratchPoison := c.scratchPoison.filter (fun g => keepAt (64 * g))
      scratchError := c.scratchError.filter (fun g => keepAt (64 * g))
      segs := c.segs.filter (fun x => !changed (x.1 / 2))
      segError := c.segError.filter (fun x => !changed (x / 2048)) } }

/-- The bytes from an address that reach the scratchpad window, as offsets into it. -/
def windowPart (a : Int) (n : Nat) : Int × Int := (a - windowBase, a + n - windowBase)

/-- Whether a transfer under way reads or writes a bank of the scratchpad window (R150). -/
def XCmd.touchesBank (c : XCmd) (b : Nat) : Bool :=
  let meets (a : Int) (n : Nat) : Bool :=
    let p := windowPart a n
    decide (p.1 < (131072 * (b + 1) : Nat)) && decide ((131072 * b : Nat) < p.2)
  let w := match c.kind with
    | .red t _ _ => t.ty.bytes
    | .deil _ _ => 4
    | .cpy _ | .sbar _ => 1
  let last := (c.rows - 1 : Nat) * c.pitch.toInt
  meets c.dst.toNat (c.len * c.rows * w)
    || meets (c.src.toNat + min 0 last) ((max 0 last - min 0 last).toNat + c.len * w * (match c.kind with
      | .deil _ f => f
      | .cpy _ | .red _ _ _ | .sbar _ => 1))

/-- Whether an LC still has accesses on their way to a bank of the scratchpad window (R150): scalar stores that wait and
copies under way. -/
def Lc.touchesBank (l : Lc) (b : Nat) : Bool :=
  l.stores.any (fun x => x.window && x.place / 131072 == b)
    || l.chans.any (fun c => !c.quiet && c.cmds.any (fun x => x.touchesBank b))

/-- Whether a V entry accesses a bank of the scratchpad window. -/
def VEntry.touchesBank (e : VEntry) (b : Nat) : Bool := e.extent.meets (windowBase + 131072 * b) 131072

/-- Whether accesses that came before a change of the roles are still to be performed at a bank that changes (R74, R150):
the LC's own, and those that the core's other LCs have begun. -/
def State.roleBusy (s : State) (v : Dword) : Bool :=
  let changed := (List.range 32).filter (fun b => s.core.role b != field v (2 * b) 2)
  changed.any fun b =>
    s.liveV.any (·.touchesBank b)
      || s.allLcs.any (fun l => l.status == .resident && l.core == s.core.no && l.touchesBank b)
      || (s.coreParts s.core.no).any (fun p => p.rem.isSome && ((p.vqueue.head?.map (·.touchesBank b)).getD false))

/-- BANKROLE (R79, R150, R281). -/
def State.writeBankrole (s : State) (v : Dword) : Except Halt State :=
  let leaving (b : Nat) : Bool := s.core.role b == 2 && field v (2 * b) 2 != 2
  let holds (p : Part) : Bool := p.grant.segs.any (fun g => leaving (g / 2))
  let contained := s.allLcs.any (fun l => l.status == .resident && l.core == s.core.no && s.sccOf l
    && (match s.core.containAt l.partNo with
      | some a => field v (2 * (a / 131072)) 2 != 1
      | none => false))
  if !s.csrAccepts 0x020 v || holds s.part || contained then s.badCsr 0x020
  else if (s.coreParts s.core.no).any (fun p => p.no != s.part.no && holds p) || s.roleBusy v then .error .wait
  else .ok (s.setRoles v)

/-- An entry names an accumulator. -/
def VEntry.namesAcc (e : VEntry) (a : Nat) : Bool :=
  match e.op with
  | .mma c .. | .accrd _ c | .accwr _ c | .accz c => c.toNat == a
  | _ => false

/-- ACCALLOC (R78, R241). -/
def State.writeAccalloc (s : State) (v : Dword) : Except Halt State := do
  s.shapesDone
  let others := ((s.coreParts s.core.no).filter (fun p => p.no != s.part.no)).foldl (fun m p => m ||| p.accalloc) 0
  let old := s.part.accalloc
  let new : BitVec 16 := v.setWidth 16 &&& ~~~others
  -- the matrix instruction in the unit goes on while a faulted entry waits for ERET
  let live := if s.lc.vstalled.isNone then s.queuedV else (s.part.mslot.map (·.entry)).toList
  if (accNumbers (old &&& ~~~new)).any (fun a => live.any (·.namesAcc a)) then .error .wait
  else
    let core := (accNumbers (new &&& ~~~old)).foldl (fun (c : Core) a => { c with
      acc := c.acc.setIfInBounds a 0, accPoison := c.accPoison.setIfInBounds a 0
      accError := c.accError.setIfInBounds a 0 }) s.core
    .ok { s with core := core, part := { s.part with accalloc := new } }

/-- TCFGt (R78, R237). -/
def State.writeTcfg (s : State) (t : Nat) (v : Dword) : Except Halt State := do
  s.shapesDone
  if !s.tcfgOk t v then s.badCsr (0x010 + t)
  else .ok { s with lc := { s.lc with tcfg := s.lc.tcfg.setIfInBounds t (TCfg.ofWord v) } }

/-- Whether TLBINV drops a held translation (R305). -/
def TlbEntry.dropped (t : TlbEntry) (kind : Nat) (vpn : Nat) (asid : BitVec 16) : Bool :=
  let va := vpn * 65536
  match kind with
  | 0 => (t.glob || t.asid == asid) && (match t.kind with
      | .page => t.va >>> 16 == va >>> 16
      | .summary => t.va >>> 19 == va >>> 19
      | .block => t.va >>> 28 == va >>> 28)
  | 1 => !t.glob && t.asid == asid
  | 2 => !t.glob
  | _ => true

/-- Whether TLBINV drops a table pointer of a walker pool (R305): KIND 0 and 1 those of the ASID. -/
def PtrEntry.dropped (p : PtrEntry) (kind : Nat) (asid : BitVec 16) : Bool := decide (2 ≤ kind) || p.asid == asid

/-- Whether no access that has already been translated is still to be performed (R305): scalar stores that wait, running
waves, scatter-add updates, contributions and host requests on their way. -/
def State.translatedDone (s : State) : Bool :=
  s.allLcs.all (fun l => l.stores.isEmpty) && s.dev.seqs.all (fun c => !(c.cmd.kind.isWave && c.probed))
    && s.dev.scUpdates.isEmpty && s.dev.contributions.isEmpty
    && s.dev.hostReqs.isEmpty

/-- TLBINV (R305): scope 0 the core, and the central die's table pointers that its walks use (log 77); 1 and 2 every core,
base die and walker pool, and what is held for the device-memory windows (R310). -/
def State.tlbinv (s : State) (scope kind vpn : Nat) : Except Halt State := do
  if scope = 3 then s.badCsr 0x120
  else
    s.releaseWait
    if !s.translatedDone then .error .wait
    else
      let keep (l : List TlbEntry) : List TlbEntry := l.filter (fun t => !t.dropped kind vpn s.lc.asid)
      let drop (c : Core) : Core := { c with tlb := keep c.tlb }
      let ptrs := s.dev.ptrs.filter (fun p => (scope == 0 && p.pool.isSome) || !p.dropped kind s.lc.asid)
      let t := { s with core := drop s.core, dev := { s.dev with ptrs := ptrs } }
      if scope = 0 then .ok t
      else .ok { t with
        cores := t.cores.map drop
        dev := { t.dev with
          baseTlb := t.dev.baseTlb.filter (fun e => !e.entry.dropped kind vpn s.lc.asid), ioTlb := keep t.dev.ioTlb } }

/-- XRESET (R294). -/
def State.xreset (s : State) (h : BitVec 2) : Except Halt State :=
  let c := s.lc.chans[h.toNat]
  if c.done != c.next then s.badCsr 0x11E
  else .ok (s.updChan h (fun c => { c with next := 0, done := 0 }))

/-- TKILL (R269, R33). -/
def State.tkill (s : State) (code : Nat) : State := s.endTask s.lc.key.task code

/-- SCCTL with COMMIT = 1 (R281). -/
def State.scctl (s : State) (v : Dword) : State := if v.getLsbD 0 then s.commitHeld else s

/-- POOLTAIL (R306): first a release at chip scope. -/
def State.writePooltail (s : State) (v : Dword) : Except Halt State := do
  s.releaseWait
  if !s.csrAccepts 0x127 v then s.badCsr 0x127 else .ok (s.setPool ({ · with pooltail := v.setWidth 32 }))

/-! ### CSR instructions -/

/-- Steps that every CSR instruction makes of R73: the number is defined, and reachable at the level. -/
def State.csrReach (s : State) (n : Nat) (read : Bool) : Except Halt Dword :=
  match s.csr n with
  | none => s.raise .illegalOpcode 0
  | some v => if 0x100 ≤ n && !s.super && !(read && n == 0x116) then s.raise .privileged (BitVec.ofNat 64 n) else .ok v

/-- CSRs that wait for the LC's V- and K-stream instructions (R40, R74). -/
def csrWaitsVk (n : Nat) : Bool := n == 0x003 || n == 0x004 || n == 0x00A

/-- The wait of an access (R74, R237, R389). -/
def State.csrWait (s : State) (n : Nat) (read : Bool) : Except Halt Unit :=
  if csrWaitsVk n && !s.vkQuiet then .error .wait
  else if (if read then n == 0x018 || n == 0x019 else decide (0x010 ≤ n) && decide (n < 0x018)) then s.shapesDone
  else .ok ()

/-- CSRR (R342, R343). -/
def execCsrr (d : SReg) (c : BitVec 14) (s : State) : Out := s.finish do
  let v ← s.csrReach c.toNat true
  s.claimS d
  s.csrWait c.toNat true
  .ok (s.setS d v).retire

/-- The write of a value to a CSR: the state after it, and whether execution goes on with the next word. -/
def State.csrStore (s : State) (n : Nat) (v : Dword) : Except Halt (State × Bool) := do
  let go (r : Except Halt State) : Except Halt (State × Bool) := r.map (fun t => (t, true))
  match n with
  | 0x019 => go (s.writeAccalloc v)
  | 0x020 => go (s.writeBankrole v)
  | 0x119 => .ok (s.scctl v, true)
  | 0x11A =>
    let (t, switched) ← s.sswitch v (s.lc.pc + 4)
    .ok (t, !switched)
  | 0x11B => go (s.vsave v)
  | 0x11C => go (s.vload v)
  | 0x11E => go (s.xreset (v.setWidth 2))
  | 0x11F => .ok (s.tkill (field v 0 7), false)
  | 0x120 => go (s.tlbinv (field v 10 2) (field v 8 2) (field v 16 41))
  | 0x127 => go (s.writePooltail v)
  | _ =>
    if 0x010 ≤ n ∧ n < 0x018 then go (s.writeTcfg (n - 0x010) v)
    else if !s.csrAccepts n v then s.badCsr n
    else .ok (s.setCsr n v, true)

/-- CSRW, CSRS and CSRC (R73, R342, R343). -/
def State.csrWrite (s : State) (o : CsrOp) (a : SReg) (n : Nat) : Except Halt State := do
  let old ← s.csrReach n false
  if !csrWritable n s.super then (if s.super then .ok s.retire else s.raise .privileged (BitVec.ofNat 64 n))
  else if csrWo n && o != .write then s.badCsr n
  else
    let x ← s.useS a
    s.csrWait n false
    if o != .write && a == 0 then .ok s.retire
    else
      let v := if csrWo n then x else csrNew o old x (csrRw n s.super) (csrW1c n)
      let (t, on) ← s.csrStore n v
      .ok (if on then t.retire else { t with retired := true })

/-- CSRW (R342). -/
def execCsrw (a : SReg) (c : BitVec 14) (s : State) : Out := s.finish (s.csrWrite .write a c.toNat)
/-- CSRS (R342). -/
def execCsrs (a : SReg) (c : BitVec 14) (s : State) : Out := s.finish (s.csrWrite .set a c.toNat)
/-- CSRC (R342). -/
def execCsrc (a : SReg) (c : BitVec 14) (s : State) : Out := s.finish (s.csrWrite .clear a c.toNat)

/-! ### The same actions as events, at the LC in turn -/

/-- BANKROLE_WRITE (R150). -/
def execBankroleWrite (v : Dword) (s : State) : Out := s.finish (s.writeBankrole v)
/-- ACCALLOC_WRITE (R241). -/
def execAccallocWrite (v : Dword) (s : State) : Out := s.finish (s.writeAccalloc (v &&& csrRw 0x019 s.super))
/-- TCFG_WRITE (R237). -/
def execTcfgWrite (t : TReg) (v : Dword) (s : State) : Out := s.finish (s.writeTcfg t.toNat (v &&& 0xF1FF_00FF))

/-- The code of a scope (R305). -/
def scopeCode (c : InvScope) : Nat :=
  match c with
  | .core => 0
  | .chip => 1
  | .pod => 2

/-- TLBINV_PAGE (R305). -/
def execTlbinvPage (c : InvScope) (vpn : BitVec 41) (s : State) : Out := s.finish (s.tlbinv (scopeCode c) 0 vpn.toNat)
/-- TLBINV_ASID (R305). -/
def execTlbinvAsid (c : InvScope) (s : State) : Out := s.finish (s.tlbinv (scopeCode c) 1 0)
/-- TLBINV_NONGLOBAL (R305). -/
def execTlbinvNonglobal (c : InvScope) (s : State) : Out := s.finish (s.tlbinv (scopeCode c) 2 0)
/-- TLBINV_ALL (R305). -/
def execTlbinvAll (c : InvScope) (s : State) : Out := s.finish (s.tlbinv (scopeCode c) 3 0)
/-- SSWITCH (R289). -/
def execSswitch (v : Dword) (s : State) : Out := s.finish (do
  let (t, _) ← s.sswitch v s.lc.pc
  .ok t)
/-- VSAVE (R288). -/
def execVsave (v : Dword) (s : State) : Out := s.finish (s.vsave v)
/-- VLOAD (R288). -/
def execVload (v : Dword) (s : State) : Out := s.finish (s.vload v)
/-- XRESET (R294). -/
def execXreset (h : BitVec 2) (s : State) : Out := s.finish (s.xreset h)
/-- TKILL (R269). -/
def execTkill (code : BitVec 7) (s : State) : Out := s.finish (.ok (s.tkill code.toNat))
/-- SCCTL_COMMIT (R281). -/
def execScctlCommit (s : State) : Out := s.finish (.ok s.commitHeld)
/-- POOLTAIL_WRITE (R306). -/
def execPooltailWrite (v : Dword) (s : State) : Out := s.finish (s.writePooltail (v &&& csrRw 0x127 true))

end Sys2Proof.Machine
end

