-- ==== Sys2Proof/Machine/Generate.lean ====
section
/-! DEFINITION. Generate.lean: the hand-off of the generation and journal instructions, MAJ 3B and 3C (R249, R251 to
R253, R256, R257, R259, R260, R262 to R265, R352, R382, R394 to R397, R400, R410, R415), and their meanings. What they
do in the V stream is in Gen.lean. -/

namespace Sys2Proof.Machine

/-- The checks of an instruction of MAJ 3B or 3C: its widest element is 32 bits (R249). -/
def gguard (regs types : List (Nat × Bool)) : Guard := { regs := regs, types := types, bits := 32 }

/-- The checks of UCFG, JADD, JCOMMIT and JDROP, which use no vector register: they execute whatever VL and VSTART hold
and whoever owns the vector state (R103, R249). -/
def sguard : Guard := { vector := false, bits := 0 }

/-- The type check of the forms that accept one type. -/
def onlyType (y t : Ty) : List (Nat × Bool) := [(tyCode y, y == t)]

/-! ### The unmasking engine -/

/-- URANK (R263, R397). -/
def execUrank (k a : VReg) (t : Ty) (s : State) : Out := s.finish do
  s.guard { gguard [(20, kOk k)] (onlyType t .f32) with governed := true, perK := true }
  if s.lc.gen.umcfg.toNat % 2 ^ 16 = 0 then s.raise .unmaskConfigInvalid 0x42
  else
    let u ← s.handOff false (.urank k a) 0 0 0 false
    .ok u.retire

/-- UCOMMIT (R264, R395). -/
def execUcommit (k a : VReg) (b : SReg) (t : Ty) (s : State) : Out :=
  s.finish (s.vopS false { gguard [(20, kOk k)] (onlyType t .n32) with perK := true } (.ucommit k a) b)

/-- UDIRTY (R265, R396). -/
def execUdirty (k : VReg) (b : SReg) (s : State) : Out :=
  s.finish (s.vopS false { gguard [(20, kOk k)] [] with perK := true } (.udirty k) b)

/-- UCFG (R262, R394): UMCFG is written at hand-off. -/
def execUcfg (b : SReg) (s : State) : Out := s.finish do
  s.guard sguard
  let x ← s.useS b
  if x.toNat / 2 ^ 28 != 0 || x.toNat % 2 ^ 16 == 0 then s.raise .unmaskConfigInvalid x
  else
    let t := { s with lc := { s.lc with gen := { s.lc.gen with umcfg := x.setWidth 28 } } }
    let u ← t.handOff false .ucfg 0 0 0 false
    .ok u.retire

/-! ### Sampler, acceptance and draws -/

/-- Whether the four state registers are free, or pending only for SMPSTEPs of the same group still in the queue
(R260). -/
def State.samplerFree (s : State) (b : SReg) : Bool :=
  let own := (s.unperformedV.filter (fun e => match e.op with
    | .smpstep _ _ r => r == b
    | _ => false)).length
  (samplerRegs b).all (fun r => (s.lc.pending.filter (· == r)).length ≤ own)

/-- SMPSTEP (R259, R260, R382, R383). -/
def execSmpstep (d a : VReg) (b : SReg) (t : Ty) (s : State) : Out := s.finish do
  s.guard { gguard [(9, b != 0 && decide (b.toNat ≤ 60))] (onlyType t .f32) with governed := true }
  if !s.samplerFree b then .error .wait
  else
    let u ← ((samplerRegs b).foldl State.claim s).handOff false (.smpstep d a b) 0 0 0 false
    .ok u.retire

/-- VACCEPT (R252, R400). -/
def execVaccept (k a : VReg) (b : SReg) (t : Ty) (s : State) : Out :=
  s.finish (s.vopS false { gguard [(20, kOk k), (15, decide (a.toNat ≤ 30))] (onlyType t .f32) with
    bits := 64, governed := true, perK := true, draft := true } (.vaccept k a) b)

/-- VPAND (R253, R415). -/
def execVpand (k a : VReg) (s : State) : Out :=
  s.finish (s.vop false { gguard [(20, kOk k), (15, kOk a)] [] with perK := true, draft := true } (.vpand k a))

/-- VGUMBEL (R251, R410). -/
def execVgumbel (d : VReg) (b : SReg) (t : Ty) (s : State) : Out :=
  s.finish (s.vopS false { gguard [] (onlyType t .f32) with governed := true } (.draw d true) b)

/-- VDRAW (R251, R410). -/
def execVdraw (d : VReg) (b : SReg) (t : Ty) (s : State) : Out :=
  s.finish (s.vopS false { gguard [] (onlyType t .f32) with governed := true } (.draw d false) b)

/-! ### The count journal, MAJ 3C -/

/-- JBASE advanced by one entry (R256). -/
def GenCtl.advance (g : GenCtl) : GenCtl := { g with jbase := g.jbase + 16 }

/-- JADD (R256, R353): the entry is stored at the JBASE captured, and JBASE advances at hand-off. -/
def execJadd (d a b : SReg) (s : State) : Out := s.finish do
  s.guard sguard
  let x ← s.useS d
  let y ← s.useS a
  let z ← s.useS b
  if s.lc.gen.jlimit.toNat < s.lc.gen.jbase.toNat + 16 then s.raise .journalOverflow (s.lc.gen.jbase.setWidth 64)
  else
    let u ← s.handOff false .jadd x y z false
    .ok { u with lc := { u.lc with gen := u.lc.gen.advance } }.retire

/-- JCOMMIT (R257, R352). -/
def execJcommit (a b : SReg) (s : State) : Out := s.finish do
  s.guard sguard
  let x ← s.useS a
  let y ← s.useS b
  let u ← s.handOff false .jcommit x y 0 false
  .ok u.retire

/-- JDROP (R257, R352). -/
def execJdrop (a : SReg) (s : State) : Out := s.finish (s.vopS false sguard .jdrop a)

end Sys2Proof.Machine
end

