-- ==== Sys2Proof/Machine/Launch.lean ====
section
/-! DEFINITION. Launch.lean: launch packets (R28, R29), acceptance and readiness (R30, R31, R43, R51), the intake (R50,
R311, R312), SPAWN (R34, R384), the offer of free partitions (R52 to R54, R287), completion (R32, R313, R314), and YIELD of
MAJ 1C (R432). -/

namespace Sys2Proof.Machine

/-! ### Packets (R28, R29) -/

/-- A field of a packet: `n` bits from bit `lo` of the byte offset `off`. -/
def pk (p : BitVec 2048) (off lo n : Nat) : Nat := (p.toNat >>> (8 * off + lo)) % 2 ^ n

/-- LCN of a packet. -/
def pkLcn (p : BitVec 2048) : Nat := pk p 0x18 0 13

/-- The conditions of R29 but the last, in their listed order. -/
def packetFaults (p : BitVec 2048) : List Bool :=
  [ pk p 0x08 48 16 != 0 || pk p 0x18 13 3 != 0 || pk p 0xC0 0 448 != 0,
    pk p 0x18 28 4 == 0,
    decide (16 < pk p 0x18 23 5),
    decide (4 < pk p 0x18 18 3),
    pkLcn p == 0 || decide (4096 < pkLcn p),
    pk p 0x10 0 64 == 0,
    pk p 0x00 0 2 != 0,
    pk p 0x38 0 6 != 0,
    decide (8 * popCount 64 (pk p 0x10 0 64) < pkLcn p) && pk p 0x38 0 64 == 0 ]

/-- REASON of a rejected packet (R29, R311): 1 to 10; `idBad` is the last condition. -/
def rejectReason (p : BitVec 2048) (idBad : Bool) : Option Nat :=
  ((packetFaults p ++ [idBad]).findIdx? (fun b => b)).map (· + 1)

/-! ### Functions, identifiers, readiness -/

/-- A function after reset. -/
def Func.reset (no : Nat) : Func :=
  { no := no, fstatus := 0, launchpt := 0, launchasid := 0, hwbase := 0, ports := [], nextPort := 0, spawnCount := 0 }

/-- A port after reset (R314). -/
def Port.reset (no : BitVec 6) : Port :=
  { no := no, bytes := 0, packet := 0, st := .idle, reason := 0, taskid := 0, stamp := 0 }

/-- A function of the device: the physical one or one of 31 virtual ones (R307). -/
def Device.func (d : Device) (fn : Nat) : Func := (d.funcs.find? (·.no == fn)).getD (Func.reset fn)

/-- The device with a function replaced. -/
def Device.setFunc (d : Device) (f : Func) : Device := { d with funcs := f :: d.funcs.filter (·.no != f.no) }

/-- A port of a function. -/
def Func.port (f : Func) (n : BitVec 6) : Port := (f.ports.find? (·.no == n)).getD (Port.reset n)

/-- The function with a port replaced. -/
def Func.setPort (f : Func) (p : Port) : Func := { f with ports := p :: f.ports.filter (·.no != p.no) }

/-- The live task of a function by its identifier (R30). -/
def Device.taskOf (d : Device) (fn : Nat) (id : BitVec 32) : Option Task := d.tasks.find? (fun t => t.fn == fn && t.id == id)

/-- Live tasks of the device at most (R30). -/
def taskCap : Nat := 4096

/-- The next identifier of SPAWN (R30): the value after the counter that is not 0 and that no live task holds. -/
def spawnId (used : List (BitVec 32)) : Nat → BitVec 31 → BitVec 31
  | 0, c => c
  | n + 1, c => if c + 1 = 0 || used.contains (1#1 ++ (c + 1)) then spawnId used n (c + 1) else c + 1

/-- The task order (R51): higher PRIO first, then acceptance. -/
def Device.taskOrder (d : Device) : List Task :=
  (List.range 16).reverse.flatMap (fun p => d.tasks.filter (fun t => t.prio == p))

/-- A task that would be ready but for ring state. -/
def Task.free (t : Task) : Bool := t.deps.isEmpty && t.ended.isNone

/-- A ready task (R31, R43). -/
def Task.ready (t : Task) : Bool := t.free && (!t.ring || t.hasRing)

/-- Ring state is handed to waiting RING tasks in task order, to 64 tasks at once (R43). -/
def Device.grantRings (d : Device) : Device :=
  let held := (d.tasks.filter (·.hasRing)).length
  let given := (((d.taskOrder).filter (fun t => t.ring && !t.hasRing && t.free)).take (64 - held)).map (·.seq)
  { d with tasks := d.tasks.map (fun (t : Task) => if given.contains t.seq then { t with hasRing := true } else t) }

/-- The first `n` 8-byte arguments of a packet. -/
def pkArgs (p : BitVec 2048) (n : Nat) : List Dword := (List.range n).map (fun i => BitVec.ofNat 64 (pk p (0x40 + 8 * i) 0 64))

/-- The task a packet describes, accepted under an acceptance number and an identifier (R28, R30, R31, R41). -/
def taskOfPacket (d : Device) (p : BitVec 2048) (fn : Nat) (id : BitVec 32) (spawned : Bool) (ptbase : BitVec 52)
    (asid : BitVec 16) : Task :=
  let lcn := pkLcn p
  let named := (List.range (pk p 0x18 18 3)).map (fun i => BitVec.ofNat 32 (pk p (0x20 + 4 * i) 0 32))
  { seq := d.nextSeq, fn := fn, id := id
    -- the PC has 57 bits: ENTRY's bits [63:57] are not kept (log 86)
    entry := BitVec.ofNat 64 (pk p 0x00 0 57)
    elements := pk p 0x08 0 48
    coremask := BitVec.ofNat 64 (pk p 0x10 0 64)
    prio := pk p 0x18 28 4
    ew := BitVec.ofNat 2 (pk p 0x18 21 2)
    ring := pk p 0x18 17 1 == 1
    scc := pk p 0x18 16 1 == 1
    lcn := lcn
    args := pkArgs p (pk p 0x18 23 5)
    completion := BitVec.ofNat 64 (pk p 0x30 0 64)
    spawned := spawned
    lcsave := BitVec.ofNat 64 (pk p 0x38 0 64)
    ptbase := ptbase, asid := asid
    deps := named.filterMap (fun i => (d.taskOf fn i).map (·.seq))
    hasRing := false, nextStrip := 0, started := 0, exited := 0
    groups := (Vector.replicate 16 ⟨0, 0, 0⟩).set 0 ⟨lcn, 0, 0⟩
    posted := [], frontier := 0, ended := none }

/-- A task is accepted (R30, R31): dependences that are live hold it; one that has already ended abnormally ends it
(R33). -/
def Device.accept (d : Device) (t : Task) : Device :=
  ({ d with tasks := endDependants (d.tasks ++ [t]), nextSeq := d.nextSeq + 1 }).grantRings

/-! ### The intake (R50) -/

/-- The ports of a function whose packets wait. -/
def Func.busy (f : Func) : List Nat := (f.ports.filter (fun p => p.st == .busy)).map (·.no.toNat)

/-- The number of the 65th port, where SPAWN requests wait (R50). -/
def spawnPort : Nat := 64

/-- What of a function the intake can serve: port packets wait while 4,096 tasks are live. -/
def Device.waiting (d : Device) (fn : Nat) : List Nat :=
  (if d.tasks.length < taskCap then (d.func fn).busy else []) ++ (if d.spawns.any (·.fn == fn) then [spawnPort] else [])

/-- The first of `n` numbers with a property, searching round from a start. -/
def roundFrom (n start : Nat) (p : Nat → Bool) : Option Nat :=
  ((List.range n).map (fun i => (start + i) % n)).find? p

/-- The function and port the intake serves next. -/
def Device.nextServed (d : Device) : Option (Nat × Nat) :=
  match roundFrom 32 d.nextFn (fun f => !(d.waiting f).isEmpty) with
  | none => none
  | some f => (roundFrom 65 (d.func f).nextPort (d.waiting f).contains).map (fun p => (f, p))

/-- A packet that came through a port is accepted or rejected (R29, R311, R312). -/
def State.servePort (s : State) (fn : Nat) (n : BitVec 6) : State :=
  let d := s.dev
  let f := d.func fn
  let port := f.port n
  let p := port.packet
  let id : BitVec 32 := BitVec.ofNat 32 (pk p 0x1C 0 32)
  match rejectReason p (id.getLsbD 31 || (d.taskOf fn id).isSome) with
  | some r =>
    { s with dev := d.setFunc (f.setPort { port with st := .rejected, reason := r, taskid := 0 }) }
  | none =>
    let t := taskOfPacket d p fn id false f.launchpt f.launchasid
    let accepted := { port with st := .accepted, reason := 0, taskid := id, stamp := s.cycleOf 0 }
    { s with dev := (d.setFunc (f.setPort accepted)).accept t }

/-- A SPAWN request is answered (R34): the new identifier, or 0 when 4,096 tasks are live. -/
def State.acceptSpawn (s : State) (who : LcKey) (fn : Nat) (p : BitVec 2048) : State × BitVec 32 :=
  let d := s.dev
  if taskCap ≤ d.tasks.length then (s, 0)
  else
    let f := d.func fn
    let used := (d.tasks.filter (·.fn == fn)).map (·.id)
    let c := spawnId used (taskCap + 2) f.spawnCount
    let id : BitVec 32 := 1#1 ++ c
    let (pt, asid) := match d.task who.task with
      | some t => (t.ptbase, t.asid)
      | none => (s.lc.ptbase, s.lc.asid)
    let t := taskOfPacket d p fn id true pt asid
    ({ s with dev := (d.setFunc { f with spawnCount := c }).accept t }, id)

/-- The oldest SPAWN request of a function is answered. -/
def State.serveSpawn (s : State) (fn : Nat) : State :=
  match s.dev.spawns.find? (·.fn == fn) with
  | none => s
  | some r =>
    let (t, id) := s.acceptSpawn r.who fn r.packet
    { t with dev := { t.dev with
        spawns := t.dev.spawns.filter (· != r)
        spawnAnswers := t.dev.spawnAnswers ++ [(r.who, id)] } }

/-- LAUNCH_INTAKE (R50): one packet is served. -/
def State.intake (s : State) : Option State :=
  match s.dev.nextServed with
  | none => none
  | some (f, p) =>
    let t := if p = spawnPort then s.serveSpawn f else s.servePort f (BitVec.ofNat 6 p)
    let fn := t.dev.func f
    some { t with dev := { t.dev.setFunc { fn with nextPort := (p + 1) % 65 } with nextFn := (f + 1) % 32 } }

/-! ### SPAWN (R34, R384) -/

/-- The 256 bytes of the packet, granule by granule as S-stream loads, whatever pages they lie in. -/
def State.readPacket (s : State) (va : Dword) : Except Halt (State × BitVec 2048) := do
  let vas : List Dword := [va, va + 64, va + 128, va + 192]
  let ps ← vas.mapM (fun a => do
    let l ← s.locS .load a
    .ok (Probed.mk ⟨0, a, 0⟩ (.ok l)))
  let (s, more) := s.hostAsk 64 ps
  if more then .error (.waitIn s)
  else
    let (s, x) ← ps.foldlM (fun (r : State × List Nat) p => match p.loc? with
      | some l => do
        let (t, v, _) ← r.1.loadAt l p.item.va 64
        .ok (t, r.2 ++ [v])
      | none => .ok r) (s, [])
    .ok (s, BitVec.ofNat 2048 (x.foldr (fun v a => v + a * 2 ^ 512) 0))

/-- The function of the LC's task. -/
def State.fnOf (s : State) : Nat := (s.task.map (·.fn)).getD 0

/-- Whether a SPAWN of the LC has been offered to the intake: it then runs until the answer (R384). -/
def State.spawning (s : State) : Bool :=
  s.dev.spawns.any (·.who == s.lc.key) || s.dev.spawnAnswers.any (·.1 == s.lc.key)

/-- The answer to a SPAWN of the LC in focus. -/
def State.spawnAnswer (s : State) : Option (BitVec 32) := (s.dev.spawnAnswers.find? (·.1 == s.lc.key)).map (·.2)

/-- The intake serves packets until the SPAWN of the LC in focus has its answer, at most `n`. -/
def State.serveOwn : Nat → State → State
  | 0, s => s
  | n + 1, s => if s.spawnAnswer.isSome then s else match s.intake with
    | some t => State.serveOwn n t
    | none => s

/-- A packet is offered to the intake (R50). When the model follows the streams in order, the intake serves at once what
comes before it and then the packet (log 3). -/
def State.offerSpawn (s : State) (p : BitVec 2048) : State :=
  let r : SpawnReq := ⟨s.lc.key, s.fnOf, p⟩
  let t : State := { s with dev := { s.dev with spawns := s.dev.spawns ++ [r] } }
  if t.runAhead then t
  else State.serveOwn (t.dev.spawns.length + (t.dev.funcs.map (fun f => f.busy.length)).sum) t

/-- SPAWN with its answer retires (R384). -/
def State.spawned (s : State) (d : SReg) (id : BitVec 32) : State :=
  let t := { s with dev := { s.dev with spawnAnswers := s.dev.spawnAnswers.filter (·.1 != s.lc.key) } }
  (t.setS d (id.setWidth 64)).retire

/-- SPAWN (R34, R384). -/
def execSpawn (d a : SReg) (s : State) : Out := s.finish do
  match s.spawnAnswer with
  | some id => .ok (s.spawned d id)
  | none =>
    if s.spawning then .error .wait
    else
      let x ← s.useS a
      s.claimS d
      if field x 0 6 ≠ 0 then s.raise .spawnInvalid x
      else
        s.releaseWait
        let (t, p) ← s.readPacket x
        if (rejectReason p false).isSome then t.raise .spawnInvalid x
        else
          let u := t.offerSpawn p
          match u.spawnAnswer with
          | some id => .ok (u.spawned d id)
          | none => .error (.waitIn u)

/-! ### Runnable LCs (R52, R63) -/

/-- Whether the wait in which an LC yielded has ended (R63). -/
def State.waitEnded (s : State) (l : Lc) : Bool :=
  match l.wait with
  | .none => true
  | .barrier g gen => ((s.dev.task l.key.task).bind (fun t => t.groups[g]?)).all (fun x => x.generation != gen)
  | .iteration i => ((s.dev.task l.key.task).map (·.isPosted i)).getD true
  | .monitor => (s.dev.monitors.find? (·.who == l.key)).all (·.got.isSome)

/-- An LC off its partition that can run. -/
def State.runnable (s : State) (l : Lc) : Bool :=
  l.status == .preempted || (l.status == .yielded && s.waitEnded l)

/-- The core an LC may only use, if its vector state is held by a partition or its copy transfers still run (R52). -/
def State.boundCore (s : State) (l : Lc) : Option Nat :=
  match s.allParts.find? (fun p => p.ownerKey == some l.key) with
  | some p => some p.core
  | none => if l.chans.any (fun c => !c.quiet) then some l.core else none

/-- Whether an LC may use a core of its task's COREMASK. -/
def State.mayUse (s : State) (l : Lc) (core : Nat) : Bool := (s.boundCore l).all (· == core)

/-- An LC that R52 chooses: one that has run, or the next that never started. -/
inductive Pick where
  | back (l : Lc)
  | start
  deriving DecidableEq, Repr

/-- The LC with the least key. -/
def leastBy (f : Lc → Nat) : List Lc → Option Lc
  | [] => none
  | l :: r => match leastBy f r with
    | some m => if f m < f l then some m else some l
    | none => some l

/-- The LC of a task that is chosen for a core (R52): strip holders by STRIP, then those that only exit by LCID, then
those that never started. -/
def State.pick (s : State) (t : Task) (core : Nat) : Option Pick :=
  let back := s.allLcs.filter (fun l => l.key.task == t.seq && s.runnable l && s.mayUse l core)
  let holds (l : Lc) : Bool := l.strip != BitVec.allOnes 64
  match leastBy (·.strip.toNat) (back.filter holds) with
  | some l => some (.back l)
  | none => match leastBy (·.key.lcid) (back.filter (fun l => !holds l)) with
    | some l => some (.back l)
    | none => if t.started < t.lcn then some .start else none

/-- The first task in task order for a core, with its LC (R52). -/
def State.firstTask (s : State) (core : Nat) : Option (Task × Pick) :=
  s.dev.taskOrder.findSome? (fun t =>
    if t.ready && t.coremask.getLsbD core then (s.pick t core).map (fun p => (t, p)) else none)

/-- Free partitions of a core, ascending. -/
def State.freeParts (s : State) (core : Nat) : List Nat :=
  (List.range 8).filter (fun n => (s.residentOn core n).isNone)

/-- The place R53 gives the next LC of a task among some cores: the core with the most free partitions, the lowest of
equals, and its lowest free partition. -/
def State.place (s : State) : List Nat → Option (Nat × Nat)
  | [] => none
  | c :: r =>
    let free := s.freeParts c
    match free, s.place r with
    | [], x => x
    | p :: _, none => some (c, p)
    | p :: _, some x => if free.length < (s.freeParts x.1).length then some x else some (c, p)

/-- The cores of a mask. -/
def maskCores (m : Dword) : List Nat := (List.range 64).filter m.getLsbD

/-! ### Placing an LC (R35, R52, R54, R287) -/

/-- Scalar registers at LC start (R35). -/
def argRegs (args : List Dword) : Vector Dword 64 :=
  args.zipIdx.foldl (fun v a => v.setIfInBounds (a.2 + 1) a.1) (Vector.replicate 64 0)

/-- An LC of a task at its start, on a partition (R35, R36). -/
def Task.startLc (t : Task) (lcid : Nat) (p : Part) (cycle : Dword) : Lc :=
  { Lc.reset with
    key := ⟨t.seq, lcid⟩, status := .resident, core := p.core, partNo := p.no, pc := t.entry.setWidth 57, s := argRegs t.args
    erem := BitVec.ofNat 64 t.elements, taskid := t.id, ptbase := t.ptbase, asid := t.asid
    residentSince := cycle.toNat }

/-- The LC in focus is kept among the others, and a blank one takes the focus. -/
def State.setAside (s : State) : State :=
  if s.lc.status == .absent then s else { s with lc := Lc.reset, lcs := s.lc :: s.lcs }

/-- The next LC of a task that has never started becomes resident on the partition in focus, which no LC holds. -/
def State.startHere (s : State) (t : Task) : State :=
  let l := t.startLc t.started s.part (s.cycleOf s.part.core)
  ({ s with lc := l, dev := s.dev.updTask t.seq (fun u => { u with started := u.started + 1 }) }).takeEmpty

/-- The next LC of a task starts on a free partition. -/
def State.startAt (s : State) (t : Task) (core no : Nat) : State := ((s.turnTo core no).startHere t)

/-- `n` LCs of a gang take their places together (R54). -/
def State.startGang (seq : Nat) (cores : List Nat) : Nat → State → State
  | 0, s => s
  | n + 1, s => match s.dev.task seq, s.place cores with
    | some t, some x => State.startGang seq cores n (s.startAt t x.1 x.2)
    | _, _ => s

/-- A gang-placed task that has not yet taken its partitions (R54). -/
def Task.gangWaits (t : Task) : Bool := t.lcsave == 0 && t.started == 0

/-- The cores of a task whose free partitions it is the first to be offered (R52, R54), as far as the LC chosen may use
them. -/
def State.offered (s : State) (t : Task) (x : Pick) : List Nat :=
  (maskCores t.coremask).filter (fun c => (s.firstTask c).any (fun y => y.1.seq == t.seq)
    && (match x with
      | .back l => s.mayUse l c
      | .start => true))

/-- Where an LC goes when a task spreads over the cores it is offered (R53). -/
def State.spread (s : State) (t : Task) (x : Pick) : Option (Nat × Nat) := s.place (s.offered t x)

/-- An offer of the free partitions of a core (R52 to R54): the state after it, if an LC was placed. -/
def State.offerCore (s : State) (core : Nat) : Option State :=
  match s.firstTask core with
  | none => none
  | some (t, x) =>
    if t.gangWaits then
      let cores := s.offered t x
      if t.lcn ≤ (cores.map (fun c => (s.freeParts c).length)).sum then some (State.startGang t.seq cores t.lcn s)
      else none
    else match s.spread t x with
      | none => none
      | some y =>
        if y.1 != core then none
        else match x with
          | .back l => some ((s.turnTo y.1 y.2).resume l)
          | .start => some (s.startAt t y.1 y.2)

/-! ### Completion (R32, R313, R314) -/

/-- The completion word (R313). -/
def Task.completionWord (t : Task) : Nat :=
  match t.ended with
  | none => 2 ^ 62
  | some (st, code, dep, strip) =>
    st * 2 ^ 62 + code * 2 ^ 55 + (match strip with
      | some e => 2 ^ 48 + e
      | none => dep)

/-- Whether every effect of a task has been performed, or, for one that ended, nothing of it still runs (R32, R33). -/
def State.taskDone (s : State) (t : Task) : Bool :=
  let quiet := s.dev.seqs.all (fun c => c.who.task != t.seq) && s.dev.scUpdates.isEmpty
    && s.dev.contributions.all (fun c => !(c.key.fn == t.fn && c.key.taskid == t.id))
    && s.dev.hostReqs.all (fun r => r.who.task != t.seq)
  (t.ended.isSome || decide (t.exited = t.lcn)) && quiet

/-- The host's memory begins at this physical address (R145); a port task's record lies at a bus address (R309). -/
def hostBase : Nat := 2 ^ 51

/-- Where the record of a task lies (R309, R34): a port task's at a host bus address, a spawned one's at a virtual
address of its space, outside the scratchpad window, which no core serves here (R149). -/
def Device.recordAt (d : Device) (t : Task) : Device × Option Nat :=
  let at_ := t.completion &&& ~~~15#64
  if !t.spawned then (d, some (hostBase + at_.toNat))
  else if inWindow at_ then (d, none)
  else match d.fetchXl (d.central t.ptbase t.asid false) .store at_ with
    | (d1, .ok x) => (d1, some x.pa)
    | (d1, .error _) => (d1, none)

/-- FSTATUS.CWFAIL of a function (R309, R314). -/
def Device.recordFails (d : Device) (fn : Nat) : Device :=
  let f := d.func fn
  d.setFunc { f with fstatus := f.fstatus ||| 4 }

/-- The completion record is written, the stamp before the word (R313), or its write fails (R314): at once, or, at the
host, when the request fails. -/
def State.writeCompletion (s : State) (t : Task) : State :=
  if t.completion == 0 then s
  else match s.dev.recordAt t with
    | (d, none) => { s with dev := d.recordFails t.fn }
    | (d, some pa) =>
      let d := (d.writeAt (pa + 8) 8 (s.cycleOf 0).toNat false).writeAt pa 8 t.completionWord false
      { s with dev :=
          if paKind pa == .host && s.runAhead then
            { d with hostReqs := d.hostReqs ++ [⟨⟨t.seq, 0⟩, t.completion, true, pa, 16, none, some t.fn⟩] }
          else d }

/-- A task is no longer live (R30, R31, R43, R51): its dependants may become ready, its records go. -/
def State.retireTask (s : State) (t : Task) : State :=
  let gone (l : Lc) : Bool := l.key.task == t.seq && l.status != .absent
  let tasks := (s.dev.tasks.filter (fun u => u.seq != t.seq)).map
    (fun (u : Task) => { u with deps := u.deps.filter (· != t.seq) })
  { s with
    lc := if gone s.lc then { Lc.reset with core := s.lc.core, partNo := s.lc.partNo } else s.lc
    lcs := s.lcs.filter (fun l => !gone l)
    dev := ({ s.dev with tasks := tasks }).grantRings }

/-- TASK_COMPLETION (R32, R313): without effect while the task has not completed or ended. -/
def State.completeTask (s : State) (seq : Nat) : State :=
  match s.dev.task seq with
  | none => s
  | some t => if s.taskDone t then (s.writeCompletion t).retireTask t else s

/-! ### Yields (R63, R432) -/

/-- Whether the task of the LC in focus is not gang-placed and has a runnable LC that is not resident. -/
def State.othersRunnable (s : State) : Bool :=
  match s.task with
  | none => false
  | some t => t.lcsave != 0 && (decide (t.started < t.lcn)
      || s.lcs.any (fun l => l.key.task == t.seq && s.runnable l))

/-- YIELD (R432). -/
def execYieldLc (s : State) : Out := s.finish do
  if s.othersRunnable then
    let t ← s.yieldOut .none ((s.lc.pc + 4).setWidth 64)
    .ok { t with retired := true }
  else .ok s.retire

end Sys2Proof.Machine
end

