-- ==== Sys2Proof/Machine/Sched.lean ====
section
/-! DEFINITION. Sched.lean: fetching a word (R25, R103), what is taken at a scalar instruction boundary (R248, R270,
R271), the counts behind the asynchronous causes (R65 to R67, R83), the yield of a long wait (R63), and the event rows
of scheduling: the intake, completion, offers, the arbiter of the lane groups (R55 to R58, R245) and the stack units. -/

namespace Sys2Proof.Machine

/-! ### Fetch -/

/-- A 32-bit word of memory at a location, without what containment holds (R281: fetches are other parties' reads). -/
def State.rawWord (s : State) (l : Loc) : IWord :=
  match l with
  | .window _ => 0
  | .phys p _ => BitVec.ofNat 32 (ofBytes ((List.range 4).map (fun i => Memory.get s.dev.mem (p + i))))

/-- The state with the word at the PC fetched, or the fetch fault (R103, R268, R283, R308): TINSN is 0 then. -/
def State.fetch (s : State) : Except Halt State :=
  let s := { s with ir := 0 }
  let va : Dword := s.lc.pc.setWidth 64
  if field va 0 2 ≠ 0 then s.raise .misalignedFetch va
  else do
    let l ← s.locS .fetch va
    let s ← s.hostRead l va 4
    if s.badAt l then .error (.trapIn (s.markBad l) (s.report (s.badCause l) va))
    else .ok { s with ir := s.rawWord l }

/-- The cause and TVAL of a word that the decoder refuses (R103, R445). -/
def decodeRaised (f : DecodeFault) : Cause × Dword :=
  match f with
  | .illegalOpcode => (.illegalOpcode, 0)
  | .placementUnsupported => (.placementUnsupported, 0)
  | .reservedField b => (.reservedField, BitVec.ofNat 64 b)

/-! ### Boundary traps (R68, R248, R270) -/

/-- What an abandoned instruction leaves goes: an armed monitor, a waiting bind of an SKBIND, a NEXTS request that has
not been answered (R68). -/
def State.abandon (s : State) : State :=
  let k := s.lc.key
  let bound := s.lc.rebind.isSome
  let granted := s.dev.binds.any (fun b => b.who == k && b.granted.isSome)
  { s with
    lc := { s.lc with nextsWait := false, waited := 0 }
    dev := { s.dev with
      monitors := s.dev.monitors.filter (fun m => m.who != k)
      binds := if bound then s.dev.binds else s.dev.binds.filter (fun b => b.who != k)
      ctxUses := if bound || !granted then s.dev.ctxUses else s.dev.ctxUses.filter (fun u => u.owner != k) } }

/-- The asynchronous causes in the order in which R270 lists them. -/
def asyncOrder : List Cause := [.sliceExpired, .preemptRequest, .progressWatchdog, .counterOverflow]

/-- The asynchronous cause that is taken first. -/
def Lc.due (l : Lc) : Option (Cause × Dword) := asyncOrder.findSome? (fun c => l.async.find? (·.1 == c))

/-- Accumulators whose loss the program has declared it can recompute (R248). -/
def State.recomputable (s : State) : BitVec 16 := s.lc.accrecomp &&& s.part.accalloc

/-- A pre-emption that discards the V stream and the named accumulators (R248): RESTART_DISCARD in place of `c`. -/
def State.restartDiscard (s : State) (c : Cause) : State :=
  let m := s.recomputable
  let core := (accNumbers m).foldl (fun (k : Core) a => { k with
    acc := k.acc.setIfInBounds a 0, accPoison := k.accPoison.setIfInBounds a 0
    accError := k.accError.setIfInBounds a 0 }) s.core
  let gone := s.everyV.flatMap VEntry.sWrites
  let t := { s with
    core := core
    part := s.part.vacate
    lc := { s.lc with
      vheld := [], vstalled := none, vstart := 0, epr := 0
      pending := gone.foldl (fun l d => l.erase d) s.lc.pending } }
  let r := t.report .restartDiscard (BitVec.ofNat 64 (c.code + m.toNat * 2 ^ 16))
  t.takeTrap { r with pc := t.lc.restartpc.setWidth 64 } false

/-- A pre-empting cause (R68): what R248 replaces. -/
def Cause.preempts (c : Cause) : Bool := c == .sliceExpired || c == .preemptRequest || c == .progressWatchdog

/-- The asynchronous cause of the LC in focus is taken (R270 step 2). -/
def State.takeAsync (s : State) (c : Cause × Dword) : State :=
  let t := { s with ir := 0, lc := { s.lc with async := s.lc.async.erase c } }
  if c.1.preempts && t.lc.trap.smode != 0 && t.recomputable != 0 then t.restartDiscard c.1
  else t.takeTrap (t.report c.1 c.2) false

/-- The pending stream report that is earlier in program order is taken (R270 step 1). -/
def State.takeReport (s : State) : Option State :=
  let v := s.lc.vreport.map (fun r => ({ s with lc := { s.lc with vreport := none } }).takeTrap r true)
  let k := s.lc.kreport.map (fun r => ({ s with lc := { s.lc with kreport := none } }).takeTrap r true)
  match s.lc.vreport, s.lc.kreport with
  | some a, some b => if b.no < a.no then k else v
  | some _, none => v
  | none, _ => k

/-- A trap that is taken at the boundary, before the instruction there executes; none while a NEXTS has its answer or
a SPAWN awaits one (R68, R384). -/
def State.boundary (s : State) : Option State :=
  if s.lc.nextsAnswer.isSome || s.spawning then none
  else if s.lc.vreport.isSome || s.lc.kreport.isSome then s.abandon.takeReport
  else if s.super then none
  else (s.lc.due).map (s.abandon.takeAsync)

/-! ### Counts (R65 to R67, R83) -/

/-- An asynchronous cause falls due once. -/
def Lc.raiseAsync (l : Lc) (c : Cause) (v : Dword) : Lc :=
  if l.async.contains (c, v) then l else { l with async := l.async ++ [(c, v)] }

/-- Whether some runnable LC of a ready task can use a core (R65). -/
def State.wanted (s : State) (core : Nat) : Bool := (s.firstTask core).isSome

/-- The slice count of the LC in focus (R65). -/
def State.sliceCheck (s : State) : State :=
  let n := field s.core.preempt 0 24
  if n = 0 || s.lc.slice < n * 1024 then s
  else if s.wanted s.core.no then { s with lc := { s.lc.raiseAsync .sliceExpired 0 with slice := 0 } }
  else { s with lc := { s.lc with slice := 0 } }

/-- The watchdog count of the LC in focus (R67). -/
def State.watchdogCheck (s : State) : State :=
  let n := field s.core.preempt 40 16
  if n = 0 || s.lc.wdog < n * 65536 then s
  else { s with lc := { s.lc.raiseAsync .progressWatchdog 0 with wdog := 0 } }

/-- PRIO of an LC's task. -/
def State.prioOf (s : State) (l : Lc) : Nat := ((s.dev.task l.key.task).map (·.prio)).getD 0

/-- The resident LC of a core with the lowest PRIO, resident longest (R66). -/
def State.lowest (s : State) (core : Nat) : Option Lc :=
  leastBy (fun l => s.prioOf l * 2 ^ 64 + l.residentSince)
    (s.allLcs.filter (fun l => l.status == .resident && l.core == core))

/-- The LC at which PREEMPT_REQUEST is due on the core in focus, if its condition holds (R66). -/
def State.preemptTarget (s : State) : Option Lc :=
  let c := s.core.no
  if s.core.preempt.getLsbD 63 && (s.freeParts c).isEmpty then
    match s.firstTask c, s.lowest c with
    | some (t, _), some l => if s.prioOf l < t.prio then some l else none
    | _, _ => none
  else none

/-- PREEMPT_REQUEST of the core in focus (R66): raised once while its condition holds without a break. -/
def State.preemptCheck (s : State) : State :=
  if !s.core.preempt.getLsbD 63 && s.core.preReq.isNone then s
  else
    let stays : Bool := match s.core.preReq with
      | some k => s.allLcs.any (fun l => l.key == k && l.status == .resident && l.core == s.core.no)
      | none => false
    match s.preemptTarget with
    | none => { s with core := { s.core with preReq := none } }
    | some l =>
      if stays then s
      else ({ s with core := { s.core with preReq := some l.key } }).updLc l.key (·.raiseAsync .preemptRequest 0)

/-! ### Waits in which an LC yields (R63) -/

/-- The wait of the instruction at the boundary, if it is one in which an LC yields. -/
def State.longWait (s : State) : Option Wait :=
  match decode s.ir with
  | .ok (.gbar a) => (s.lc.bars.find? (fun b => b.1 == (s.getS a).toNat)).map (fun b => .barrier b.1 b.2)
  | .ok (.waiti a) => some (.iteration (s.getS a).toNat)
  | .ok (.mwait _ _ _) => if s.dev.monitors.any (·.who == s.lc.key) then some .monitor else none
  | _ => none

/-- The yield threshold of a core in core cycles (R64). -/
def Core.yieldAfter (c : Core) : Nat := max 1 (field c.preempt 24 16) * 1024

/-- The LC in focus yields if it has waited long enough and another LC of its task can run (R63). -/
def State.lcYield (s : State) : Option (Except Halt State) :=
  if s.lc.status == .resident && s.lc.waited != 0 && s.othersRunnable && decide (s.core.yieldAfter < s.lc.waited) then
    match s.fetch with
    | .ok t => t.longWait.map (fun w => t.yieldOut w (t.lc.pc.setWidth 64))
    | .error _ => none
  else none

/-! ### The step's account (R6, R63 to R67, R83, R286) -/

/-- What `n` core cycles add to the counts of a resident LC. -/
def Lc.pass (l : Lc) (n : Nat) : Lc :=
  { l with slice := l.slice + n, wdog := l.wdog + n, waited := if l.waited = 0 then 0 else l.waited + n }

/-- A step's time passes: each core counts its own cycles, and they count for the LCs resident on it (R6, R65, R67, R83,
R323). -/
def State.passTime (s : State) : State :=
  let pass (l : Lc) : Lc :=
    if l.status == .resident then (l.pass (s.passing l.core).toNat).count 0 (s.passing l.core).toNat else l
  { s.mapLcs pass with cycles := s.cycles.mapIdx (fun c x => x + s.passing c), tick := s.tick + 1 }

/-- Whether the LC in focus is still at the instruction it was at before, in a wait that may end in a yield. -/
def State.waitsFrom (t s : State) : Bool :=
  !t.retired && t.lc.key == s.lc.key && t.lc.status == .resident && t.lc.pc == s.lc.pc && t.super == s.super
    && t.lc.trap.uh == s.lc.trap.uh

/-- What the LC in focus counts of its own step: its wait, the instruction it retired, misses (R63, R67, R83). -/
def Lc.countStep (l : Lc) (waits retired : Bool) (tick : Nat) : Lc :=
  let l := { l with wdog := if retired then 0 else l.wdog, waited := if waits then max 1 l.waited else 0 }
  let l := if retired then l.count 1 1 else l
  (l.count 5 (Config.counted (2 * tick)).toNat).count 6 (Config.counted (2 * tick + 1)).toNat

/-- The counts after a step that took the LC in focus from `s` to `t`. -/
def State.account (s t : State) : State :=
  let u := t.passTime
  if u.lc.status == .resident then
    ({ u with lc := u.lc.countStep (t.waitsFrom s && t.longWait.isSome) t.retired t.tick }).sliceCheck.watchdogCheck.preemptCheck
  else u

/-- SINGLE_STEP after an instruction that retired at user level with no user handler active (R286); SEPC is the next
PC. -/
def State.singleStep (s t : State) : State :=
  if t.retired && s.lc.trap.step && !s.super && !s.lc.trap.uh && t.lc.status == .resident && t.lc.key == s.lc.key then
    t.takeTrap (t.report .singleStep 0) false
  else t

/-! ### What the machine does beside the LC in focus, when the model follows the streams in order (log 3) -/

/-- The resident LC that has been out of focus longest. -/
def State.nextResident (s : State) : Option Lc := s.lcs.reverse.find? (·.status == .resident)

/-- One thing that other parties have to do: a yield, a completion, the intake, an offer; or the next resident LC has
its turn. -/
def State.otherWork (s : State) : State :=
  match s.lcYield with
  | some (.ok t) => t
  | some (.error (.trap r)) => s.takeTrap r false
  | some (.error (.trapIn t r)) => t.takeTrap r false
  | some (.error _) => s
  | none => match s.dev.tasks.find? s.taskDone with
    | some t => s.completeTask t.seq
    | none => match s.intake with
      | some t => t
      | none => match (List.range 64).findSome? s.offerCore with
        | some t => t
        | none => match s.nextResident with
          | some l => s.focus l.key
          | none => s

/-! ### Event rows: intake, completion, offers, counts -/

/-- LAUNCH_INTAKE (R50). -/
def execLaunchIntake (s : State) : Out := .next (s.intake.getD s)
/-- TASK_COMPLETION (R32). -/
def execTaskCompletion (task : Nat) (s : State) : Out := .next (s.completeTask task)
/-- PARTITION_OFFER (R52): of a partition that is free. -/
def execPartitionOffer (core part : Nat) (s : State) : Out :=
  .next (if core < 64 && part < 8 && (s.residentOn core part).isNone then (s.offerCore core).getD s else s)
/-- LC_YIELD (R63), of the LC in focus. -/
def execLcYield (s : State) : Out := s.finish (s.lcYield.getD (.ok s))
/-- SLICE_EXPIRED (R65), of the LC in focus. -/
def execSliceExpired (s : State) : Out := .next (if s.lc.status == .resident then s.sliceCheck else s)
/-- PREEMPT_REQUEST (R66), of the core in focus. -/
def execPreemptRequest (s : State) : Out := .next s.preemptCheck
/-- PROGRESS_WATCHDOG (R67), of the LC in focus. -/
def execProgressWatchdog (s : State) : Out := .next (if s.lc.status == .resident then s.watchdogCheck else s)

/-- COUNTER_OVERFLOW (R83): a counter that stands at 2^48 − 1 counts one more event. -/
def State.counterWrap (s : State) (n : Nat) : State :=
  let sel := s.lc.pcsel[n]?.getD 0
  if sel.getLsbD 16 && s.lc.pcval[n]?.getD 0 == BitVec.allOnes 48 then
    let l := { s.lc with pcval := s.lc.pcval.setIfInBounds n 0 }
    { s with lc := if sel.getLsbD 17 then l.raiseAsync .counterOverflow (BitVec.ofNat 64 n) else l }
  else s

/-- COUNTER_OVERFLOW (R83). -/
def execCounterOverflow (n : BitVec 3) (s : State) : Out := .next (s.counterWrap n.toNat)
/-- STRIP_DISPENSE (R39). -/
def execStripDispense (s : State) : Out := .next s.stripDispense
/-- TRAP_DELIVERY (R271), at the boundary of the LC in focus. -/
def execTrapDelivery (s : State) : Out :=
  .next (if s.lc.status == .resident then s.boundary.getD s else s)

/-! ### Event rows: the lane groups (R55, R56) -/

/-- A partition that competes for slots: number, Rem, credit, age, weight, and the slots it has received. -/
structure Contender where
  part : Nat
  rem : Nat
  credit : Nat
  age : Nat
  w : Nat
  got : Nat
  deriving DecidableEq, Repr

/-- A slot for a contender, charged or not. -/
def Contender.issue (c : Contender) (charge : Nat) : Contender :=
  { c with rem := c.rem - 1, credit := c.credit - charge, got := c.got + 1 }

/-- The better of two by least Rem, then greatest age, then lowest number; the list is in ascending number. -/
def Contender.before (a b : Contender) : Bool := decide (a.rem < b.rem) || (a.rem == b.rem && decide (b.age ≤ a.age))

/-- The best contender with a property. -/
def bestOf (ok : Contender → Bool) : List Contender → Option Contender
  | [] => none
  | c :: r => match bestOf ok r with
    | none => if ok c then some c else none
    | some b => if ok c && c.before b then some c else some b

/-- One slot to a contender of a list. -/
def giveSlot (l : List Contender) (p charge : Nat) : List Contender :=
  l.map (fun c => if c.part = p then c.issue charge else c)

/-- Aged heads in descending age, then ascending number. -/
def agedOrder (l : List Contender) : List Nat :=
  (l.filter (fun c => decide (248 ≤ c.age))).mergeSort (fun a b => decide (b.age ≤ a.age)) |>.map (·.part)

/-- Steps 2 and 3 of R56: slots by share, then the leftover ones without charge. -/
def dealSlots (wsum : Nat) : Nat → List Contender → List Contender
  | 0, l => l
  | n + 1, l =>
    match bestOf (fun c => decide (wsum ≤ c.credit) && decide (0 < c.rem)) l with
    | some c => dealSlots wsum n (giveSlot l c.part wsum)
    | none => match bestOf (fun c => decide (0 < c.rem)) l with
      | some c => dealSlots wsum n (giveSlot l c.part 0)
      | none => l

/-- One core cycle of the arbiter (R56) over the issuable heads, in ascending number. -/
def arbitrate (l : List Contender) : List Contender :=
  let wsum := (l.map (·.w)).sum
  let l := l.map (fun c => { c with credit := min (c.credit + 8 * c.w) (8 * wsum), got := 0 })
  let aged := agedOrder l
  let l := aged.foldl (fun l p => giveSlot l p wsum) l
  let l := dealSlots wsum (8 - aged.length) l
  let issued := (l.map (·.got)).sum
  l.map (fun c => { c with age := if c.got = 0 then c.age + issued else 0 })

/-- A matrix instruction at the head moves into an empty pending slot (R58). -/
def State.toMatrix (s : State) : State :=
  match s.part.vqueue, s.part.mslot with
  | e :: _, none =>
    match e.mat with
    | some _ => if s.vStopped || s.headWaits e || !s.owns then s
      else { s with part := { s.part.vacate with
        vqueue := s.part.vqueue.tail, mslot := some ⟨e, s.start e, false⟩ } }
    | none => s
  | _, _ => s

/-- Requests that a core may have outstanding (R55). -/
def requestCap : Nat := 1024

/-- The requests of a core's LCs that have no answer yet. -/
def State.outstanding (s : State) (core : Nat) : Nat :=
  (s.dev.hostReqs.filter (fun r => r.answer.isNone && r.record.isNone && (s.findLc r.who).any (fun l => l.core == core))).length

/-- The head of the vector queue of the partition in focus, if nothing but its inputs keeps it from issuing (R55). -/
def State.headReady (s : State) : Option VEntry :=
  match s.part.vqueue with
  | [] => none
  | e :: _ =>
    if s.lc.status == .resident && !s.vStopped && !s.headWaits e && (s.owns || !e.vector) && e.mat.isNone
        && (e.extent == .none || decide (s.outstanding s.part.core < requestCap)) then some e else none

/-- The head when it is issuable (R55): what its next element group reads is there. -/
def State.issuable (s : State) : Option VEntry :=
  s.headReady.filter (fun e => s.part.done || (match s.runSlot e (s.remOf e) with
    | .error (.block _) => false
    | _ => true))

/-- A head that waits for an input has asked for it. -/
def State.await (s : State) : State :=
  match s.headReady with
  | none => s
  | some e => if s.part.done then s else match s.runSlot e (s.remOf e) with
    | .error (.block t) => t
    | _ => s

/-- One element group of the head issues, or a head with none retires (R55, R56): the last one completes the instruction,
and a fault becomes its report (R270). -/
def State.issueSlot (s : State) : State :=
  match s.part.vqueue with
  | [] => s
  | e :: _ =>
    let rem := s.remOf e
    let after (t : State) (done : Bool) : State :=
      if rem ≤ 1 then t.vpop.count 2 rem
      else ({ t with part := { t.part with rem := some (rem - 1), done := done } }).count 2 1
    if s.part.done then after s true
    else match s.runSlot e rem with
      | .ok t => after t (!e.stepwise)
      | .error (.block t) => t
      | .error (.fault t r) => (t.vstall e r).count 2 (min rem 1)

/-- `n` element groups of the head. -/
def State.issueSlots : Nat → State → State
  | 0, s => s
  | n + 1, s => State.issueSlots n s.issueSlot

/-- The partition in focus after a cycle in which its head was issuable: its slots, or its retirement with none to
issue. -/
def State.applySlots (s : State) (c : Contender) : State :=
  State.issueSlots (if c.rem + c.got = 0 then 1 else c.got) { s with part := { s.part with credit := c.credit, age := c.age } }

/-- The contender a partition of a core is, if its head is issuable. -/
def State.contender (s : State) (core n : Nat) : Option Contender :=
  let t := s.turnTo core n
  t.issuable.map (fun e => ⟨n, t.remOf e, t.part.credit, t.part.age, t.prioOf t.lc, 0⟩)

/-- One core cycle of the lane groups of a core (R56). -/
def State.laneCycle (s : State) (core : Nat) : State :=
  let s := (List.range 8).foldl (fun (s : State) n => (s.turnTo core n).toMatrix.await) s
  let run := arbitrate ((List.range 8).filterMap (s.contender core))
  (List.range 8).foldl (fun (s : State) n =>
    let t := s.turnTo core n
    match run.find? (·.part == n) with
    | some c => t.applySlots c
    | none => { t with part := { t.part with credit := 0, age := 0 } }) s

/-- The state with the LC and the partition of another state in focus again. -/
def State.backTo (t s : State) : State :=
  if s.lc.status == .absent || s.lc.status == .exited then t.turnTo s.part.core s.part.no else t.focus s.lc.key

/-- LANE_ARBITRATION (R56), of the core in focus. -/
def execLaneArbitration (s : State) : Out := .next ((s.laneCycle s.core.no).backTo s)

/-! ### Event rows: the matrix unit (R58, R245) -/

/-- FIRST_BAND_START (R245): the pending instruction of the partition in focus may start. -/
def execFirstBandStart (s : State) : Out :=
  .next { s with part := { s.part with mslot := s.part.mslot.map (fun m => { m with started := true }) } }

/-- The next band of the matrix instruction in the slot of the partition in focus. -/
def State.nextBand (s : State) (m : MSlot) : VRun :=
  match m.entry.mat with
  | none => .ok s
  | some o =>
    if m.entry.bands o ≤ m.band then .ok s else s.runBand m.entry o m.band

/-- The matrix instruction of the partition in focus after a band: it leaves with its last one. -/
def State.bandDone (s : State) (m : MSlot) : State :=
  let last := (m.entry.mat.map (fun o => decide (m.entry.bands o ≤ m.band + 1))).getD true
  if last then ({ s with part := { s.part with mslot := none, bcredit := 0 } }).vdone
  else { s with part := { s.part with mslot := some { m with band := m.band + 1 } } }

/-- The partitions of a core with a pending matrix instruction, with their weights (R58). -/
def State.pendingBands (s : State) (core : Nat) : List (Part × Nat) :=
  (List.range 8).filterMap (fun n =>
    let t := s.turnTo core n
    if (t.part.mslot.map (·.started)).getD false && t.lc.status == .resident then some (t.part, t.prioOf t.lc) else none)

/-- A fault of the next band of the matrix instruction of the partition in focus becomes its report (R270, R363). -/
def State.reportBand (s : State) : Option State :=
  match s.part.mslot with
  | some m => match s.nextBand m with
    | .error (.fault t r) =>
      if !m.started then none
      else
        let u := t.stalls m.entry r
        some { u with part := { u.part with mslot := none, bcredit := 0 } }
    | _ => none
  | none => none

/-- The partition with the greatest bcredit, the lowest of equals. -/
def mostCredit : List (Part × Nat) → Option (Part × Nat)
  | [] => none
  | p :: r => match mostCredit r with
    | some q => if p.1.bcredit + (p.2 : Int) < q.1.bcredit + (q.2 : Int) then some q else some p
    | none => some p

/-- One row band of the matrix unit of a core (R58). -/
def State.matrixBand (s : State) (core : Nat) : State :=
  let ps := s.pendingBands core
  match mostCredit ps with
  | none => s
  | some q =>
    let wsum := (ps.map (·.2)).sum
    let s := ps.foldl (fun (s : State) p =>
      let now := s.findPart core p.1.no
      s.setPart { now with bcredit := now.bcredit + (p.2 : Int) - (if p.1.no = q.1.no then (wsum : Int) else 0) }) s
    let t := s.turnTo core q.1.no
    match t.part.mslot with
    | some m => match t.nextBand m with
      | .ok u => u.bandDone m
      | .error _ => t.reportBand.getD t
    | none => t

/-- MATRIX_BAND_COMPLETE (R58), of the core in focus. -/
def execMatrixBandComplete (s : State) : Out := .next ((s.matrixBand s.core.no).backTo s)

/-! ### Event rows: reports of the streams, the stack units -/

/-- A fault of the head of the vector queue becomes its report (R270, R287). -/
def State.reportHead (s : State) : State :=
  match s.part.vqueue with
  | [] => s
  | e :: _ =>
    if s.headWaits e || e.mat.isSome || s.part.done then s
    else if !s.owns && e.vector then s.vunowned e
    else match s.runSlot e (s.remOf e) with
    | .error (.fault t r) => (t.vstall e r).count 2 (s.issuedAt e r)
    | _ => s

/-- STREAM_TRAP_REPORT (R270), of the partition in focus. -/
def execStreamTrapReport (s : State) : Out :=
  .next (if s.vStopped || s.lc.status != .resident then s else s.reportBand.getD s.reportHead)

/-! ### The lanes of an SVU (R60) -/

/-- Whether the next move of the context of the LC in focus executes an instruction, and not only a loop's bookkeeping. -/
def State.kReady (s : State) : Bool :=
  match s.lc.ctx with
  | none => false
  | some c =>
    (match c.buf[c.pos]? with
      | some e => !(e.op == .skloop || e.op == .skend || c.silent)
      | none => s.lc.kqueue.head?.any (fun e => (c.arrive e).isNone)) && s.kstep.isSome

/-- Where the round of an SVU's contexts goes on. -/
def Device.servedNext (d : Device) (stack svu : Nat) : Nat :=
  ((d.served.find? (fun x => x.stack == stack && x.svu == svu)).map (·.ctx + 1)).getD 0

/-- Whether the lanes of an SVU serve a context next: the first one after the context served last that has an instruction
ready to execute. -/
def State.ctxTurn (s : State) (u : CtxUse) : Bool :=
  let ready (n : Nat) : Bool := s.dev.ctxUses.any (fun x =>
    x.stack == u.stack && x.svu == u.svu && x.ctx == n && (s.findLc x.owner).isSome && (s.focus x.owner).kReady)
  roundFrom 32 (s.dev.servedNext u.stack u.svu) ready == some u.ctx

/-- The lanes of an SVU have served a context. -/
def Device.serve (d : Device) (u : CtxUse) : Device :=
  { d with served := ⟨u.stack, u.svu, u.ctx⟩ :: d.served.filter (fun x => !(x.stack == u.stack && x.svu == u.svu)) }

/-- The next move of the context of the LC in focus, when the lanes serve it. -/
def State.kserve (s : State) : Option State :=
  if !s.kReady then s.kstep
  else match s.dev.ctxUses.find? (fun u => u.owner == s.lc.key) with
  | none => none
  | some u => if s.ctxTurn u then s.kstep.map (fun t => { t with dev := t.dev.serve u }) else none

/-- STACK_CONTEXT_EXECUTE (R60): the context of the LC in focus executes its next instruction, unless that faults:
DEFERRED_TRAP_REPORT reports the fault. -/
def execStackContextExecute (s : State) : Out :=
  .next (match s.kserve with
    | some t => if t.lc.kreport.isSome then s else t
    | none => s)

/-- DEFERRED_TRAP_REPORT (R208). -/
def execDeferredTrapReport (s : State) : Out :=
  .next (match s.kserve with
    | some t => if t.lc.kreport.isSome then t else s
    | none => s)

/-- CONTEXT_GRANT (R59). -/
def execContextGrant (stack svu : Nat) (s : State) : Out := .next (s.contextGrant stack svu)
/-- ADDRESS_STREAM_GENERATE (R200). -/
def execAddressStreamGenerate (j : BitVec 2) (s : State) : Out := .next ((s.generate j).getD s)

end Sys2Proof.Machine
end

