-- ==== Sys2Proof/Machine/Units.lean ====
section
/-! DEFINITION. Units.lean: the event rows of the units outside the scalar unit: translation and expansion (R153, R302,
R303), the scatter-add units (R203, R204), copy channels and reductions (R162, R165), monitors (R185), the bank
sequencers and pin slots (R61, R215 to R228), refresh and patrol scrubbing (R187, R220), the loss of a context (R207,
R275) and what peers of the pod do (R318). -/

namespace Sys2Proof.Machine

/-! ### Translation (R153, R302 to R304) -/

/-- PAGE_EXPANSION (R153): the page of an address of the LC in focus, if it is compressed and can be expanded; a failure is
met by the access that touches it. -/
def execPageExpansion (va : Dword) (s : State) : Out :=
  .next (match s.dev.expand (s.space s.super) va with
    | (d, none) => { s with dev := d }
    | (_, some _) => s)

/-- Whether a space holds a translation of an address. -/
def Space.holds (x : Space) (va : Dword) : Bool := (x.tlb.findSome? (fun t => t.leaf? x.asid va.toNat)).isSome

/-- The pointers that a walk of an address reads are held by the pool that made it (R304). -/
def Device.fillPtrs (d : Device) (x : Space) (pool : Option Nat) (va : Dword) (pick : Nat) : Device :=
  { d with ptrs := (d.walkPtrs x pool va.toNat).foldl (ptrFill pick) d.ptrs }

/-- A walk for the core in focus fills its TLB and the central pool (R302, R304); an address whose translation the TLB
holds is not walked. -/
def State.coreWalk (s : State) (va : Dword) : State :=
  let x := s.space s.super
  let pick := Config.choice s.tick
  if x.holds va || inWindow va then s
  else
    let t := { s with dev := s.dev.fillPtrs x none va pick }
    match s.dev.walkEntry x va with
    | none => t
    | some e => { t with core := { t.core with tlb := tlbFill pick t.core.tlb e } }

/-- A walk for the bound context of the LC in focus fills the TLB of its SVU, in the address space captured at SKBIND, and the
pool of its base die (R303, R304). -/
def State.baseWalk (s : State) (va : Dword) : State :=
  let x := s.ctxSpace s.super
  let pick := Config.choice s.tick
  let h := s.ctxHome
  if s.lc.ctx.isNone || x.holds va || inWindow va then s
  else
    let d := s.dev.fillPtrs x (some h.1) va pick
    match s.dev.walkEntry x va with
    | none => { s with dev := d }
    | some e => { s with dev := { d with baseTlb := baseFill pick d.baseTlb ⟨h.1, h.2, e⟩ } }

/-- PAGE_TABLE_WALK (R301 to R304): a walk of an address for the core in focus, and for the context of its LC. -/
def execPageTableWalk (va : Dword) (s : State) : Out := .next ((s.coreWalk va).baseWalk va)

/-! ### Scatter-add units (R203, R204) -/

/-- Whether an update may reach its unit before the others that `before` lists: none of its own LC goes to the same unit, and
with K = 1 none belongs to its instruction (R173, R182, R203). -/
def ScUpdate.free (u : ScUpdate) (before : List ScUpdate) : Bool :=
  before.all (fun v => v.who != u.who || (unitChan v.pa != unitChan u.pa && !(u.k && v.no == u.no)))

/-- The updates that may arrive next: their units can take them. -/
def Device.arrivals (d : Device) : List ScUpdate → List ScUpdate → List ScUpdate
  | _, [] => []
  | before, u :: r =>
    (if u.free before && d.takes u.pa then [u] else []) ++ d.arrivals (before ++ [u]) r

/-- The next update to reach a unit; the spec gives no order among those of different LCs (R203, log 87). -/
def Device.nextArrival (d : Device) (pick : Nat) : Option ScUpdate :=
  let l := d.arrivals [] d.scUpdates
  l[pick % l.length]?

/-- SCATTER_ADD_ARRIVAL (R203): an update joins or opens an entry. -/
def Device.scatterArrival (d : Device) (pick : Nat) : Device :=
  match d.nextArrival pick with
  | none => d
  | some u => ({ d with scUpdates := d.scUpdates.erase u }).join u

/-- SCATTER_ADD_ARRIVAL. -/
def execScatterAddArrival (s : State) : Out := .next { s with dev := s.dev.scatterArrival (Config.choice s.tick) }
/-- SCATTER_OLD_VALUE. -/
def execScatterOldValue (granule : Nat) (s : State) : Out := .next { s with dev := s.dev.scatterOld granule }
/-- SCATTER_IDLE_WRITE_BACK (R203): of an entry with no update still to apply. -/
def execScatterIdleWriteBack (granule : Nat) (s : State) : Out :=
  .next (if s.dev.combines.any (fun c => c.granule == granule && c.idle) then { s with dev := s.dev.giveBack granule } else s)
/-- SCATTER_RECALL (R204). -/
def execScatterRecall (granule : Nat) (s : State) : Out := .next { s with dev := s.dev.giveBack granule }

/-! ### Copy channels, reductions, monitors -/

/-- COPY_TRANSFER_STEP (R165), of a channel of the LC in focus. -/
def execCopyTransferStep (h : BitVec 2) (s : State) : Out := .next (s.copyStep h).1
/-- XRED_CONTRIBUTION_ARRIVAL (R162). -/
def execXredContributionArrival (s : State) : Out := .next s.contribute

/-- MONITOR_WAKE (R185): the MWAIT of the LC in focus, whose monitor a write has reached, goes on. -/
def execMonitorWake (s : State) : Out :=
  if s.lc.status == .resident && s.dev.monitors.any (fun m => m.who == s.lc.key && m.got.isSome) then
    match s.fetch with
    | .ok t => match decode t.ir with
      | .ok (.mwait d a b) => t.finish (t.mwait d a b)
      | _ => .next s
    | .error _ => .next s
  else .next s

/-! ### Bank sequencers and pin slots -/

/-- A slot named by its place. -/
def State.slotAt (s : State) (stack chan bank slot : Nat) : Slot := s.dev.slotOf ⟨stack, chan, bank, slot % 4 * 8192⟩

/-- BANK_ADMISSION (R61). -/
def execBankAdmission (stack : Nat) (s : State) : Out := .next (s.bankAdmit stack)
/-- WAVE_PROBE (R227). -/
def execWaveProbe (s : State) : Out := .next (s.waveProbe.getD s)
/-- WAVE_ROW_STEP (R228). -/
def execWaveRowStep (stack unit : Nat) (s : State) : Out := .next (s.waveRowStep stack unit)
/-- WAVE_RESUME (R228). -/
def execWaveResume (stack unit : Nat) (s : State) : Out := .next (s.waveResume stack unit)
/-- SUBWAVE_COMPLETE (R61). -/
def execSubwaveComplete (stack unit : Nat) (s : State) : Out := .next (s.subwaveComplete stack unit)
/-- BKOP_COMPLETE (R336). -/
def execBkopComplete (stack unit : Nat) (s : State) : Out := .next (s.bkopComplete stack unit)
/-- ROW_PIN_GRANT (R216). -/
def execRowPinGrant (s : State) : Out := .next (s.pinGrant.getD s)
/-- PIN_OPENED (R215). -/
def execPinOpened (stack chan bank slot : Nat) (s : State) : Out := .next (s.pinOpened (s.slotAt stack chan bank slot))
/-- PIN_RELEASED (R218). -/
def execPinReleased (stack chan bank slot : Nat) (s : State) : Out :=
  .next ((s.pinReleased (fun l => l.stack == stack && l.chan == chan && l.bank == bank && rowSlot l.row == slot)).getD s)
/-- SLOT_FREED (R215). -/
def execSlotFreed (stack chan bank slot : Nat) (s : State) : Out := .next (s.slotFreed (s.slotAt stack chan bank slot))

/-- BANK_REFRESH (R220): pinned rows of a bank enter Closed; `pc` is the pseudo-channel. -/
def execBankRefresh (stack chan pc bank : Nat) (s : State) : Out :=
  .next { s with dev := s.dev.closeSlots (fun x => x.stack == stack && x.chan == chan && x.bank == 32 * pc + bank) }

/-! ### Patrol scrubbing (R187, R275) -/

/-- Whether a granule lies in a bank-held row (R179): one that is pinned, or in a bank where a command runs. -/
def State.bankHeld (s : State) (granule : Nat) : Bool :=
  let pa := 64 * granule
  let l := paLine pa
  let x := s.dev.slotOf l
  decide (pa < hbmSize) && ((x.row == l.row && (x.st == .opening || x.st == .pinned || x.st == .closed))
    || s.dev.seqs.any (fun c => !c.runs.isEmpty && c.namesBank l))

/-- An event that the management core logs (R267). -/
def Device.logCause (d : Device) (c : Cause) : Device := { d with mgmt := { d.mgmt with log := d.mgmt.log ++ [c] } }

/-- PATROL_SCRUB_READ (R187): a correction is held for the write-back; an uncorrectable granule is poisoned (R275). -/
def State.scrubRead (s : State) (granule : Nat) (correctable uncorrectable : Bool) : State :=
  if s.bankHeld granule || hbmSize ≤ 64 * granule then s
  else if uncorrectable || s.dev.memError.contains granule then
    -- the marking reaches a monitor (R366)
    let d := { s.dev.poison granule with memError := s.dev.memError.filter (· != granule) }
    { s with dev := (d.wake granule granule).logCause .scrubUncorrectable }
  else if correctable then
    { s with dev := { s.dev.logCause .scrubCorrected with scrubs := addOnce s.dev.scrubs granule } }
  else s

/-- PATROL_SCRUB_READ. -/
def execPatrolScrubRead (granule : Nat) (correctable uncorrectable : Bool) (s : State) : Out :=
  .next (s.scrubRead granule correctable uncorrectable)
/-- SCRUB_WRITE_BACK (R187): it writes what the granule holds, unless a demand write has cancelled it. -/
def execScrubWriteBack (granule : Nat) (s : State) : Out :=
  .next { s with dev := { s.dev with scrubs := s.dev.scrubs.filter (· != granule) } }

/-! ### The loss of a context (R207, R275) -/

/-- The report of a lost binding: the oldest instruction that was discarded or interrupted, or the boundary when there
is none. -/
def State.lostReport (s : State) : TrapRec :=
  match s.lc.kOutstanding.find? (fun e => !e.mark) with
  | some e => { e.report .remoteStackUnreachable 0 with deferred := true, faddr := 0, pages := [] }
  | none => { ({ s with ir := 0 }).report .remoteStackUnreachable 0 with deferred := true, faddr := 0, pages := [] }

/-- The LC in focus loses its context. -/
def State.loseBinding (s : State) : State :=
  match s.lc.ctx with
  | none => s
  | some _ =>
    let r := s.lostReport
    let t := s.dropK
    { t with
      lc := { t.lc with kreport := some r }
      dev := { t.dev with ctxUses := t.dev.ctxUses.filter (fun u => u.owner != s.lc.key) } }

/-- BINDING_LOST (R207), of the LC in focus. -/
def execBindingLost (s : State) : Out := .next s.loseBinding

/-- LCs lose their contexts one after another. -/
def State.loseBindings (s : State) (owners : List LcKey) : State :=
  (owners.foldl (fun (t : State) k => if (t.findLc k).isSome then (t.focus k).loseBinding else t) s).backTo s

/-- STACK_UNIT_FAIL (R275): every LC bound at the SVU loses its context. -/
def State.unitFail (s : State) (stack svu : Nat) : State :=
  let owners := (s.dev.ctxUses.filter (fun u => u.stack == stack && u.svu == svu)).map (·.owner)
  let u := s.loseBindings owners
  { u with dev := { u.dev.logCause .stackUnitFail with
      ctxUses := u.dev.ctxUses.filter (fun x => !(x.stack == stack && x.svu == svu)) } }

/-- STACK_UNIT_FAIL. -/
def execStackUnitFail (stack svu : Nat) (s : State) : Out := .next (s.unitFail stack svu)

/-! ### Peers of the pod (R318) -/

/-- Granules that a range of bytes touches. -/
def granuleRange (pa n : Nat) : List Nat := (List.range ((pa + n - 1) / 64 + 1 - pa / 64)).map (pa / 64 + ·)

/-- A read by another agent, after the recalls it makes (R204): the data and whether it is poisoned; an uncorrectable granule
is marked poisoned (R283). -/
def Device.agentRead (d : Device) (pa n : Nat) : Device × List Byte × Bool :=
  let d := d.settle pa n
  let gs := granuleRange pa n
  let bad := gs.filter (fun g => d.memError.contains g || d.l2Error.contains g)
  let d := bad.foldl Device.poison { d with
    memError := d.memError.filter (fun g => !bad.contains g), l2Error := d.l2Error.filter (fun g => !bad.contains g) }
  (d, (List.range n).map (fun i => Memory.get d.mem (pa + i)), gs.any d.memPoison.contains)

/-- Whether `n` bytes from an offset of a peer's request lie in HBM that is not degraded. -/
def Device.serves (d : Device) (off n : Nat) : Bool :=
  n != 0 && decide (off + n ≤ hbmSize) && !(d.stack (homeStack off)).degraded

/-- Whether a read or a write is of a size that is used (R318): 64 to 256 bytes. -/
def uaSize (n : Nat) : Bool := decide (64 ≤ n) && decide (n ≤ 256)

/-- What an LC of a peer is named by here: no task of the device has such a number. -/
def remoteKey (src lc : Nat) : LcKey := ⟨2 ^ 64 + src, lc⟩

/-- An update of an atomic at its home slice. -/
def Device.agentAmo (d : Device) (o : AmoOp) (n off : Nat) (x c : Dword) : Device :=
  let (d, bs, p) := d.agentRead off n
  let d := { d with peerAnswers := d.peerAnswers ++ [(bs, p)] }
  match amoNew o n (ofBytes bs) (x.toNat % 2 ^ (8 * n)) (c.toNat % 2 ^ (8 * n)) with
  | some v => d.writeP off n v p
  | none => d

/-- A peer's transaction is served whole (R318): memory accesses at the home slice, binds at the SVU in their order of
arrival (R59); what else the receive window carries, in a form the spec does not give, is kept for the unit it addresses
(log 88). -/
def Device.peer (d : Device) (t : UaTrans) : Device :=
  match t with
  | .read off n =>
    if !uaSize n || !d.serves off n then d
    else
      let (d, bs, p) := d.agentRead off n
      { d with peerAnswers := d.peerAnswers ++ [(bs, p)] }
  | .write off bs => if !uaSize bs.length || !d.serves off bs.length then d else d.writeAt off bs.length (ofBytes bs) false
  | .amo o z off x c => if !d.serves off (szBytes z) || off % szBytes z != 0 then d else d.agentAmo o (szBytes z) off x c
  | .bind src lc stack svu =>
    if stack < 12 && svu < 16 then { d with binds := d.binds ++ [⟨remoteKey src lc, stack, svu, none⟩] } else d
  | .unbind src lc => d.dropLcs (· == remoteKey src lc)
  | .walk off =>
    if !d.serves off 8 || off % 8 != 0 then d
    else
      let (d, bs, p) := d.agentRead off 8
      { d with peerAnswers := d.peerAnswers ++ [(bs, p)] }
  | .receive src bs => { d with received := d.received ++ [(src, bs)] }

/-- UALINK_TRANSACTION_ARRIVAL (R318): a bind takes a context that is free at once, when the model follows the streams in
order (log 3). -/
def execUalinkTransactionArrival (t : UaTrans) (s : State) : Out :=
  let u := { s with dev := s.dev.peer t }
  .next (match t with
    | .bind _ _ stack svu => if s.runAhead then u else u.contextGrant stack svu
    | .read _ _ | .write _ _ | .amo _ _ _ _ _ | .unbind _ _ | .walk _ | .receive _ _ => u)

end Sys2Proof.Machine
end

