-- ==== Sys2Proof/Machine/HostIf.lean ====
section
/-! DEFINITION. HostIf.lean: the event rows of the host interface: launch ports and function registers (R309, R311,
R312), function-level reset (R314), the device-memory window (R310), host requests (R308) and the PCI Express link
(R315). -/

namespace Sys2Proof.Machine

/-! ### Launch ports (R311, R312) -/

/-- A commit (R312): the packet as it stands, with zero from byte 0xF0 on; REASON 11 until the device is ready
(R320). -/
def Port.commit (p : Port) (ready : Bool) : Port :=
  if p.st == .busy then p
  else if !ready then { p with st := .rejected, reason := 11, taskid := 0 }
  else { p with st := .busy, reason := 0, taskid := 0, packet := p.bytes.setWidth 2048 }

/-- LAUNCH_PORT_COMMIT (R312). -/
def execLaunchPortCommit (fn : Nat) (p : BitVec 6) (s : State) : Out :=
  .next (if 32 ≤ fn then s
    else
      let f := s.dev.func fn
      { s with dev := s.dev.setFunc (f.setPort ((f.port p).commit (s.dev.boot == .ready))) })

/-- A write of `n` packet bytes, at most 8 (R311, R312): bytes from 0xF0 on, and a busy port, are left as they are. -/
def Port.write (p : Port) (off : BitVec 8) (n : Nat) (v : Dword) : Port :=
  if p.st == .busy then p
  else
    let w := 8 * min n 8
    let m : BitVec 1920 := (BitVec.ofNat 64 (2 ^ w - 1)).setWidth 1920 <<< (8 * off.toNat)
    { p with bytes := (p.bytes &&& ~~~m) ||| ((BitVec.ofNat 64 (v.toNat % 2 ^ w)).setWidth 1920 <<< (8 * off.toNat)) }

/-- The port status (R311). -/
def Port.status (p : Port) : Dword :=
  let st := match p.st with
    | .idle => 0 | .busy => 1 | .accepted => 2 | .rejected => 3
  let rejected := p.st == .rejected
  at_ st 62 ||| (if rejected then at_ Cause.launchPacketInvalid.code 55 ||| at_ p.reason 48 else 0) ||| p.taskid.setWidth 64

/-- The 8 bytes that a read of a launch port returns (R311): packet bytes as last written, the stamp, the status. -/
def Port.read (p : Port) (off : Nat) : Dword :=
  if off < 0xF0 then BitVec.ofNat 64 (p.bytes.toNat >>> (8 * (off / 8 * 8)))
  else if off < 0xF8 then p.stamp
  else p.status

/-- LIVE (R309): the live tasks of a function. -/
def Device.live (d : Device) (fn : Nat) : Nat := (d.tasks.filter (·.fn == fn)).length

/-- The 8 bytes that a host read at an offset of BAR0 returns below the management block (R309): the ports and the function
registers. -/
def Device.readFunction (d : Device) (fn off : Nat) : Dword :=
  let f := d.func fn
  if off < 0x4000 then (f.port (BitVec.ofNat 6 (off / 256))).read (off % 256)
  else match off / 8 * 8 with
  | 0x4000 => f.fstatus.setWidth 64
  | 0x4008 => f.launchpt.setWidth 64
  | 0x4010 => f.launchasid.setWidth 64
  | 0x4018 => BitVec.ofNat 64 (d.live fn)
  | 0x4028 => f.hwbase.setWidth 64
  | _ => 0

/-! ### Ends of tasks from the host (R309, R314) -/

/-- KILL_WRITE (R309). -/
def execKillWrite (fn : Nat) (id : BitVec 32) (s : State) : Out :=
  .next (match s.dev.taskOf fn id with
    | some t => s.endTask t.seq 0
    | none => s)

/-- A function-level reset (R314): its tasks end and write no record, its ports are idle with every byte 0; the
physical function's releases host ownership (R315). -/
def State.resetFunction (s : State) (fn : Nat) : State :=
  let seqs := (s.dev.tasks.filter (·.fn == fn)).map (·.seq)
  let t := seqs.foldl (fun (s : State) q =>
    ({ s with dev := s.dev.updTask q ({ · with completion := 0 }) }).endTask q 0) s
  let f := t.dev.func fn
  let d := t.dev.setFunc { f with ports := [] }
  { t with dev := { d with mgmt := { d.mgmt with
      owner := if fn = 0 && d.mgmt.owner == some .host then none else d.mgmt.owner } } }

/-- FUNCTION_LEVEL_RESET (R314). -/
def execFunctionLevelReset (fn : Nat) (s : State) : Out := .next (if 32 ≤ fn then s else s.resetFunction fn)

/-- PCIE_LINK_LOSS (R315). -/
def execPcieLinkLoss (s : State) : Out :=
  .next { s with dev := { s.dev with mgmt := { s.dev.mgmt with
    owner := if s.dev.mgmt.owner == some .host then none else s.dev.mgmt.owner } } }

/-! ### The device-memory window (R310) -/

/-- Size of the window and of the largest request. -/
def windowSize : Nat := 2 ^ 40
def windowMax : Nat := 4096

/-- The space of a function's window: supervisor level, with the translations held for the windows. -/
def Device.windowSpace (d : Device) (f : Func) : Space := { d.central f.launchpt f.launchasid true with tlb := d.ioTlb }

/-- A walk for a window: its pointers and its translation are held (R304, R310). -/
def Device.windowFill (d : Device) (x : Space) (va : Dword) (pick : Nat) : Device :=
  if x.holds va then d
  else
    let d1 := d.fillPtrs x none va pick
    match d.walkEntry x va with
    | some e => { d1 with ioTlb := tlbFill pick d1.ioTlb e }
    | none => d1

/-- Where an address of the window lies: translated at supervisor level, expanded on the way; local HBM or a peer. -/
def Device.windowReach (d : Device) (f : Func) (k : Acc) (va pick : Nat) : Device × Option Nat :=
  let a : Dword := BitVec.ofNat 64 va
  if 2 ^ 57 ≤ va || inWindow a then (d, none)
  else
    let x := d.windowSpace f
    match d.fetchXl x k a with
    | (d1, .error _) => (d1, none)
    | (d1, .ok p) => (d1.windowFill x a pick, if paKind p.pa == .host then none else some p.pa)

/-- The pieces of a request, one for each page it crosses (R310): address and length. -/
def windowPieces (va n : Nat) : List (Nat × Nat) :=
  let room := 65536 - va % 65536
  if n ≤ room then [(va, n)] else [(va, room), (va + room, n - room)]

/-- The places of the pieces of a request, if every page can be reached. -/
def Device.windowPlaces (d : Device) (f : Func) (k : Acc) (pick : Nat) :
    List (Nat × Nat) → Device × Option (List (Nat × Nat))
  | [] => (d, some [])
  | p :: r => match d.windowReach f k p.1 pick with
    | (d, none) => (d, none)
    | (d, some pa) => match d.windowPlaces f k pick r with
      | (d, none) => (d, none)
      | (d, some l) => (d, some ((pa, p.2) :: l))

/-- FSTATUS.HWERR. -/
def Device.windowFails (d : Device) (fn : Nat) : Device :=
  let f := d.func fn
  d.setFunc { f with fstatus := f.fstatus ||| 8 }

/-- The pieces of a request for bytes of the window. -/
def Func.pieces (f : Func) (off n : Nat) : List (Nat × Nat) := windowPieces (f.hwbase.toNat + off) n

/-- A host read through the window (R310): the data, or Unsupported Request. -/
def Device.windowRead (d : Device) (fn off n pick : Nat) : Device :=
  let f := d.func fn
  match d.windowPlaces f .load pick (f.pieces off n) with
  | (d, none) =>
    let d := d.windowFails fn
    { d with windowAnswers := d.windowAnswers ++ [⟨fn, none, false⟩] }
  | (d, some l) =>
    let r := l.foldl (fun (a : Device × List Byte × Bool) p =>
      let x := a.1.agentRead p.1 p.2
      (x.1, a.2.1 ++ x.2.1, a.2.2 || x.2.2)) (d, [], false)
    { r.1 with windowAnswers := r.1.windowAnswers ++ [⟨fn, some r.2.1, r.2.2⟩] }

/-- The parts of `n` bytes at an address that are performed one after another (R310): within naturally aligned 8 bytes. -/
def windowParts (pa n : Nat) : List (Nat × Nat) :=
  (List.range ((pa + n + 7) / 8 - pa / 8)).map (fun i =>
    let lo := max pa (8 * (pa / 8 + i))
    (lo, min (pa + n) (8 * (pa / 8 + i) + 8) - lo))

/-- A clean write that covers granules whole clears their poison (R285). -/
def Device.clearCovered (d : Device) (pa n : Nat) : Device :=
  let keep (g : Nat) : Bool := !(decide (pa ≤ 64 * g) && decide (64 * g + 64 ≤ pa + n))
  { d with memPoison := d.memPoison.filter keep, memError := d.memError.filter keep, l2Error := d.l2Error.filter keep }

/-- The bytes of a request at their places; poisoned data poisons every granule it writes. -/
def Device.windowPut (d : Device) (poisoned : Bool) : List (Nat × Nat) → List Byte → Device
  | [], _ => d
  | p :: r, bs =>
    let d := (windowParts p.1 p.2).foldl (fun (d : Device) q =>
      d.writeAt q.1 q.2 (ofBytes ((bs.drop (q.1 - p.1)).take q.2)) poisoned) d
    let d := if poisoned then d else d.clearCovered p.1 p.2
    d.windowPut poisoned r (bs.drop p.2)

/-- A host write through the window (R310): performed, or dropped. -/
def Device.windowWrite (d : Device) (fn off : Nat) (bs : List Byte) (poisoned : Bool) (pick : Nat) : Device :=
  let f := d.func fn
  match d.windowPlaces f .store pick (f.pieces off bs.length) with
  | (d, none) => d.windowFails fn
  | (d, some l) => d.windowPut poisoned l bs

/-- Whether a request lies in the window and is of a size the window takes (R310). -/
def windowTakes (fn off n : Nat) : Bool := decide (fn < 32) && n != 0 && decide (n ≤ windowMax) && decide (off + n ≤ windowSize)

/-- HOST_WINDOW_READ (R310). -/
def execHostWindowRead (fn off bytes : Nat) (s : State) : Out :=
  .next (if windowTakes fn off bytes then { s with dev := s.dev.windowRead fn off bytes (Config.choice s.tick) } else s)
/-- HOST_WINDOW_WRITE (R310). -/
def execHostWindowWrite (fn off : Nat) (data : List Byte) (poisoned : Bool) (s : State) : Out :=
  .next (if windowTakes fn off data.length then { s with dev := s.dev.windowWrite fn off data poisoned (Config.choice s.tick) } else s)

/-! ### Host memory requests (R308) -/

/-- The oldest request without an answer. -/
def Device.openReq (d : Device) : Option HostReq := d.hostReqs.find? (·.answer.isNone)

/-- A request is answered (R308): a read gives its answer to the access that waits, and data received poisoned is
poisoned where it lies, granule by granule; a store that failed raises its cause at the LC's next fence, release or EXIT, and
a completion record that failed sets CWFAIL (R314). -/
def State.answerReq (s : State) (r : HostReq) (a : HostStatus) (poisoned : Bool) : State :=
  if r.store then
    let t := { s with dev := { s.dev with hostReqs := s.dev.hostReqs.erase r } }
    match hostCause a, r.record with
    | none, _ => t
    | some _, some fn => { t with dev := t.dev.recordFails fn }
    | some c, none => t.updLc r.who (fun l => { l with hostErr := l.hostErr.or (some (c, r.va)) })
  else
    let d := { s.dev with hostReqs := s.dev.hostReqs.map (fun (x : HostReq) => if x == r then { x with answer := some a } else x) }
    { s with dev := if poisoned then (granuleRange r.pa r.bytes).foldl Device.poison d else d }

/-- HOST_REQUEST_COMPLETION (R308), for the oldest open request. -/
def execHostRequestCompletion (a : HostStatus) (poisoned : Bool) (s : State) : Out :=
  .next (match s.dev.openReq with
    | some r => s.answerReq r a poisoned
    | none => s)

/-- COMPLETION_TIMEOUT (R308): as a Completer Abort, for the oldest open request. -/
def execCompletionTimeout (s : State) : Out :=
  .next (match s.dev.openReq with
    | some r => s.answerReq r .abort false
    | none => s)

end Sys2Proof.Machine
end

