-- ==== Sys2Proof/Machine/Mgmt.lean ====
section
/-! DEFINITION. Mgmt.lean: the event rows of management: ownership (R315, R316), the management block (R317), BNKLIM on
its way to the sequencers (R231), clocks, power and heat (R324, R325), links (R319), boot and recovery (R320 to R322). -/

namespace Sys2Proof.Machine

/-! ### Ownership (R315, R316) -/

/-- A bit of FSTATUS of the physical function: ROERR or VALERR (R309). -/
def Device.hostFlag (d : Device) (b : BitVec 4) : Device :=
  let f := d.func 0
  d.setFunc { f with fstatus := f.fstatus ||| b }

/-- A write of a claimant that is not owner is ignored and reported to it (R316): the board's NACK carries the code of
OWNERSHIP_READONLY. -/
def Device.refuse (d : Device) (c : Claimant) : Device :=
  match c with
  | .host => d.hostFlag 1
  | .board | .management =>
    { d with mgmt := { d.mgmt with refusals := d.mgmt.refusals ++ [(c, Cause.ownershipReadonly.code)] } }

/-- A value that is not accepted is ignored, and the host sees VALERR (R316). -/
def Device.badValue (d : Device) : Device := d.hostFlag 2

/-- The device with its management block changed. -/
def Device.setMgmt (d : Device) (f : Mgmt → Mgmt) : Device := { d with mgmt := f d.mgmt }

/-- What the owner does; any other claimant's write is refused. -/
def Device.asOwner (d : Device) (c : Claimant) (f : Device → Device) : Device :=
  if d.mgmt.owner == some c then f d else d.refuse c

/-- OWNERSHIP_CLAIM (R315): granted while no claimant owns the device. -/
def execOwnershipClaim (c : Claimant) (s : State) : Out :=
  .next { s with dev := if s.dev.mgmt.owner.isNone then s.dev.setMgmt ({ · with owner := some c })
    else s.dev.asOwner c (fun d => d) }
/-- OWNERSHIP_HANDOVER (R315). -/
def execOwnershipHandover (c heir : Claimant) (s : State) : Out :=
  .next { s with dev := s.dev.asOwner c (·.setMgmt ({ · with owner := some heir })) }
/-- OWNERSHIP_RELEASE (R315). -/
def execOwnershipRelease (c : Claimant) (s : State) : Out :=
  .next { s with dev := s.dev.asOwner c (·.setMgmt ({ · with owner := none })) }

/-! ### BNKLIM (R231, R317) -/

/-- Numbers of the stacks. -/
def stackNos : List Nat := List.range 12

/-- BNKLIM reaches the sequencer of a stack with no active unit, which is an admission point (R231); where units are active
it comes with the end of a wave row. -/
def State.bnklimArrives (s : State) (stack : Nat) : State :=
  if 12 ≤ stack || !(s.dev.busyUnits stack).isEmpty then s
  else ({ s with dev := s.dev.takeLimit stack }).bankAdmit stack

/-- A write of BNKLIM by its owner: it reaches at once every stack with no active unit (R231). -/
def State.writeBnklim (s : State) (c : Claimant) (v : Dword) : State :=
  let n := field v 0 10
  if s.dev.mgmt.owner != some c then { s with dev := s.dev.refuse c }
  else if n < 16 || 512 < n then { s with dev := s.dev.badValue }
  else
    let t := { s with dev := s.dev.setMgmt ({ · with bnklim := n }) }
    stackNos.foldl State.bnklimArrives t

/-- BNKLIM_WRITE (R317). -/
def execBnklimWrite (c : Claimant) (v : Dword) (s : State) : Out := .next (s.writeBnklim c v)
/-- BNKLIM_ARRIVAL (R231). -/
def execBnklimArrival (stack : Nat) (s : State) : Out := .next (s.bnklimArrives stack)

/-! ### Registers without a row of their own (R309, R311, R317, R322) -/

/-- Writes of ACTTH and PCAP by the owner (R317). -/
def Device.writePcap (d : Device) (c : Claimant) (v : Dword) : Device :=
  let n := field v 0 12
  d.asOwner c (fun d => if n < 600 || 2400 < n then d.badValue else d.setMgmt ({ · with pcap := n }))

/-- Bytes of the recovery window (R322). -/
def recoverySize : Nat := 2 ^ 24

/-- A byte of the recovery window: in recovery mode, while no verification runs (R322). -/
def Device.writeRecovery (d : Device) (off : Nat) (v : Dword) : Device :=
  if d.boot == .recovery && !d.mgmt.verifying && decide (off < recoverySize) then
    d.setMgmt (fun m => { m with recovery := Memory.put m.recovery off (v.setWidth 8) })
  else d

/-- MMIO_REGISTER_WRITE: the host's function registers, and the management registers of any claimant. -/
def Device.writeMmio (d : Device) (c : Claimant) (fn : Nat) (r : MmioReg) (v : Dword) : Device :=
  let f := d.func fn
  let own (g : Func) : Device := if c == .host && decide (fn < 32) then d.setFunc g else d
  match r with
  | .port p off n => own (f.setPort ((f.port p).write off n v))
  | .fstatus => own { f with fstatus := f.fstatus &&& ~~~(v.setWidth 4) }
  | .launchpt => own { f with launchpt := v.setWidth 52 &&& 0xF_FFFF_FFFF_0000 }
  | .launchasid => own { f with launchasid := v.setWidth 16 }
  | .hwbase => own { f with hwbase := v.setWidth 57 &&& 0x1FF_FFFF_FFFF_0000 }
  | .actth => if c == .host && fn != 0 then d else d.asOwner c (·.setMgmt ({ · with actth := v.setWidth 16 }))
  | .pcap => if c == .host && fn != 0 then d else d.writePcap c v
  | .recovery off => if c == .host && fn == 0 then d.writeRecovery off v else d

/-- MMIO_REGISTER_WRITE (R309). -/
def execMmioRegisterWrite (c : Claimant) (fn : Nat) (r : MmioReg) (v : Dword) (s : State) : Out :=
  .next { s with dev := s.dev.writeMmio c fn r v }

/-! ### Clocks, power, heat (R324, R325) -/

/-- A clock step of a core (R317, R324): it changes only time. -/
def State.writeClkstep (s : State) (c : Claimant) (core : Nat) (v : Dword) : State :=
  let n := field v 0 4
  if s.dev.mgmt.owner != some c then { s with dev := s.dev.refuse c }
  else if 12 < n then { s with dev := s.dev.badValue }
  else s.setCore { s.findCore core with step := BitVec.ofNat 4 n }

/-- CLKSTEP_WRITE (R324). -/
def execClkstepWrite (c : Claimant) (core : BitVec 6) (v : Dword) (s : State) : Out := .next (s.writeClkstep c core.toNat v)

/-- Numbers of the cores. -/
def coreNos : List Nat := List.range 64

/-- FLOOR of a core raised by one step, to at most 12. -/
def Core.raiseFloor (c : Core) : Core := { c with floor := if c.floor < 12 then c.floor + 1 else c.floor }

/-- FLOOR of a core lowered by one step. -/
def Core.lowerFloor (c : Core) : Core := { c with floor := if c.floor = 0 then c.floor else c.floor - 1 }

/-- FLOOR of the cores of a mask moves by one step. -/
def State.moveFloors (s : State) (cores : Dword) (up : Bool) : State :=
  (coreNos.filter cores.getLsbD).foldl (fun (s : State) n =>
    s.setCore (if up then (s.findCore n).raiseFloor else (s.findCore n).lowerFloor)) s

/-- The cores whose FLOOR can still be raised. -/
def State.floorRoom (s : State) : Dword :=
  (coreNos.filter (fun n => decide ((s.findCore n).floor < 12))).foldl (fun m n => m ||| (1#64 <<< n)) 0

/-- By how much a step lowers each stack's thermal limit: 16, but to no less than 16. -/
def Device.limitRoom (d : Device) : List Nat := stackNos.map (fun n => min 16 ((d.stack n).thermal - 16))

/-- The thermal limits of the stacks move by given amounts. -/
def Device.moveLimits (d : Device) (by_ : List Nat) (up : Bool) : Device :=
  stackNos.foldl (fun (d : Device) n =>
    let x := d.stack n
    let k := by_.getD n 0
    d.setStack { x with thermal := if up then min 512 (x.thermal + k) else x.thermal - k }) d

/-- The steps of power control that are still imposed. -/
def State.powerSteps (s : State) (l : List PowerStep) : State :=
  { s with dev := s.dev.setMgmt ({ · with powerSteps := l }) }

/-- One more step of power control (R324): every core's FLOOR, and once FLOOR is 12, the stacks' limits. What a step does is
kept, so that undoing it is exact. -/
def State.powerUp (s : State) : State :=
  let room := s.floorRoom
  if room != 0 then (s.moveFloors room true).powerSteps (.floors room :: s.dev.mgmt.powerSteps)
  else
    let by_ := s.dev.limitRoom
    if by_.all (· == 0) then s
    else ({ s with dev := s.dev.moveLimits by_ false }).powerSteps (.limits by_ :: s.dev.mgmt.powerSteps)

/-- The latest step of power control is undone (R324). -/
def State.powerUndo (s : State) : State :=
  match s.dev.mgmt.powerSteps with
  | [] => s
  | .floors cores :: r => (s.moveFloors cores false).powerSteps r
  | .limits by_ :: r => ({ s with dev := s.dev.moveLimits by_ true }).powerSteps r

/-- The end of a power window (R324): over PCAP one more step, 5 % below it the last step undone. -/
def State.powerWindow (s : State) (watts : Nat) : State :=
  if s.dev.mgmt.pcap < watts then s.powerUp
  else if watts * 100 ≤ s.dev.mgmt.pcap * 95 then s.powerUndo
  else s

/-- POWER_WINDOW (R324). -/
def execPowerWindow (watts : Nat) (s : State) : Out := .next (s.powerWindow watts)

/-- A hot core has its FLOOR raised and logged; a cooled one has a step lowered that heat imposed (R325). -/
def State.coreHeat (s : State) (core : Nat) (hot : Bool) : State :=
  let c := s.findCore core
  if hot then
    let t := s.setCore { c.raiseFloor with heat := if c.floor < 12 then c.heat + 1 else c.heat }
    { t with dev := t.dev.logCause .thermalCoreLimit }
  else if c.heat = 0 then s
  else s.setCore { c.lowerFloor with heat := c.heat - 1 }

/-- THERMAL_CORE_LIMIT (R325). -/
def execThermalCoreLimit (core : BitVec 6) (hot : Bool) (s : State) : Out := .next (s.coreHeat core.toNat hot)

/-- A hot stack: its limit is halved, to no less than 16, and it refreshes twice as often (R325). -/
def Device.stackHeat (d : Device) (stack : Nat) : Device :=
  if 12 ≤ stack then d
  else
    let x := d.stack stack
    (d.setStack { x with thermal := max 16 (x.thermal / 2), hot := true }).logCause .thermalBankLimit

/-- THERMAL_BANK_LIMIT (R325). -/
def execThermalBankLimit (stack : Nat) (s : State) : Out := .next { s with dev := s.dev.stackHeat stack }

/-! ### Links (R319) -/

/-- LINK_RETRAIN (R319): a port that is up retrains. -/
def execLinkRetrain (port : Nat) (s : State) : Out :=
  .next { s with dev := if s.dev.portsUp.getLsbD port then s.dev.logCause .linkRetrain else s.dev }

/-- Whether a monitor watches a granule of a peer that no port reaches. -/
def Device.cutOff (d : Device) (m : Monitor) : Bool :=
  match paKind m.pa with
  | .peer k _ => k != d.member.toNat && !d.reachable.contains k
  | .hbm | .unassigned | .host => false

/-- A port is lost, and with it the members that no other port reaches (R319); monitors there are disarmed (R365). -/
def Device.loseLink (d : Device) (port : Nat) (lost : List Nat) : Device :=
  let up := d.portsUp &&& ~~~(1#12 <<< port)
  let d1 : Device := { d with
    portsUp := up
    reachable := if up = 0 then [] else d.reachable.filter (fun m => !lost.contains m) }
  ({ d1 with monitors := d1.monitors.filter (fun m => !d1.cutOff m) }).logCause .linkDown

/-- The LCs whose context lies in a member that no port reaches. -/
def Device.cutLcs (d : Device) : List LcKey :=
  (d.ctxUses.filter (fun u => decide (16 ≤ u.stack) && !d.reachable.contains (u.stack / 16 - 1))).map (·.owner)

/-- LINK_DOWN of a port that is up (R319): the bindings in members that can no longer be reached are lost with it
(R207). -/
def execLinkDown (port : Nat) (lost : List Nat) (s : State) : Out :=
  let t := { s with dev := s.dev.loseLink port lost }
  .next (if !s.dev.portsUp.getLsbD port then s
    else if t.dev.cutLcs.isEmpty then t else t.loseBindings t.dev.cutLcs)

/-! ### Boot (R320 to R322) -/

/-- The recorded outcome of a step: 0 not reached, 1 passed, 2 failed, 3 passed on its alternative (R321). -/
def Mgmt.stepOutcome (m : Mgmt) (n : Nat) : Nat := (m.outcome.toNat >>> (2 * n - 2)) % 4

/-- The management block with the outcome of a step recorded. -/
def Mgmt.record (m : Mgmt) (n out : Nat) : Mgmt :=
  { m with outcome := (m.outcome &&& ~~~(3#14 <<< (2 * n - 2))) ||| (BitVec.ofNat 14 out <<< (2 * n - 2)) }

/-- Whether a step runs its alternative at once (R320). -/
def Mgmt.onAlternative (m : Mgmt) (n : Nat) : Bool := decide (2 ≤ m.stepOutcome n)

/-- Where an attempt stands after a step: it goes on, or it has ended. -/
inductive Attempt where
  | goes (m : Mgmt)
  | ends (m : Mgmt) (b : BootState)
  deriving DecidableEq, Repr

/-- A step that fails ends the attempt (R320); after four in a row the device stays in the management-only state. -/
def Mgmt.fail (m : Mgmt) (n : Nat) (b : BootState) (causes : List Cause) : Attempt :=
  let k := min 4 (m.attempt + 1)
  let m := m.record n 2
  .ends { m with attempt := k, lastFail := n, log := m.log ++ causes ++ [.bootStepFail] }
    (if k = 4 then .managementOnly else b)

/-- A step without alternative. -/
def Mgmt.plainStep (m : Mgmt) (n : Nat) (o : StepOutcome) (c : Cause) : Attempt :=
  if o == .failed then m.fail n .offBus (if c == .bootStepFail then [] else [c]) else .goes (m.record n 1)

/-- A step with an alternative: `clean` says that it passes as it is; `alt` is what the alternative leaves. -/
def Mgmt.altStep (m : Mgmt) (n : Nat) (clean : Bool) (alt : Mgmt → Mgmt) : Attempt :=
  if m.onAlternative n then .goes ((alt m).record n 3)
  else if clean then .goes (m.record n 1)
  else m.fail n .off []

/-- HBM training at the lower rate (R320): slow stacks stay there, the others that fail are degraded. -/
def bootTrain (f : BootFacts) (m : Mgmt) : Mgmt :=
  { m with conserv := f.slow, degraded := m.degraded ||| f.trainFailed
           log := m.log ++ (if f.trainFailed = 0 then [] else [.hbmTrainingFail]) }

/-- UALink ports at x2 (R320): a port that fails stays down. -/
def bootLinkAlt (f : BootFacts) (m : Mgmt) : Mgmt :=
  { m with narrow := f.narrow, log := m.log ++ (if f.portsDown = 0 then [] else [.linkDown]) }

/-- The firmware step (R320, R322): an image that does not verify leaves the device in recovery mode. -/
def Mgmt.firmware (m : Mgmt) (o : StepOutcome) : Attempt :=
  if o == .failed then
    let m := m.record 6 2
    .ends { m with lastFail := 6, log := m.log ++ [.signatureFail, .bootStepFail] } .recovery
  else .goes (m.record 6 1)

/-- The step after another. -/
def Attempt.andThen (a : Attempt) (f : Mgmt → Attempt) : Attempt :=
  match a with
  | .goes m => f m
  | .ends m b => .ends m b

/-- Step 7 of a boot (R320). -/
def Mgmt.memoryTest (m : Mgmt) (failed : BitVec 12) : Attempt :=
  m.altStep 7 (failed == 0) (fun m => { m with degraded := m.degraded ||| failed })

/-- BOOTCTL.CLEAR at the next boot (R317, R320). -/
def Mgmt.cleared (m : Mgmt) : Mgmt :=
  if m.clearNext then { m with outcome := 0, degraded := 0, conserv := 0, narrow := 0, clearNext := false } else m

/-- One attempt (R320), with the spare remaps of the fuse step logged (R12). -/
def bootAttempt (f : BootFacts) (m : Mgmt) : Attempt :=
  (m.cleared.plainStep 1 f.rails .powerRailFault).andThen fun (m : Mgmt) =>
  (m.plainStep 2 f.clocks .clockFault).andThen fun (m : Mgmt) =>
  (m.plainStep 3 f.fuses .bootStepFail).andThen fun (m : Mgmt) =>
  let m := { m with log := m.log ++ List.replicate f.remaps Cause.spareRemap }
  (m.altStep 4 (f.slow ||| f.trainFailed == 0) (bootTrain f)).andThen fun (m : Mgmt) =>
  (if f.links == StepOutcome.failed then m.fail 5 .offBus []
    else m.altStep 5 (f.narrow ||| f.portsDown == 0) (bootLinkAlt f)).andThen fun (m : Mgmt) =>
  (m.firmware f.firmware).andThen fun (m : Mgmt) => m.memoryTest f.testFailed

/-- The stacks marked as the boot record says. -/
def Device.markStacks (d : Device) : Device :=
  stackNos.foldl (fun (d : Device) n => d.setStack { d.stack n with degraded := d.mgmt.degraded.getLsbD n }) d

/-- The device once step 5 has passed: its links (R318). -/
def Device.linksUp (d : Device) (f : BootFacts) : Device :=
  let up := ~~~f.portsDown
  { d with portsUp := up, member := if up = 0 then 0 else f.member, reachable := if up = 0 then [] else f.reachable }

/-- The compressed regions that management sets (R306, log 89). -/
def Device.setRegions (d : Device) (l : List (BitVec 52)) : Device :=
  stackNos.foldl (fun (d : Device) n =>
    d.setStack { d.stack n with czbase := (l.getD n 0) &&& 0xF_FFFF_FFFF_0000 }) d

/-- What a boot leaves after its last step (R315, R320): no claimant owns the device. -/
def Device.booted (d : Device) (m : Mgmt) : Device :=
  ({ d with mgmt := { m with attempt := 0, owner := none }, boot := .ready }).markStacks

/-- DEVICE_BOOT (R320): one attempt after power-on or a reset. -/
def Device.bootWith (d : Device) (f : BootFacts) : Device :=
  if d.boot != .off && d.boot != .offBus then d
  else match bootAttempt f { d.mgmt with testFailed := f.testFailed } with
  | .goes m => ((d.booted m).linksUp f).setRegions f.czbase
  | .ends m b =>
    let d := { d with mgmt := m, boot := b }
    if b == .recovery then ((d.linksUp f).markStacks).setRegions f.czbase else d

/-- DEVICE_BOOT. -/
def execDeviceBoot (facts : BootFacts) (s : State) : Out := .next { s with dev := s.dev.bootWith facts }

/-- The first physical address that is not this device's own memory. -/
def foreignBase : Nat := 2 ^ 50

/-- The device reset (R317): everything but the boot record, a CLEAR still to be acted on, and memory of other
devices and of the host. -/
def State.resetDevice (s : State) : State :=
  let m := s.dev.mgmt
  { State.reset with
    dev := { Device.reset with
      mem := s.dev.mem.filter (fun c => decide (foreignBase ≤ c.1))
      memPoison := s.dev.memPoison.filter (fun g => decide (foreignBase ≤ 64 * g))
      memError := s.dev.memError.filter (fun g => decide (foreignBase ≤ 64 * g))
      mgmt := { Mgmt.reset with
        degraded := m.degraded, conserv := m.conserv, narrow := m.narrow, lastFail := m.lastFail
        outcome := m.outcome, clearNext := m.clearNext, log := m.log
        flash := m.flash
        attempt := if s.dev.boot == .managementOnly then 0 else m.attempt } }
    agenda := s.agenda, runAhead := s.runAhead, tick := s.tick }

/-- BOOTCTL_RESET (R317): of the owner. -/
def execBootctlReset (c : Claimant) (s : State) : Out :=
  .next (if s.dev.mgmt.owner == some c then s.resetDevice else { s with dev := s.dev.refuse c })
/-- BOOTCTL_CLEAR (R317): of the owner. -/
def execBootctlClear (c : Claimant) (s : State) : Out :=
  .next { s with dev := s.dev.asOwner c (·.setMgmt ({ · with clearNext := true })) }
/-- BOOTCTL_LOAD (R316, R322): of any claimant, in recovery mode. -/
def execBootctlLoad (_c : Claimant) (s : State) : Out :=
  .next { s with dev := if s.dev.boot == .recovery then s.dev.setMgmt ({ · with verifying := true }) else s.dev }

/-- The bytes of the largest body of an image (R322). -/
def maxBody : Nat := 16772736

/-- Whether the window holds an image that may pass (R322): its magic, its length, and a security version that is at least the
fused minimum. -/
def Mgmt.imageOk (m : Mgmt) : Bool :=
  Memory.read m.recovery 0 4 == 0x4E485466 && decide (Config.minVersion.toNat ≤ Memory.read m.recovery 4 4)
    && decide (Memory.read m.recovery 8 8 ≤ maxBody)

/-- IMAGE_VERIFY_DONE (R322): `pass` is what the digest and the signature gave. With an image that passes, which is written to
board flash, the boot goes on at step 7; otherwise SIGNATURE_FAIL is logged. -/
def Device.verified (d : Device) (pass : Bool) : Device :=
  if !d.mgmt.verifying then d
  else
    let m := { d.mgmt with verifying := false }
    if !(pass && m.imageOk) then ({ d with mgmt := m }).logCause .signatureFail
    else match (({ m with flash := m.recovery }).record 6 1).memoryTest m.testFailed with
      | .goes m => d.booted m
      | .ends m b => { d with mgmt := m, boot := b }

/-- IMAGE_VERIFY_DONE. -/
def execImageVerifyDone (pass : Bool) (s : State) : Out := .next { s with dev := s.dev.verified pass }

/-! ### Reads of the management block (R315, R317, R321) -/

/-- The code of a claimant in OWNCTL (R317). -/
def Claimant.code : Claimant → Nat
  | .host => 1
  | .board => 2
  | .management => 3

/-- The boot-step word (R321). -/
def Mgmt.bootStep (m : Mgmt) : Dword :=
  at_ m.degraded.toNat 52 ||| at_ m.conserv.toNat 40 ||| at_ m.narrow.toNat 28 ||| at_ m.attempt 24 ||| at_ m.lastFail 20
    ||| m.outcome.setWidth 64

/-- The 8 bytes that any claimant reads at an offset of the management block (R315, R317); WO fields read 0. -/
def State.readMgmt (s : State) (off : Nat) : Dword :=
  let m := s.dev.mgmt
  if 0x8100 ≤ off && off < 0x8300 then
    let c := s.findCore ((off - 0x8100) / 8)
    at_ c.floor.toNat 4 ||| c.step.setWidth 64
  else match off / 8 * 8 with
  | 0x8000 => BitVec.ofNat 64 ((m.owner.map Claimant.code).getD 0)
  | 0x8008 => BitVec.ofNat 64 m.bnklim
  | 0x8010 => m.actth.setWidth 64
  | 0x8018 => BitVec.ofNat 64 m.pcap
  | 0x8020 => m.bootStep
  | 0x8030 => m.fwwin
  | _ => 0

/-- The 8 bytes that a host read at an offset of a function's BAR0 returns (R309, R317): a virtual function's reads 0 beyond its
registers. -/
def State.readBar0 (s : State) (fn off : Nat) : Dword :=
  if off < 0x4030 then s.dev.readFunction fn off else if fn = 0 then s.readMgmt off else 0

end Sys2Proof.Machine
end

