-- ==== Sys2Proof/Machine/Flags.lean ====
section
/-! DEFINITION. Flags.lean: the sticky flags of FFLAGS and the floating-point traps they raise (R77, R130, R131). -/

namespace Sys2Proof.Machine

/-- Cause 0x3A + b of flag b (R77, R131). -/
def fpCause (b : Nat) : Cause :=
  match b with
  | 0 => .fpInvalid | 1 => .fpDivzero | 2 => .fpOverflow | 3 => .fpUnderflow | 4 => .fpInexact | _ => .fpConversionSat

/-- The enabled flags among those raised (R77: DOR never traps). -/
def enabledFlags (en : BitVec 6) (fl : Flags) : BitVec 6 := fl.setWidth 6 &&& en

/-- The lowest enabled flag raised (R131). -/
def lowestFlag (en : BitVec 6) (fl : Flags) : Option Nat := leastBelow (fun b => (enabledFlags en fl).getLsbD b) 6

/-- FFLAGS with flags added: they are sticky (R77). -/
def State.addFlags (s : State) (fl : Flags) : State := { s with lc := { s.lc with fflags := s.lc.fflags ||| fl } }

/-- The FP trap an instruction takes for the flags it raised, if any is enabled (R131): cause and TVAL. -/
def State.fpTrap (s : State) (fl : Flags) : Option (Cause × Dword) :=
  (lowestFlag s.lc.ftrapen fl).map (fun b => (fpCause b, (enabledFlags s.lc.ftrapen fl).setWidth 64))

/-- A scalar instruction writes its result and its flags, or takes the trap of an enabled flag with only the flags
written (R131, R346). -/
def State.fpResult (s : State) (d : SReg) (r : Nat × Flags) (v : Dword) : Except Halt State :=
  match s.fpTrap r.2 with
  | some (c, tv) => .error (.trapIn (s.addFlags r.2) (s.report c tv))
  | none => .ok ((s.addFlags r.2).setS d v).retire

end Sys2Proof.Machine
end

