-- ==== Sys2Proof/Machine/ScalarFp.lean ====
section
/-! DEFINITION. ScalarFp.lean: scalar floating point, MAJ 18 (R115, R345 to R347). -/

namespace Sys2Proof.Machine

/-- BAD_TYPE with the format value of fn[2:0] (R445). -/
def State.badFormat {α : Type} (s : State) (t : BitVec 3) : Except Halt α := s.raise .badType (t.setWidth 64)

/-- Whether a format has 64 or 32 bits: what FDIV and FSQRT accept (R345). -/
def wideFp (y : Ty) : Bool := y == .f64 || y == .f32

/-- The low bits of a register that hold an operand of a type (R115). -/
def lowBits (y : Ty) (x : Dword) : Nat := x.toNat % 2 ^ y.bits

/-- An operation on two registers in one format (R345, R346). -/
def State.fp2 (s : State) (d a b : SReg) (t : BitVec 3) (ok : Ty → Bool) (f : Fmt → Nat → Nat → Nat → Nat × Flags) :
    Except Halt State :=
  match fpType t with
  | none => s.badFormat t
  | some y =>
    if !ok y then s.badFormat t
    else do
      let x ← s.useS a
      let z ← s.useS b
      s.claimS d
      let r := f (Ty.fmt y) s.lc.vec.frm.toNat (lowBits y x) (lowBits y z)
      s.fpResult d r (BitVec.ofNat 64 r.1)

/-- An operation on one register in one format (R345). -/
def State.fp1 (s : State) (d a : SReg) (t : BitVec 3) (ok : Ty → Bool) (f : Fmt → Nat → Nat → Nat × Flags) :
    Except Halt State :=
  match fpType t with
  | none => s.badFormat t
  | some y =>
    if !ok y then s.badFormat t
    else do
      let x ← s.useS a
      s.claimS d
      let r := f (Ty.fmt y) s.lc.vec.frm.toNat (lowBits y x)
      s.fpResult d r (BitVec.ofNat 64 r.1)

/-- Any of the four formats. -/
def anyFp (_ : Ty) : Bool := true

/-- FADD (R345). -/
def execFadd (d a b : SReg) (t : BitVec 3) (s : State) : Out := s.finish (s.fp2 d a b t anyFp Fmt.add)
/-- FSUB (R345). -/
def execFsub (d a b : SReg) (t : BitVec 3) (s : State) : Out := s.finish (s.fp2 d a b t anyFp Fmt.sub)
/-- FMUL (R345). -/
def execFmul (d a b : SReg) (t : BitVec 3) (s : State) : Out := s.finish (s.fp2 d a b t anyFp Fmt.mul)
/-- FDIV, f64 and f32 (R345). -/
def execFdiv (d a b : SReg) (t : BitVec 3) (s : State) : Out := s.finish (s.fp2 d a b t wideFp Fmt.div)
/-- FSQRT, f64 and f32 (R345). -/
def execFsqrt (d a : SReg) (t : BitVec 3) (s : State) : Out := s.finish (s.fp1 d a t wideFp Fmt.sqrt)
/-- FMIN (R345, R122). -/
def execFmin (d a b : SReg) (t : BitVec 3) (s : State) : Out :=
  s.finish (s.fp2 d a b t anyFp (fun f _ x y => f.minmax false x y))
/-- FMAX (R345, R122). -/
def execFmax (d a b : SReg) (t : BitVec 3) (s : State) : Out :=
  s.finish (s.fp2 d a b t anyFp (fun f _ x y => f.minmax true x y))
/-- FCMP (R345, R121). -/
def execFcmp (d a b : SReg) (t : BitVec 3) (s : State) : Out :=
  s.finish (s.fp2 d a b t anyFp (fun f _ x y => f.fcmp x y))
/-- FCLASS (R345, R123): no flag. -/
def execFclass (d a : SReg) (t : BitVec 3) (s : State) : Out :=
  s.finish (s.fp1 d a t anyFp (fun f _ x => (f.cls x, 0)))

/-- FMA (R345, R346): sd := a × b + sd with one rounding. -/
def execFma (d a b : SReg) (t : BitVec 3) (s : State) : Out :=
  s.finish <| match fpType t with
  | none => s.badFormat t
  | some y => do
    let x ← s.useS a
    let z ← s.useS b
    let c ← s.useS d
    let r := (Ty.fmt y).fma s.lc.vec.frm.toNat (lowBits y x) (lowBits y z) (lowBits y c)
    s.fpResult d r (BitVec.ofNat 64 r.1)

/-- A destination of FCVT from FP (R347): an F type, or a 64- or 32-bit integer type. -/
def cvtDst (e : Ty) : Bool := e.cls == .F || e == .i64 || e == .n64 || e == .i32 || e == .n32

/-- The result of FCVT from an F operand (R125, R126). -/
def cvtFromF (y e : Ty) (mode x : Nat) : Nat × Flags :=
  if e.cls == .F then cvtFF (Ty.fmt y) (Ty.fmt e) mode x else cvtFI (Ty.fmt y) (e.signed) e.bits mode x

/-- FCVT from FP (R347). A bad source reports its format value, else a bad destination its type code (R445). -/
def execFcvtFromFp (d a : SReg) (e : Ty) (t : BitVec 3) (s : State) : Out :=
  s.finish <| match fpType t with
  | none => s.badFormat t
  | some y =>
    if !cvtDst e then s.raise .badType (BitVec.ofNat 64 e.ctorIdx)
    else do
      let x ← s.useS a
      s.claimS d
      let r := cvtFromF y e s.lc.vec.frm.toNat (lowBits y x)
      s.fpResult d r (extendLoad (e.signed) e.bytes r.1)

/-- FCVT from integer (R347, R127). -/
def execFcvtFromInt (d a : SReg) (e : Ty) (t : BitVec 3) (s : State) : Out :=
  s.finish <| match intType t with
  | none => s.badFormat t
  | some y =>
    if !(e.cls == .F) then s.raise .badType (BitVec.ofNat 64 e.ctorIdx)
    else do
      let x ← s.useS a
      s.claimS d
      let v : Int := if y.signed then toSigned y.bits x.toNat else (lowBits y x : Nat)
      let r := cvtIF (Ty.fmt e) s.lc.vec.frm.toNat v
      s.fpResult d r (BitVec.ofNat 64 r.1)

end Sys2Proof.Machine
end

