-- ==== Sys2Proof/Machine/VectorMem.lean ====
section
/-! DEFINITION. VectorMem.lean: the hand-off of vector memory, MAJ 28 to 2B (R91, R156, R201, R402, R412, R423), and
its meanings. What an access does is in VecMem.lean and Stack.lean. -/

namespace Sys2Proof.Machine

/-- The register fields of an addressing mode besides vt: an index register, or a stack queue (R91). -/
def modeRegs (p : Bool) (m : AMode) : List (Nat × Bool) :=
  match m with
  | .indexed x => [(0, vecOk p x)]
  | .stream x => [(0, decide (x.toNat < 4))]
  | .unit | .strided | .segment _ | .tile => []

/-- Whether vt, or vt + x of a record, names a register (R91). -/
def vtOk (p : Bool) (t : VReg) (m : AMode) : Bool := decide (t.toNat + modeFields m ≤ if p then 24 else 32)

/-- The checks of VLD and VST (R412, R423). -/
def memGuard (p : Bool) (t : VReg) (m : AMode) (y : Ty) : Guard :=
  { regs := [(20, vtOk p t m)] ++ modeRegs p m, types := [(tyCode y, tyMove y)], placed := p, context := p,
    bits := y.regBits, twoD := m == .tile, governed := true }

/-- The types of VAMO and VAMON (R402). -/
def vamoType (o : VamoOp) (y : Ty) : Bool :=
  y == .i32 || y == .n32 || y == .i64 || y == .n64
    || ((y == .f32 || y == .f64) && (o == .add || o == .min || o == .max || o == .swap))

/-- The checks of VAMO and VAMON (R402). -/
def vamoGuard (p : Bool) (t x : VReg) (o : VamoOp) (y : Ty) : Guard :=
  { regs := [(20, vecOk p t), (0, vecOk p x)], types := [(tyCode y, vamoType o y)], placed := p, context := p,
    bits := y.regBits, governed := true }

/-- VLD (R412, R413). -/
def execVld (p : Bool) (t : VReg) (a : SReg) (m : AMode) (k o : Bool) (y : Ty) (s : State) : Out :=
  s.finish (s.vopS p (memGuard p t m y) (.load t m k o y) a)
/-- VST (R423, R424). -/
def execVst (p : Bool) (t : VReg) (a : SReg) (m : AMode) (k o : Bool) (y : Ty) (s : State) : Out :=
  s.finish (s.vopS p (memGuard p t m y) (.store t m k o y) a)
/-- VAMO (R402, R403): returns old values. -/
def execVamo (p : Bool) (t : VReg) (a : SReg) (c : VamoOp) (k o : Bool) (y : Ty) (x : VReg) (s : State) : Out :=
  s.finish (s.vopS p (vamoGuard p t x c y) (.atomic c t x true k o y) a)
/-- VAMON (R402, R403): writes no register. -/
def execVamon (p : Bool) (t : VReg) (a : SReg) (c : VamoOp) (k o : Bool) (y : Ty) (x : VReg) (s : State) : Out :=
  s.finish (s.vopS p (vamoGuard p t x c y) (.atomic c t x false k o y) a)

end Sys2Proof.Machine
end

