-- ==== Sys2Proof/Machine/Dispatch.lean ====
section
/-! DEFINITION. Dispatch.lean: one arm per instruction: the call of its meaning. -/

namespace Sys2Proof.Machine

/-- The effect of an instruction or an event in a state. -/
def exec (i : Instr) (s : State) : Host.Outcome State Fault Refusal :=
  match i with
  | .add d a b => Sys2Proof.Machine.execAdd d a b s
  | .sub d a b => Sys2Proof.Machine.execSub d a b s
  | .mul d a b => Sys2Proof.Machine.execMul d a b s
  | .mulh d a b => Sys2Proof.Machine.execMulh d a b s
  | .mulhu d a b => Sys2Proof.Machine.execMulhu d a b s
  | .div d a b => Sys2Proof.Machine.execDiv d a b s
  | .divu d a b => Sys2Proof.Machine.execDivu d a b s
  | .rem d a b => Sys2Proof.Machine.execRem d a b s
  | .remu d a b => Sys2Proof.Machine.execRemu d a b s
  | .and d a b => Sys2Proof.Machine.execAnd d a b s
  | .or d a b => Sys2Proof.Machine.execOr d a b s
  | .xor d a b => Sys2Proof.Machine.execXor d a b s
  | .shl d a b => Sys2Proof.Machine.execShl d a b s
  | .shr d a b => Sys2Proof.Machine.execShr d a b s
  | .sra d a b => Sys2Proof.Machine.execSra d a b s
  | .slt d a b => Sys2Proof.Machine.execSlt d a b s
  | .sltu d a b => Sys2Proof.Machine.execSltu d a b s
  | .min d a b => Sys2Proof.Machine.execMin d a b s
  | .max d a b => Sys2Proof.Machine.execMax d a b s
  | .clz d a => Sys2Proof.Machine.execClz d a s
  | .popc d a => Sys2Proof.Machine.execPopc d a s
  | .csel d a b => Sys2Proof.Machine.execCsel d a b s
  | .addi d a imm => Sys2Proof.Machine.execAddi d a imm s
  | .andi d a imm => Sys2Proof.Machine.execAndi d a imm s
  | .ori d a imm => Sys2Proof.Machine.execOri d a imm s
  | .xori d a imm => Sys2Proof.Machine.execXori d a imm s
  | .slti d a imm => Sys2Proof.Machine.execSlti d a imm s
  | .shli d a n => Sys2Proof.Machine.execShli d a n s
  | .shri d a n => Sys2Proof.Machine.execShri d a n s
  | .srai d a n => Sys2Proof.Machine.execSrai d a n s
  | .lui d imm => Sys2Proof.Machine.execLui d imm s
  | .addpc d imm => Sys2Proof.Machine.execAddpc d imm s
  | .ld d a z x imm => Sys2Proof.Machine.execLd d a z x imm s
  | .st v a z imm => Sys2Proof.Machine.execSt v a z imm s
  | .lda d a z c => Sys2Proof.Machine.execLda d a z c s
  | .stl v a z c => Sys2Proof.Machine.execStl v a z c s
  | .amo d a z c b o => Sys2Proof.Machine.execAmo d a z c b o s
  | .beq a b o => Sys2Proof.Machine.execBeq a b o s
  | .bne a b o => Sys2Proof.Machine.execBne a b o s
  | .blt a b o => Sys2Proof.Machine.execBlt a b o s
  | .bge a b o => Sys2Proof.Machine.execBge a b o s
  | .bltu a b o => Sys2Proof.Machine.execBltu a b o s
  | .bgeu a b o => Sys2Proof.Machine.execBgeu a b o s
  | .jal d imm => Sys2Proof.Machine.execJal d imm s
  | .jalr d a imm => Sys2Proof.Machine.execJalr d a imm s
  | .fadd d a b t => Sys2Proof.Machine.execFadd d a b t s
  | .fsub d a b t => Sys2Proof.Machine.execFsub d a b t s
  | .fmul d a b t => Sys2Proof.Machine.execFmul d a b t s
  | .fdiv d a b t => Sys2Proof.Machine.execFdiv d a b t s
  | .fsqrt d a t => Sys2Proof.Machine.execFsqrt d a t s
  | .fma d a b t => Sys2Proof.Machine.execFma d a b t s
  | .fmin d a b t => Sys2Proof.Machine.execFmin d a b t s
  | .fmax d a b t => Sys2Proof.Machine.execFmax d a b t s
  | .fcmp d a b t => Sys2Proof.Machine.execFcmp d a b t s
  | .fclass d a t => Sys2Proof.Machine.execFclass d a t s
  | .fcvtFromFp d a e t => Sys2Proof.Machine.execFcvtFromFp d a e t s
  | .fcvtFromInt d a e t => Sys2Proof.Machine.execFcvtFromInt d a e t s
  | .csrr d c => Sys2Proof.Machine.execCsrr d c s
  | .csrw a c => Sys2Proof.Machine.execCsrw a c s
  | .csrs a c => Sys2Proof.Machine.execCsrs a c s
  | .csrc a c => Sys2Proof.Machine.execCsrc a c s
  | .setvl d a t => Sys2Proof.Machine.execSetvl d a t s
  | .qsend a q => Sys2Proof.Machine.execQsend a q s
  | .qrecv d q => Sys2Proof.Machine.execQrecv d q s
  | .qstat d q => Sys2Proof.Machine.execQstat d q s
  | .fence c => Sys2Proof.Machine.execFence c s
  | .sbar m => Sys2Proof.Machine.execSbar m s
  | .nexts o => Sys2Proof.Machine.execNexts o s
  | .exit => Sys2Proof.Machine.execExit s
  | .yieldLc => Sys2Proof.Machine.execYieldLc s
  | .spawn d a => Sys2Proof.Machine.execSpawn d a s
  | .mwait d a b => Sys2Proof.Machine.execMwait d a b s
  | .gjoin a => Sys2Proof.Machine.execGjoin a s
  | .gleave a => Sys2Proof.Machine.execGleave a s
  | .gbar a => Sys2Proof.Machine.execGbar a s
  | .post a => Sys2Proof.Machine.execPost a s
  | .waiti a => Sys2Proof.Machine.execWaiti a s
  | .probe d a => Sys2Proof.Machine.execProbe d a s
  | .cwb a => Sys2Proof.Machine.execCwb a s
  | .cinv a => Sys2Proof.Machine.execCinv a s
  | .vadd p d a b t => Sys2Proof.Machine.execVadd p d a b t s
  | .vsub p d a b t => Sys2Proof.Machine.execVsub p d a b t s
  | .vmul p d a b t => Sys2Proof.Machine.execVmul p d a b t s
  | .vdiv p d a b t => Sys2Proof.Machine.execVdiv p d a b t s
  | .vmin p d a b t => Sys2Proof.Machine.execVmin p d a b t s
  | .vmax p d a b t => Sys2Proof.Machine.execVmax p d a b t s
  | .vand p d a b t => Sys2Proof.Machine.execVand p d a b t s
  | .vor p d a b t => Sys2Proof.Machine.execVor p d a b t s
  | .vxor p d a b t => Sys2Proof.Machine.execVxor p d a b t s
  | .vshl p d a b t => Sys2Proof.Machine.execVshl p d a b t s
  | .vshr p d a b t => Sys2Proof.Machine.execVshr p d a b t s
  | .vsra p d a b t => Sys2Proof.Machine.execVsra p d a b t s
  | .vaddVs p d a b t => Sys2Proof.Machine.execVaddVs p d a b t s
  | .vsubVs p d a b t => Sys2Proof.Machine.execVsubVs p d a b t s
  | .vmulVs p d a b t => Sys2Proof.Machine.execVmulVs p d a b t s
  | .vdivVs p d a b t => Sys2Proof.Machine.execVdivVs p d a b t s
  | .vminVs p d a b t => Sys2Proof.Machine.execVminVs p d a b t s
  | .vmaxVs p d a b t => Sys2Proof.Machine.execVmaxVs p d a b t s
  | .vandVs p d a b t => Sys2Proof.Machine.execVandVs p d a b t s
  | .vorVs p d a b t => Sys2Proof.Machine.execVorVs p d a b t s
  | .vxorVs p d a b t => Sys2Proof.Machine.execVxorVs p d a b t s
  | .vshlVs p d a b t => Sys2Proof.Machine.execVshlVs p d a b t s
  | .vshrVs p d a b t => Sys2Proof.Machine.execVshrVs p d a b t s
  | .vsraVs p d a b t => Sys2Proof.Machine.execVsraVs p d a b t s
  | .vbcast p d b t => Sys2Proof.Machine.execVbcast p d b t s
  | .vslide p d a b t => Sys2Proof.Machine.execVslide p d a b t s
  | .vextract p a d t => Sys2Proof.Machine.execVextract p a d t s
  | .vma p d a b t => Sys2Proof.Machine.execVma p d a b t s
  | .vms p d a b t => Sys2Proof.Machine.execVms p d a b t s
  | .vnma p d a b t => Sys2Proof.Machine.execVnma p d a b t s
  | .vneg p d a t => Sys2Proof.Machine.execVneg p d a t s
  | .vabs p d a t => Sys2Proof.Machine.execVabs p d a t s
  | .vsqrt p d a t => Sys2Proof.Machine.execVsqrt p d a t s
  | .vrcp p d a t => Sys2Proof.Machine.execVrcp p d a t s
  | .vrsq p d a t => Sys2Proof.Machine.execVrsq p d a t s
  | .vexp2 p d a t => Sys2Proof.Machine.execVexp2 p d a t s
  | .vlog2 p d a t => Sys2Proof.Machine.execVlog2 p d a t s
  | .vclass p d a t => Sys2Proof.Machine.execVclass p d a t s
  | .vmov p d a t => Sys2Proof.Machine.execVmov p d a t s
  | .viota p d t => Sys2Proof.Machine.execViota p d t s
  | .vcvt p d a v e t => Sys2Proof.Machine.execVcvt p d a v e t s
  | .vcmp p k a b t c => Sys2Proof.Machine.execVcmp p k a b t c s
  | .vsel p d a b t => Sys2Proof.Machine.execVsel p d a b t s
  | .vperm p d a b t => Sys2Proof.Machine.execVperm p d a b t s
  | .vcompress p d a t => Sys2Proof.Machine.execVcompress p d a t s
  | .vqsend p a q t => Sys2Proof.Machine.execVqsend p a q t s
  | .vqrecv p d q t => Sys2Proof.Machine.execVqrecv p d q t s
  | .vredsum p d a b t g => Sys2Proof.Machine.execVredsum p d a b t g s
  | .vredosum p d a b t g => Sys2Proof.Machine.execVredosum p d a b t g s
  | .vredmax p d a b t g => Sys2Proof.Machine.execVredmax p d a b t g s
  | .vredmin p d a b t g => Sys2Proof.Machine.execVredmin p d a b t g s
  | .vargmax p d a b t g => Sys2Proof.Machine.execVargmax p d a b t g s
  | .vargmin p d a b t g => Sys2Proof.Machine.execVargmin p d a b t g s
  | .vscan p d a b t g => Sys2Proof.Machine.execVscan p d a b t g s
  | .kand k a b => Sys2Proof.Machine.execKand k a b s
  | .kor k a b => Sys2Proof.Machine.execKor k a b s
  | .kxor k a b => Sys2Proof.Machine.execKxor k a b s
  | .knot k a => Sys2Proof.Machine.execKnot k a s
  | .kmov k a => Sys2Proof.Machine.execKmov k a s
  | .kpop a d => Sys2Proof.Machine.execKpop a d s
  | .kfirst a d => Sys2Proof.Machine.execKfirst a d s
  | .vld p t a m k o y => Sys2Proof.Machine.execVld p t a m k o y s
  | .vst p t a m k o y => Sys2Proof.Machine.execVst p t a m k o y s
  | .vamo p t a c k o y x => Sys2Proof.Machine.execVamo p t a c k o y x s
  | .vamon p t a c k o y x => Sys2Proof.Machine.execVamon p t a c k o y x s
  | .tshape d a => Sys2Proof.Machine.execTshape d a s
  | .ten => Sys2Proof.Machine.execTen s
  | .tdis => Sys2Proof.Machine.execTdis s
  | .tzero t => Sys2Proof.Machine.execTzero t s
  | .tslice d a c t => Sys2Proof.Machine.execTslice d a c t s
  | .tld t a k o y => Sys2Proof.Machine.execTld t a k o y s
  | .tst t a k o y => Sys2Proof.Machine.execTst t a k o y s
  | .mma c a b x y v => Sys2Proof.Machine.execMma c a b x y v s
  | .mmax c a b x y f e v => Sys2Proof.Machine.execMmax c a b x y f e v s
  | .accrd d a c => Sys2Proof.Machine.execAccrd d a c s
  | .accwr d a c => Sys2Proof.Machine.execAccwr d a c s
  | .accz c => Sys2Proof.Machine.execAccz c s
  | .xcpy d a b h r => Sys2Proof.Machine.execXcpy d a b h r s
  | .xdeil d v b h f => Sys2Proof.Machine.execXdeil d v b h f s
  | .xred d a b h e t => Sys2Proof.Machine.execXred d a b h e t s
  | .xwait a h => Sys2Proof.Machine.execXwait a h s
  | .skbind d a => Sys2Proof.Machine.execSkbind d a s
  | .skloop a b => Sys2Proof.Machine.execSkloop a b s
  | .skend => Sys2Proof.Machine.execSkend s
  | .skfence => Sys2Proof.Machine.execSkfence s
  | .skstrm j a => Sys2Proof.Machine.execSkstrm j a s
  | .rlopen h a => Sys2Proof.Machine.execRlopen h a s
  | .rlrel h => Sys2Proof.Machine.execRlrel h s
  | .rlstat h d => Sys2Proof.Machine.execRlstat h d s
  | .bkop h a b w o => Sys2Proof.Machine.execBkop h a b w o s
  | .bkwave a => Sys2Proof.Machine.execBkwave a s
  | .bkfence h => Sys2Proof.Machine.execBkfence h s
  | .urank k a t => Sys2Proof.Machine.execUrank k a t s
  | .ucommit k a b t => Sys2Proof.Machine.execUcommit k a b t s
  | .udirty k b => Sys2Proof.Machine.execUdirty k b s
  | .ucfg b => Sys2Proof.Machine.execUcfg b s
  | .smpstep d a b t => Sys2Proof.Machine.execSmpstep d a b t s
  | .vaccept k a b t => Sys2Proof.Machine.execVaccept k a b t s
  | .vpand k a => Sys2Proof.Machine.execVpand k a s
  | .vgumbel d b t => Sys2Proof.Machine.execVgumbel d b t s
  | .vdraw d b t => Sys2Proof.Machine.execVdraw d b t s
  | .jadd d a b => Sys2Proof.Machine.execJadd d a b s
  | .jcommit a b => Sys2Proof.Machine.execJcommit a b s
  | .jdrop a => Sys2Proof.Machine.execJdrop a s
  | .scall c => Sys2Proof.Machine.execScall c s
  | .ebreak c => Sys2Proof.Machine.execEbreak c s
  | .eret => Sys2Proof.Machine.execEret s
  | .erpl a v => Sys2Proof.Machine.execErpl a v s
  | .bankroleWrite v => Sys2Proof.Machine.execBankroleWrite v s
  | .accallocWrite v => Sys2Proof.Machine.execAccallocWrite v s
  | .tcfgWrite t v => Sys2Proof.Machine.execTcfgWrite t v s
  | .tlbinvPage c vpn => Sys2Proof.Machine.execTlbinvPage c vpn s
  | .tlbinvAsid c => Sys2Proof.Machine.execTlbinvAsid c s
  | .tlbinvNonglobal c => Sys2Proof.Machine.execTlbinvNonglobal c s
  | .tlbinvAll c => Sys2Proof.Machine.execTlbinvAll c s
  | .sswitch v => Sys2Proof.Machine.execSswitch v s
  | .vsave v => Sys2Proof.Machine.execVsave v s
  | .vload v => Sys2Proof.Machine.execVload v s
  | .xreset h => Sys2Proof.Machine.execXreset h s
  | .tkill code => Sys2Proof.Machine.execTkill code s
  | .scctlCommit => Sys2Proof.Machine.execScctlCommit s
  | .pooltailWrite v => Sys2Proof.Machine.execPooltailWrite v s
  | .launchPortCommit fn p => Sys2Proof.Machine.execLaunchPortCommit fn p s
  | .launchIntake => Sys2Proof.Machine.execLaunchIntake s
  | .taskCompletion task => Sys2Proof.Machine.execTaskCompletion task s
  | .killWrite fn id => Sys2Proof.Machine.execKillWrite fn id s
  | .functionLevelReset fn => Sys2Proof.Machine.execFunctionLevelReset fn s
  | .hostWindowRead fn off bytes => Sys2Proof.Machine.execHostWindowRead fn off bytes s
  | .hostWindowWrite fn off data poisoned => Sys2Proof.Machine.execHostWindowWrite fn off data poisoned s
  | .hostRequestCompletion st poisoned => Sys2Proof.Machine.execHostRequestCompletion st poisoned s
  | .completionTimeout => Sys2Proof.Machine.execCompletionTimeout s
  | .pcieLinkLoss => Sys2Proof.Machine.execPcieLinkLoss s
  | .ownershipClaim c => Sys2Proof.Machine.execOwnershipClaim c s
  | .ownershipHandover c heir => Sys2Proof.Machine.execOwnershipHandover c heir s
  | .ownershipRelease c => Sys2Proof.Machine.execOwnershipRelease c s
  | .bnklimWrite c v => Sys2Proof.Machine.execBnklimWrite c v s
  | .bnklimArrival stack => Sys2Proof.Machine.execBnklimArrival stack s
  | .clkstepWrite c core v => Sys2Proof.Machine.execClkstepWrite c core v s
  | .bootctlReset c => Sys2Proof.Machine.execBootctlReset c s
  | .bootctlClear c => Sys2Proof.Machine.execBootctlClear c s
  | .bootctlLoad c => Sys2Proof.Machine.execBootctlLoad c s
  | .imageVerifyDone pass => Sys2Proof.Machine.execImageVerifyDone pass s
  | .mmioRegisterWrite c fn r v => Sys2Proof.Machine.execMmioRegisterWrite c fn r v s
  | .deviceBoot facts => Sys2Proof.Machine.execDeviceBoot facts s
  | .powerWindow watts => Sys2Proof.Machine.execPowerWindow watts s
  | .thermalCoreLimit core hot => Sys2Proof.Machine.execThermalCoreLimit core hot s
  | .thermalBankLimit stack => Sys2Proof.Machine.execThermalBankLimit stack s
  | .linkRetrain port => Sys2Proof.Machine.execLinkRetrain port s
  | .linkDown port lost => Sys2Proof.Machine.execLinkDown port lost s
  | .stackUnitFail stack svu => Sys2Proof.Machine.execStackUnitFail stack svu s
  | .bindingLost => Sys2Proof.Machine.execBindingLost s
  | .bankRefresh stack chan pc bank => Sys2Proof.Machine.execBankRefresh stack chan pc bank s
  | .patrolScrubRead granule correctable uncorrectable => Sys2Proof.Machine.execPatrolScrubRead granule correctable uncorrectable s
  | .scrubWriteBack granule => Sys2Proof.Machine.execScrubWriteBack granule s
  | .pageExpansion va => Sys2Proof.Machine.execPageExpansion va s
  | .pageTableWalk va => Sys2Proof.Machine.execPageTableWalk va s
  | .partitionOffer core part => Sys2Proof.Machine.execPartitionOffer core part s
  | .laneArbitration => Sys2Proof.Machine.execLaneArbitration s
  | .matrixBandComplete => Sys2Proof.Machine.execMatrixBandComplete s
  | .lcYield => Sys2Proof.Machine.execLcYield s
  | .sliceExpired => Sys2Proof.Machine.execSliceExpired s
  | .preemptRequest => Sys2Proof.Machine.execPreemptRequest s
  | .progressWatchdog => Sys2Proof.Machine.execProgressWatchdog s
  | .counterOverflow n => Sys2Proof.Machine.execCounterOverflow n s
  | .stripDispense => Sys2Proof.Machine.execStripDispense s
  | .contextGrant stack svu => Sys2Proof.Machine.execContextGrant stack svu s
  | .stackContextExecute => Sys2Proof.Machine.execStackContextExecute s
  | .addressStreamGenerate j => Sys2Proof.Machine.execAddressStreamGenerate j s
  | .scatterAddArrival => Sys2Proof.Machine.execScatterAddArrival s
  | .scatterOldValue granule => Sys2Proof.Machine.execScatterOldValue granule s
  | .scatterIdleWriteBack granule => Sys2Proof.Machine.execScatterIdleWriteBack granule s
  | .scatterRecall granule => Sys2Proof.Machine.execScatterRecall granule s
  | .copyTransferStep h => Sys2Proof.Machine.execCopyTransferStep h s
  | .xredContributionArrival => Sys2Proof.Machine.execXredContributionArrival s
  | .monitorWake => Sys2Proof.Machine.execMonitorWake s
  | .bankAdmission stack => Sys2Proof.Machine.execBankAdmission stack s
  | .waveProbe => Sys2Proof.Machine.execWaveProbe s
  | .waveRowStep stack unit => Sys2Proof.Machine.execWaveRowStep stack unit s
  | .waveResume stack unit => Sys2Proof.Machine.execWaveResume stack unit s
  | .subwaveComplete stack unit => Sys2Proof.Machine.execSubwaveComplete stack unit s
  | .bkopComplete stack unit => Sys2Proof.Machine.execBkopComplete stack unit s
  | .rowPinGrant => Sys2Proof.Machine.execRowPinGrant s
  | .pinOpened stack chan bank slot => Sys2Proof.Machine.execPinOpened stack chan bank slot s
  | .pinReleased stack chan bank slot => Sys2Proof.Machine.execPinReleased stack chan bank slot s
  | .slotFreed stack chan bank slot => Sys2Proof.Machine.execSlotFreed stack chan bank slot s
  | .streamTrapReport => Sys2Proof.Machine.execStreamTrapReport s
  | .deferredTrapReport => Sys2Proof.Machine.execDeferredTrapReport s
  | .trapDelivery => Sys2Proof.Machine.execTrapDelivery s
  | .firstBandStart => Sys2Proof.Machine.execFirstBandStart s
  | .ualinkTransactionArrival t => Sys2Proof.Machine.execUalinkTransactionArrival t s

end Sys2Proof.Machine
end

