-- ==== Sys2Proof/Machine/Turn.lean ====
section
/-! DEFINITION. Turn.lean: what one step of the machine is: a move of the agenda, or the turn of the LC in focus, which
takes a trap at its boundary (R270) or executes the instruction at its PC. -/

namespace Sys2Proof.Machine

/-- The address at which an instruction of the scalar unit accesses memory. -/
def State.touches (s : State) (i : Instr) : Option Dword :=
  match i with
  | .ld _ a _ _ i => some (s.getS a + imm i)
  | .st _ a _ i => some (s.getS a + imm i)
  | .lda _ a _ _ | .stl _ a _ _ | .amo _ a _ _ _ _ | .mwait _ a _ | .cwb a | .cinv a => some (s.getS a)
  | _ => none

/-- The walk that a scalar access makes fills the TLB (R302, log 4). -/
def State.touch (s : State) (i : Instr) : State :=
  match s.touches i with
  | some va => s.coreWalk va
  | none => s

/-- The instruction at the PC is fetched, decoded and executed (R25, R103). -/
def State.runOne (s : State) : Out :=
  let w := s.coreWalk (s.lc.pc.setWidth 64)
  match w.fetch with
  | .error h => ({ w with ir := 0 }).finish (.error h)
  | .ok t => match decode t.ir with
    | .ok i => exec i (t.touch i)
    | .error f => t.finish (t.raise (decodeRaised f).1 (decodeRaised f).2)

/-- An LC that still waits where it was lets the machine do other work next, when the model follows the streams in
order (log 3). -/
def State.relay (s t : State) : State :=
  if !t.runAhead && t.agenda.isEmpty && t.waitsFrom s then { t with agenda := [.other] } else t

/-- What a step of the LC in focus leaves, after its instruction took it from `s` to `t`: the counts (R65 to R67, R83),
SINGLE_STEP (R286). -/
def State.after (s t : State) : State := State.relay s (State.singleStep s (State.account s t))

/-- The LC in focus at its boundary: its streams first, when the model follows them in order (log 3); else only what
the LC's own side of them does without an event: a barrier that is reached passes, a bank command is sent. -/
def State.atBoundary (s : State) : State :=
  let t := { s with retired := false }
  if t.runAhead then
    let u := t.passBarrier
    (u.bankSend).getD u
  else t.drain

/-- The turn of the LC in focus. -/
def State.turnLc (s : State) : Out :=
  let b := s.atBoundary
  match b.boundary with
  | some t => .next (State.account b t)
  | none => match b.runOne with
    | .next t => .next (State.after b t)
    | .fault f => .fault f
    | .refused r => .refused r

/-- An uncorrectable error appears in a unit (R283, R233), or a peer's link fails the requests of a granule (R319). -/
def State.errorAppears (s : State) (e : ErrorAt) : State :=
  match e with
  | .hbm g => { s with dev := { s.dev with memError := addOnce s.dev.memError g } }
  | .l2 g => { s with dev := { s.dev with l2Error := addOnce s.dev.l2Error g } }
  | .link g => { s with dev := { s.dev with linkError := addOnce s.dev.linkError g } }
  | .scratch g => { s with core := { s.core with scratchError := addOnce s.core.scratchError g } }
  | .segment n => { s with core := { s.core with segError := addOnce s.core.segError n } }
  | .accumulator a g => { s with core := { s.core with
      accError := s.core.accError.setIfInBounds a ((s.core.accError[a]?.getD 0) ||| BitVec.ofNat 1024 (2 ^ g)) } }
  | .stackRegister w g => s.updCtx (fun c => { c with
      wError := c.wError.setIfInBounds w ((c.wError[w]?.getD 0) ||| BitVec.ofNat 16 (2 ^ g)) })
  | .actCounter l => { s with dev := { s.dev with
      actError := if s.dev.actError.contains l then s.dev.actError else l :: s.dev.actError } }

/-- A row line of the device's memory (R212). -/
def Line.valid (l : Line) : Bool := decide (l.stack < 12) && decide (l.chan < 32) && decide (l.bank < 64) && decide (l.row < 2 ^ 15)

/-- A move of the agenda. -/
def State.move (s : State) (m : Move) : Out :=
  match m with
  | .event i => if i.isEvent then exec i s else .fault .notAnEvent
  | .turn c p => .next (s.turnTo c p)
  | .turnLc k => .next (s.focus k)
  | .store => .next (s.storeStep.getD s)
  | .error e => .next (s.errorAppears e)
  | .rowAccess l => .next (if l.valid then { s with dev := s.dev.accessRow l } else s)
  | .other => .next s.otherWork

/-- What a step leaves, with its time passed (R323). -/
def timed (o : Out) : Out :=
  match o with
  | .next t => .next t.passTime
  | .fault f => .fault f
  | .refused r => .refused r

/-- One step: the next move of the agenda; without one, the turn of the LC in focus, or, when that LC is not resident,
other work of the machine, which an agenda drives when the scalar unit runs ahead (log 3). -/
def State.turn (s : State) : Out :=
  match s.agenda with
  | m :: r => timed (({ s with agenda := r }).move m)
  | [] =>
    if s.lc.status == .resident then s.turnLc
    else timed (.next (if s.runAhead then s else s.otherWork))

/-! ### Placing an instruction to be run (log 1) -/

/-- The address at which a placed word is fetched. -/
def placeVa : Nat := 0x10000

/-- The physical address at which it is stored. -/
def placePa : Nat := 0x10000

/-- The leaf entry of the page: user, executable and writable, local HBM. -/
def placeLeaf : Dword := BitVec.ofNat 64 (placePa / 65536 * 65536 + 0x1D)

/-- The state with an LC of a task of one LC resident on the partition in focus, its page held in the core's TLB, and a
word at its PC. -/
def State.placeWord (s : State) (w : IWord) : State :=
  let t : Task :=
    { seq := s.dev.nextSeq, fn := 0, id := 1, entry := BitVec.ofNat 64 placeVa, elements := 0
      coremask := BitVec.ofNat 64 (2 ^ s.core.no), prio := 1, ew := 0, ring := false, scc := false, lcn := 1
      args := [], completion := 0, spawned := false, lcsave := 0, ptbase := 0, asid := 0, deps := []
      hasRing := false, nextStrip := 0, started := 0, exited := 0
      groups := (Vector.replicate 16 ⟨0, 0, 0⟩).set 0 ⟨1, 0, 0⟩, posted := [], frontier := 0, ended := none }
  let a := s.setAside
  let d := { a.dev with
    boot := .ready, tasks := a.dev.tasks ++ [t], nextSeq := t.seq + 1
    mem := Memory.write a.dev.mem placePa 4 w.toNat }
  let e : TlbEntry := ⟨.page, placeVa, 0, false, [placeLeaf], 0⟩
  ({ a with dev := d, core := { a.core with tlb := e :: a.core.tlb }, agenda := [] }).startHere t

end Sys2Proof.Machine
end

