-- ==== Sys2Proof/Safety.lean ====
section
/-! DEFINITION. Safety.lean: the terms in which claims about runs are made: registers an instruction can use at once,
what a step changes and what it leaves, and the forms that every state of a run keeps. -/

namespace Sys2Proof.Machine

/-! ### Scalar registers -/

/-- A register that an instruction reads at once: no other stream has still to write it (R192, R216, R249), and it is
not poisoned (R285). -/
def State.Readable (s : State) (r : SReg) : Prop := s.freeS r = true ∧ s.poisonedS r = false

/-- A register that an instruction writes at once: no other stream has still to write it (R192, R216, R249). -/
def State.Writable (s : State) (r : SReg) : Prop := s.freeS r = true

/-- Everything but the scalar registers, the PC and the mark that the scalar unit retired an instruction is the same:
every flag, CSR, special register, vector, mask and tile register, accumulator, queue, stream and byte of memory. -/
def State.SameButScalar (s t : State) : Prop :=
  { t with lc := { t.lc with s := s.lc.s, sPoison := s.lc.sPoison, pc := s.lc.pc }, retired := s.retired } = s

/-- Every scalar register but `d` holds what it held, with the same poison. -/
def State.SameRegsBut (s t : State) (d : SReg) : Prop :=
  ∀ r, r ≠ d → t.getS r = s.getS r ∧ t.poisonedS r = s.poisonedS r

/-- `d` holds a clean value; s0 reads 0 whatever is written to it (R71). -/
def State.Holds (t : State) (d : SReg) (v : Dword) : Prop :=
  t.getS d = (if d = 0 then 0 else v) ∧ t.poisonedS d = false

/-- From `s` to `t`: `d` was written clean, execution goes on at `pc`, nothing else changed. -/
def State.WroteAt (s t : State) (d : SReg) (v : Dword) (pc : BitVec 57) : Prop :=
  t.Holds d v ∧ s.SameRegsBut t d ∧ t.lc.pc = pc ∧ t.retired = true ∧ s.SameButScalar t

/-- The same, with execution going on at the next word. -/
def State.Wrote (s t : State) (d : SReg) (v : Dword) : Prop := s.WroteAt t d v (s.lc.pc + 4)

/-- From `s` to `t`: execution goes on at `pc`, nothing else changed. -/
def State.WentTo (s t : State) (pc : BitVec 57) : Prop := { s with lc := { s.lc with pc := pc }, retired := true } = t

/-! ### Traps -/

/-- What every delivery of a trap leaves (R268, R271): the scalar unit's registers and controls, the vector state and
the core's; memory too when no fault record is written (R279). -/
structure State.KeptByTrap (s t : State) (c : Cause) : Prop where
  lc : { t.lc with
    pc := s.lc.pc, trap := s.lc.trap, vheld := s.lc.vheld, vstalled := s.lc.vstalled, vstart := s.lc.vstart } = s.lc
  part : { t.part with
    vqueue := s.part.vqueue, mslot := s.part.mslot, rem := s.part.rem, done := s.part.done
    bcredit := s.part.bcredit } = s.part
  core : { t.core with
    scratch := s.core.scratch, scratchPoison := s.core.scratchPoison
    scratchError := s.core.scratchError } = s.core
  memory : c.hasRecord = false ∨ s.lc.trap.frecCap = 0 → t.dev = s.dev ∧ t.core = s.core

/-- A trap of the scalar unit taken by the supervisor (R268, R271): cause, TVAL, TEPC and TINSN in the supervisor's
registers, the level saved and raised, execution at STVEC, the V stream held aside; the user level's trap registers are as they were, but for
the fault record's index and RLOST. -/
structure State.TrappedSuper (s t : State) (c : Cause) (tval : Dword) : Prop extends s.KeptByTrap t c where
  cause : t.lc.trap.scause = BitVec.ofNat 8 c.code
  value : t.lc.trap.stval = tval
  pc : t.lc.trap.sepc = s.lc.pc &&& ~~~3#57
  insn : t.lc.trap.sinsn = s.ir
  stream : t.lc.trap.sdrpcV = false
  level : t.lc.trap.plevel = s.lc.trap.level ∧ t.lc.trap.level = true
  target : t.lc.pc = s.core.stvec
  vstream : t.part = s.holdV.part ∧ t.lc.vheld = s.holdV.lc.vheld ∧ t.lc.vstalled = none ∧ t.lc.vstart = s.holdV.lc.vstart
  others : { t.lc.trap with
    scause := s.lc.trap.scause, stval := s.lc.trap.stval, sepc := s.lc.trap.sepc, sinsn := s.lc.trap.sinsn
    sdrpcV := s.lc.trap.sdrpcV, plevel := s.lc.trap.plevel, level := s.lc.trap.level
    frecIdx := s.lc.trap.frecIdx, rlost := s.lc.trap.rlost } = s.lc.trap

/-- A trap of the scalar unit taken by the LC's user handler (R268, R271); the supervisor's trap registers are as they
were, and no V-stream entry is held aside. -/
structure State.TrappedUser (s t : State) (c : Cause) (tval : Dword) : Prop extends s.KeptByTrap t c where
  cause : t.lc.trap.tcause = BitVec.ofNat 8 c.code
  value : t.lc.trap.tval = tval
  pc : t.lc.trap.tepc = s.lc.pc &&& ~~~3#57
  insn : t.lc.trap.tinsn = s.ir
  handler : t.lc.trap.uh = true
  stream : t.lc.trap.drpcV = false
  target : t.lc.pc = s.lc.trap.tvec
  queue : t.part = s.part ∧ t.lc.vheld = s.lc.vheld ∧ t.lc.vstalled = s.lc.vstalled ∧ t.lc.vstart = s.lc.vstart
  others : { t.lc.trap with
    tcause := s.lc.trap.tcause, tval := s.lc.trap.tval, tepc := s.lc.trap.tepc, tinsn := s.lc.trap.tinsn
    drpcV := s.lc.trap.drpcV, uh := s.lc.trap.uh, uv := s.lc.trap.uv, uk := s.lc.trap.uk
    frecIdx := s.lc.trap.frecIdx, rlost := s.lc.trap.rlost } = s.lc.trap

/-- A report of the scalar unit goes to the supervisor: its cause does, or the LC has no user handler that could take
it, or one is active, or the LC is at supervisor level (R267, R275). -/
def State.SuperTakes (s : State) (c : Cause) : Prop :=
  (c.toUser = false ∨ s.lc.trap.tvec = 0 ∨ s.lc.trap.uh = true ∨ s.super = true) ∧ s.core.stvec ≠ 0

/-- A report goes to the LC's user handler (R267). -/
def State.UserTakes (s : State) (c : Cause) : Prop :=
  c.toUser = true ∧ s.lc.trap.tvec ≠ 0 ∧ s.lc.trap.uh = false ∧ s.super = false

/-! ### Accesses of the scalar unit -/

/-- The byte `i` bytes after a location, as memory or the scratchpad holds it. -/
def State.byteAt (s : State) (l : Loc) (i : Nat) : Byte :=
  match l with
  | .window o => Memory.get s.core.scratch (o + i)
  | .phys p _ => Memory.get s.dev.mem (p + i)

/-- An aligned access of `n` bytes at `va` that reaches location `l` at once: it translates, is not watched (R286),
waits for no V-stream access (R169, R170), no bank command (R180) and no store of the LC's own that still waits (R168,
R175); a store meets no failing link (R319), and when the scalar unit runs ahead the access does not go to the host
(R308). -/
structure State.Reaches (s : State) (k : Acc) (isStore isLoad : Bool) (va : Dword) (n : Nat) (l : Loc) : Prop where
  aligned : va.toNat % n = 0
  located : s.locate s.super k va = .ok l
  unwatched : s.watched s.super isStore isLoad va n = false
  streams : s.scalarWaits va n = false
  bank : s.bankWaits l = false
  stores : ∀ y ∈ s.lc.stores, y.meets l n = false ∧ (isStore = true → y.release = false)
  link : isStore = true → s.linkBad l = false
  local_ : ¬(s.runAhead = true ∧ l.isHost = true)

/-- The granule a load reads is neither uncorrectable nor poisoned (R283, R285). -/
def State.CleanAt (s : State) (l : Loc) : Prop := s.badAt l = false ∧ s.poisonAt l = false

/-- An aligned store of `n` bytes at `va` that raises nothing: it translates, is not watched (R286), and meets no failing
link (R319). -/
structure State.StoreAt (s : State) (va : Dword) (n : Nat) (l : Loc) : Prop where
  aligned : va.toNat % n = 0
  located : s.locate s.super .store va = .ok l
  unwatched : s.watched s.super true false va n = false
  link : s.linkBad l = false

/-- The granule of a location: in the scratchpad or in memory, and its number. -/
def Loc.granule : Loc → Bool × Nat
  | .window o => (true, o / 64)
  | .phys p _ => (false, p / 64)

/-- `v` is the little-endian value of the `n` bytes an LC reads at `l`, extended with its sign or with zeros
(R92, R104). -/
def State.Loaded (s : State) (l : Loc) (n : Nat) (signed : Bool) (v : Dword) : Prop :=
  (∀ i, i < n → v.extractLsb' (8 * i) 8 = s.readByte l i)
    ∧ ∀ j, 8 * n ≤ j → j < 64 → v.getLsbD j = (signed && v.getLsbD (8 * n - 1))

/-- From `s` to `t`: the `n` bytes at `l` are the low bytes of `v`, lowest address first, every other byte of memory
and scratchpad is as it was, execution goes on with the next word, and nothing else changed but the poison and errors
of what was written, scrubs it cancels and monitors it wakes (R185, R187, R285). -/
structure State.Stored (s t : State) (l : Loc) (n : Nat) (v : Dword) : Prop where
  bytes : ∀ i, i < n → t.byteAt l i = v.extractLsb' (8 * i) 8
  memory : ∀ a, (∀ p e, l = .phys p e → a < p ∨ p + n ≤ a) → Memory.get t.dev.mem a = Memory.get s.dev.mem a
  scratch : ∀ a, (∀ o, l = .window o → a < o ∨ o + n ≤ a) →
    Memory.get t.core.scratch a = Memory.get s.core.scratch a
  lc : { s.lc with pc := s.lc.pc + 4 } = t.lc
  core : { t.core with
    scratch := s.core.scratch, scratchPoison := s.core.scratchPoison
    scratchError := s.core.scratchError } = s.core
  dev : { t.dev with
    mem := s.dev.mem, memPoison := s.dev.memPoison, memError := s.dev.memError, l2Error := s.dev.l2Error
    scrubs := s.dev.scrubs, monitors := s.dev.monitors } = s.dev
  rest : { t with lc := s.lc, core := s.core, dev := s.dev, retired := s.retired } = s

/-! ### A stream instruction on its own -/

/-- The LC in focus owns its vector state and nothing else is under way in its streams, which the model follows in order
(log 3): an instruction that is handed off executes in the same step. -/
structure State.Alone (s : State) : Prop where
  inOrder : s.runAhead = false
  owner : s.owns = true
  queue : s.part.vqueue = []
  matrix : s.part.mslot = none
  stalled : s.lc.vstalled = none
  begun : s.part.done = false
  stores : s.lc.stores = []
  kqueue : s.lc.kqueue = []
  context : s.lc.ctx = none
  copies : ∀ h : Fin 4, (s.lc.chans[h]).cmds = []
  bqueue : s.lc.bqueue = []
  sequencers : s.dev.seqs = []
  slots : ∀ x ∈ s.dev.slots, x.st ≠ .opening ∧ x.st ≠ .released
  start : s.lc.vstart = 0
  row : s.lc.epr = 0
  hosts : ∀ r ∈ s.dev.hostReqs, r.who ≠ s.lc.key
  updates : s.dev.scUpdates = []

/-- No register a vector instruction reads is poisoned, nor its governing mask (R285, R356). -/
def State.CleanRegs (s : State) (l : List VReg) : Prop :=
  (∀ r ∈ l, s.part.vPoison[r.toNat] = 0) ∧ (s.lc.vec.vmsel ≠ 8 → s.kpois s.lc.vec.vmsel.toNat = 0)

/-- Whether element `i` is active in an unplaced instruction from element 0 (R104). -/
def State.activeAt (s : State) (i : Nat) : Bool :=
  decide (i < s.lc.vec.vl.toNat) && (s.lc.vec.vmsel == 8 || (s.kreg s.lc.vec.vmsel.toNat).getLsbD i)

/-- The active elements, ascending. -/
def State.activeList (s : State) : List Nat := (List.range s.lc.vec.vl.toNat).filter s.activeAt

/-- From `s` to `t` the elements of width `w` of `d` that have a new value received it; the other elements, the other
vector registers and the mask registers are as they were. -/
structure State.WroteElems (s t : State) (d : VReg) (w : Nat) (val : Nat → Option Nat) : Prop where
  elems : ∀ j, j < 32768 / w → elem t.part.v[d.toNat] w j = match val j with
    | some x => x % 2 ^ w
    | none => elem s.part.v[d.toNat] w j
  others : ∀ r : VReg, r ≠ d →
    t.part.v[r.toNat] = s.part.v[r.toNat] ∧ t.part.vPoison[r.toNat] = s.part.vPoison[r.toNat]
  masks : t.part.k = s.part.k ∧ t.part.kPoison = s.part.kPoison

/-- The scalar unit's view of a vector instruction that has executed: the PC at the next word, VSTART 0, scalar
registers, controls, queues, memory and the core's registers as they were; of the partition only the v and k registers
and their poison may differ. -/
structure State.VectorDone (s t : State) : Prop where
  pc : t.lc.pc = s.lc.pc + 4
  start : t.lc.vstart = 0
  lc : { t.lc with
    pc := s.lc.pc, vstart := s.lc.vstart, fflags := s.lc.fflags, passed := s.lc.passed, q := s.lc.q
    pcval := s.lc.pcval, async := s.lc.async } = s.lc
  part : { t.part with
    v := s.part.v, vPoison := s.part.vPoison, k := s.part.k, kPoison := s.part.kPoison, rem := s.part.rem } = s.part
  rest : { t with lc := s.lc, part := s.part, retired := s.retired } = s

/-! ### The forms of MAJ 20 to 2B -/

/-- What an instruction of MAJ 20 to 2B asks of the scalar unit (R40, R86, R87, R103, R191, R192): whether it is
placed, whether its fields name registers and types it accepts, its widest element, what it does in its stream, the
scalar register it reads, carries or will write, the k register of its head flags, and the bounds on VL. -/
structure VForm where
  placed : Bool
  ok : Bool
  bits : Nat
  op : VOp
  read : Option SReg := none
  carry : Option SReg := none
  write : Option SReg := none
  heads : Option VReg := none
  perK : Bool := false
  governed : Bool := true
  twoD : Bool := false
  maxVl : Nat := 8192

/-- The forms of MAJ 20 to 2B (R355, R399 to R402, R404 to R409, R411, R412, R414, R416 to R423). -/
def vform : Instr → Option VForm
  | .vadd p d a b t => some {
      placed := p, ok := vecOk p d && vecOk p a && vecOk p b && tyFI t, bits := t.regBits, op := .bin .add d a b t }
  | .vsub p d a b t => some {
      placed := p, ok := vecOk p d && vecOk p a && vecOk p b && tyFI t, bits := t.regBits, op := .bin .sub d a b t }
  | .vmul p d a b t => some {
      placed := p, ok := vecOk p d && vecOk p a && vecOk p b && tyFI t, bits := t.regBits, op := .bin .mul d a b t }
  | .vdiv p d a b t => some {
      placed := p, ok := vecOk p d && vecOk p a && vecOk p b && (tyWideF t || tyI t), bits := t.regBits
      op := .bin .div d a b t }
  | .vmin p d a b t => some {
      placed := p, ok := vecOk p d && vecOk p a && vecOk p b && tyFI t, bits := t.regBits, op := .bin .min d a b t }
  | .vmax p d a b t => some {
      placed := p, ok := vecOk p d && vecOk p a && vecOk p b && tyFI t, bits := t.regBits, op := .bin .max d a b t }
  | .vand p d a b t => some {
      placed := p, ok := vecOk p d && vecOk p a && vecOk p b && tyI t, bits := t.regBits, op := .bin .and d a b t }
  | .vor p d a b t => some {
      placed := p, ok := vecOk p d && vecOk p a && vecOk p b && tyI t, bits := t.regBits, op := .bin .or d a b t }
  | .vxor p d a b t => some {
      placed := p, ok := vecOk p d && vecOk p a && vecOk p b && tyI t, bits := t.regBits, op := .bin .xor d a b t }
  | .vshl p d a b t => some {
      placed := p, ok := vecOk p d && vecOk p a && vecOk p b && tyI t, bits := t.regBits, op := .bin .shl d a b t }
  | .vshr p d a b t => some {
      placed := p, ok := vecOk p d && vecOk p a && vecOk p b && tyI t, bits := t.regBits, op := .bin .shr d a b t }
  | .vsra p d a b t => some {
      placed := p, ok := vecOk p d && vecOk p a && vecOk p b && tyI t, bits := t.regBits, op := .bin .sra d a b t }
  | .vaddVs p d a b t => some {
      placed := p, ok := vecOk p d && vecOk p a && tyFI t, bits := t.regBits, op := .binS .add d a t, read := some b }
  | .vsubVs p d a b t => some {
      placed := p, ok := vecOk p d && vecOk p a && tyFI t, bits := t.regBits, op := .binS .sub d a t, read := some b }
  | .vmulVs p d a b t => some {
      placed := p, ok := vecOk p d && vecOk p a && tyFI t, bits := t.regBits, op := .binS .mul d a t, read := some b }
  | .vdivVs p d a b t => some {
      placed := p, ok := vecOk p d && vecOk p a && (tyWideF t || tyI t), bits := t.regBits, op := .binS .div d a t
      read := some b }
  | .vminVs p d a b t => some {
      placed := p, ok := vecOk p d && vecOk p a && tyFI t, bits := t.regBits, op := .binS .min d a t, read := some b }
  | .vmaxVs p d a b t => some {
      placed := p, ok := vecOk p d && vecOk p a && tyFI t, bits := t.regBits, op := .binS .max d a t, read := some b }
  | .vandVs p d a b t => some {
      placed := p, ok := vecOk p d && vecOk p a && tyI t, bits := t.regBits, op := .binS .and d a t, read := some b }
  | .vorVs p d a b t => some {
      placed := p, ok := vecOk p d && vecOk p a && tyI t, bits := t.regBits, op := .binS .or d a t, read := some b }
  | .vxorVs p d a b t => some {
      placed := p, ok := vecOk p d && vecOk p a && tyI t, bits := t.regBits, op := .binS .xor d a t, read := some b }
  | .vshlVs p d a b t => some {
      placed := p, ok := vecOk p d && vecOk p a && tyI t, bits := t.regBits, op := .binS .shl d a t, read := some b }
  | .vshrVs p d a b t => some {
      placed := p, ok := vecOk p d && vecOk p a && tyI t, bits := t.regBits, op := .binS .shr d a t, read := some b }
  | .vsraVs p d a b t => some {
      placed := p, ok := vecOk p d && vecOk p a && tyI t, bits := t.regBits, op := .binS .sra d a t, read := some b }
  | .vbcast p d b t => some {
      placed := p, ok := vecOk p d && tyMove t, bits := t.regBits, op := .bcast d t, carry := some b }
  | .vslide p d a b t => some {
      placed := p, ok := vecOk p d && vecOk p a && tyMove t, bits := t.regBits, op := .slide d a t, read := some b }
  | .vextract p a d t => some {
      placed := p, ok := vecOk p a && tyMove t, bits := t.regBits, op := .extract d a t, write := some d
      governed := false }
  | .vma p d a b t => some {
      placed := p, ok := vecOk p d && vecOk p a && vecOk p b && tyFI t, bits := t.regBits, op := .tern .ma d a b t }
  | .vms p d a b t => some {
      placed := p, ok := vecOk p d && vecOk p a && vecOk p b && tyFI t, bits := t.regBits, op := .tern .ms d a b t }
  | .vnma p d a b t => some {
      placed := p, ok := vecOk p d && vecOk p a && vecOk p b && tyFI t, bits := t.regBits, op := .tern .nma d a b t }
  | .vneg p d a t => some {
      placed := p, ok := vecOk p d && vecOk p a && tyFI t, bits := t.regBits, op := .un .neg d a t }
  | .vabs p d a t => some {
      placed := p, ok := vecOk p d && vecOk p a && tyFI t, bits := t.regBits, op := .un .abs d a t }
  | .vsqrt p d a t => some {
      placed := p, ok := vecOk p d && vecOk p a && tyWideF t, bits := t.regBits, op := .un .sqrt d a t }
  | .vrcp p d a t => some {
      placed := p, ok := vecOk p d && vecOk p a && tyF32 t, bits := t.regBits, op := .un .rcp d a t }
  | .vrsq p d a t => some {
      placed := p, ok := vecOk p d && vecOk p a && tyF32 t, bits := t.regBits, op := .un .rsq d a t }
  | .vexp2 p d a t => some {
      placed := p, ok := vecOk p d && vecOk p a && tyF32 t, bits := t.regBits, op := .un .exp2 d a t }
  | .vlog2 p d a t => some {
      placed := p, ok := vecOk p d && vecOk p a && tyF32 t, bits := t.regBits, op := .un .log2 d a t }
  | .vclass p d a t => some {
      placed := p, ok := vecOk p d && vecOk p a && tyF t, bits := t.regBits, op := .un .cls d a t }
  | .vmov p d a t => some {
      placed := p, ok := vecOk p d && vecOk p a && tyMove t, bits := t.regBits, op := .un .mov d a t }
  | .viota p d t => some { placed := p, ok := vecOk p d && tyI t, bits := t.regBits, op := .iota d t }
  | .vcvt p d a sat e t => some {
      placed := p, ok := vecOk p d && vecOk p a && cvtPair e t, bits := max e.regBits t.regBits
      op := .cvt d a sat e t, maxVl := cvtMax p e t }
  | .vcmp p k a b t c => some {
      placed := p, ok := vecOk p a && vecOk p b && kOk k && tyFI t, bits := t.regBits, op := .cmp k a b t c
      perK := true }
  | .vsel p d a b t => some {
      placed := p, ok := vecOk p d && vecOk p a && vecOk p b && tyMove t, bits := t.regBits, op := .sel d a b t }
  | .vperm p d a b t => some {
      placed := p, ok := vecOk p d && vecOk p a && vecOk p b && tyMove t, bits := t.regBits, op := .perm d a b t }
  | .vcompress p d a t => some {
      placed := p, ok := vecOk p d && vecOk p a && tyMove t, bits := t.regBits, op := .compress d a t }
  | .vqsend p a q t => some {
      placed := p, ok := vecOk p a && tyMove t && decide (4 ≤ q.toNat), bits := t.regBits, op := .qsend q a t
      governed := false }
  | .vqrecv p d q t => some {
      placed := p, ok := vecOk p d && tyMove t && decide (q.toNat < 4), bits := t.regBits, op := .qrecv d q t }
  | .vredsum p d a b t g => some {
      placed := p, ok := vecOk p d && vecOk p a && (tyFI t && (!g || kOk b)), bits := t.regBits
      op := .red .sum d a b t g, heads := if g then some b else none, perK := g }
  | .vredosum p d a b t g => some {
      placed := p, ok := vecOk p d && vecOk p a && (tyFI t && (!g || kOk b)), bits := t.regBits
      op := .red .osum d a b t g, heads := if g then some b else none, perK := g }
  | .vredmax p d a b t g => some {
      placed := p, ok := vecOk p d && vecOk p a && (tyFI t && (!g || kOk b)), bits := t.regBits
      op := .red .max d a b t g, heads := if g then some b else none, perK := g }
  | .vredmin p d a b t g => some {
      placed := p, ok := vecOk p d && vecOk p a && (tyFI t && (!g || kOk b)), bits := t.regBits
      op := .red .min d a b t g, heads := if g then some b else none, perK := g }
  | .vargmax p d a b t g => some {
      placed := p, ok := vecOk p d && vecOk p a && (tyFI t && (!g || kOk b)), bits := t.regBits
      op := .red .argmax d a b t g, heads := if g then some b else none, perK := g }
  | .vargmin p d a b t g => some {
      placed := p, ok := vecOk p d && vecOk p a && (tyFI t && (!g || kOk b)), bits := t.regBits
      op := .red .argmin d a b t g, heads := if g then some b else none, perK := g }
  | .vscan p d a b t g => some {
      placed := p, ok := vecOk p d && vecOk p a && (tyFI t && (!g || kOk b)), bits := t.regBits
      op := .red .scan d a b t g, heads := if g then some b else none, perK := g }
  | .kand k a b => some {
      placed := false, ok := kOk k && kOk a && kOk b, bits := 8, op := .mask .and k a b, perK := true
      governed := false }
  | .kor k a b => some {
      placed := false, ok := kOk k && kOk a && kOk b, bits := 8, op := .mask .or k a b, perK := true
      governed := false }
  | .kxor k a b => some {
      placed := false, ok := kOk k && kOk a && kOk b, bits := 8, op := .mask .xor k a b, perK := true
      governed := false }
  | .knot k a => some {
      placed := false, ok := kOk k && kOk a, bits := 8, op := .mask .not k a 0, perK := true, governed := false }
  | .kmov k a => some {
      placed := false, ok := kOk k && kOk a, bits := 8, op := .mask .mov k a 0, perK := true, governed := false }
  | .kpop a d => some {
      placed := false, ok := kOk a, bits := 8, op := .kscalar false d a, write := some d, perK := true }
  | .kfirst a d => some {
      placed := false, ok := kOk a, bits := 8, op := .kscalar true d a, write := some d, perK := true }
  | .vld p r a m k o y => some {
      placed := p, ok := tyMove y && vtOk p r m && (modeRegs p m).all (·.2), bits := y.regBits
      op := .load r m k o y, read := some a, twoD := m == .tile }
  | .vst p r a m k o y => some {
      placed := p, ok := tyMove y && vtOk p r m && (modeRegs p m).all (·.2), bits := y.regBits
      op := .store r m k o y, read := some a, twoD := m == .tile }
  | .vamo p r a c k o y x => some {
      placed := p, ok := vecOk p r && vecOk p x && vamoType c y, bits := y.regBits, op := .atomic c r x true k o y
      read := some a }
  | .vamon p r a c k o y x => some {
      placed := p, ok := vecOk p r && vecOk p x && vamoType c y, bits := y.regBits
      op := .atomic c r x false k o y, read := some a }
  | _ => none

/-- The conditions under which a form is handed off at once (R40, R46, R86, R87, R103, R191, R287): its fields are good,
the LC owns its vector state, a context is bound for a placed form, VL meets its bounds, the scalar operand is readable
and the destination writable, and the stream has room; a placed form stands in no loop and no earlier instruction has
still to write the k registers it captures, which are clean. -/
structure VForm.Ready (f : VForm) (s : State) : Prop where
  ok : f.ok = true
  owner : s.owns = true
  bound : f.placed = true → s.lc.saff.getLsbD 63 = true
  vl : s.lc.vec.vl.toNat ≤ (if f.placed then 8192 else 32768) / f.bits
  count : (if f.twoD then s.lc.vec.vl.toNat * s.lc.vec.rowcnt.toNat else s.lc.vec.vl.toNat)
    ≤ (if f.placed then 8192 else 32768) / f.bits
  mask : f.perK = true ∨ (f.governed = true ∧ s.lc.vec.vmsel ≠ 8) →
    (if f.twoD then s.lc.vec.vl.toNat * s.lc.vec.rowcnt.toNat else s.lc.vec.vl.toNat) ≤ 1024
  most : s.lc.vec.vl.toNat ≤ f.maxVl
  read : ∀ r, f.read = some r → s.Readable r
  carry : ∀ r, f.carry = some r → s.Writable r
  write : ∀ r, f.write = some r → s.Writable r
  room : if f.placed then s.lc.kqueue.length < 32 else s.part.vqueue.length < 32
  loops : f.placed = true → s.lc.loops = []
  masks : f.placed = true → ∀ k, (s.lc.vec.vmsel ≠ 8 ∧ k = s.lc.vec.vmsel.toNat) ∨ (∃ b, f.heads = some b ∧ k = b.toNat) →
    s.kBusy k = false ∧ s.kpois k = 0

/-- An elementwise operation: its destination, the width of an element it writes, the registers it reads and the
width at which it reads them, and the value and flags of an active element. -/
structure Lanes where
  d : VReg
  bits : Nat
  srcs : List VReg
  width : Nat
  val : Nat → Nat × Flags

/-- The elementwise operations (R399, R401, R404, R409, R414) on the registers of `s`, with the scalar operand `x`
truncated to the element's width; VCVT between types other than class M. -/
def State.lanes (s : State) (x : Dword) (op : VOp) : Option Lanes :=
  let el (r : VReg) (t : Ty) (i : Nat) : Nat := elem s.part.v[r.toNat] t.bits i
  let mode := s.lc.vec.frm.toNat
  match op with
  | .bin o d a b t => some ⟨d, t.bits, [a, b], t.bits, fun i => vbin o t mode (el a t i) (el b t i)⟩
  | .binS o d a t => some ⟨d, t.bits, [a], t.bits, fun i => vbin o t mode (el a t i) (x.toNat % 2 ^ t.bits)⟩
  | .tern o d a b t => some ⟨d, t.bits, [a, b, d], t.bits, fun i => vtern o t mode (el a t i) (el b t i) (el d t i)⟩
  | .un .mov _ _ _ => none
  | .un o d a t => some ⟨d, t.bits, [a], t.bits, fun i => vun o t mode (el a t i)⟩
  | .iota d t => some ⟨d, t.bits, [], t.bits, fun i => (i % 2 ^ t.bits, 0)⟩
  | .cvt d a sat e t =>
    if e.cls = .M ∨ t.cls = .M then none else some ⟨d, t.bits, [a], e.bits, fun i => vcvt sat e t mode (el a e i)⟩
  | _ => none

/-- The scalar operand of a form. -/
def State.operand (s : State) (f : VForm) : Dword := (f.read.map s.getS).getD 0

/-! ### Vector memory accesses -/

/-- The address of field `j` of element `i` of an unplaced access with base `b` (R156, R412); element `i` of am 4 counts
row by row. -/
def State.elemAddr (s : State) (m : AMode) (y : Ty) (b : Dword) (i j : Nat) : Dword :=
  let off (n : Nat) : Dword := BitVec.ofNat 64 n
  match m with
  | .unit | .stream _ => b + off (i * y.bytes)
  | .strided => b + off i * s.lc.vec.vstride
  | .indexed x => b + indexOffset y (elem s.part.v[x.toNat] y.bits i)
  | .segment f => b + off ((i * (f.toNat + 1) + j) * y.bytes)
  | .tile => b + off (i / s.lc.vec.vl.toNat) * s.lc.vec.rowpitch + off (i % s.lc.vec.vl.toNat * y.bytes)

/-- Whether element `i` of an access is active (R104, R156). -/
def State.activeIn (s : State) (m : AMode) (i : Nat) : Bool :=
  decide (i < (if m = .tile then s.lc.vec.vl.toNat * s.lc.vec.rowcnt.toNat else s.lc.vec.vl.toNat))
    && (s.lc.vec.vmsel == 8 || (s.kreg s.lc.vec.vmsel.toNat).getLsbD i)

/-- Where a location lies: the scratchpad or memory, and the offset. -/
def Loc.place : Loc → Bool × Nat
  | .window o => (false, o)
  | .phys p _ => (true, p)

/-- `n` bytes at one location share none with `n` bytes at another. -/
def Loc.apart (l m : Loc) (n : Nat) : Prop :=
  l.place.1 ≠ m.place.1 ∨ l.place.2 + n ≤ m.place.2 ∨ m.place.2 + n ≤ l.place.2

/-- An access of an element at `va` that reaches `l`: it is aligned, translates, is not watched, and a
store meets no failing link (R104, R286, R319). -/
structure State.ElemAt (s : State) (k : Acc) (isStore isLoad : Bool) (y : Ty) (va : Dword) (l : Loc) : Prop where
  aligned : va.toNat % y.bytes = 0
  located : s.locate s.super k va = .ok l
  unwatched : s.watched s.super isStore isLoad va y.bytes = false
  link : isStore = true → s.linkBad l = false

/-- Every active access of an instruction reaches its location. -/
def State.AllAt (s : State) (k : Acc) (isStore isLoad : Bool) (m : AMode) (y : Ty) (b : Dword) (loc : Nat → Nat → Loc) :
    Prop :=
  ∀ i j, s.activeIn m i = true → j < modeFields m → s.ElemAt k isStore isLoad y (s.elemAddr m y b i j) (loc i j)

/-- The scalar unit's view of a vector memory instruction that has executed: PC at the next word, VSTART and EPR 0,
everything else of the LC, the partition, the core and the device as it was, but for vector registers and memory with
its poison, errors, scrubs and monitors. -/
structure State.VectorMemDone (s t : State) : Prop where
  pc : t.lc.pc = s.lc.pc + 4
  start : t.lc.vstart = 0 ∧ t.lc.epr = 0
  lc : { t.lc with
    pc := s.lc.pc, vstart := s.lc.vstart, epr := s.lc.epr, passed := s.lc.passed, contain := s.lc.contain
    pcval := s.lc.pcval, async := s.lc.async } = s.lc
  part : { t.part with v := s.part.v, vPoison := s.part.vPoison, rem := s.part.rem } = s.part
  core : { t.core with
    scratch := s.core.scratch, scratchPoison := s.core.scratchPoison
    scratchError := s.core.scratchError } = s.core
  dev : { t.dev with
    mem := s.dev.mem, memPoison := s.dev.memPoison, memError := s.dev.memError, l2Error := s.dev.l2Error
    scrubs := s.dev.scrubs, monitors := s.dev.monitors } = s.dev
  rest : { t with lc := s.lc, part := s.part, core := s.core, dev := s.dev, retired := s.retired } = s

/-- Bytes that lie in none of the accesses are as they were. -/
def State.OthersKept (s t : State) (m : AMode) (n : Nat) (loc : Nat → Nat → Loc) : Prop :=
  (∀ a, (∀ i j p e, s.activeIn m i = true → j < modeFields m → loc i j = .phys p e → a < p ∨ p + n ≤ a) →
    Memory.get t.dev.mem a = Memory.get s.dev.mem a)
  ∧ ∀ a, (∀ i j o, s.activeIn m i = true → j < modeFields m → loc i j = .window o → a < o ∨ o + n ≤ a) →
    Memory.get t.core.scratch a = Memory.get s.core.scratch a

/-! ### Stream instructions that write no vector register -/

/-- The scalar unit's view of a stream instruction that has executed and writes no scalar register: PC at the next word,
VSTART 0, everything else of the LC, the device and the machine as it was; the partition and the core are said apart. -/
structure State.StreamDone (s t : State) : Prop where
  pc : t.lc.pc = s.lc.pc + 4
  start : t.lc.vstart = 0
  lc : { t.lc with
    pc := s.lc.pc, vstart := s.lc.vstart, passed := s.lc.passed, pcval := s.lc.pcval, async := s.lc.async } = s.lc
  rest : { t with lc := s.lc, part := s.part, core := s.core, retired := s.retired } = s

/-! ### Tiles -/

/-- The partition's tiles fit their segments: no segment twice, room for every region, and a captured shape within its
region (R236, R237). -/
structure State.TilesOk (s : State) : Prop where
  segs : s.part.grant.segs.Nodup
  room : (s.part.grant.cfg.toList.map TCfg.size).sum ≤ 65536 * s.part.grant.segs.length
  rows : ∀ t : Fin 8, s.lc.tcfg[t].rows.toNat ≤ s.part.grant.cfg[t].rows.toNat
  cols : ∀ t : Fin 8, pitchOf s.lc.tcfg[t].cols.toNat s.lc.tcfg[t].type ≤ s.part.grant.pitch t

/-- No granule of the partition's tiles is uncorrectable or poisoned. -/
def State.TilesClean (s : State) : Prop := s.core.segError = [] ∧ s.tilePoison = 0

/-- The `w`-byte unit `c` of row `r` of a tile's region. -/
def State.tileUnit (s : State) (t : Nat) (w r c : Nat) : Nat :=
  getE s.tiles (8 * w) ((s.part.grant.base t + r * s.part.grant.pitch t) / w + c)

/-- The bytes one access of TLD or TST moves, and the accesses of a row of `n` elements: elements, or bytes in class M
(R239). -/
def tileUnits (y : Ty) (n : Nat) : Nat × Nat := if y.cls = .M then (1, packedBytes y n) else (y.bytes, n)

/-- The value a product gives element (i, j) of its accumulator (R137, R243, R244): A and B elements of tiles `a` and
`b` in the formats `fa` and `fb`, and for MMAX the scales of tiles `a` + 1 and `b` + 1. -/
def State.productAt (s : State) (c : AccReg) (a b : Nat) (x y : Ty) (fa fb : Fmt) (mx sat : Bool) (i j : Nat) : Nat :=
  let scale (q : Nat) : Option Int :=
    if !mx then some 0
    else match e8m0 (s.tileElem s.tiles (a + 1) .n8 i q), e8m0 (s.tileElem s.tiles (b + 1) .n8 q j) with
      | some u, some v => some (u + v)
      | _, _ => none
  matElem sat (getE (s.acc c).toNat 32 (128 * i + j))
    (fun d => matTerm (scale (d / 32)) (fa.val (s.tileElem s.tiles a x i d)) (fb.val (s.tileElem s.tiles b y d j)))
    (s.tcfgOf a).cols.toNat

/-! ### Generation and journal accesses -/

/-- An access of `w` bytes of a generation or journal instruction that reaches `l`: it translates, is not watched,
meets no failing link, and where it reads, its granule is clean (R249, R285, R286, R319). -/
structure State.GenAt (s : State) (k : Acc) (reads : Bool) (w : Nat) (va : Dword) (l : Loc) : Prop where
  located : s.locate s.super k va = .ok l
  unwatched : s.watched s.super (k != .load) (reads || k == .load) va w = false
  clean : (reads || k == .load) = true → s.CleanAt l
  link : s.linkBad l = false

/-- The unmasking header that UMDIRTY names is valid and lies at `l` (R261, R262). -/
structure State.HeaderAt (s : State) (l : Loc) (h : UmHeader) : Prop where
  reached : s.GenAt .load false 64 (s.lc.gen.umdirty.setWidth 64) l
  tokens : h.tokens.toNat = s.readLoc l 64 % 2 ^ 64 ∧ h.tokens.toNat % 4 = 0
  posn : h.posn = s.readLoc l 64 / 2 ^ 64 % 2 ^ 32 ∧ h.posn % 512 = 0 ∧ 512 ≤ h.posn ∧ h.posn ≤ 16777216
  seqs : h.seqs = s.readLoc l 64 / 2 ^ 96 % 2 ^ 32 ∧ 1 ≤ h.seqs ∧ h.seqs ≤ 1048576
  rest : s.readLoc l 64 / 2 ^ 128 = 0

/-- Every byte of memory but those of the `n`-byte accesses at locations of `P` is as it was. -/
def State.KeptBut (s t : State) (P : Loc → Nat → Prop) : Prop :=
  (∀ a, (∀ p e n, P (.phys p e) n → a < p ∨ p + n ≤ a) → Memory.get t.dev.mem a = Memory.get s.dev.mem a)
  ∧ ∀ a, (∀ o n, P (.window o) n → a < o ∨ o + n ≤ a) → Memory.get t.core.scratch a = Memory.get s.core.scratch a

/-! ### The canonical form of memory -/

/-- Memory of the device, the scratchpad of every core and the firmware images are in canonical form. -/
def State.MemOk (s : State) : Prop :=
  Memory.wf s.dev.mem = true ∧ Memory.wf s.core.scratch = true ∧ (∀ c ∈ s.cores, Memory.wf c.scratch = true)
    ∧ Memory.wf s.dev.mgmt.recovery = true ∧ Memory.wf s.dev.mgmt.flash = true

/-! ### Saved frames and the end of tasks -/

/-- `n` granules from `va` on, as the supervisor reaches them, lie apart at physical addresses of memory that no write
to memory, and no change to what the LC holds in units of its own, makes another (R289, R302). -/
structure State.AreaAt (s : State) (k : Acc) (va : Dword) (n : Nat) (loc : Nat → Nat) : Prop where
  links : ∀ i, i < n → loc i / 64 ∉ s.dev.linkError
  apart : ∀ i j, i < j → j < n → loc i + 64 ≤ loc j ∨ loc j + 64 ≤ loc i
  held : ∀ (i : Nat) (u : State), i < n → u.space true = s.space true → u.dev.combines = s.dev.combines →
    u.dev.hbm = s.dev.hbm → u.dev.member = s.dev.member → u.dev.reachable = s.dev.reachable →
    ∃ e, u.locate true k (va + BitVec.ofNat 64 (64 * i)) = .ok (.phys (loc i) e)

/-- Byte `b` of granule `i` of an area, in memory. -/
def State.areaByte (t : State) (loc : Nat → Nat) (i b : Nat) : Byte := Memory.get t.dev.mem (loc i + b)

/-- Only the `n` granules of an area differ between the memories of two states. -/
def State.KeptButArea (s t : State) (n : Nat) (loc : Nat → Nat) : Prop :=
  ∀ a, (∀ i, i < n → a < loc i ∨ loc i + 64 ≤ a) → Memory.get t.dev.mem a = Memory.get s.dev.mem a

/-- Register n of a saved scalar frame lies in bytes 0 to 7 of its granule n, with zeros above (R290). -/
def State.SavedRegs (s t : State) (loc : Nat → Nat) : Prop :=
  ∀ r b : Nat, r < 64 → b < 64 → t.areaByte loc r b = if b < 8 then (s.lc.s[r]?.getD 0).extractLsb' (8 * b) 8 else 0

/-- From `s` to `t` the live task `seq` has ended abnormally with a code (R33): its LCs have stopped, its dependants have
ended without starting, what it held is released, and no other LC, partition or task of its own is changed. -/
structure State.EndedTask (s t : State) (seq code : Nat) : Prop where
  task : ∃ w, t.dev.task seq = some w ∧ ∃ strip, w.ended = some (stateAbnormal, code, 0, strip)
  dependants : ∀ w ∈ s.dev.tasks, w.seq ≠ seq → seq ∈ w.deps → w.ended = none →
    ∃ x ∈ t.dev.tasks, x.seq = w.seq ∧ ∃ dep, x.ended = some (stateDependence, 0, dep, none)
  others : ∀ w ∈ s.dev.tasks, (∀ x ∈ s.dev.tasks, x.seq ∉ w.deps) → w.seq ≠ seq → w ∈ t.dev.tasks
  stopped : ∀ l ∈ t.allLcs, l.key.task = seq → l.status = .exited ∨ l.status = .absent
  kept : ∀ l ∈ s.allLcs, l.key.task ≠ seq → l ∈ t.allLcs
  pins : ∀ x ∈ t.dev.slots, ∀ k, x.holder = some k → k.task ≠ seq
  contexts : ∀ u ∈ t.dev.ctxUses, u.owner.task ≠ seq
  owners : ∀ p ∈ t.part :: t.parts, ∀ k, p.ownerKey = some k → k.task ≠ seq
  rest : t.core = s.core ∧ t.cores = s.cores ∧ t.dev.mem = s.dev.mem ∧ t.dev.funcs = s.dev.funcs
    ∧ t.dev.mgmt = s.dev.mgmt ∧ t.agenda = s.agenda

/-! ### The LC in focus -/

/-- The LC in focus is resident on the partition and the core in focus, and is told apart from every other LC (R37). -/
structure State.Focused (s : State) : Prop where
  resident : s.lc.status = .resident
  onPart : s.lc.core = s.part.core ∧ s.lc.partNo = s.part.no ∧ s.part.no < 8
  onCore : s.core.no = s.part.core
  others : ∀ l ∈ s.lcs, l.key ≠ s.lc.key ∧ l.status ≠ .absent
    ∧ ¬(l.status = .resident ∧ l.core = s.part.core ∧ l.partNo = s.part.no)

end Sys2Proof.Machine
end

