-- ==== Sys2Proof/Certificates/Slice0/Obligations.lean ====
section
/-! DEFINITION. Obligations.lean: what is claimed of the machine, from the numbered rules of the specification. -/

open Sys2Proof Sys2Proof.Machine

/-! ### Encoding, the step and reset -/

/-- Decode and encode agree (04): every well-formed instruction with an encoding is read back from its word, with every
operand at every value. -/
def Obligations.DecodeEncode : Prop := ∀ i : Instr, i.wf = true → decode (encode i) = .ok i

/-- R88 to R102: words that the reference gives as examples decode to the instructions they stand for, with their
operands: one of each of the formats S, SI, SU, SB, SM, SA, SC, SN, V, VS, VM, T, X, K and Y, and of the row lines. -/
def Obligations.ImageWords : Prop :=
  decode 0x0450_8400 = .ok (.add 5 2 4) ∧ decode 0x0820_0009 = .ok (.addi 2 0 9)
  ∧ decode 0x1C51_A03F = .ok (.srai 5 6 63) ∧ decode 0x20C0_FE00 = .ok (.lui 12 0xFE00)
  ∧ decode 0x2841_7000 = .ok (.ld 4 5 3 false 0) ∧ decode 0x2831_8FFF = .ok (.ld 3 6 0 true 0x7FF)
  ∧ decode 0x2C22_A008 = .ok (.st 2 10 2 8) ∧ decode 0x3841_A455 = .ok (.amo 4 6 2 1 5 .min)
  ∧ decode 0x4440_3FFD = .ok (.bne 4 0 0x3FFD) ∧ decode 0x5810_000A = .ok (.jal 1 10)
  ∧ decode 0x6061_C829 = .ok (.fma 6 7 8 1) ∧ decode 0x6430_800B = .ok (.csrs 3 0x00B)
  ∧ decode 0x6841_4001 = .ok (.setvl 4 5 .f32) ∧ decode 0x73FF_F608 = .ok (.nexts 0x3FFF6)
  ∧ decode 0x8062_9C40 = .ok (.vadd false 6 5 7 .f32) ∧ decode 0x8403_0A12 = .ok (.vextract false 6 5 .f64)
  ∧ decode 0x8820_8C40 = .ok (.vma false 2 1 3 .f32) ∧ decode 0x9011_0C42 = .ok (.vcmp false 1 2 3 .f32 .lt)
  ∧ decode 0x9830_8864 = .ok (.vargmax false 3 1 2 .f32 true) ∧ decode 0x9C03_8C06 = .ok (.kfirst 7 6)
  ∧ decode 0xA031_1122 = .ok (.vld false 3 4 (.indexed 2) false false .n32)
  ∧ decode 0xA831_8022 = .ok (.vamo false 3 6 .add false false .f32 2)
  ∧ decode 0xC040_8004 = .ok (.tslice 4 2 false 0) ∧ decode 0xC411_E560 = .ok (.tld 1 7 true false .n8)
  ∧ decode 0xD042_FF10 = .ok (.mmax 1 0 2 .mx4 .mx4 false false true) ∧ decode 0xD462_4501 = .ok (.accwr 6 9 5)
  ∧ decode 0xE412_C004 = .ok (.skstrm 1 11) ∧ decode 0xE941_C002 = .ok (.rlstat 20 7)
  ∧ decode 0xEC20_D028 = .ok (.smpstep 2 1 40 .f32) ∧ decode 0xF0A2_CC00 = .ok (.jadd 10 11 12)
  ∧ decode 0xFC31_4200 = .ok (.erpl 5 2)

/-- R103, R25, R268, R302: with an empty agenda and the LC in focus resident and past its boundary, a step fetches the
four bytes at the PC, whose walk may fill the TLB. When they are the word of an instruction, the step is that instruction
executed, whose own access may fill it too (`State.touch`), and then the step's account (SINGLE_STEP of R286 and the
counts of R65 to R67 and R83, in `State.after`); when they are none, the decode trap is taken; an unaligned PC raises
MISALIGNED_FETCH. The agenda's next event, if there is one, is executed first, and its time passes. The agenda is the
model's own: log 3; what SINGLE_STEP counts is log 62, when walks fill the TLB log 4. -/
def Obligations.StepRunsDecoded : Prop :=
  (∀ (s : State) (i : Instr) (r : List Move), s.agenda = .event i :: r → i.isEvent = true →
    step s = match exec i { s with agenda := r } with
      | .next t => .next t.passTime
      | .fault e => .fault e
      | .refused e => .refused e)
  ∧ ∀ (s : State) (l : Loc) (w : IWord), s.agenda = [] → s.lc.status = .resident →
    let b := s.atBoundary
    let va : Dword := b.lc.pc.setWidth 64
    let c := b.coreWalk va
    let f := { c with ir := w }
    let u := { c with ir := 0 }
    b.boundary = none →
    (b.lc.pc.extractLsb' 0 2 = 0 → c.locate c.super .fetch va = .ok l → ¬(c.runAhead = true ∧ l.isHost = true) →
      c.badAt l = false → (∀ k, k < 4 → w.extractLsb' (8 * k) 8 = c.byteAt l k) →
      (∀ i, decode w = .ok i → step s = match exec i (f.touch i) with
        | .next t => .next (b.after t)
        | .fault e => .fault e
        | .refused e => .refused e)
      ∧ (decode w = .error .illegalOpcode → f.SuperTakes .illegalOpcode →
        ∃ t, step s = .next (b.after t) ∧ f.TrappedSuper t .illegalOpcode 0)
      ∧ (decode w = .error .placementUnsupported → f.SuperTakes .placementUnsupported →
        ∃ t, step s = .next (b.after t) ∧ f.TrappedSuper t .placementUnsupported 0)
      ∧ ∀ n, decode w = .error (.reservedField n) → f.SuperTakes .reservedField →
        ∃ t, step s = .next (b.after t) ∧ f.TrappedSuper t .reservedField (BitVec.ofNat 64 n))
    ∧ (b.lc.pc.extractLsb' 0 2 ≠ 0 → u.SuperTakes .misalignedFetch →
      ∃ t, step s = .next (b.after t) ∧ u.TrappedSuper t .misalignedFetch va)

/-- R35, R52, R64, R76, R79, R269, R315, R317, R320: the machine right after reset: no LC is resident, no task lives,
the registers hold the reset values that the spec gives, and memory and tiles have their canonical form. -/
def Obligations.ResetState : Prop :=
  let s := State.reset
  let m := s.dev.mgmt
  s.lc.status = .absent ∧ s.lcs = [] ∧ s.dev.tasks = [] ∧ s.dev.boot = .off
  ∧ (∀ r : SReg, s.getS r = 0 ∧ s.poisonedS r = false) ∧ s.lc.q = Vector.replicate 8 []
  ∧ s.lc.vec.vmsel = 8 ∧ s.lc.vec.vl = 0 ∧ s.lc.vec.frm = 0 ∧ s.lc.fflags = 0 ∧ s.lc.ftrapen = 0
  ∧ s.lc.strip = BitVec.allOnes 64 ∧ s.lc.ebase = 0 ∧ s.lc.gmask = 1 ∧ s.super = false ∧ s.lc.saff = 0
  ∧ s.core.bankrole = 0xAAAA_5555_0000_0000 ∧ field s.core.preempt 24 16 = 16 ∧ s.core.stvec = 0
  ∧ m.owner = none ∧ m.bnklim = 256 ∧ m.actth = 0x2000 ∧ m.pcap = 2400 ∧ m.fwwin = 0
  ∧ (∀ t : Fin 8, s.lc.tcfg[t] = TCfg.zero) ∧ s.part.tstate = 0 ∧ s.part.accalloc = 0 ∧ s.TilesOk ∧ s.MemOk

/-- Every step keeps the canonical form of memory, of the scratchpads and of the firmware images, whatever the state's
other fields hold: for all 270 instructions and events, and for what the machine does on its own. -/
def Obligations.MemoryForm : Prop := ∀ s t : State, s.MemOk → step s = .next t → t.MemOk

/-! ### Integer operations, MAJ 01 to 09 -/

/-- Operations on two registers: both are read, sd takes a value, execution goes on with the next word. -/
def intTwo (f : SReg → SReg → SReg → Instr) (v : Dword → Dword → Dword) : Prop :=
  ∀ (d a b : SReg) (s : State), s.Readable a → s.Readable b → s.Writable d →
    ∃ t, exec (f d a b) s = .next t ∧ s.Wrote t d (v (s.getS a) (s.getS b))

/-- Operations on one register. -/
def intOne (f : SReg → SReg → Instr) (v : Dword → Dword) : Prop :=
  ∀ (d a : SReg) (s : State), s.Readable a → s.Writable d →
    ∃ t, exec (f d a) s = .next t ∧ s.Wrote t d (v (s.getS a))

/-- R328, R132: the integer operations on registers, with the corners of division; nothing but sd and the PC changes. -/
def registerOperations : Prop :=
  intTwo .add (fun x y => x + y) ∧ intTwo .sub (fun x y => x - y) ∧ intTwo .mul (fun x y => x * y)
  ∧ intTwo .mulh (fun x y => (x.signExtend 128 * y.signExtend 128).extractLsb' 64 64)
  ∧ intTwo .mulhu (fun x y => (x.setWidth 128 * y.setWidth 128).extractLsb' 64 64)
  ∧ intTwo .div (fun x y => if y = 0 then BitVec.allOnes 64 else x.sdiv y)
  ∧ intTwo .divu (fun x y => if y = 0 then BitVec.allOnes 64 else x.udiv y)
  ∧ intTwo .rem (fun x y => if y = 0 then x else x.srem y) ∧ intTwo .remu (fun x y => x.umod y)
  ∧ intTwo .and (fun x y => x &&& y) ∧ intTwo .or (fun x y => x ||| y) ∧ intTwo .xor (fun x y => x ^^^ y)
  ∧ intTwo .shl (fun x y => x <<< (y &&& 63)) ∧ intTwo .shr (fun x y => x >>> (y &&& 63))
  ∧ intTwo .sra (fun x y => x.sshiftRight' (y &&& 63))
  ∧ intTwo .slt (fun x y => if x.toInt < y.toInt then 1 else 0)
  ∧ intTwo .sltu (fun x y => if x.toNat < y.toNat then 1 else 0)
  ∧ intTwo .min (fun x y => BitVec.ofInt 64 (Min.min x.toInt y.toInt))
  ∧ intTwo .max (fun x y => BitVec.ofInt 64 (Max.max x.toInt y.toInt))
  ∧ intOne .clz (fun x => x.clz) ∧ intOne .popc (fun x => x.cpop)
  ∧ ∀ (d a b : SReg) (s : State), s.Readable a → s.Readable b → s.Readable d →
    ∃ t, exec (.csel d a b) s = .next t ∧ s.Wrote t d (if s.getS d = 0 then s.getS b else s.getS a)

/-- R329, R377, R360: operations with an immediate, sign-extended from its field, and LUI. -/
def immediateOperations : Prop :=
  (∀ i : BitVec 14, intOne (.addi · · i) (· + i.signExtend 64) ∧ intOne (.andi · · i) (· &&& i.signExtend 64)
    ∧ intOne (.ori · · i) (· ||| i.signExtend 64) ∧ intOne (.xori · · i) (· ^^^ i.signExtend 64)
    ∧ intOne (.slti · · i) (fun x => if x.toInt < i.toInt then 1 else 0))
  ∧ (∀ n : BitVec 6, intOne (.shli · · n) (· <<< n) ∧ intOne (.shri · · n) (· >>> n)
    ∧ intOne (.srai · · n) (fun x => x.sshiftRight' n))
  ∧ ∀ (d : SReg) (i : BitVec 20) (s : State), s.Writable d →
    ∃ t, exec (.lui d i) s = .next t ∧ s.Wrote t d (i.signExtend 64 * 0x4000)

/-- R328, R329, R360, R377, R132: the integer operations on registers and with an immediate. -/
def Obligations.IntegerOperations : Prop :=
  registerOperations ∧ immediateOperations

/-- R330, whole: ADDPC is MAJ 0x09 with sd in bits 25 to 20 and imm20 below; it sets sd to the sum of its own address
and 4 × the sign-extended field modulo 2^64, whatever they are, without a translation, a check or a trap; nothing else
changes, s0 discards the value; 0x2470_0004 is its word for s7 and a label 16 bytes ahead. -/
def Obligations.AddPc : Prop :=
  (∀ (d : SReg) (i : BitVec 20), decode (0x09#6 ++ d ++ i) = .ok (.addpc d i))
  ∧ (∀ (d : SReg) (i : BitVec 20) (s : State), s.Writable d →
    ∃ t, exec (.addpc d i) s = .next t ∧ s.Wrote t d (s.lc.pc.setWidth 64 + i.signExtend 64 * 4))
  ∧ (∀ i : BitVec 20, -(2 : Int) ^ 21 ≤ (i.signExtend 64 * 4#64).toInt ∧ (i.signExtend 64 * 4#64).toInt < 2 ^ 21)
  ∧ decode 0x2470_0004 = .ok (.addpc 7 4)

/-- Instructions that read sa and sb, in this order, before anything else. -/
def readsTwo : Instr → Option (SReg × SReg)
  | .add _ a b | .sub _ a b | .mul _ a b | .mulh _ a b | .mulhu _ a b | .div _ a b | .divu _ a b | .rem _ a b
  | .remu _ a b | .and _ a b | .or _ a b | .xor _ a b | .shl _ a b | .shr _ a b | .sra _ a b | .slt _ a b
  | .sltu _ a b | .min _ a b | .max _ a b | .beq a b _ | .bne a b _ | .blt a b _ | .bge a b _ | .bltu a b _
  | .bgeu a b _ => some (a, b)
  | _ => none

/-- R285, R192, R216, R249: an operand that another stream has still to write holds the instruction, which is executed
again; a poisoned operand raises POISON_SCALAR, whose TVAL is the register's number. -/
def Obligations.OperandWaitOrPoison : Prop :=
  ∀ (i : Instr) (a b : SReg) (s : State), readsTwo i = some (a, b) →
    (s.freeS a = false → exec i s = .next s)
    ∧ (s.Readable a → s.freeS b = false → exec i s = .next s)
    ∧ (s.Writable a → s.poisonedS a = true → s.SuperTakes .poisonScalar →
        ∃ t, exec i s = .next t ∧ s.TrappedSuper t .poisonScalar (a.setWidth 64))
    ∧ (s.Readable a → s.Writable b → s.poisonedS b = true → s.SuperTakes .poisonScalar →
        ∃ t, exec i s = .next t ∧ s.TrappedSuper t .poisonScalar (b.setWidth 64))

/-! ### Branches and jumps, MAJ 10 to 17 -/

/-- A branch that is taken when a relation holds goes to PC + 4 × the offset, else to the next word. -/
def branches (f : SReg → SReg → BitVec 14 → Instr) (taken : Dword → Dword → Prop) : Prop :=
  ∀ (a b : SReg) (o : BitVec 14) (s : State), s.Readable a → s.Readable b →
    (taken (s.getS a) (s.getS b) → ∃ t, exec (f a b o) s = .next t ∧ s.WentTo t (s.lc.pc + o.signExtend 57 * 4))
    ∧ (¬taken (s.getS a) (s.getS b) → ∃ t, exec (f a b o) s = .next t ∧ s.WentTo t (s.lc.pc + 4))

/-- R334: the six conditional branches; nothing but the PC changes, and the target is not checked. -/
def conditionalBranches : Prop :=
  branches .beq (· = ·) ∧ branches .bne (· ≠ ·) ∧ branches .blt (fun x y => x.toInt < y.toInt)
  ∧ branches .bge (fun x y => y.toInt ≤ x.toInt) ∧ branches .bltu (fun x y => x.toNat < y.toNat)
  ∧ branches .bgeu (fun x y => y.toNat ≤ x.toNat)

/-- What a jump does: the link and the transfer when bits [63:57] of the target are 0, and for JALR (`register`) bits
[1:0] too; FETCH_ACCESS at the jump, sd unchanged, when bits [63:57] are not. -/
def jumps (i : Instr) (s : State) (d : SReg) (target : Dword) (register : Bool) : Prop :=
  (target.extractLsb' 57 7 = 0 → (register = true → target.extractLsb' 0 2 = 0) →
    ∃ t, exec i s = .next t ∧ s.WroteAt t d (s.lc.pc.setWidth 64 + 4) (target.setWidth 57))
  ∧ (target.extractLsb' 57 7 ≠ 0 → s.SuperTakes .fetchAccess →
    ∃ t, exec i s = .next t ∧ s.TrappedSuper t .fetchAccess target)

/-- R354: JAL and JALR: sd := PC + 4 and the transfer, or FETCH_ACCESS, or for JALR MISALIGNED_FETCH, precisely at the
jump. -/
def jumpTransfers : Prop :=
  (∀ (d : SReg) (i : BitVec 20) (s : State), s.Writable d → jumps (.jal d i) s d (s.lc.pc.setWidth 64 + i.signExtend 64 * 4) false)
  ∧ ∀ (d a : SReg) (i : BitVec 14) (s : State), s.Readable a → s.Writable d →
    jumps (.jalr d a i) s d (s.getS a + i.signExtend 64) true
    ∧ ((s.getS a + i.signExtend 64).extractLsb' 57 7 = 0 → (s.getS a + i.signExtend 64).extractLsb' 0 2 ≠ 0 →
      s.SuperTakes .misalignedFetch →
      ∃ t, exec (.jalr d a i) s = .next t ∧ s.TrappedSuper t .misalignedFetch (s.getS a + i.signExtend 64))

/-- R334, R354: the conditional branches and the jumps. -/
def Obligations.ControlTransfers : Prop :=
  conditionalBranches ∧ jumpTransfers

/-! ### Scalar floating point, MAJ 18 -/

/-- An instruction with result `r` and flags `fl` (R77, R131, R346): when FTRAPEN enables none of the flags, sd holds
the result and FFLAGS gains the flags; else the flags are recorded, sd is unchanged, and the trap of the lowest enabled
flag is taken, with the enabled flags as TVAL. -/
def fpCompletes (i : Instr) (s : State) (d : SReg) (r : Dword) (fl : Flags) : Prop :=
  (fl.setWidth 6 &&& s.lc.ftrapen = 0 → ∃ t, exec i s = .next t ∧ (s.addFlags fl).Wrote t d r)
  ∧ ∀ (b : Nat) (c : Cause), b < 6 → c.code = 0x3A + b → (fl.setWidth 6 &&& s.lc.ftrapen).getLsbD b = true →
      (∀ a, a < b → (fl.setWidth 6 &&& s.lc.ftrapen).getLsbD a = false) →
      ((s.addFlags fl).UserTakes c → ∃ t, exec i s = .next t
        ∧ (s.addFlags fl).TrappedUser t c ((fl.setWidth 6 &&& s.lc.ftrapen).setWidth 64))
      ∧ ((s.addFlags fl).SuperTakes c → ∃ t, exec i s = .next t
        ∧ (s.addFlags fl).TrappedSuper t c ((fl.setWidth 6 &&& s.lc.ftrapen).setWidth 64))

/-- R345, R346, R347: the scalar floating-point instructions on readable operands, in every format they accept: the
result goes to sd zero-extended, or sign-extended when it is a signed integer, and the flags as `fpCompletes` says. -/
def scalarFloatResults : Prop :=
  ∀ (d a b : SReg) (t : BitVec 3) (s : State), s.Readable a →
    (∀ y, fpType t = some y →
      let f := Ty.fmt y
      let m := s.lc.vec.frm.toNat
      let x := (s.getS a).toNat % 2 ^ y.bits
      let z := (s.getS b).toNat % 2 ^ y.bits
      let c := (s.getS d).toNat % 2 ^ y.bits
      let is (i : Instr) (r : Nat × Flags) : Prop := fpCompletes i s d (BitVec.ofNat 64 r.1) r.2
      (s.Writable d →
        (s.Readable b →
          is (.fadd d a b t) (f.add m x z) ∧ is (.fsub d a b t) (f.sub m x z)
          ∧ is (.fmul d a b t) (f.mul m x z) ∧ is (.fmin d a b t) (f.minmax false x z)
          ∧ is (.fmax d a b t) (f.minmax true x z) ∧ is (.fcmp d a b t) (f.fcmp x z)
          ∧ (y = .f64 ∨ y = .f32 → is (.fdiv d a b t) (f.div m x z)))
        ∧ (y = .f64 ∨ y = .f32 → is (.fsqrt d a t) (f.sqrt m x))
        ∧ is (.fclass d a t) (f.cls x, 0)
        ∧ (∀ e : Ty, e.cls = .F →
          let r := cvtFF f (Ty.fmt e) m x
          fpCompletes (.fcvtFromFp d a e t) s d (zeroExtend64 e.bits r.1) r.2)
        ∧ ∀ e : Ty, e = .i64 ∨ e = .n64 ∨ e = .i32 ∨ e = .n32 →
          let r := cvtFI f e.signed e.bits m x
          fpCompletes (.fcvtFromFp d a e t) s d (extendLoad e.signed e.bytes r.1) r.2)
      ∧ (s.Readable b → s.Readable d → is (.fma d a b t) (f.fma m x z c)))
    ∧ ∀ (y e : Ty), intType t = some y → e.cls = .F → s.Writable d →
      let v : Int := if y.signed then ((s.getS a).setWidth y.bits).toInt else ((s.getS a).setWidth y.bits).toNat
      let r := cvtIF (Ty.fmt e) s.lc.vec.frm.toNat v
      fpCompletes (.fcvtFromInt d a e t) s d (BitVec.ofNat 64 r.1) r.2

/-- R345, R445: a format code that an instruction does not accept raises BAD_TYPE with the format value of fn[2:0]
before anything is read; FDIV and FSQRT accept f64 and f32 alone. -/
def scalarFloatFormats : Prop :=
  ∀ (d a b : SReg) (e : Ty) (t : BitVec 3) (s : State), s.SuperTakes .badType →
    let bad (i : Instr) : Prop := ∃ u, exec i s = .next u ∧ s.TrappedSuper u .badType (t.setWidth 64)
    (4 ≤ t.toNat → bad (.fadd d a b t) ∧ bad (.fsub d a b t) ∧ bad (.fmul d a b t) ∧ bad (.fmin d a b t)
      ∧ bad (.fmax d a b t) ∧ bad (.fcmp d a b t) ∧ bad (.fclass d a t) ∧ bad (.fma d a b t)
      ∧ bad (.fcvtFromFp d a e t) ∧ bad (.fcvtFromInt d a e t))
    ∧ (2 ≤ t.toNat → bad (.fdiv d a b t) ∧ bad (.fsqrt d a t))

/-- R77, R131, R345, R346, R347, R445: the scalar floating-point instructions in the formats they accept and in the
others. -/
def Obligations.ScalarFloat : Prop :=
  scalarFloatResults ∧ scalarFloatFormats

/-! ### Scalar memory, MAJ 0A to 0E -/

/-- R357, R359: LD and LDA of a location whose granule is clean: sd holds the bytes extended, LDA with zeros; memory,
flags and everything else are as they were, and s0 discards the value. -/
def Obligations.ScalarLoads : Prop :=
  ∀ (d a : SReg) (z : BitVec 2) (x : Bool) (o : BitVec 11) (c : Scope) (l : Loc) (s : State),
    s.Readable a → s.Writable d → s.CleanAt l →
    (s.Reaches .load false true (s.getS a + o.signExtend 64) (2 ^ z.toNat) l →
      ∃ t v, exec (.ld d a z x o) s = .next t ∧ s.Wrote t d v ∧ s.Loaded l (2 ^ z.toNat) x v)
    ∧ (s.Reaches .load false true (s.getS a) (2 ^ z.toNat) l →
      ∃ t v, exec (.lda d a z c) s = .next t ∧ s.Wrote t d v ∧ s.Loaded l (2 ^ z.toNat) false v)

/-- What ST and STL do with a store at `l` that raises nothing: when nothing it must follow is still to be performed, it
is performed: the bytes are those of `r`, its poison spreads over the granule, every other byte and granule is as it was,
and a store to host memory is on its way when the scalar unit runs ahead; otherwise it leaves the scalar unit, which goes
on with the next word, and stands behind the stores that wait, with its value. -/
def storeLeaves (i : Instr) (s : State) (r : SReg) (l : Loc) (va : Dword) (n : Nat) (release : Bool) : Prop :=
  (s.storeWaits l va n release = false → ∃ t, s.Stored t l n (s.getS r)
    ∧ t.poisonHome l = (s.poisonHome l || s.poisonedS r)
    ∧ (∀ m : Loc, m.granule ≠ l.granule → t.poisonHome m = s.poisonHome m)
    ∧ exec i s = .next (match l with
      | .phys p _ => if s.runAhead && l.isHost then
          { t with dev := { t.dev with hostReqs := t.dev.hostReqs ++ [⟨s.lc.key, va, true, p, n, none, none⟩] } } else t
      | .window _ => t))
  ∧ (s.storeWaits l va n release = true → ∃ (t : State) (y : PStore), exec i s = .next t
    ∧ (∀ m k, y.meets m k = decide (m.place.1 = l.place.1 ∧ l.place.2 < m.place.2 + k ∧ m.place.2 < l.place.2 + n))
    ∧ y.va = va ∧ y.n = n ∧ y.data = (s.getS r).toNat % 2 ^ (8 * n) ∧ y.poison = s.poisonedS r ∧ y.release = release
    ∧ { s with lc := { s.lc with stores := s.lc.stores ++ [y] } }.WentTo t (s.lc.pc + 4))

/-- R386, R387: ST. -/
def storeOrdinary : Prop :=
  ∀ (r a : SReg) (z : BitVec 2) (o : BitVec 11) (l : Loc) (s : State),
    s.MemOk → s.Readable a → s.Writable r → s.StoreAt (s.getS a + o.signExtend 64) (2 ^ z.toNat) l →
    storeLeaves (.st r a z o) s r l (s.getS a + o.signExtend 64) (2 ^ z.toNat) false

/-- R175, R388: STL, whose store waits until every earlier S, V and X access is performed, and which raises the failure of
an earlier host store (R308). -/
def storeRelease : Prop :=
  ∀ (r a : SReg) (z : BitVec 2) (c : Scope) (l : Loc) (s : State),
    s.MemOk → s.Readable a → s.Writable r → s.StoreAt (s.getS a) (2 ^ z.toNat) l →
    (s.lc.hostErr = none →
      storeLeaves (.stl r a z c) s r l (s.getS a) (2 ^ z.toNat) true
      ∧ (s.svxDone = false → s.storeWaits l (s.getS a) (2 ^ z.toNat) true = true))
    ∧ ∀ e va, s.lc.hostErr = some (e, va) → { s with lc := { s.lc with hostErr := none } }.SuperTakes e →
      ∃ t, exec (.stl r a z c) s = .next t ∧ { s with lc := { s.lc with hostErr := none } }.TrappedSuper t e va

/-- R168, R175: the store that has waited alone is performed by the machine once it may be: its bytes, and no other. That a
move of the agenda performs it is log 3. -/
def storePerformed : Prop :=
  ∀ (x : PStore) (r : List Move) (s : State), s.MemOk → s.agenda = .store :: r → s.lc.stores = [x] → s.dev.combines = [] →
    s.storeReady [] x = true →
    let l : Loc := if x.window then .window x.place else .phys x.place x.leaf
    ∃ t : State, step s = .next t.passTime ∧ t.lc = { s.lc with stores := [] } ∧ t.part = s.part ∧ t.agenda = r
      ∧ (∀ i, i < x.n → t.byteAt l i = BitVec.ofNat 8 (x.data / 256 ^ i))
      ∧ (∀ a, (x.window = false → a < x.place ∨ x.place + x.n ≤ a) → Memory.get t.dev.mem a = Memory.get s.dev.mem a)
      ∧ ∀ a, (x.window = true → a < x.place ∨ x.place + x.n ≤ a) →
        Memory.get t.core.scratch a = Memory.get s.core.scratch a

/-- R386, R387, R388, R175, R168, R285: ST and STL store the low bytes of their register at the location the address
reaches, at once or once what they must follow has been performed; the scalar unit goes on in either case; the register's
poison goes with them, and every other byte of memory is as it was. How a store that waits is kept is the model's own: log
3. -/
def Obligations.ScalarStores : Prop :=
  storeOrdinary ∧ storeRelease ∧ storePerformed

/-- R357, R386, R359, R388, R332: an address that is not a multiple of the access size raises MISALIGNED_LOAD,
MISALIGNED_STORE or MISALIGNED_AMO with the address as TVAL, before it is translated; no register but the trap's and no
byte but the fault record's changes. -/
def misalignedAccess : Prop :=
  ∀ (d a b : SReg) (z : BitVec 2) (x : Bool) (o : BitVec 11) (c : Scope) (m : AmoOp) (s : State), s.Readable a →
    let off (va : Dword) : Prop := va.toNat % 2 ^ z.toNat ≠ 0
    let va := s.getS a + o.signExtend 64
    (s.Writable d → s.SuperTakes .misalignedLoad →
      (off va → ∃ t, exec (.ld d a z x o) s = .next t ∧ s.TrappedSuper t .misalignedLoad va)
      ∧ (off (s.getS a) → ∃ t, exec (.lda d a z c) s = .next t ∧ s.TrappedSuper t .misalignedLoad (s.getS a)))
    ∧ (s.Writable d → s.SuperTakes .misalignedStore →
      (off va → ∃ t, exec (.st d a z o) s = .next t ∧ s.TrappedSuper t .misalignedStore va)
      ∧ (off (s.getS a) → ∃ t, exec (.stl d a z c) s = .next t ∧ s.TrappedSuper t .misalignedStore (s.getS a)))
    ∧ (s.Readable b → s.Readable d → s.SuperTakes .misalignedAmo → (m = .fadd → 2 ≤ z.toNat) → off (s.getS a) →
      ∃ t, exec (.amo d a z c b m) s = .next t ∧ s.TrappedSuper t .misalignedAmo (s.getS a))

/-- R301, R145, R357, R386: an aligned load or store whose address does not translate raises the cause the walk or the
address map gives, with the address as TVAL; sd and memory but for the fault record are unchanged. -/
def untranslatedAccess : Prop :=
  ∀ (d a : SReg) (z : BitVec 2) (x : Bool) (o : BitVec 11) (e : Cause) (s : State), s.Readable a → s.Writable d →
    s.SuperTakes e → (s.getS a + o.signExtend 64).toNat % 2 ^ z.toNat = 0 →
    (s.locate s.super .load (s.getS a + o.signExtend 64) = .error (.cause e) →
      ∃ t, exec (.ld d a z x o) s = .next t ∧ s.TrappedSuper t e (s.getS a + o.signExtend 64))
    ∧ (s.locate s.super .store (s.getS a + o.signExtend 64) = .error (.cause e) →
      ∃ t, exec (.st d a z o) s = .next t ∧ s.TrappedSuper t e (s.getS a + o.signExtend 64))

/-- R283, R285, R319: a load of an uncorrectable granule raises the cause of its store: UNCORRECTABLE_LOAD,
UNCORRECTABLE_L2, LINK_DATA_ERROR, or UNCORRECTABLE_LOCAL_STORE in the scratchpad; of a poisoned one on a page with
poison-on-read, POISON_SCALAR; on another page the load completes, sd is poisoned and POISONLOG names the granule. -/
def loadPoison : Prop :=
  ∀ (d a : SReg) (z : BitVec 2) (x : Bool) (o : BitVec 11) (l : Loc) (s : State), s.Readable a → s.Writable d →
    let va := s.getS a + o.signExtend 64
    s.Reaches .load false true va (2 ^ z.toNat) l →
    (∀ c, s.badAt l = true →
      (c = match l with
        | .window _ => .uncorrectableLocalStore
        | .phys p _ => if p / 64 ∈ s.dev.linkError then .linkDataError
          else if p / 64 ∈ s.dev.l2Error then .uncorrectableL2 else .uncorrectableLoad) →
      (s.markBad l).SuperTakes c →
      ∃ t, exec (.ld d a z x o) s = .next t ∧ (s.markBad l).TrappedSuper t c va)
    ∧ (s.badAt l = false → s.poisonAt l = true → l.por = true → s.SuperTakes .poisonScalar →
      ∃ t, exec (.ld d a z x o) s = .next t ∧ s.TrappedSuper t .poisonScalar va)
    ∧ (s.badAt l = false → s.poisonAt l = true → l.por = false →
      ∃ t, exec (.ld d a z x o) s = .next t ∧ t.poisonedS d = (d != 0) ∧ t.lc.trap.poisonValid = true
        ∧ t.lc.trap.poisonGranule = va.setWidth 57 &&& ~~~63#57 ∧ s.SameRegsBut t d ∧ t.lc.pc = s.lc.pc + 4
        ∧ t.dev = s.dev ∧ t.part = s.part ∧ t.core = s.core)

/-- R283, R285, R301, R145, R357, R386: where loads, stores and atomics trap: misaligned, untranslated and uncorrectable
or poisoned accesses. -/
def Obligations.ScalarAccessTraps : Prop :=
  misalignedAccess ∧ untranslatedAccess ∧ loadPoison

/-- The new value of an atomic of width `w` (R331): the stored value, none when a cas fails. -/
def amoResult (o : AmoOp) {w : Nat} (old x c : BitVec w) : Option (BitVec w) :=
  match o with
  | .swap => some x
  | .add => some (old + x)
  | .and => some (old &&& x)
  | .or => some (old ||| x)
  | .xor => some (old ^^^ x)
  | .min => some (if x.slt old then x else old)
  | .max => some (if old.slt x then x else old)
  | .minu => some (if x.ult old then x else old)
  | .maxu => some (if old.ult x then x else old)
  | .fadd => some (BitVec.ofNat w ((if w = 32 then Fmt.f32 else Fmt.f64).add 0 old.toNat x.toNat).1)
  | .cas => if old = c then some x else none

/-- R331, R332, R333: an atomic that reaches a clean granule once every earlier S, V and X access is performed: sd
receives the old value, sign-extended for min and max, else zero-extended; memory takes the new value at the address
and keeps every other byte; a cas that fails stores nothing. -/
def Obligations.Atomics : Prop :=
  ∀ (d a b : SReg) (z : BitVec 2) (c : Scope) (o : AmoOp) (l : Loc) (s : State),
    s.MemOk → s.Readable a → s.Readable b → s.Writable d → (o = .cas → s.Readable d) → (o = .fadd → 2 ≤ z.toNat) →
    s.Reaches .amo true true (s.getS a) (2 ^ z.toNat) l → s.svxDone = true → s.lc.hostErr = none →
    s.badAt l = false → s.poisonHome l = false →
    let w := 8 * 2 ^ z.toNat
    ∃ (t : State) (old : BitVec w) (e : Dword), exec (.amo d a z c b o) s = .next t
      ∧ (∀ i, i < 2 ^ z.toNat → old.extractLsb' (8 * i) 8 = s.byteAt l i)
      ∧ e = (if o = .min ∨ o = .max then old.signExtend 64 else old.setWidth 64)
      ∧ t.Holds d e ∧ s.SameRegsBut t d
      ∧ match amoResult o old ((s.getS b).setWidth w) ((s.getS d).setWidth w) with
        | some v => (s.setS d e).Stored t l (2 ^ z.toNat) (v.setWidth 64)
        | none => s.Wrote t d e

/-- R365, R185: MWAIT of a doubleword of local HBM or of a peer. Read clean, one that differs from sb goes to sd at once;
one that is equal arms a monitor and the instruction waits; once a write has reached the granule, the value read with
that write goes to sd and the monitor is gone. What was read poisoned is returned poisoned, or raises POISON_SCALAR under
poison-on-read; an uncorrectable read raises UNCORRECTABLE_LOAD. An address that is not a multiple of 8, lies in the
scratchpad window, or in neither local HBM nor a peer raises MONITOR_INVALID; one that no longer translates raises its
cause, and the monitor is gone. -/
def monitorWait : Prop :=
  ∀ (d a b : SReg) (s : State), s.Readable a → s.Readable b → s.Writable d →
    let va := s.getS a
    let mine (m : Monitor) : Bool := m.who == s.lc.key
    let gone := { s with dev := { s.dev with monitors := s.dev.monitors.filter (fun m => !mine m) } }
    (va.toNat % 8 ≠ 0 ∨ inWindow va = true → s.SuperTakes .monitorInvalid →
      ∃ t, exec (.mwait d a b) s = .next t ∧ s.TrappedSuper t .monitorInvalid va)
    ∧ (va.toNat % 8 = 0 → inWindow va = false →
      (∀ c, s.locate s.super .load va = .error (.cause c) → gone.SuperTakes c →
        ∃ t, exec (.mwait d a b) s = .next t ∧ gone.TrappedSuper t c va)
      ∧ (∀ l, s.locate s.super .load va = .ok l → l.monitored = none → s.SuperTakes .monitorInvalid →
        ∃ t, exec (.mwait d a b) s = .next t ∧ s.TrappedSuper t .monitorInvalid va)
      ∧ ∀ l pa, s.Reaches .load false true va 8 l → l.monitored = some pa →
        let gives (v : Dword) (poison bad : Bool) : Prop :=
          (bad = false → poison = false → ∃ t, exec (.mwait d a b) s = .next t ∧ gone.Wrote t d v)
          ∧ (bad = false → poison = true → l.por = false → ∃ t, exec (.mwait d a b) s = .next t
            ∧ t.getS d = (if d = 0 then 0 else v) ∧ t.poisonedS d = (d != 0) ∧ t.lc.trap.poisonValid = true
            ∧ t.lc.trap.poisonGranule = va.setWidth 57 &&& ~~~63#57 ∧ s.SameRegsBut t d ∧ t.lc.pc = s.lc.pc + 4
            ∧ t.dev = gone.dev ∧ t.part = s.part ∧ t.core = s.core)
          ∧ (bad = false → poison = true → l.por = true → gone.SuperTakes .poisonScalar →
            ∃ t, exec (.mwait d a b) s = .next t ∧ gone.TrappedSuper t .poisonScalar va)
          ∧ (bad = true → s.linkBad l = false → (gone.markBad l).SuperTakes .uncorrectableLoad →
            ∃ t, exec (.mwait d a b) s = .next t ∧ (gone.markBad l).TrappedSuper t .uncorrectableLoad va)
        (s.dev.monitors.find? mine = none → ∃ v, s.Loaded l 8 false v
          ∧ (s.badAt l = true ∨ v ≠ s.getS b ∨ (s.poisonAt l = true ∧ l.por = true) → gives v (s.poisonAt l) (s.badAt l))
          ∧ (s.badAt l = false → v = s.getS b → (s.poisonAt l = true → l.por = false) → exec (.mwait d a b) s
              = .next { s with dev := { s.dev with monitors := ⟨s.lc.key, pa, none⟩ :: s.dev.monitors } }))
        ∧ ∀ m, s.dev.monitors.find? mine = some m → m.pa = pa →
          (m.got = none → exec (.mwait d a b) s = .next s)
          ∧ ∀ w, m.got = some w → gives w.value w.poison w.bad)

/-- R341: CWB and CINV change nothing but the PC: of an address in the scratchpad window, of one that translates as a load,
and of a peer address whatever it would raise; another that does not translate raises its cause. -/
def cacheHints : Prop :=
  ∀ (a : SReg) (s : State), s.Readable a →
    let va := s.getS a
    (inWindow va = true ∨ (∃ l, s.locate s.super .load va = .ok l) ∨ (∃ g, s.locate s.super .load va = .error (.recall g))
        ∨ (∃ c, s.locate s.super .load va = .error (.cause c) ∧ s.peerAt va = true) →
      (∃ t, exec (.cwb a) s = .next t ∧ s.WentTo t (s.lc.pc + 4))
      ∧ ∃ t, exec (.cinv a) s = .next t ∧ s.WentTo t (s.lc.pc + 4))
    ∧ ∀ e, inWindow va = false → s.locate s.super .load va = .error (.cause e) → s.peerAt va = false → s.SuperTakes e →
      (∃ t, exec (.cwb a) s = .next t ∧ s.TrappedSuper t e va)
      ∧ ∃ t, exec (.cinv a) s = .next t ∧ s.TrappedSuper t e va

/-- The code that PROBE gives an access at a valid leaf (R369): step 4 of R301, none for a compressed page, and the map of
R145 without reachability. -/
def probeCodeAt (s : State) (k : Acc) (e : Dword) (pa : Nat) (c : Cause) : Nat :=
  if leafAllows (s.space s.super) k e = false then c.code
  else if e.getLsbD 5 then 0
  else match paKind pa with
    | .hbm => if (s.dev.stack (homeStack pa)).degraded then c.code else 0
    | .unassigned => c.code
    | .peer _ off => if off < hbmSize then 0 else c.code
    | .host => 0

/-- R369: PROBE raises nothing, whatever the address, and writes what it would meet as a load and as a store. In the
scratchpad window V, W and U are 1 and the codes follow the role of the bank; with a bit of [63:57] set the codes are the
access faults of R295; where the walk of the tables fails, the causes of a load and of a store; else V, the leaf's
attributes, the two codes, the frame at supervisor level of a page that is not compressed, and HSTACK. -/
def probeValue : Prop :=
  ∀ (d a : SReg) (s : State), s.Readable a → s.Writable d →
    let va := s.getS a
    let x := s.space s.super
    let outside := s.core.role ((va.toNat - windowBase) / 131072) ≠ 1 ∨ s.contained (va.toNat - windowBase) = true
    let codes (l t : Nat) : Dword := BitVec.ofNat 64 (l * 2 ^ 8 + t * 2 ^ 52)
    let denied := codes Cause.loadAccess.code Cause.storeAccess.code
    let writes (v : Dword) : Prop := ∃ t, exec (.probe d a) s = .next t ∧ s.Wrote t d v
    (inWindow va = true → (outside → writes (denied + 0x15)) ∧ (¬outside → writes 0x15))
    ∧ (inWindow va = false → va.extractLsb' 57 7 ≠ 0 → writes denied)
    ∧ (inWindow va = false → va.extractLsb' 57 7 = 0 →
      (∀ c e, s.dev.walk x .load va.toNat = .error c → s.dev.walk x .store va.toNat = .error e →
        writes (codes c.code e.code))
      ∧ ∀ l, s.dev.walk x .load va.toNat = .ok l →
        let pa := leafFrame l.entry * 65536 + (if l.block then va.toNat % 2 ^ 28 else va.toNat % 2 ^ 16)
        ∃ t v, exec (.probe d a) s = .next t ∧ s.Wrote t d v ∧ v.getLsbD 0 = true
          ∧ v.extractLsb' 1 7 = l.entry.extractLsb' 1 7
          ∧ v.extractLsb' 8 8 = BitVec.ofNat 8 (probeCodeAt s .load l.entry pa .loadAccess)
          ∧ v.extractLsb' 16 36 = (if s.super = true ∧ l.entry.getLsbD 5 = false then BitVec.ofNat 36 (pa / 65536) else 0)
          ∧ v.extractLsb' 52 8 = BitVec.ofNat 8 (probeCodeAt s .store l.entry pa .storeAccess)
          ∧ v.extractLsb' 60 4 = l.entry.extractLsb' 60 4)

/-- R185, R341, R365, R369: MWAIT, the cache hints and PROBE. What an LC reads of its own held bytes is log 36. -/
def Obligations.WaitsAndHints : Prop :=
  monitorWait ∧ cacheHints ∧ probeValue

/-! ### CSRs, MAJ 19 and 1A -/

/-- A plain CSR: the bits a level writes, the field, and the state with a value written. -/
abbrev PlainCsr := Dword × (State → Dword) × (State → Dword → State)

/-- A field of an LC. -/
def csrLc (m : Dword) (g : Lc → Dword) (f : Dword → Lc → Lc) : Option PlainCsr :=
  some (m, fun s => g s.lc, fun s v => { s with lc := f v s.lc })

/-- A vector control. -/
def csrVec (m : Dword) (g : VecCtl → Dword) (f : Dword → VecCtl → VecCtl) : Option PlainCsr :=
  csrLc m (fun l => g l.vec) (fun v l => { l with vec := f v l.vec })

/-- A generation control. -/
def csrGen (m : Dword) (g : GenCtl → Dword) (f : Dword → GenCtl → GenCtl) : Option PlainCsr :=
  csrLc m (fun l => g l.gen) (fun v l => { l with gen := f v l.gen })

/-- A trap register. -/
def csrTrap (m : Dword) (g : TrapRegs → Dword) (f : Dword → TrapRegs → TrapRegs) : Option PlainCsr :=
  csrLc m (fun l => g l.trap) (fun v l => { l with trap := f v l.trap })

/-- The CSRs of R36, R76, R77, R79, R81, R82 and R269 that are plain fields, by number. -/
def plainCsr (n : Nat) : Option PlainCsr :=
  match n with
  | 0x000 => csrVec 0x1FFF (·.vl.setWidth 64) (fun v c => { c with vl := v.setWidth 13 })
  | 0x001 => csrVec 0xF (·.vmsel.setWidth 64) (fun v c => { c with vmsel := v.setWidth 4 })
  | 0x002 => csrVec (BitVec.allOnes 64) (·.vstride) (fun v c => { c with vstride := v })
  | 0x003 => csrLc 0xFFFF (·.vstart.setWidth 64) (fun v c => { c with vstart := v.setWidth 16 })
  | 0x004 => csrLc 0xFFFF_FFFF (·.epr.setWidth 64) (fun v c => { c with epr := v.setWidth 32 })
  | 0x005 => csrVec 0xFFFF (·.rowcnt.setWidth 64) (fun v c => { c with rowcnt := v.setWidth 16 })
  | 0x006 => csrVec (BitVec.allOnes 64) (·.rowpitch) (fun v c => { c with rowpitch := v })
  | 0x007 => csrVec 0x1FFF (·.seqn.setWidth 64) (fun v c => { c with seqn := v.setWidth 13 })
  | 0x008 => csrVec 0x3F (·.draftn.setWidth 64) (fun v c => { c with draftn := v.setWidth 6 })
  | 0x009 => csrVec 0x3 (·.frm.setWidth 64) (fun v c => { c with frm := v.setWidth 2 })
  | 0x00A => csrLc 0x7F (·.fflags.setWidth 64) (fun v c => { c with fflags := v.setWidth 7 })
  | 0x00B => csrLc 0x3F (·.ftrapen.setWidth 64) (fun v c => { c with ftrapen := v.setWidth 6 })
  | 0x01A => csrLc 0xFFFF (·.accrecomp.setWidth 64) (fun v c => { c with accrecomp := v.setWidth 16 })
  | 0x01B => csrLc 0x1FF_FFFF_FFFF_FFFC (·.restartpc.setWidth 64) (fun v c => { c with restartpc := v.setWidth 57 })
  | 0x022 => csrLc 0x7 (·.bnkwin.setWidth 64) (fun v c => { c with bnkwin := v.setWidth 3 })
  | 0x038 => csrLc 0xFFFF_3F0F (·.redgrp) (fun v c => { c with redgrp := v })
  | 0x040 => csrGen 0x1FF_FFFF_FFFF_FFF0 (·.jbase.setWidth 64) (fun v c => { c with jbase := v.setWidth 57 })
  | 0x041 => csrGen 0x1FF_FFFF_FFFF_FFF0 (·.jlimit.setWidth 64) (fun v c => { c with jlimit := v.setWidth 57 })
  | 0x042 => csrGen 0xFFF_FFFF (·.umcfg.setWidth 64) (fun v c => { c with umcfg := v.setWidth 28 })
  | 0x043 => csrGen 0x1FF_FFFF_FFFF_FFC0 (·.umdirty.setWidth 64) (fun v c => { c with umdirty := v.setWidth 57 })
  | 0x044 => csrGen (BitVec.allOnes 64) (·.rngkey) (fun v c => { c with rngkey := v })
  | 0x045 => csrGen 0xFFFF_FFFF (·.vocabn.setWidth 64) (fun v c => { c with vocabn := v.setWidth 32 })
  | 0x060 => csrTrap 0x1FF_FFFF_FFFF_FFFC (·.tvec.setWidth 64) (fun v t => { t with tvec := v.setWidth 57 })
  | 0x061 => csrTrap 0xFF (·.tcause.setWidth 64) (fun v t => { t with tcause := v.setWidth 8 })
  | 0x062 => csrTrap 0x1FF_FFFF_FFFF_FFFC (·.tepc.setWidth 64) (fun v t => { t with tepc := v.setWidth 57 })
  | 0x063 => csrTrap (BitVec.allOnes 64) (·.tval) (fun v t => { t with tval := v })
  | 0x064 => csrTrap 0xFFFF_FFFF (·.tinsn.setWidth 64) (fun v t => { t with tinsn := v.setWidth 32 })
  | 0x065 => csrTrap 0x1FF_FFFF_FFFF_FFC0 (·.frecbase.setWidth 64) (fun v t => { t with frecbase := v.setWidth 57 })
  | 0x100 => csrLc 0xF_FFFF_FFFF_0000 (·.ptbase.setWidth 64) (fun v c => { c with ptbase := v.setWidth 52 })
  | 0x101 => csrLc 0xFFFF (·.asid.setWidth 64) (fun v c => { c with asid := v.setWidth 16 })
  | 0x111 => csrTrap 0xFF (·.scause.setWidth 64) (fun v t => { t with scause := v.setWidth 8 })
  | 0x112 => csrTrap 0x1FF_FFFF_FFFF_FFFC (·.sepc.setWidth 64) (fun v t => { t with sepc := v.setWidth 57 })
  | 0x113 => csrTrap (BitVec.allOnes 64) (·.stval) (fun v t => { t with stval := v })
  | 0x114 => csrTrap 0xFFFF_FFFF (·.sinsn.setWidth 64) (fun v t => { t with sinsn := v.setWidth 32 })
  | 0x118 => csrTrap (BitVec.allOnes 64) (·.sscratch) (fun v t => { t with sscratch := v })
  | _ => none

/-- Values a plain CSR does not accept (R76). -/
def csrRefuses (n : Nat) (v : Dword) : Prop :=
  ((n = 0x000 ∨ n = 0x007) ∧ 4096 < v.toNat) ∨ (n = 0x001 ∧ 8 < v.toNat) ∨ (n = 0x008 ∧ 32 < v.toNat)
    ∨ (n = 0x022 ∧ 4 < v.toNat)

/-- R342, R343, R73, R76 to R82, R269: CSRR of a plain CSR writes sd with its value; CSRW, CSRS and CSRC write, set or
clear the bits their level writes and keep the others, and change nothing else; CSRS and CSRC with s0 write nothing; a
value that is not accepted raises BAD_CONTROL_STATE naming the CSR. VSTART, EPR and FFLAGS wait for the LC's V- and
K-stream instructions. -/
def csrValues : Prop :=
  ∀ (n : Nat) (m : Dword) (get : State → Dword) (set : State → Dword → State) (d a : SReg) (s : State),
    plainCsr n = some (m, get, set) → (0x100 ≤ n → s.super = true) →
    (n = 0x003 ∨ n = 0x004 ∨ n = 0x00A → s.vkQuiet = true) →
    (s.Writable d → ∃ t, exec (.csrr d (BitVec.ofNat 14 n)) s = .next t ∧ s.Wrote t d (get s))
    ∧ (s.Readable a →
      let x := s.getS a
      let writes (i : Instr) (v : Dword) : Prop :=
        (¬csrRefuses n v → exec i s = .next (set s v).retire)
        ∧ (csrRefuses n v → s.SuperTakes .badControlState →
            ∃ t, exec i s = .next t ∧ s.TrappedSuper t .badControlState (BitVec.ofNat 64 n))
      writes (.csrw a (BitVec.ofNat 14 n)) ((get s &&& ~~~m) ||| (x &&& m))
      ∧ (a ≠ 0 → writes (.csrs a (BitVec.ofNat 14 n)) (get s ||| (x &&& m))
        ∧ writes (.csrc a (BitVec.ofNat 14 n)) (get s &&& ~~~(x &&& m)))
      ∧ (a = 0 → exec (.csrs a (BitVec.ofNat 14 n)) s = .next s.retire
        ∧ exec (.csrc a (BitVec.ofNat 14 n)) s = .next s.retire))

/-- R73: at user level an access of a CSR from 0x100 on, but a read of 0x116, raises PRIVILEGED with TVAL = the number;
a number that no table defines raises ILLEGAL_OPCODE. -/
def csrTraps : Prop :=
  ∀ (c : BitVec 14) (d a : SReg) (s : State),
    (∀ v, s.csr c.toNat = some v → 0x100 ≤ c.toNat → s.super = false → s.SuperTakes .privileged →
      (c.toNat ≠ 0x116 → ∃ t, exec (.csrr d c) s = .next t ∧ s.TrappedSuper t .privileged (c.setWidth 64))
      ∧ (∃ t, exec (.csrw a c) s = .next t ∧ s.TrappedSuper t .privileged (c.setWidth 64))
      ∧ (∃ t, exec (.csrs a c) s = .next t ∧ s.TrappedSuper t .privileged (c.setWidth 64))
      ∧ ∃ t, exec (.csrc a c) s = .next t ∧ s.TrappedSuper t .privileged (c.setWidth 64))
    ∧ (s.csr c.toNat = none → s.SuperTakes .illegalOpcode →
      (∃ t, exec (.csrr d c) s = .next t ∧ s.TrappedSuper t .illegalOpcode 0)
      ∧ (∃ t, exec (.csrw a c) s = .next t ∧ s.TrappedSuper t .illegalOpcode 0)
      ∧ (∃ t, exec (.csrs a c) s = .next t ∧ s.TrappedSuper t .illegalOpcode 0)
      ∧ ∃ t, exec (.csrc a c) s = .next t ∧ s.TrappedSuper t .illegalOpcode 0)

/-- R73, R76 to R82, R269, R342, R343: CSRs read, written, set and cleared, and where an access of one traps. -/
def Obligations.CsrAccess : Prop :=
  csrValues ∧ csrTraps

/-- R376, whole: SETVL is MAJ 0x1A, format S, with the type's code in fn[3:0]; a set bit of fn[7:4] or sb is a reserved
field, named by its number. It sets VL and sd to the smaller of sa, read as an unsigned number, and the core MVL of the
type's width, 32,768 ÷ its bits, and changes nothing else; class M raises BAD_TYPE with the type's code. 0x6841_4001 is
SETVL.f32 s4, s5, which with s5 = 2,500 writes 1,024 to VL and s4; SETVL.f64 writes 512. -/
def Obligations.SetVl : Prop :=
  (∀ (d a : SReg) (y : Ty), decode (0x1A#6 ++ d ++ a ++ 0#10 ++ BitVec.ofNat 4 y.ctorIdx) = .ok (.setvl d a y))
  ∧ (∀ (d a : SReg) (r : BitVec 10) (c : BitVec 4), r ≠ 0 →
    ∃ n, decode (0x1A#6 ++ d ++ a ++ r ++ c) = .error (.reservedField (n + 4)) ∧ r.getLsbD n = true
      ∧ ∀ k, k < n → r.getLsbD k = false)
  ∧ (∀ (d a : SReg) (y : Ty) (s : State),
    (y.cls ≠ .M → s.Readable a → s.Writable d →
      let v := min (s.getS a).toNat (32768 / y.bits)
      ∃ t, exec (.setvl d a y) s = .next t
        ∧ { s with lc := { s.lc with vec := { s.lc.vec with vl := BitVec.ofNat 13 v } } }.Wrote t d (BitVec.ofNat 64 v))
    ∧ (y.cls = .M → s.SuperTakes .badType →
      ∃ t, exec (.setvl d a y) s = .next t ∧ s.TrappedSuper t .badType (BitVec.ofNat 64 y.ctorIdx)))
  ∧ decode 0x6841_4001 = .ok (.setvl 4 5 .f32)
  ∧ ∀ s : State, s.Readable 5 → s.Writable 4 → s.getS 5 = 2500 →
    (∃ t, exec (.setvl 4 5 .f32) s = .next t ∧ t.lc.vec.vl = 1024 ∧ t.getS 4 = 1024)
    ∧ ∃ t, exec (.setvl 4 5 .f64) s = .next t ∧ t.lc.vec.vl = 512 ∧ t.getS 4 = 512

/-! ### Queues, fences, strips, groups and the end of an LC, MAJ 1B and 1C -/

/-- R370, R371, R47, R48: QSEND appends sa's value to q0 to q3 and waits while 16 entries are there; QRECV takes the
oldest entry of q4 to q7 into sd and waits while there is none; an LC whose V and K streams can no longer fill or empty
the queue raises QUEUE_DEADLOCK with the queue as TVAL; QSTAT writes the number of entries; a queue of the wrong
direction raises BAD_REGISTER with TVAL 8, the lowest bit of the field. -/
def Obligations.ScalarQueues : Prop :=
  ∀ (r : SReg) (q : QReg) (s : State),
    let l := s.lc.q[q.toNat]
    let withQ (l : List Dword) : State := { s with lc := { s.lc with q := s.lc.q.set q.toNat l } }
    (q.toNat < 4 → s.Readable r →
      (l.length < 16 → ∃ t, exec (.qsend r q) s = .next t ∧ (withQ (l ++ [s.getS r])).WentTo t (s.lc.pc + 4))
      ∧ (16 ≤ l.length → s.deadlocked = false → exec (.qsend r q) s = .next s)
      ∧ (16 ≤ l.length → s.deadlocked = true → s.SuperTakes .queueDeadlock →
        ∃ t, exec (.qsend r q) s = .next t ∧ s.TrappedSuper t .queueDeadlock (q.setWidth 64)))
    ∧ (4 ≤ q.toNat → s.Writable r →
      (∀ x rest, l = x :: rest → ∃ t, exec (.qrecv r q) s = .next t ∧ (withQ rest).Wrote t r x)
      ∧ (l = [] → s.deadlocked = false → exec (.qrecv r q) s = .next s)
      ∧ (l = [] → s.deadlocked = true → s.SuperTakes .queueDeadlock →
        ∃ t, exec (.qrecv r q) s = .next t ∧ s.TrappedSuper t .queueDeadlock (q.setWidth 64)))
    ∧ (s.Writable r → ∃ t, exec (.qstat r q) s = .next t ∧ s.Wrote t r (BitVec.ofNat 64 l.length))
    ∧ (s.SuperTakes .badRegister →
      (4 ≤ q.toNat → ∃ t, exec (.qsend r q) s = .next t ∧ s.TrappedSuper t .badRegister 8)
      ∧ (q.toNat < 4 → ∃ t, exec (.qrecv r q) s = .next t ∧ s.TrappedSuper t .badRegister 8))

/-- R174, R172, R308: FENCE changes nothing but the PC once every earlier S, V and X access is performed, waits until
then, and raises the failure of a posted host store; SBAR without a stream does nothing, one that names S waits until
everything before it in the streams it names is performed, and another takes its place in each of them at once.
Whether the scalar unit runs ahead is the model's own: log 3. -/
def Obligations.Fences : Prop :=
  ∀ (c : Scope) (m : BitVec 8) (s : State),
    (s.svxDone = true → s.lc.hostErr = none → ∃ t, exec (.fence c) s = .next t ∧ s.WentTo t (s.lc.pc + 4))
    ∧ (s.svxDone = false → exec (.fence c) s = .next s)
    ∧ (∀ e va, s.svxDone = true → s.lc.hostErr = some (e, va) →
      { s with lc := { s.lc with hostErr := none } }.SuperTakes e →
      ∃ t, exec (.fence c) s = .next t ∧ { s with lc := { s.lc with hostErr := none } }.TrappedSuper t e va)
    ∧ (m = 0 → ∃ t, exec (.sbar m) s = .next t ∧ s.WentTo t (s.lc.pc + 4))
    ∧ (m.getLsbD 0 = true →
      (s.sbarDone m = true → ∃ t, exec (.sbar m) s = .next t ∧ s.WentTo t (s.lc.pc + 4))
      ∧ (s.sbarDone m = false → exec (.sbar m) s = .next s))
    ∧ (m ≠ 0 → m.getLsbD 0 = false → s.runAhead = true → s.sbarRoom m = true →
      ∃ (t : State) (e : VEntry) (b : BCmd) (x : XCmd), exec (.sbar m) s = .next t
        ∧ e.op = .sbar s.tick ∧ b.kind = .sbar s.tick ∧ x.kind = .sbar s.tick
        ∧ t.part.vqueue = s.part.vqueue ++ (if m.getLsbD 1 then [e] else [])
        ∧ t.lc.kqueue = s.lc.kqueue ++ (if m.getLsbD 2 then [e] else [])
        ∧ t.lc.bqueue = s.lc.bqueue ++ (if m.getLsbD 7 then [b] else [])
        ∧ (∀ h : Fin 4, (t.lc.chans[h]).cmds = (s.lc.chans[h]).cmds ++ (if m.getLsbD (3 + h) then [x] else []))
        ∧ t.lc.pc = s.lc.pc + 4 ∧ t.lc.s = s.lc.s ∧ t.dev = s.dev ∧ t.core = s.core)

/-- Of `u` and `v`, two states of the task of the LC in focus: the second has posted the strip that the LC holds, if the
task has RING, and nothing else (R38, R39, R43). -/
def Sys2Proof.Machine.Task.postsHeld (u : Task) (s : State) (v : Task) : Prop :=
  ∀ j, v.isPosted j = (u.isPosted j
    || (u.ring && decide (s.lc.ebase.toNat ≤ j) && decide (j < s.lc.ebase.toNat + s.heldLen)))

/-- A group that a member leaves: the last one that all others had waited for completes the generation (R41). -/
def groupLeft (g : Group) : Group :=
  if g.arrived ≠ 0 ∧ g.arrived = g.members - 1 then
    { members := g.members - 1, arrived := 0, generation := g.generation + 1 }
  else { g with members := g.members - 1 }

/-- R39, R43, R367: NEXTS with its answer. With a strip it sets STRIP, EBASE = strip × MVL, EREM = elements − EBASE,
VL = min(MVL, EREM) and goes to its target; without one it sets STRIP to all ones, EBASE to the elements of the task,
EREM and VL to 0 and falls through. Before the answer, it posts the iterations of the strip it holds in a task with RING
once every earlier S, V and X access is performed, commits what containment holds under SCC, asks for a strip and stays;
when the model follows the streams in order and no ring holds the strip back, the next strip is the answer at once. -/
def nextStrip : Prop :=
  ∀ (o : BitVec 18) (u : Task) (s : State), s.task = some u →
    let taken (t : State) (k : Nat) : Prop :=
      t.lc.strip = BitVec.ofNat 64 k ∧ t.lc.ebase = BitVec.ofNat 64 (k * u.mvl)
        ∧ t.lc.erem = BitVec.ofNat 64 (u.elements - k * u.mvl)
        ∧ t.lc.vec.vl = BitVec.ofNat 13 (min u.mvl (u.elements - k * u.mvl))
        ∧ t.lc.pc = s.lc.pc + o.signExtend 57 * 4 ∧ t.lc.s = s.lc.s ∧ t.lc.nextsAnswer = none ∧ t.part = s.part
        ∧ t.core = s.core ∧ t.dev.mem = s.dev.mem
    (∀ k, s.lc.nextsAnswer = some (some k) → ∃ t, exec (.nexts o) s = .next t ∧ taken t k ∧ t.dev = s.dev)
    ∧ (s.lc.nextsAnswer = some none → ∃ t, exec (.nexts o) s = .next t ∧ t.lc.strip = BitVec.allOnes 64
        ∧ t.lc.ebase = BitVec.ofNat 64 u.elements ∧ t.lc.erem = 0 ∧ t.lc.vec.vl = 0 ∧ t.lc.pc = s.lc.pc + 4
        ∧ t.lc.s = s.lc.s ∧ t.part = s.part ∧ t.dev = s.dev)
    ∧ (s.lc.nextsAnswer = none → s.runAhead = true →
      (s.heldLen ≠ 0 → (u.ring = true → s.svxDone = true ∧ s.lc.hostErr = none) ∧ (u.scc = true → s.svDone = true)) →
      ∃ t v, exec (.nexts o) s = .next t ∧ t.task = some v ∧ u.postsHeld s v
        ∧ { s.lc with nextsWait := true, contain := if s.heldLen ≠ 0 ∧ u.scc = true then [] else s.lc.contain } = t.lc
        ∧ t.dev.mem = (if s.heldLen ≠ 0 ∧ u.scc = true then s.commitHeld.dev.mem else s.dev.mem)
        ∧ t.part = s.part ∧ t.core = s.core)
    ∧ (s.lc.nextsAnswer = none → s.heldLen ≠ 0 → u.ring = true → s.svxDone = false → exec (.nexts o) s = .next s)
    ∧ (s.lc.nextsAnswer = none → s.heldLen = 0 → s.runAhead = false → u.ring = false → u.nextStrip < u.strips →
      ∃ t, exec (.nexts o) s = .next t ∧ taken t u.nextStrip)

/-- R43, R368, R425: POST of an iteration of the held strip, once every earlier S, V and X access is performed, posts
exactly that iteration; WAITI of an earlier iteration goes on once it is posted and waits until then; one that lies
outside raises ITERATION_ORDER with the iteration as TVAL. -/
def iterationRing : Prop :=
  ∀ (a : SReg) (u : Task) (s : State), s.task = some u → u.ring = true → s.Readable a →
    let i := (s.getS a).toNat
    let held := s.lc.ebase.toNat ≤ i ∧ i < s.lc.ebase.toNat + s.heldLen
    let earlier := i < s.lc.ebase.toNat ∧ i < u.elements
    (held → s.svxDone = true → s.lc.hostErr = none →
      ∃ t v, exec (.post a) s = .next t ∧ t.task = some v ∧ (∀ j, v.isPosted j = (u.isPosted j || decide (j = i)))
        ∧ { s.lc with pc := s.lc.pc + 4 } = t.lc ∧ t.part = s.part ∧ t.core = s.core
        ∧ { t.dev with tasks := s.dev.tasks } = s.dev
        ∧ ∀ k, k ≠ s.lc.key.task → t.dev.task k = s.dev.task k)
    ∧ (held → s.svxDone = false → exec (.post a) s = .next s)
    ∧ (¬held → s.SuperTakes .iterationOrder →
      ∃ t, exec (.post a) s = .next t ∧ s.TrappedSuper t .iterationOrder (s.getS a))
    ∧ (earlier → u.isPosted i = true → ∃ t, exec (.waiti a) s = .next t ∧ s.WentTo t (s.lc.pc + 4))
    ∧ (earlier → u.isPosted i = false → exec (.waiti a) s = .next s)
    ∧ (¬earlier → s.SuperTakes .iterationOrder →
      ∃ t, exec (.waiti a) s = .next t ∧ s.TrappedSuper t .iterationOrder (s.getS a))

/-- R41, R350, R351: GJOIN makes the LC a member of the group, GLEAVE ends it, GBAR of the last member that arrives
starts the next generation and goes on, one before it waits as arrived, and goes on when its generation is over. A
number from 16 on raises GROUP_INVALID, a group the LC is no member of GROUP_NOT_MEMBER. -/
def groupOperations : Prop :=
  ∀ (a : SReg) (u : Task) (s : State), s.task = some u → s.Readable a →
    let n := (s.getS a).toNat
    (16 ≤ n → s.SuperTakes .groupInvalid →
      (∃ t, exec (.gjoin a) s = .next t ∧ s.TrappedSuper t .groupInvalid (s.getS a))
      ∧ (∃ t, exec (.gleave a) s = .next t ∧ s.TrappedSuper t .groupInvalid (s.getS a))
      ∧ ∃ t, exec (.gbar a) s = .next t ∧ s.TrappedSuper t .groupInvalid (s.getS a))
    ∧ ∀ h : n < 16,
      let g := u.groups[n]
      let now (t : State) (x : Group) : Prop := ∃ v : Task, t.task = some v ∧ v.groups[n] = x
        ∧ ∀ m (k : m < 16), m ≠ n → v.groups[m] = u.groups[m]
      (s.lc.gmask.getLsbD n = false →
        (∃ t, exec (.gjoin a) s = .next t ∧ now t { g with members := g.members + 1 }
          ∧ { s.lc with pc := s.lc.pc + 4, gmask := s.lc.gmask ||| (1#16 <<< n) } = t.lc ∧ t.part = s.part)
        ∧ (s.SuperTakes .groupNotMember →
          (∃ t, exec (.gleave a) s = .next t ∧ s.TrappedSuper t .groupNotMember (s.getS a))
          ∧ ∃ t, exec (.gbar a) s = .next t ∧ s.TrappedSuper t .groupNotMember (s.getS a)))
      ∧ (s.lc.gmask.getLsbD n = true →
        (∃ t, exec (.gjoin a) s = .next t ∧ s.WentTo t (s.lc.pc + 4))
        ∧ (∃ t, exec (.gleave a) s = .next t ∧ now t (groupLeft g)
          ∧ { s.lc with pc := s.lc.pc + 4, gmask := s.lc.gmask &&& ~~~(1#16 <<< n) } = t.lc ∧ t.part = s.part)
        ∧ (s.lc.bars.find? (·.1 == n) = none → s.svxDone = true → s.lc.hostErr = none →
          (g.arrived + 1 = g.members → ∃ t, exec (.gbar a) s = .next t
            ∧ now t { g with arrived := 0, generation := g.generation + 1 }
            ∧ { s.lc with pc := s.lc.pc + 4 } = t.lc ∧ t.part = s.part)
          ∧ (g.arrived + 1 ≠ g.members → ∃ t, exec (.gbar a) s = .next t ∧ now t { g with arrived := g.arrived + 1 }
            ∧ { s.lc with bars := s.lc.bars ++ [(n, g.generation)] } = t.lc ∧ t.part = s.part))
        ∧ ∀ x, s.lc.bars.find? (·.1 == n) = some x →
          (x.2 = g.generation → exec (.gbar a) s = .next s)
          ∧ (x.2 ≠ g.generation → ∃ t, exec (.gbar a) s = .next t
            ∧ { s with lc := { s.lc with bars := s.lc.bars.filter (·.1 != n) } }.WentTo t (s.lc.pc + 4)))

/-- R39, R41, R43, R350, R351, R367, R368, R425: strips, the iteration ring and groups. Whether the scalar unit runs
ahead is the model's own: log 3. -/
def Obligations.StripsAndGroups : Prop :=
  nextStrip ∧ iterationRing ∧ groupOperations

/-- R38, R39, R344: EXIT with no loop open and no fault to raise. With every access of every stream performed the LC has
ended: in a task with RING the iterations of its strip are posted, under SCC what containment holds is committed, it has
left its groups, its task counts it, it holds no stack context, pin, vector state or strip any more, and the other LCs, the
scratchpad and the rest of memory are as they were. While an access is outstanding it has done the first three and waits; a
release it makes waits until every earlier S, V and X access is performed. In an open loop it raises STACK_LOOP_NESTING. -/
def exitLc : Prop :=
  ∀ (u : Task) (s : State), s.task = some u →
    (s.lc.loops = [] → s.lc.breport = none → s.lc.bankErr = [] → (∀ h : Fin 4, (s.lc.chans[h]).err = none) →
      s.exitDeadlock = false →
      let left (t : State) : Prop := ∃ v, t.task = some v ∧ u.postsHeld s v
        ∧ (∀ n (h : n < 16), v.groups[n] = if s.lc.gmask.getLsbD n then groupLeft u.groups[n] else u.groups[n])
        ∧ t.dev.mem = (if u.scc then s.commitHeld.dev.mem else s.dev.mem) ∧ t.core = s.core
        ∧ v.exited = u.exited + (if t.lc.status = .exited then 1 else 0)
      (s.allDone = true → s.lc.hostErr = none → ∃ t, exec .exit s = .next t ∧ left t ∧ t.lc.status = .exited
        ∧ t.lc.key = s.lc.key ∧ t.lc.ctx = none ∧ t.lc.handles = [] ∧ t.lc.gmask = 0 ∧ t.lc.contain = []
        ∧ t.lc.strip = BitVec.allOnes 64
        ∧ (∀ c ∈ t.dev.ctxUses, c.owner ≠ s.lc.key) ∧ (∀ x ∈ t.dev.slots, x.holder ≠ some s.lc.key)
        ∧ (∀ p ∈ t.part :: t.parts, p.ownerKey ≠ some s.lc.key)
        ∧ (s.owns = true → t.part.accalloc = 0 ∧ t.part.tstate = 0) ∧ t.lcs = s.lcs)
      ∧ (s.allDone = false → s.lc.status ≠ .exited → (s.heldLen ≠ 0 → u.ring = true → s.svxDone = true ∧ s.lc.hostErr = none) →
        (u.scc = true → s.svDone = true) → ∃ t, exec .exit s = .next t ∧ left t
        ∧ { s.lc with gmask := 0, bars := [], contain := if u.scc then [] else s.lc.contain } = t.lc ∧ t.part = s.part)
      ∧ (s.svxDone = false → s.heldLen ≠ 0 → u.ring = true → exec .exit s = .next s))
    ∧ (s.lc.loops ≠ [] → s.SuperTakes .stackLoopNesting →
      ∃ t, exec .exit s = .next t ∧ t.lc.trap.scause = BitVec.ofNat 8 Cause.stackLoopNesting.code ∧ t.lc.loops = []
        ∧ t.lc.pc = s.core.stvec)

/-- R432, R63, R69, R289: YIELD when no other LC of the task can run goes on with the next word; else the LC's scalar part
is saved at its save area, and what containment holds under SCC, its V stream is held aside, and the LC leaves its
partition, to go on at the next word; a save area that does not translate raises SAVE_AREA_FAULT. -/
def yieldLc : Prop :=
  ∀ s : State,
    (s.othersRunnable = false → ∃ t, exec .yieldLc s = .next t ∧ s.WentTo t (s.lc.pc + 4))
    ∧ ∀ (u : Task) (loc held : Nat → Nat), s.othersRunnable = true → s.MemOk → s.task = some u →
      let area := u.saveArea s.lc.key.lcid
      (s.AreaAt .store area 256 loc →
        (u.scc = true → s.AreaAt .store (area + 0x1_4000) 1024 held
          ∧ ∀ i j, i < 256 → j < 1024 → loc i + 64 ≤ held j ∨ held j + 64 ≤ loc i) →
        ∃ t, exec .yieldLc s = .next t ∧ t.lc.status = .yielded ∧ t.lc.key = s.lc.key ∧ t.lc.wait = .none
          ∧ s.SavedRegs t loc ∧ (∀ b, b < 8 → t.areaByte loc 96 b = (s.lc.pc + 4).extractLsb' (8 * b) 8)
          ∧ (∀ a, (∀ i, i < 256 → a < loc i ∨ loc i + 64 ≤ a) →
            (u.scc = true → ∀ i, i < 1024 → a < held i ∨ held i + 64 ≤ a) → Memory.get t.dev.mem a = Memory.get s.dev.mem a)
          ∧ t.lc.vheld = s.holdV.lc.vheld ∧ t.lc.contain = [] ∧ t.part.vqueue = [] ∧ t.part.mslot = none
          ∧ t.part.v = s.part.v ∧ t.part.k = s.part.k ∧ t.part.ownerKey = s.part.ownerKey ∧ t.lcs = s.lcs ∧ t.core = s.core)
      ∧ ∀ c, s.locate true .store area = .error (.cause c) → s.SuperTakes .saveAreaFault →
        ∃ t, exec .yieldLc s = .next t ∧ s.TrappedSuper t .saveAreaFault area

/-- R34, R50, R384: SPAWN writes the answer to sd once its packet has been served. Before that it reads the 256 bytes at sa
once every earlier S, V and X access is performed, raises SPAWN_INVALID for a packet that R29 rejects or an address that is
no multiple of 64, and offers the packet to the intake, where it waits. When the model follows the streams in order and
nothing waits there before it, the packet is served in the same step: accepted as the next task under an identifier with bit
31 set that no live task of the function holds, or answered 0 when 4,096 tasks are live. -/
def spawnTask : Prop :=
  ∀ (d a : SReg) (s : State),
    (∀ r, s.dev.spawnAnswers.find? (·.1 == s.lc.key) = some r →
      ∃ t, exec (.spawn d a) s = .next t
        ∧ { s with dev := { s.dev with
            spawnAnswers := s.dev.spawnAnswers.filter (fun x => x.1 != s.lc.key) } }.Wrote t d (r.2.setWidth 64))
    ∧ (s.dev.spawnAnswers.find? (·.1 == s.lc.key) = none → s.spawning = true → exec (.spawn d a) s = .next s)
    ∧ (s.spawning = false → s.Readable a → s.Writable d →
      let x := s.getS a
      (x.toNat % 64 ≠ 0 → s.SuperTakes .spawnInvalid →
        ∃ t, exec (.spawn d a) s = .next t ∧ s.TrappedSuper t .spawnInvalid x)
      ∧ (x.toNat % 64 = 0 → s.svxDone = false → exec (.spawn d a) s = .next s)
      ∧ ∀ (u : Task) (loc : Nat → Loc) (p : BitVec 2048), s.task = some u → s.svxDone = true → s.lc.hostErr = none →
        (∀ i, i < 4 → s.Reaches .load false true (x + BitVec.ofNat 64 (64 * i)) 64 (loc i) ∧ s.CleanAt (loc i)) →
        (∀ k, k < 256 → p.extractLsb' (8 * k) 8 = s.readByte (loc (k / 64)) (k % 64)) →
        (rejectReason p false ≠ none → s.SuperTakes .spawnInvalid →
          ∃ t, exec (.spawn d a) s = .next t ∧ s.TrappedSuper t .spawnInvalid x)
        ∧ (rejectReason p false = none →
          (s.runAhead = true → exec (.spawn d a) s
            = .next { s with dev := { s.dev with spawns := s.dev.spawns ++ [⟨s.lc.key, u.fn, p⟩] } })
          ∧ (s.runAhead = false → s.dev.spawns = [] → (∀ f ∈ s.dev.funcs, f.busy = []) → u.fn < 32 →
            let done (t : State) (v : Dword) : Prop := exec (.spawn d a) s = .next t ∧ t.Holds d v ∧ s.SameRegsBut t d
              ∧ t.lc.pc = s.lc.pc + 4 ∧ t.dev.mem = s.dev.mem ∧ t.dev.spawns = [] ∧ t.spawning = false
            (4096 ≤ s.dev.tasks.length → ∃ t, done t 0 ∧ t.dev.tasks = s.dev.tasks)
            ∧ (s.dev.tasks.length < 4096 → ∃ t id, done t (BitVec.setWidth 64 id) ∧ id.getLsbD 31 = true
              ∧ (∀ w ∈ s.dev.tasks, w.fn = u.fn → w.id ≠ id)
              ∧ ∃ w ∈ t.dev.tasks, w.seq = s.dev.nextSeq ∧ w.fn = u.fn ∧ w.id = id ∧ w.spawned = true
                ∧ w.ptbase = u.ptbase ∧ w.asid = u.asid ∧ w.lcn = pk p 0x18 0 13 ∧ w.elements = pk p 0x08 0 48
                ∧ w.entry = BitVec.ofNat 64 (pk p 0x00 0 57) ∧ w.coremask = BitVec.ofNat 64 (pk p 0x10 0 64)))))

/-- R34, R38, R39, R50, R63, R344, R384, R432: an LC ends, yields its partition, or spawns a task. Where a frame keeps
what is log 12; that ENTRY's bits [63:57] are not kept is log 86; a packet over two pages is log 100. Whether the
scalar unit runs ahead is the model's own: log 3. -/
def Obligations.LcLifecycle : Prop :=
  exitLc ∧ yieldLc ∧ spawnTask

/-! ### Traps and returns, MAJ 3F -/

/-- R375, R340, R267, R271: SCALL and BREAK take SYSTEM_CALL and BREAKPOINT with their code as TVAL; without a
supervisor handler the task ends abnormally with the cause as its code, which stands in SCAUSE. That a supervisor trap holds the V stream
aside is the model's reading: log 13. -/
def Obligations.CallAndBreak : Prop :=
  ∀ (c : BitVec 8) (s : State),
    (s.core.stvec ≠ 0 →
      (∃ t, exec (.scall c) s = .next t ∧ s.TrappedSuper t .systemCall (c.setWidth 64))
      ∧ ∃ t, exec (.ebreak c) s = .next t ∧ s.TrappedSuper t .breakpoint (c.setWidth 64))
    ∧ ∀ u, s.core.stvec = 0 → s.task = some u → u.ended = none → s.lc.status ≠ .absent →
      (∃ t v, exec (.scall c) s = .next t ∧ t.task = some v ∧ (∃ e, v.ended = some (2, 0x0B, 0, e))
        ∧ t.lc.status = .exited ∧ t.lc.trap.scause = 0x0B ∧ t.lc.trap.stval = c.setWidth 64)
      ∧ ∃ t v, exec (.ebreak c) s = .next t ∧ t.task = some v ∧ (∃ e, v.ended = some (2, 0x09, 0, e))
        ∧ t.lc.status = .exited ∧ t.lc.trap.scause = 0x09 ∧ t.lc.trap.stval = c.setWidth 64

/-- R272, R273, R275, R247: ERET at supervisor level: execution goes on at SDRPC's PC when V is set there, else at SEPC, at
the level saved; the V stream goes on as the trap's entry had stopped it: its faulted entry first, limited to k7 when the
trap reported it with RM = 1, then what was queued, then what the handler passed on; VSTART reads 0 again when it showed
the band of a matrix instruction among them. ERET of a user handler goes on at DRPC's PC or TEPC with no handler active,
the faulted entry again at the head of the queue. Elsewhere it raises BAD_CONTROL_STATE with TVAL 0x61. Nothing else of the
scalar unit changes. (No report pending, no stack context stalled, no copy or wave fault raised, and in a handler no entry
of a lower level that the handler's own had stopped.) -/
def eretReturns : Prop :=
  ∀ s : State, s.lc.rebind = none → s.lc.leaving = false → s.lc.vreport = none → s.lc.braised = false →
    (∀ h : Fin 4, (s.lc.chans[h]).raised = false) → (∀ c, s.lc.ctx = some c → c.stalled = none) →
    let r := s.lc.trap
    let again (e : VEntry) (v m df : Bool) (pc : BitVec 57) : VEntry :=
      { e with restart := none, rm := if v && m && !df && e.pc == pc.setWidth 64 then some (s.kreg 7) else none }
    (s.super = true → s.liveV = [] → s.established = true → s.lc.vstalled = none → r.uh = false →
      (∀ g ∈ s.lc.vheld.tail, g.stalled = none) →
      ∃ t, exec .eret s = .next t ∧ t.lc.pc = (if r.sdrpcV then r.sdrpcPc else r.sepc)
        ∧ t.lc.trap = { r with level := r.plevel, sdrpcV := false }
        ∧ t.part = { s.part with vqueue := match s.lc.vheld with
          | ⟨some e, q⟩ :: _ => again e r.sdrpcV r.sdrpcRm (r.scause.getLsbD 7) r.sepc :: (q ++ s.part.vqueue)
          | ⟨none, q⟩ :: _ => q ++ s.part.vqueue
          | [] => s.part.vqueue }
        ∧ t.lc.vheld = s.lc.vheld.tail ∧ t.lc.vstalled = none
        ∧ t.lc.vstart = (match s.lc.vheld with
          | ⟨none, e :: _⟩ :: _ => if e.mat ≠ none ∧ e.restart.map (·.1) = some s.lc.vstart then 0 else s.lc.vstart
          | _ => s.lc.vstart)
        ∧ { t.lc with pc := s.lc.pc, trap := r, vheld := s.lc.vheld, vstart := s.lc.vstart } = s.lc
        ∧ t.dev = s.dev ∧ t.core = s.core)
    ∧ (s.super = true → s.liveV ≠ [] → exec .eret s = .next s)
    ∧ (s.super = false → r.uh = true →
      ∃ t, exec .eret s = .next t ∧ t.lc.pc = (if r.drpcV then r.drpcPc else r.tepc)
        ∧ t.lc.trap = { r with uh := false, uv := false, uk := false, drpcV := false }
        ∧ t.part = { s.part with vqueue := match s.lc.vstalled with
          | some e => again e r.drpcV r.drpcRm (r.tcause.getLsbD 7) r.tepc :: s.part.vqueue
          | none => s.part.vqueue }
        ∧ { t.lc with pc := s.lc.pc, trap := r, vstalled := s.lc.vstalled } = s.lc ∧ t.lc.vstalled = none
        ∧ t.dev = s.dev ∧ t.core = s.core)
    ∧ (s.super = false → r.uh = false → s.SuperTakes .badControlState →
      ∃ t, exec .eret s = .next t ∧ s.TrappedSuper t .badControlState 0x61)

/-- R284: ERPL in a handler of an error or poison cause (0x30 to 0x37): of a trapped LD or LDA, its sd receives sa and
the return moves past it; of a trapped unplaced VLD, the lanes of k7 of its register take those of the named core
register, the others stay, and the return re-executes nothing of it. Elsewhere it raises BAD_CONTROL_STATE with TVAL
0x61. -/
def erplReplaces : Prop :=
  ∀ (a : SReg) (v : VReg) (s : State),
    (s.super = false → s.lc.trap.uh = false → s.SuperTakes .badControlState →
      ∃ t, exec (.erpl a v) s = .next t ∧ s.TrappedSuper t .badControlState 0x61)
    ∧ (∀ (d : SReg), s.super = true → 0x30 ≤ s.lc.trap.scause.toNat % 128 → s.lc.trap.scause.toNat % 128 ≤ 0x37 →
      (∃ b z x o, decode s.lc.trap.sinsn = .ok (.ld d b z x o)) ∨ (∃ b z c, decode s.lc.trap.sinsn = .ok (.lda d b z c)) →
      s.Readable a → s.Writable d →
      ∃ t, exec (.erpl a v) s = .next t
        ∧ { s with lc := { s.lc with trap := { s.lc.trap with sepc := s.lc.trap.sepc + 4 } } }.Wrote t d (s.getS a))
    ∧ ∀ (r : VReg) (b : SReg) (m : AMode) (k o : Bool) (y : Ty) (e : VEntry),
      s.super = true → 0x30 ≤ s.lc.trap.scause.toNat % 128 → s.lc.trap.scause.toNat % 128 ≤ 0x37 →
      decode s.lc.trap.sinsn = .ok (.vld false r b m k o y) → s.owns = true → s.liveV = [] → tyMove y = true →
      s.lc.vstalled = none → (∃ q rest, s.lc.vheld = ⟨some e, q⟩ :: rest) → e.placed = false →
      e.pc = s.lc.trap.sepc.setWidth 64 →
      ∃ t, exec (.erpl a v) s = .next t
        ∧ (∀ i, i < 32768 / y.regBits → elem t.part.v[r.toNat] y.regBits i
            = if i < 1024 ∧ s.part.k[7].getLsbD i then elem s.part.v[v.toNat] y.regBits i
              else elem s.part.v[r.toNat] y.regBits i)
        ∧ (∀ q : VReg, q ≠ r → t.part.v[q.toNat] = s.part.v[q.toNat])
        ∧ t.lc.vstart = e.ctl.vl.setWidth 16 ∧ t.lc.trap.sdrpcRm = false ∧ t.lc.pc = s.lc.pc + 4
        ∧ t.lc.epr = (if m = .tile then BitVec.ofNat 32 (e.ctl.rowcnt.toNat * 65536) else s.lc.epr)
        ∧ t.lc.s = s.lc.s ∧ t.dev = s.dev

/-- R272, R273, R275, R284: the return from a trap, and the return with replacement data. When ERET lets a stalled
entry go on is the model's reading: log 47. -/
def Obligations.TrapReturns : Prop :=
  eretReturns ∧ erplReplaces

/-! ### Vector and mask instructions, MAJ 20 to 27 -/

/-- R40, R55, R191, R192: an instruction of MAJ 20 to 2B enters the V stream, or with P = 1 the K stream, behind what is
there, with the controls, the scalar value, the address space and, placed, the bits of the governing mask that it may
use captured; the register it will write is not free until it has; the PC moves on and nothing else changes but, for a placed one, the count of K-stream instructions. (The scalar unit runs ahead of the
streams: log 3.) -/
def vectorEnters : Prop :=
  ∀ (i : Instr) (f : VForm) (s : State), vform i = some f → f.Ready s → s.runAhead = true →
    ∃ (t : State) (e : VEntry), exec i s = .next t
      ∧ e.op = f.op ∧ e.placed = f.placed ∧ e.pc = s.lc.pc.setWidth 64 ∧ e.word = s.ir ∧ e.ctl = s.lc.vec ∧ e.env = s.env
      ∧ e.ftrapen = s.lc.ftrapen ∧ e.super = s.super ∧ e.restart = none
      ∧ (∀ r, f.read = some r → e.x = s.getS r)
      ∧ (∀ r, f.carry = some r → e.x = s.getS r ∧ e.xPoison = s.poisonedS r)
      ∧ (f.placed = true → s.lc.vec.vmsel ≠ 8 → ∀ j, e.kmask.getLsbD j
          = (decide (j < if f.twoD then s.lc.vec.vl.toNat * s.lc.vec.rowcnt.toNat else s.lc.vec.vl.toNat)
            && (s.kreg s.lc.vec.vmsel.toNat).getLsbD j))
      ∧ t.part.vqueue = s.part.vqueue ++ (if f.placed then [] else [e])
      ∧ t.lc.kqueue = s.lc.kqueue ++ (if f.placed then [e] else [])
      ∧ (∀ r, f.write = some r → r ≠ 0 → t.freeS r = false)
      ∧ t.lc.pending = s.lc.pending ++ (if f.placed then [] else f.write.toList.filter (· ≠ 0))
      ∧ t.lc.pc = s.lc.pc + 4 ∧ t.lc.passed = s.lc.passed + 1
      ∧ { t.lc with
          pc := s.lc.pc, passed := s.lc.passed, kqueue := s.lc.kqueue, pending := s.lc.pending
          pcval := s.lc.pcval, async := s.lc.async } = s.lc
      ∧ (f.placed = false → t.lc.pcval = s.lc.pcval ∧ t.lc.async = s.lc.async)
      ∧ { t.part with vqueue := s.part.vqueue } = s.part ∧ t.dev = s.dev ∧ t.core = s.core

/-- R103, R445, R287, R86: the checks before the hand-off, first cause that applies: a bad register or type, vector
state that the LC does not own, no bound context for a placed form, VL above the MVL of the widest element. Shown for
the forms on one register field and one type. -/
def handOffChecks : Prop :=
  ∀ (p : Bool) (d : VReg) (t : Ty) (s : State),
    let traps (c : Cause) (v : Dword) : Prop := s.SuperTakes c →
      ∃ u, exec (.viota p d t) s = .next u ∧ s.TrappedSuper u c v
    (p = true → 24 ≤ d.toNat → traps .badRegister 20)
    ∧ ((p = true → d.toNat < 24) →
      (t.cls ≠ .I → traps .badType (BitVec.ofNat 64 t.ctorIdx))
      ∧ (t.cls = .I →
        (s.owns = false → traps .vectorStateNotOwned 0)
        ∧ (s.owns = true →
          (p = true → s.lc.saff.getLsbD 63 = false → traps .stackContextUnbound 0)
          ∧ ((p = true → s.lc.saff.getLsbD 63 = true) →
            (if p then 8192 else 32768) / t.bits < s.lc.vec.vl.toNat → traps .badControlState 0))))

/-- R40, R55, R86, R87, R103, R191, R192, R287, R445: the hand-off of a vector instruction and the checks before it.
The scalar unit runs ahead: log 3. -/
def Obligations.VectorHandOff : Prop :=
  vectorEnters ∧ handOffChecks

/-- R398, R104, R130: an unplaced elementwise instruction with nothing else under way writes the value of its
operation to each active element of its destination and adds the flags they raise to FFLAGS; every other element,
register and byte of memory is as it was. Nothing else is under way and the streams are followed in order: the model's
choice, log 3. -/
def Obligations.VectorElements : Prop :=
  ∀ (i : Instr) (f : VForm) (l : Lanes) (s : State), vform i = some f → f.placed = false → f.Ready s → s.Alone →
    s.lanes (s.operand f) f.op = some l → s.CleanRegs l.srcs →
    (∀ j, s.activeAt j = true → (l.val j).2.setWidth 6 &&& s.lc.ftrapen = 0) →
    ∃ t, exec i s = .next t ∧ s.VectorDone t ∧ t.lc.q = s.lc.q
      ∧ s.WroteElems t l.d l.bits (fun j => if s.activeAt j then some (l.val j).1 else none)
      ∧ ∀ b, t.lc.fflags.getLsbD b
          = (s.lc.fflags.getLsbD b || s.activeList.any (fun j => (l.val j).2.getLsbD b))

/-- R131, R87, R270: where an active element raises a flag that FTRAPEN enables, the instruction writes nothing but
FFLAGS and k7, which holds the elements that raised one when VL is at most 1,024; it stalls, and its report waits at
the scalar unit: the cause of the lowest enabled flag, and the enabled flags as TVAL. -/
def vectorFpTraps : Prop :=
  ∀ (i : Instr) (f : VForm) (l : Lanes) (s : State) (b : Nat), vform i = some f → f.placed = false → f.Ready s →
    s.Alone → s.lanes (s.operand f) f.op = some l → s.CleanRegs l.srcs →
    let enabled : BitVec 6 := s.activeList.foldl (fun u j => u ||| ((l.val j).2.setWidth 6 &&& s.lc.ftrapen)) 0
    enabled.getLsbD b = true → (∀ c, c < b → enabled.getLsbD c = false) →
    ∃ t r e, exec i s = .next t
      ∧ t.lc.vstalled = some e ∧ t.lc.vreport = some r ∧ e.pc = s.lc.pc.setWidth 64 ∧ e.op = f.op
      ∧ r.pc = s.lc.pc.setWidth 64 ∧ r.insn = s.ir
      ∧ r.cause = fpCause b ∧ r.tval = enabled.setWidth 64 ∧ r.deferred = false
      ∧ r.k7valid = decide (s.lc.vec.vl.toNat ≤ 1024)
      ∧ (s.lc.vec.vl.toNat ≤ 1024 → ∀ j, t.part.k[7].getLsbD j
          = (s.activeAt j && decide ((l.val j).2.setWidth 6 &&& s.lc.ftrapen ≠ 0)))
      ∧ (∀ c, t.lc.fflags.getLsbD c
          = (s.lc.fflags.getLsbD c || s.activeList.any (fun j => (l.val j).2.getLsbD c)))
      ∧ t.part.v = s.part.v ∧ t.part.vPoison = s.part.vPoison ∧ t.part.vqueue = [] ∧ t.lc.s = s.lc.s
      ∧ t.lc.vstart = 0 ∧ t.lc.pc = s.lc.pc + 4 ∧ t.dev = s.dev ∧ t.core = s.core

/-- R285, R276: an unplaced elementwise instruction that reads a poisoned granule through an active element writes no
result: it stalls with POISON_VECTOR, the first such source register as TVAL and in k7 the elements that read one. -/
def vectorPoison : Prop :=
  ∀ (i : Instr) (f : VForm) (l : Lanes) (s : State) (r : VReg), vform i = some f → f.placed = false → f.Ready s →
    s.Alone → s.lanes (s.operand f) f.op = some l → (s.lc.vec.vmsel ≠ 8 → s.kpois s.lc.vec.vmsel.toNat = 0) →
    let bad (r : VReg) (j : Nat) : Bool := s.part.vPoison[r.toNat].getLsbD (l.width * j / 512)
    l.srcs.find? (fun r => s.activeList.any (bad r)) = some r →
    ∃ t u e, exec i s = .next t
      ∧ t.lc.vstalled = some e ∧ t.lc.vreport = some u ∧ u.cause = .poisonVector ∧ u.tval = r.setWidth 64
      ∧ u.pc = s.lc.pc.setWidth 64 ∧ s.activeList.find? (fun j => l.srcs.any (fun r => bad r j)) = some u.first
      ∧ (s.lc.vec.vl.toNat ≤ 1024 → ∀ j, t.part.k[7].getLsbD j = (s.activeAt j && l.srcs.any (fun r => bad r j)))
      ∧ t.part.v = s.part.v ∧ t.part.vPoison = s.part.vPoison ∧ t.lc.s = s.lc.s ∧ t.lc.fflags = s.lc.fflags
      ∧ t.lc.pc = s.lc.pc + 4 ∧ t.dev = s.dev ∧ t.core = s.core

/-- R131, R270, R276, R285: an elementwise instruction stalls on an enabled flag and on poison. Nothing else is under
way and the streams are followed in order: the model's choice, log 3. -/
def Obligations.VectorTraps : Prop :=
  vectorFpTraps ∧ vectorPoison

/-- R401, R414, R132: the integer results of the elementwise operations at an element's width: arithmetic wraps, a
quotient truncates toward zero and is all ones for a zero divisor, shift amounts are taken modulo the width, and no
flag is raised. -/
def Obligations.VectorIntegers : Prop :=
  ∀ (t : Ty) (mode : Nat) (a b d : BitVec t.bits), t.cls = .I →
    let n := b.toNat % t.bits
    let less (x y : BitVec t.bits) : Bool := if t.signed then x.slt y else x.ult y
    let is (r : Nat × Flags) (v : BitVec t.bits) : Prop := r = (v.toNat, 0)
    let bin (o : VBin) : Nat × Flags := vbin o t mode a.toNat b.toNat
    let tern (o : VTern) : Nat × Flags := vtern o t mode a.toNat b.toNat d.toNat
    is (bin .add) (a + b) ∧ is (bin .sub) (a - b) ∧ is (bin .mul) (a * b)
    ∧ is (bin .div) (if b = 0 then BitVec.allOnes t.bits else if t.signed then a.sdiv b else a / b)
    ∧ is (bin .min) (if less b a then b else a) ∧ is (bin .max) (if less a b then b else a)
    ∧ is (bin .and) (a &&& b) ∧ is (bin .or) (a ||| b) ∧ is (bin .xor) (a ^^^ b)
    ∧ is (bin .shl) (a <<< n) ∧ is (bin .shr) (a >>> n) ∧ is (bin .sra) (a.sshiftRight n)
    ∧ is (tern .ma) (a * b + d) ∧ is (tern .ms) (a * b - d) ∧ is (tern .nma) (-(a * b) - d)
    ∧ is (vun .neg t mode a.toNat) (-a)
    ∧ is (vun .abs t mode a.toNat) (if t.signed && a.slt 0 then -a else a)

/-- R406, R422, R411, R399, R421, R416, R408, R417: the instructions that move elements, unplaced and with nothing else
under way. VBCAST writes the scalar to each active element, VSLIDE element i + sa of the source or 0 outside 0 to
VL − 1, VMOV the element itself, VPERM the element its index names or 0, VSEL at every element below VL the first source
under a mask bit and else the second, VCOMPRESS the active elements packed from element 0, VQRECV the oldest entry of
its queue, which leaves it whatever VL is; VEXTRACT writes element 0, extended by its type, to sd, and VQSEND appends
it to its queue. -/
def elementMoves : Prop :=
  ∀ (i : Instr) (f : VForm) (s : State), vform i = some f → f.placed = false → f.Ready s → s.Alone →
    (s.lc.vec.vmsel ≠ 8 → s.kpois s.lc.vec.vmsel.toNat = 0) →
    let el (r : VReg) (t : Ty) (j : Nat) : Nat := elem s.part.v[r.toNat] t.bits j
    let vl := s.lc.vec.vl.toNat
    let writes (d : VReg) (t : Ty) (val : Nat → Nat) : Prop := ∃ u, exec i s = .next u ∧ s.VectorDone u
      ∧ u.lc.q = s.lc.q ∧ u.lc.fflags = s.lc.fflags
      ∧ s.WroteElems u d t.bits (fun j => if s.activeAt j then some (val j) else none)
    match f.op with
    | .bcast d t => ∀ r, f.carry = some r → writes d t (fun _ => (s.getS r).toNat)
    | .slide d a t => writes d t (fun j =>
        let k := (j : Int) + (s.operand f).toInt
        if 0 ≤ k ∧ k < vl then el a t k.toNat else 0)
    | .un .mov d a t => writes d t (el a t)
    | .perm d a b t => (∀ g, s.part.vPoison[b.toNat].getLsbD g = false) →
        writes d t (fun j => if el b t j < vl then el a t (el b t j) else 0)
    | .sel d a b t => ∃ u, exec i s = .next u ∧ s.VectorDone u ∧ u.lc.q = s.lc.q ∧ u.lc.fflags = s.lc.fflags
        ∧ s.WroteElems u d t.bits (fun j =>
          if j < vl then some (if s.activeAt j then el a t j else el b t j) else none)
    | .compress d a t => ∃ u, exec i s = .next u ∧ s.VectorDone u ∧ u.lc.q = s.lc.q ∧ u.lc.fflags = s.lc.fflags
        ∧ s.WroteElems u d t.bits (fun j => (s.activeList[j]?).map (el a t))
    | .qrecv d q t => ∀ x rest, s.lc.q[q.toNat] = x :: rest → ∃ u, exec i s = .next u ∧ s.VectorDone u
        ∧ u.lc.q = s.lc.q.set q.toNat rest ∧ u.lc.fflags = s.lc.fflags
        ∧ s.WroteElems u d t.bits (fun j => if s.activeAt j then some x.toNat else none)
    | .qsend q a t => s.part.vPoison[a.toNat].getLsbD 0 = false → s.lc.q[q.toNat].length < 16 →
        ∃ u, exec i s = .next u ∧ s.VectorDone u
          ∧ u.lc.q = s.lc.q.set q.toNat (s.lc.q[q.toNat] ++ [extendLoad t.signed t.bytes (el a t 0)])
          ∧ u.lc.fflags = s.lc.fflags ∧ { u.part with rem := s.part.rem } = s.part
    | .extract d a t => ∃ u, exec i s = .next u ∧ u.lc.pc = s.lc.pc + 4 ∧ u.lc.pending = s.lc.pending
        ∧ u.getS d = (if d = 0 then 0 else extendLoad t.signed t.bytes (el a t 0))
        ∧ (d ≠ 0 → u.poisonedS d = s.part.vPoison[a.toNat].getLsbD 0)
        ∧ (∀ r, r ≠ d → u.getS r = s.getS r ∧ u.poisonedS r = s.poisonedS r)
        ∧ { u.part with rem := s.part.rem } = s.part ∧ u.dev = s.dev ∧ u.core = s.core
        ∧ u.lc.q = s.lc.q ∧ u.lc.fflags = s.lc.fflags ∧ u.lc.trap = s.lc.trap
    | _ => True

/-- R407, R355, R356: the mask instructions with nothing else under way, VL not 0. VCMP writes the predicate's bit for
each active element, keeps the bits below VL of the others and clears those from VL on; the logical instructions write
their bits below VL and clear those from VL on; KPOP counts and KFIRST finds the active elements whose bit is set,
KFIRST all ones where there is none. -/
def maskOperations : Prop :=
  ∀ (i : Instr) (f : VForm) (s : State), vform i = some f → f.placed = false → f.Ready s → s.Alone →
    (∀ k : Fin 8, s.part.kPoison[k] = 0) → 0 < s.lc.vec.vl.toNat →
    let vl := s.lc.vec.vl.toNat
    let el (r : VReg) (t : Ty) (j : Nat) : Nat := elem s.part.v[r.toNat] t.bits j
    let writes (k : VReg) (val : Nat → Bool) (u : State) : Prop :=
      exec i s = .next u ∧ s.VectorDone u ∧ u.lc.q = s.lc.q ∧ u.part.v = s.part.v ∧ u.part.vPoison = s.part.vPoison
      ∧ (∀ j, j < 1024 → (u.kreg k.toNat).getLsbD j = (decide (j < vl) && val j))
      ∧ ∀ n, n < 8 → n ≠ k.toNat → u.kreg n = s.kreg n
    let scalar (d : SReg) (v : Dword) : Prop := ∃ u, exec i s = .next u ∧ u.lc.pc = s.lc.pc + 4
      ∧ u.lc.pending = s.lc.pending ∧ u.Holds d v ∧ s.SameRegsBut u d ∧ { u.part with rem := s.part.rem } = s.part
      ∧ u.dev = s.dev ∧ u.core = s.core ∧ u.lc.fflags = s.lc.fflags ∧ u.lc.q = s.lc.q ∧ u.lc.trap = s.lc.trap
    match f.op with
    | .cmp k a b t c => s.CleanRegs [a, b] →
      let p (j : Nat) := vpred c t (el a t j) (el b t j)
      (∀ j, s.activeAt j = true → (p j).2.setWidth 6 &&& s.lc.ftrapen = 0) →
      ∃ u, writes k (fun j => if s.activeAt j then (p j).1 else (s.kreg k.toNat).getLsbD j) u
        ∧ ∀ b, u.lc.fflags.getLsbD b = (s.lc.fflags.getLsbD b || s.activeList.any (fun j => (p j).2.getLsbD b))
    | .mask o k a b =>
      ∃ u, writes k (fun j =>
          let x := (s.kreg a.toNat).getLsbD j
          let y := (s.kreg b.toNat).getLsbD j
          match o with
          | .and => x && y
          | .or => x || y
          | .xor => x ^^ y
          | .not => !x
          | .mov => x) u ∧ u.lc.fflags = s.lc.fflags
    | .kscalar first d a =>
      let hits := s.activeList.filter (fun j => (s.kreg a.toNat).getLsbD j)
      scalar d (if first then (match hits.head? with
        | some j => BitVec.ofNat 64 j
        | none => BitVec.allOnes 64) else BitVec.ofNat 64 hits.length)
    | _ => True

/-- R355, R356, R399, R406 to R408, R411, R416, R417, R421, R422: moves of elements, comparisons and mask operations.
Nothing else is under way and the streams are followed in order: the model's choice, log 3. -/
def Obligations.VectorMoves : Prop :=
  elementMoves ∧ maskOperations

/-- R45, R405, R419, R420, R134 to R136: a reduction with nothing else under way writes one result per segment, from
element 0 up: without flags all active elements are one segment. A scan writes each active element its running sum.
Other elements are as they were, and FFLAGS takes the flags raised. Nothing else is under way and the streams are
followed in order: the model's choice, log 3. -/
def Obligations.VectorReductions : Prop :=
  ∀ (i : Instr) (f : VForm) (o : VRed) (d a kb : VReg) (t : Ty) (seg : Bool) (s : State), vform i = some f →
    f.op = .red o d a kb t seg → f.placed = false → f.Ready s → s.Alone → s.CleanRegs [a] → s.lc.ftrapen = 0 →
    (seg = true → s.kpois kb.toNat = 0 ∧ s.lc.vec.vmsel.toNat ≠ kb.toNat) → 0 < s.lc.vec.vl.toNat →
    let mode := s.lc.vec.frm.toNat
    let parts := (segments (fun j => seg && (s.kreg kb.toNat).getLsbD j) s.lc.vec.vl.toNat).map (fun g =>
      (g.1, (g.2.filter s.activeAt).map (fun j => (j, elem s.part.v[a.toNat] t.bits j))))
    let res := parts.map (fun g => redSegment o t mode g.1 g.2)
    let sums := parts.flatMap (fun g => scanSegment t mode (redZero t) g.2)
    ∃ u, exec i s = .next u ∧ s.VectorDone u ∧ u.lc.q = s.lc.q
      ∧ (o ≠ .scan → s.WroteElems u d (redBits o t) (fun j => (res[j]?).map (·.1))
        ∧ ∀ b, u.lc.fflags.getLsbD b = (s.lc.fflags.getLsbD b || res.any (fun r => r.2.getLsbD b)))
      ∧ (o = .scan → s.WroteElems u d t.bits (fun j => (sums.find? (·.1 == j)).map (·.2.1))
        ∧ ∀ b, u.lc.fflags.getLsbD b = (s.lc.fflags.getLsbD b || sums.any (fun r => r.2.2.getLsbD b)))

/-! ### Vector memory, MAJ 28 to 2B -/

/-- R412, R413, R104: an unplaced VLD of am 0 to 4 with nothing else under way loads field j of each active element
into element i of vt + j, the byte at the lowest address lowest; other elements and registers, and memory, are as they
were. Nothing else is under way and the streams are followed in order: the model's choice, log 3. -/
def Obligations.VectorLoads : Prop :=
  ∀ (r : VReg) (a : SReg) (m : AMode) (k o : Bool) (y : Ty) (f : VForm) (loc : Nat → Nat → Loc) (s : State),
    vform (.vld false r a m k o y) = some f → f.Ready s → s.Alone → (∀ x, m ≠ .stream x) →
    s.CleanRegs (match m with
      | .indexed x => [x]
      | _ => []) →
    s.AllAt .load false true m y (s.getS a) loc →
    (∀ i j, s.activeIn m i = true → j < modeFields m → s.CleanAt (loc i j)) →
    ∃ t, exec (.vld false r a m k o y) s = .next t ∧ s.VectorMemDone t ∧ t.dev = s.dev ∧ t.core = s.core
      ∧ t.lc.contain = s.lc.contain
      ∧ (∀ i j, s.activeIn m i = true → j < modeFields m → ∀ n, n < y.bytes →
        BitVec.ofNat 8 (elem t.part.v[(r + BitVec.ofNat 5 j).toNat] y.bits i >>> (8 * n)) = s.readByte (loc i j) n)
      ∧ (∀ i j, i < 32768 / y.bits → s.activeIn m i = false → j < modeFields m →
        elem t.part.v[(r + BitVec.ofNat 5 j).toNat] y.bits i = elem s.part.v[(r + BitVec.ofNat 5 j).toNat] y.bits i)
      ∧ ∀ q : VReg, (q.toNat < r.toNat ∨ r.toNat + modeFields m ≤ q.toNat) →
        t.part.v[q.toNat] = s.part.v[q.toNat] ∧ t.part.vPoison[q.toNat] = s.part.vPoison[q.toNat]

/-- R423, R173, R281: an unplaced VST of am 0 to 4 with nothing else under way whose accesses lie in at most 64 pages,
one probe group, writes the elements in ascending order, so that a byte holds what the last access to it stored, and
no other byte changes; under containment the bytes are held aside, seen by the LC's own loads, and memory is as it
was. Nothing else is under way and the streams are followed in order: the model's choice, log 3. That only the LC's
own S and V loads see held bytes is log 36. -/
def Obligations.VectorStores : Prop :=
  ∀ (r : VReg) (a : SReg) (m : AMode) (k o : Bool) (y : Ty) (f : VForm) (loc : Nat → Nat → Loc)
    (pages : List Nat) (s : State), vform (.vst false r a m k o y) = some f → f.Ready s → s.Alone → s.MemOk → (∀ x, m ≠ .stream x) →
    s.CleanRegs (match m with
      | .indexed x => [x]
      | _ => []) →
    s.AllAt .store true false m y (s.getS a) loc →
    pages.length ≤ 64 → (∀ i j, s.activeIn m i = true → j < modeFields m →
      (s.elemAddr m y (s.getS a) i j).toNat / 65536 ∈ pages) →
    let last (i j : Nat) : Prop := s.activeIn m i = true ∧ j < modeFields m ∧ ∀ p q, s.activeIn m p = true →
      q < modeFields m → (i < p ∨ (i = p ∧ j < q)) → (loc i j).apart (loc p q) y.bytes
    let stored (i j n : Nat) : Byte :=
      BitVec.ofNat 8 (elem s.part.v[(r + BitVec.ofNat 5 j).toNat] y.bits i >>> (8 * n))
    (s.sccOf s.lc = false → ∃ t, exec (.vst false r a m k o y) s = .next t ∧ s.VectorMemDone t
      ∧ t.part.v = s.part.v ∧ t.part.vPoison = s.part.vPoison ∧ t.lc.contain = s.lc.contain
      ∧ (∀ i j, last i j → ∀ n, n < y.bytes → t.byteAt (loc i j) n = stored i j n)
      ∧ s.OthersKept t m y.bytes loc)
    ∧ (s.sccOf s.lc = true → (∀ i j, s.activeIn m i = true → j < modeFields m → (loc i j).place.1 = true) →
      s.lc.contain.length + s.lc.vec.vl.toNat * (if m = .tile then s.lc.vec.rowcnt.toNat else modeFields m) ≤ s.cap →
      ∃ t, exec (.vst false r a m k o y) s = .next t ∧ s.VectorMemDone t ∧ t.part.v = s.part.v ∧ t.dev = s.dev
      ∧ t.core = s.core ∧ ∀ i j, last i j → ∀ n, n < y.bytes → t.readByte (loc i j) n = stored i j n)

/-- R402, R403: an unplaced VAMO or VAMON with nothing else under way, of one probe group, updates the element of
memory each active index names, in ascending element: the first update of a place finds what memory held, a later one
what the one before it left, and the place ends with the last result. VAMO returns what each found in vt; VAMON writes
no register; no other byte changes. Nothing else is under way and the streams are followed in order: the model's
choice, log 3; that updates are performed with their entry is log 92. -/
def Obligations.VectorAtomics : Prop :=
  ∀ (r x : VReg) (a : SReg) (c : VamoOp) (k o : Bool) (y : Ty) (f g : VForm) (loc : Nat → Loc)
    (pages : List Nat) (s : State),
    vform (.vamo false r a c k o y x) = some f → f.Ready s → vform (.vamon false r a c k o y x) = some g → g.Ready s →
    s.Alone → s.MemOk → s.CleanRegs [x, r] →
    s.AllAt .amo true true (.indexed x) y (s.getS a) (fun i _ => loc i) → pages.length ≤ 64 →
    (∀ i, s.activeAt i = true → (s.elemAddr (.indexed x) y (s.getS a) i 0).toNat / 65536 ∈ pages) →
    (∀ i, s.activeAt i = true → s.badAt (loc i) = false ∧ s.poisonHome (loc i) = false) →
    (∀ i j, s.activeAt i = true → s.activeAt j = true →
      (loc i).place = (loc j).place ∨ (loc i).apart (loc j) y.bytes) →
    let operand (i : Nat) : Nat := elem s.part.v[r.toNat] y.bits i
    let result (old : Nat → Nat) (i : Nat) : Nat := vamoOp c y (old i) (operand i) % 2 ^ y.bits
    let chain (old : Nat → Nat) (u : State) : Prop :=
      (∀ i, s.activeAt i = true → (∀ j, j < i → s.activeAt j = true → (loc j).place ≠ (loc i).place) →
        old i = s.readHome (loc i) y.bytes)
      ∧ (∀ i j, s.activeAt i = true → s.activeAt j = true → j < i → (loc j).place = (loc i).place →
        (∀ n, j < n → n < i → s.activeAt n = true → (loc n).place ≠ (loc i).place) → old i = result old j)
      ∧ (∀ i, s.activeAt i = true → (∀ j, i < j → s.activeAt j = true → (loc j).place ≠ (loc i).place) →
        u.readHome (loc i) y.bytes = result old i)
      ∧ s.OthersKept u (.indexed x) y.bytes (fun i _ => loc i)
    ∃ (t u : State) (old : Nat → Nat),
      exec (.vamo false r a c k o y x) s = .next t ∧ s.VectorMemDone t ∧ t.lc.contain = s.lc.contain ∧ chain old t
      ∧ (∀ i, i < 32768 / y.bits → elem t.part.v[r.toNat] y.bits i
          = if s.activeAt i then old i else elem s.part.v[r.toNat] y.bits i)
      ∧ (∀ q : VReg, q ≠ r → t.part.v[q.toNat] = s.part.v[q.toNat])
      ∧ exec (.vamon false r a c k o y x) s = .next u ∧ s.VectorMemDone u ∧ u.lc.contain = s.lc.contain
      ∧ chain old u ∧ u.part.v = s.part.v

/-- R276, R280, R104: an unplaced VLD whose element count is at most 1,024 and of which some elements do not translate
loads the others, leaves the failed elements in k7 and stalls; the report that waits at the scalar unit has the cause
and the address of the lowest failed element and asks for its re-execution under k7. -/
def vectorLoadFaults : Prop :=
  ∀ (r : VReg) (a : SReg) (k o : Bool) (y : Ty) (f : VForm) (loc : Nat → Except XErr Loc) (s : State) (first : Nat)
    (c : Cause), vform (.vld false r a .unit k o y) = some f → f.Ready s → s.Alone → s.CleanRegs [] →
    s.lc.vec.vl.toNat ≤ 1024 →
    let va (i : Nat) := s.elemAddr .unit y (s.getS a) i 0
    let failed (i : Nat) : Bool := s.activeAt i && (match loc i with
      | .error _ => true
      | .ok _ => false)
    (∀ i, s.activeAt i = true → (va i).toNat % y.bytes = 0 ∧ s.watched s.super false true (va i) y.bytes = false
      ∧ s.locate s.super .load (va i) = loc i
      ∧ (∀ e, loc i = .error e → ∃ d, e = .cause d) ∧ ∀ l, loc i = .ok l → s.CleanAt l) →
    s.activeAt first = true → loc first = .error (.cause c) → (∀ i, i < first → failed i = false) →
    ∃ t e u, exec (.vld false r a .unit k o y) s = .next t
      ∧ t.lc.vstalled = some e ∧ e.pc = s.lc.pc.setWidth 64
      ∧ t.lc.vreport = some u ∧ u.cause = c ∧ u.tval = va first ∧ u.first = first ∧ u.rm = some true
      ∧ u.pc = s.lc.pc.setWidth 64 ∧ u.insn = s.ir ∧ (∀ i, t.part.k[7].getLsbD i = failed i)
      ∧ (∀ i, s.activeAt i = true → ∀ l, loc i = .ok l → ∀ n, n < y.bytes →
        BitVec.ofNat 8 (elem t.part.v[r.toNat] y.bits i >>> (8 * n)) = s.readByte l n)
      ∧ (∀ i, i < 32768 / y.bits → (s.activeAt i = false ∨ failed i = true) →
        elem t.part.v[r.toNat] y.bits i = elem s.part.v[r.toNat] y.bits i)
      ∧ t.lc.s = s.lc.s ∧ t.dev = s.dev ∧ t.core = s.core ∧ t.lc.pc = s.lc.pc + 4

/-- R277: an unplaced VST of at most 64 elements, one of which does not translate, writes nothing: it stalls with the
cause and address of the lowest such element, the failed elements in k7 and VSTART at its first active element. -/
def vectorStoreFaults : Prop :=
  ∀ (r : VReg) (a : SReg) (k o : Bool) (y : Ty) (f : VForm) (s : State) (first low : Nat) (c : Cause),
    vform (.vst false r a .unit k o y) = some f → f.Ready s → s.Alone → s.CleanRegs [] → s.lc.vec.vl.toNat ≤ 64 →
    s.sccOf s.lc = false →
    let va (i : Nat) := s.elemAddr .unit y (s.getS a) i 0
    (∀ i, s.activeAt i = true → (va i).toNat % y.bytes = 0 ∧ s.watched s.super true false (va i) y.bytes = false
      ∧ (∀ e, s.locate s.super .store (va i) = .error e → ∃ d, e = .cause d)
      ∧ ∀ l, s.locate s.super .store (va i) = .ok l → s.linkBad l = false) →
    let failed (i : Nat) : Bool := s.activeAt i && (match s.locate s.super .store (va i) with
      | .error _ => true
      | .ok _ => false)
    s.activeAt first = true → s.locate s.super .store (va first) = .error (.cause c) →
    (∀ i, i < first → failed i = false) → s.activeAt low = true → (∀ i, i < low → s.activeAt i = false) →
    ∃ t e u, exec (.vst false r a .unit k o y) s = .next t
      ∧ t.lc.vstalled = some e ∧ e.pc = s.lc.pc.setWidth 64
      ∧ t.lc.vreport = some u ∧ u.cause = c ∧ u.tval = va first ∧ u.first = first ∧ u.storeGroup = true
      ∧ u.rm = some false ∧ (∀ i, t.part.k[7].getLsbD i = failed i) ∧ t.lc.vstart = BitVec.ofNat 16 low
      ∧ t.part.v = s.part.v ∧ t.lc.s = s.lc.s ∧ t.dev = s.dev ∧ t.core = s.core ∧ t.lc.pc = s.lc.pc + 4

/-- R104, R276, R277, R280: a vector load and a vector store of which some elements do not translate. Nothing else is
under way and the streams are followed in order: the model's choice, log 3. Which pages the record lists is log 74;
that EPR stays is log 93. -/
def Obligations.VectorAccessFaults : Prop :=
  vectorLoadFaults ∧ vectorStoreFaults

/-! ### Tiles, accumulators and products, MAJ 30 to 35 -/

/-- R235, R389: TEN sets TSTATE.EN and nothing else; TDIS with EN = 1 frees the segments and the accumulators and
clears TCFG and TSTATE; with EN = 0 it raises TILE_STATE_DISABLED. (With nothing else under way.) -/
def tileEnable : Prop :=
  ∀ s : State, s.Alone → s.lc.vec.vl.toNat ≤ 4096 →
    (∃ t, exec .ten s = .next t ∧ s.StreamDone t ∧ t.core = s.core
      ∧ t.part.tstate = (if s.part.tstate.getLsbD 0 then s.part.tstate else 1)
      ∧ { t.part with tstate := s.part.tstate, rem := s.part.rem } = s.part)
    ∧ (s.part.tstate.getLsbD 0 = true → ∃ t, exec .tdis s = .next t
      ∧ s.StreamDone { t with lc := { t.lc with tcfg := s.lc.tcfg } } ∧ t.core = s.core
      ∧ t.part.tstate = 0 ∧ t.part.accalloc = 0 ∧ (∀ i : Fin 8, t.lc.tcfg[i] = TCfg.zero) ∧ t.part.grant.segs = []
      ∧ t.TilesOk
      ∧ { t.part with
          tstate := s.part.tstate, accalloc := s.part.accalloc, grant := s.part.grant
          segPoison := s.part.segPoison, rem := s.part.rem } = s.part)
    ∧ (s.part.tstate.getLsbD 0 = false → s.SuperTakes .tileStateDisabled →
      ∃ t, exec .tdis s = .next t ∧ s.TrappedSuper t .tileStateDisabled 0)

/-- R103, R241, R243, R327: the checks of products and accumulator moves: no tile state raises TILE_STATE_DISABLED, an
accumulator not allocated ACCUMULATOR_UNALLOCATED with its number, tiles whose types or shapes disagree
TILE_SHAPE_MISMATCH with 0x10 + the tile, an accumulator row from 128 on TILE_SHAPE_MISMATCH with the row. -/
def tileChecks : Prop :=
  ∀ (d a : SReg) (c : AccReg) (p q : TReg) (x y : Ty) (fb ea sat : Bool) (s : State), s.Alone →
    s.lc.vec.vl.toNat ≤ 128 →
    let traps (i : Instr) (e : Cause) (v : Dword) : Prop := s.SuperTakes e →
      ∃ t, exec i s = .next t ∧ s.TrappedSuper t e v
    let acc (e : Cause) (v : Dword) : Prop := traps (.accz c) e v ∧ (mmaPair x y = true → traps (.mma c p q x y ⟨fb, ea, sat⟩) e v)
      ∧ (d.toNat < 32 → s.Readable a → traps (.accrd d a c) e v ∧ traps (.accwr d a c) e v)
    (s.part.tstate.getLsbD 0 = false → acc .tileStateDisabled 0)
    ∧ (s.part.tstate.getLsbD 0 = true → s.part.accalloc.getLsbD c.toNat = false →
      acc .accumulatorUnallocated (c.setWidth 64))
    ∧ (s.part.tstate.getLsbD 0 = true → s.part.accalloc.getLsbD c.toNat = true →
      (∀ n, mmaPair x y = true →
        shapeError (s.tcfgOf p.toNat) (s.tcfgOf q.toNat) TCfg.zero TCfg.zero p.toNat q.toNat x y false = some n →
        traps (.mma c p q x y ⟨fb, ea, sat⟩) .tileShapeMismatch (BitVec.ofNat 64 (0x10 + n)))
      ∧ (128 ≤ (s.getS a).toNat → d.toNat < 32 → s.Readable a →
        traps (.accrd d a c) .tileShapeMismatch (s.getS a) ∧ traps (.accwr d a c) .tileShapeMismatch (s.getS a)))

/-- R103, R235, R241, R243, R327, R389: TEN, TDIS, and the checks of products and accumulator moves. Nothing else is
under way and the streams are followed in order: the model's choice, log 3. -/
def Obligations.TileState : Prop :=
  tileEnable ∧ tileChecks

/-- R236, R78: TSHAPE with nothing else under way grants the largest shape its reduction rule leaves: sd receives the
granted shape and type, TSTATE and TCFG hold it, the segments kept are the lowest free ones and hold zeros; a type that
it does not accept stalls it with BAD_TYPE. -/
def shapeGranted : Prop :=
  ∀ (d a : SReg) (s : State), s.Alone → s.lc.vec.vl.toNat ≤ 4096 → s.part.tstate.getLsbD 0 = true → s.Readable a →
    s.Writable d →
    let x := (s.getS a).toNat
    let ty := x % 16
    let y := (TCfg.mk (BitVec.ofNat 4 ty) 0 0).type
    let K := x / 2 ^ 23 % 512
    let N := x / 2 ^ 15 % 256
    let M := x / 2 ^ 7 % 256
    let free := s.freeSegments.take ((s.core.banks 2).length / 4)
    let r := fitShape y M N K (65536 * free.length) 64
      (if M = 0 ∨ N = 0 ∨ K = 0 then (0, 0, 0) else (min M 128, min N 128, min K 128))
    (shapeType y = true →
      ∃ t, exec (.tshape d a) s = .next t ∧ t.lc.pc = s.lc.pc + 4 ∧ t.lc.pending = s.lc.pending
        ∧ t.Holds d (BitVec.ofNat 64 (r.2.2 * 2 ^ 23 + r.2.1 * 2 ^ 15 + r.1 * 2 ^ 7 + ty)) ∧ s.SameRegsBut t d
        ∧ t.lc.tcfg = grantCfg y r.1 r.2.1 r.2.2 ∧ t.part.grant.cfg = t.lc.tcfg
        ∧ t.part.grant.segs = free.take ((footprint y r.1 r.2.1 r.2.2 + 65535) / 65536)
        ∧ t.part.tstate.getLsbD 0 = true ∧ (∀ g ∈ t.part.grant.segs, t.core.seg g = 0)
        ∧ (∀ g, g ∉ t.part.grant.segs → t.core.seg g = s.core.seg g)
        ∧ { t.core with segs := s.core.segs, segError := s.core.segError } = s.core
        ∧ t.part.v = s.part.v ∧ t.part.k = s.part.k ∧ t.part.accalloc = s.part.accalloc ∧ t.dev = s.dev)
    ∧ (shapeType y = false → ∃ t e u, exec (.tshape d a) s = .next t
        ∧ t.lc.vstalled = some e
        ∧ t.lc.vreport = some u ∧ u.cause = .badType ∧ u.tval = BitVec.ofNat 64 ty ∧ u.pc = s.lc.pc.setWidth 64
        ∧ t.lc.tcfg = s.lc.tcfg ∧ t.part.tstate = s.part.tstate ∧ t.lc.s = s.lc.s ∧ t.core = s.core)

/-- R236: the reduction rule gives a shape whose footprint fits, no larger than the request in any dimension; one that
fits as requested is granted as requested. -/
def shapeReduction : Prop :=
  ∀ (y : Ty) (m n k cap : Nat), m ≤ 128 → n ≤ 128 → k ≤ 128 →
    let r := fitShape y m n k cap 64 (m, n, k)
    footprint y r.1 r.2.1 r.2.2 ≤ cap ∧ r.1 ≤ m ∧ r.2.1 ≤ n ∧ r.2.2 ≤ k
      ∧ (footprint y m n k ≤ cap → r = (m, n, k))
      ∧ (r = (0, 0, 0) ∨ (min m 8 ≤ r.1 ∧ min n 8 ≤ r.2.1 ∧ min k 32 ≤ r.2.2))

/-- R78, R236: TSHAPE and its reduction rule. Nothing else is under way and the streams are followed in order: the
model's choice, log 3. -/
def Obligations.TileShape : Prop :=
  shapeGranted ∧ shapeReduction

/-- R240, R393: TZERO clears its tile's region; TSLICE reads a row or a column of a tile into the elements of vd, and
a number outside the tile raises TILE_SHAPE_MISMATCH with it as TVAL. (With nothing else under way.) The model's
choice: log 3. -/
def Obligations.TileSlices : Prop :=
  ∀ (q : TReg) (d a : SReg) (col : Bool) (s : State), s.Alone → s.lc.vec.vl.toNat ≤ 4096 →
    s.part.tstate.getLsbD 0 = true → s.TilesOk → s.TilesClean →
    let c := s.tcfgOf q.toNat
    let x := (s.getS a).toNat
    let n := if c.rows = 0 ∨ c.cols = 0 then 0 else if col then c.rows.toNat else c.cols.toNat
    (∃ t, exec (.tzero q) s = .next t ∧ s.StreamDone t
      ∧ (∀ r i, r < s.part.grant.cfg[q.toNat].rows.toNat → i < s.part.grant.pitch q.toNat → t.tileUnit q.toNat 1 r i = 0)
      ∧ (∀ p, p < 8 → p ≠ q.toNat → ∀ r i, r < (s.part.grant.cfg[p]?.getD TCfg.zero).rows.toNat →
        i < s.part.grant.pitch p → t.tileUnit p 1 r i = s.tileUnit p 1 r i)
      ∧ { t.part with segPoison := s.part.segPoison, rem := s.part.rem } = s.part
      ∧ { t.core with segs := s.core.segs } = s.core)
    ∧ (s.Readable a → d.toNat < 32 →
      (x < (if col then c.cols.toNat else c.rows.toNat) →
        ∃ t, exec (.tslice d a col q) s = .next t ∧ s.VectorDone t ∧ t.lc.q = s.lc.q ∧ t.lc.fflags = s.lc.fflags
          ∧ s.WroteElems t (d.setWidth 5) c.type.regBits (fun i =>
            if i < n then some (s.tileElem s.tiles q.toNat c.type (if col then i else x) (if col then x else i))
            else none))
      ∧ ((if col then c.cols.toNat else c.rows.toNat) ≤ x → s.SuperTakes .tileShapeMismatch →
        ∃ t, exec (.tslice d a col q) s = .next t ∧ s.TrappedSuper t .tileShapeMismatch (s.getS a)))

/-- R239, R390: TLD fills ROWCNT rows of VL elements of a tile from memory, TST writes them there, at sa + row ×
ROWPITCH; class M rows are packed. Every other tile byte and, for TST in rows that do not overlap, every other byte of
memory is as it was. (With nothing else under way, the accesses in at most 64 pages.) The model's choice: log 3. -/
def Obligations.TileMemory : Prop :=
  ∀ (q : VReg) (a : SReg) (k o : Bool) (y : Ty) (loc : Nat → Nat → Loc) (pages : List Nat) (s : State), s.Alone →
    s.MemOk → q.toNat < 8 → tileType y = true → s.lc.vec.vl.toNat ≤ 32768 / y.regBits →
    s.part.tstate.getLsbD 0 = true → s.TilesOk → s.TilesClean → s.Readable a →
    let c := s.tcfgOf q.toNat
    c.ty.toNat = y.ctorIdx → s.lc.vec.rowcnt.toNat ≤ c.rows.toNat → s.lc.vec.vl.toNat ≤ c.cols.toNat →
    s.lc.vec.vl.toNat % packUnit y = 0 →
    let u := tileUnits y s.lc.vec.vl.toNat
    let rows := s.lc.vec.rowcnt.toNat
    let va (r i : Nat) : Dword := s.getS a + BitVec.ofNat 64 r * s.lc.vec.rowpitch + BitVec.ofNat 64 (i * u.1)
    let at_ (kind : Acc) (st ld : Bool) : Prop := ∀ r i, r < rows → i < u.2 →
      (va r i).toNat % u.1 = 0 ∧ s.locate s.super kind (va r i) = .ok (loc r i)
        ∧ s.watched s.super st ld (va r i) u.1 = false ∧ (st = true → s.linkBad (loc r i) = false)
    (at_ .load false true → (∀ r i, r < rows → i < u.2 → s.CleanAt (loc r i)) →
      ∃ t, exec (.tld q a k o y) s = .next t ∧ t.lc.pc = s.lc.pc + 4 ∧ t.lc.s = s.lc.s ∧ t.dev = s.dev
        ∧ (∀ r i, r < rows → i < u.2 → ∀ n, n < u.1 →
          BitVec.ofNat 8 (t.tileUnit q.toNat u.1 r i >>> (8 * n)) = s.readByte (loc r i) n)
        ∧ (∀ p r i, p < 8 → r < (s.part.grant.cfg[p]?.getD TCfg.zero).rows.toNat → i < s.part.grant.pitch p →
          (p = q.toNat → rows ≤ r ∨ u.1 * u.2 ≤ i) → t.tileUnit p 1 r i = s.tileUnit p 1 r i)
        ∧ { t.part with segPoison := s.part.segPoison, rem := s.part.rem } = s.part
        ∧ { t.core with segs := s.core.segs } = s.core)
    ∧ (at_ .store true false → s.sccOf s.lc = false → pages.length ≤ 64 →
      (∀ r i, r < rows → i < u.2 → (va r i).toNat / 65536 ∈ pages) →
      (∀ r i p j, r < rows → i < u.2 → p < rows → j < u.2 → (r, i) ≠ (p, j) → (loc r i).apart (loc p j) u.1) →
      ∃ t, exec (.tst q a k o y) s = .next t ∧ s.VectorMemDone t ∧ t.part.v = s.part.v
        ∧ t.lc.contain = s.lc.contain
        ∧ (∀ r i, r < rows → i < u.2 → ∀ n, n < u.1 →
          t.byteAt (loc r i) n = BitVec.ofNat 8 (s.tileUnit q.toNat u.1 r i >>> (8 * n)))
        ∧ ∀ b, (∀ r i p e, r < rows → i < u.2 → loc r i = .phys p e → b < p ∨ p + u.1 ≤ b) →
          Memory.get t.dev.mem b = Memory.get s.dev.mem b)

/-- R243, R244, R137: MMA and MMAX with nothing else under way, on tiles whose types and shapes agree and an allocated
accumulator: element (i, j) below M rows and N columns receives the sum of its products over K, in ascending blocks;
every other element, accumulator, tile and register is as it was. That the streams are followed in order is the
model's choice: log 3. -/
def Obligations.MatrixProducts : Prop :=
  ∀ (c : AccReg) (a b : TReg) (x y : Ty) (e5b e5a sat : Bool) (s : State), s.Alone → s.lc.vec.vl.toNat ≤ 4096 →
    s.part.tstate.getLsbD 0 = true → s.part.accalloc.getLsbD c.toNat = true → s.TilesClean →
    s.accErr c = 0 → s.accPois c = 0 → (s.tcfgOf a.toNat).rows.toNat ≤ 128 →
    let A := s.tcfgOf a.toNat
    let B := s.tcfgOf b.toNat
    let done (i : Instr) (fa fb : Fmt) (mx : Bool) : Prop := ∃ t, exec i s = .next t ∧ s.StreamDone t
      ∧ (∀ i j, i < 128 → j < 128 → getE (t.acc c).toNat 32 (128 * i + j)
        = if i < A.rows.toNat ∧ j < B.cols.toNat then
            s.productAt c a.toNat b.toNat x y fa fb mx sat i j % 2 ^ 32
          else getE (s.acc c).toNat 32 (128 * i + j))
      ∧ (∀ d, d ≠ c → t.acc d = s.acc d ∧ t.accPois d = s.accPois d)
      ∧ { t.part with rem := s.part.rem } = s.part
      ∧ { t.core with acc := s.core.acc, accPoison := s.core.accPoison, accError := s.core.accError } = s.core
    (mmaPair x y = true → shapeError A B TCfg.zero TCfg.zero a.toNat b.toNat x y false = none →
      done (.mma c a b x y ⟨e5b, e5a, sat⟩) (Ty.fmt x) (Ty.fmt y) false)
    ∧ (a.getLsbD 0 = false → b.getLsbD 0 = false → x.cls = .M → y.cls = .M →
      shapeError A B (s.tcfgOf (a.toNat + 1)) (s.tcfgOf (b.toNat + 1)) a.toNat b.toNat x y true = none →
      done (.mmax c a b x y e5b e5a sat) (matFmt x e5a) (matFmt y e5b) true)

/-- R138, whole: of the exact value of a matrix block, c + ExactSum(P): when it is finite and Round32 overflows, c
becomes an infinity without SAT and ±0x7F7F_FFFF of the same sign with it; an infinite one stays infinite, and a NaN
becomes 0x7FC0_0000, with SAT and without. -/
def Obligations.MatrixSaturation : Prop :=
  ∀ (sat : Bool) (c : Nat) (p : List FVal),
    let v := FVal.add 0 (Fmt.f32.val c) (exactSum p)
    (∀ n m e, v = .fin n m e → (Fmt.f32.roundVal 0 v).2 &&& flOF ≠ 0 →
      matBlock sat c p = if sat then (if n then 0xFF7F_FFFF else 0x7F7F_FFFF)
        else if n then 0xFF80_0000 else 0x7F80_0000)
    ∧ (∀ n, v = .inf n → matBlock sat c p = if n then 0xFF80_0000 else 0x7F80_0000)
    ∧ ∀ q, v = .nan q → matBlock sat c p = 0x7FC0_0000

/-- R242, R327, R241: ACCRD reads the active elements of a row of an accumulator into vd, ACCWR writes them from it,
ACCZ clears all 16,384 elements; other elements and accumulators are as they were. (With nothing else under way.) The
model's choice: log 3. -/
def Obligations.Accumulators : Prop :=
  ∀ (d a : SReg) (c : AccReg) (s : State), s.Alone → s.lc.vec.vl.toNat ≤ 128 → s.part.tstate.getLsbD 0 = true →
    s.part.accalloc.getLsbD c.toNat = true → s.CleanRegs [] → s.accErr c = 0 →
    let x := (s.getS a).toNat
    (d.toNat < 32 → s.Readable a → x < 128 →
      (∃ t, exec (.accrd d a c) s = .next t ∧ s.VectorDone t ∧ t.lc.q = s.lc.q ∧ t.lc.fflags = s.lc.fflags
        ∧ s.WroteElems t (d.setWidth 5) 32 (fun i =>
          if s.activeAt i then some (getE (s.acc c).toNat 32 (128 * x + i)) else none))
      ∧ ∃ t, exec (.accwr d a c) s = .next t ∧ s.StreamDone t
        ∧ (∀ n, n < 16384 → getE (t.acc c).toNat 32 n
          = if n / 128 = x ∧ s.activeAt (n % 128) = true then elem s.part.v[(d.setWidth 5).toNat] 32 (n % 128)
            else getE (s.acc c).toNat 32 n)
        ∧ (∀ b, b ≠ c → t.acc b = s.acc b ∧ t.accPois b = s.accPois b)
        ∧ { t.part with rem := s.part.rem } = s.part
        ∧ { t.core with acc := s.core.acc, accPoison := s.core.accPoison, accError := s.core.accError } = s.core)
    ∧ (∃ t, exec (.accz c) s = .next t ∧ s.StreamDone t ∧ t.acc c = 0 ∧ t.accPois c = 0
        ∧ (∀ b, b ≠ c → t.acc b = s.acc b ∧ t.accPois b = s.accPois b)
        ∧ { t.part with rem := s.part.rem } = s.part
        ∧ { t.core with acc := s.core.acc, accPoison := s.core.accPoison, accError := s.core.accError } = s.core)

/-! ### Generation and journal instructions, MAJ 3B and 3C -/

/-- R251, R410, R250: VDRAW writes each active element the uniform value of RNGKEY at the counter sb with the element
number added to its low 16 bits; VGUMBEL its Gumbel value. (With nothing else under way.) -/
def draws : Prop :=
  ∀ (d : VReg) (b : SReg) (s : State), s.Alone → s.lc.vec.vl.toNat ≤ 1024 → s.Readable b → s.CleanRegs [] →
    let x := (s.getS b).toNat
    let u (i : Nat) : Nat :=
      uniform s.lc.gen.rngkey (BitVec.ofNat 64 (x / 65536 * 65536 + (x % 65536 + i) % 65536))
    let writes (i : Instr) (val : Nat → Nat) : Prop := ∃ t, exec i s = .next t ∧ s.VectorDone t ∧ t.lc.q = s.lc.q
      ∧ t.lc.fflags = s.lc.fflags
      ∧ s.WroteElems t d 32 (fun i => if s.activeAt i then some (val i) else none)
    writes (.vdraw d b .f32) u ∧ writes (.vgumbel d b .f32) (fun i => gumbel (u i))

/-- R252, R253, R263, R86: the masks of the draft view and of the unmasking engine, with nothing else under way.
VACCEPT sets the bit of each selected position whose draw times q is at most p, p being 0 for a token outside the
vocabulary; VPAND keeps a bit while every earlier one of its sequence is set; URANK sets the bits of the highest ranks
of the active elements, a share of them rounded up and at least one, the lower index first among equals. -/
def generationMasks : Prop :=
  ∀ (k a : VReg) (b : SReg) (s : State), s.Alone → k.toNat < 8 → s.Readable b → (∀ n : Fin 8, s.part.kPoison[n] = 0) →
    let vl := s.lc.vec.vl.toNat
    let w := s.lc.vec.draftn.toNat
    let draft := s.lc.vec.seqn.toNat * w
    let chosen (i : Nat) : Bool :=
      decide (i < draft) && (s.lc.vec.vmsel == 8 || (s.kreg s.lc.vec.vmsel.toNat).getLsbD i)
    let tok (i : Nat) : Nat := elem s.part.v[(a + 1).toNat] 64 i / 2 ^ 32
    let p (i : Nat) : Nat := if s.lc.gen.vocabn.toNat ≤ tok i then 0 else elem s.part.v[a.toNat] 32 i
    let q (i : Nat) : Nat := elem s.part.v[(a + 1).toNat] 64 i % 2 ^ 32
    let u (i : Nat) : Nat := uniform s.lc.gen.rngkey (drawCounter (s.getS b) (i / w) (i % w) 0 0)
    let sets (i : Instr) (bit : Nat → Bool) (t : State) : Prop := exec i s = .next t ∧ s.VectorDone t
      ∧ t.lc.q = s.lc.q ∧ t.part.v = s.part.v ∧ t.part.vPoison = s.part.vPoison
      ∧ (∀ j, (t.kreg k.toNat).getLsbD j = bit j) ∧ ∀ n, n < 8 → n ≠ k.toNat → t.kreg n = s.kreg n
    let v (i : Nat) : Nat := elem s.part.v[a.toNat] 32 i
    let c := s.activeList.length
    let share := s.lc.gen.umcfg.toNat % 2 ^ 16
    let before (j i : Nat) : Bool :=
      ranksOver true .f32 (v j) (v i) || (!ranksOver true .f32 (v i) (v j) && decide (j < i))
    (0 < vl → vl ≤ 512 → 0 < draft → draft ≤ 512 → a.toNat ≤ 30 → s.CleanRegs [a, a + 1] →
      ∃ t, sets (.vaccept k a b .f32) (fun i =>
          chosen i && (Fmt.f32.pred .le (Fmt.f32.mul 0 (u i) (q i)).1 (p i)).1) t
        ∧ t.lc.fflags = s.lc.fflags ||| (if (List.range draft).any (fun i =>
          chosen i && decide (s.lc.gen.vocabn.toNat ≤ tok i)) then flDOR else 0))
    ∧ (0 < vl → vl ≤ 1024 → 0 < draft → draft ≤ 1024 → a.toNat < 8 →
      ∃ t, sets (.vpand k a) (fun i => decide (i < draft)
          && (List.range (i % w + 1)).all (fun j => (s.kreg a.toNat).getLsbD (i - j))) t ∧ t.lc.fflags = s.lc.fflags)
    ∧ (0 < vl → vl ≤ 1024 → share ≠ 0 → s.CleanRegs [a] →
      ∃ t, sets (.urank k a .f32) (fun i => s.activeAt i
          && decide ((s.activeList.filter (fun j => before j i)).length
            < min c (max 1 ((share * c + 65535) / 65536)))) t ∧ t.lc.fflags = s.lc.fflags)
    ∧ (vl ≤ 1024 → share = 0 → s.SuperTakes .unmaskConfigInvalid →
      ∃ t, exec (.urank k a .f32) s = .next t ∧ s.TrappedSuper t .unmaskConfigInvalid 0x42)

/-- R250 to R253, R263, R410: draws and the masks made of them. Nothing else is under way and the streams are followed
in order: the model's choice, log 3. -/
def Obligations.GenerationDraws : Prop :=
  draws ∧ generationMasks

/-- R258, R259, R383: SMPSTEP with nothing else under way folds the active elements below VOCABN into the sampler
state of sb to sb + 3 in ascending order and advances BASE by VL; a state that the rules call invalid stalls it with
SAMPLER_STATE_INVALID and the lowest offending register as TVAL. The model's choice: log 3. -/
def Obligations.SamplerStep : Prop :=
  ∀ (d a : VReg) (b : SReg) (s : State), s.Alone → s.lc.vec.vl.toNat ≤ 1024 → 0 < s.lc.vec.vl.toNat → b ≠ 0 →
    b.toNat ≤ 60 → (∀ r ∈ samplerRegs b, s.Readable r) →
    let w (r : SReg) : Nat := (s.getS r).toNat % 2 ^ 32
    let x : Sampler := ⟨w b, w (b + 1), w (b + 2), (s.getS (b + 3)).toNat / 2 ^ 32, w (b + 3)⟩
    let y := (s.activeList.filter (fun i => decide (x.base + i < s.lc.gen.vocabn.toNat))).foldl
      (fun y i => y.fold (x.base + i) (elem s.part.v[a.toNat] 32 i) (elem s.part.v[d.toNat] 32 i)) x
    (x.invalid = none → s.CleanRegs [a, d] →
      ∃ t, exec (.smpstep d a b .f32) s = .next t ∧ t.lc.pc = s.lc.pc + 4 ∧ t.lc.pending = s.lc.pending
        ∧ t.Holds b (BitVec.ofNat 64 y.m) ∧ t.Holds (b + 1) (BitVec.ofNat 64 y.t)
        ∧ t.Holds (b + 2) (BitVec.ofNat 64 y.best)
        ∧ t.Holds (b + 3) (BitVec.ofNat 64 (min (x.base + s.lc.vec.vl.toNat) 0xFFFF_FFFF * 2 ^ 32 + y.cand))
        ∧ (∀ r, r ∉ samplerRegs b → t.getS r = s.getS r ∧ t.poisonedS r = s.poisonedS r)
        ∧ { t.part with rem := s.part.rem } = s.part ∧ t.dev = s.dev ∧ t.core = s.core ∧ t.lc.fflags = s.lc.fflags
        ∧ t.lc.trap = s.lc.trap)
    ∧ ∀ n, x.invalid = some n → ∃ t e u, exec (.smpstep d a b .f32) s = .next t
        ∧ t.lc.vstalled = some e
        ∧ t.lc.vreport = some u ∧ u.cause = .samplerStateInvalid ∧ u.tval = BitVec.ofNat 64 (b.toNat + n)
        ∧ u.pc = s.lc.pc.setWidth 64 ∧ t.lc.s = s.lc.s ∧ t.part.v = s.part.v ∧ t.dev = s.dev

/-- R256, R255, R353: JADD with nothing else under way stores node, token, increment and STATE 1 in 16 bytes at JBASE
and advances JBASE by 16; where they would pass JLIMIT it raises JOURNAL_OVERFLOW with JBASE as TVAL. -/
def journalAdd : Prop :=
  ∀ (d a b : SReg) (l : Loc) (s : State), s.Alone → s.MemOk → s.Readable d → s.Readable a → s.Readable b →
    let j := s.lc.gen.jbase
    (j.toNat + 16 ≤ s.lc.gen.jlimit.toNat → s.GenAt .store false 16 (j.setWidth 64) l →
      ∃ t, exec (.jadd d a b) s = .next t ∧ t.lc.pc = s.lc.pc + 4
        ∧ t.lc.gen = { s.lc.gen with jbase := j + 16 } ∧ t.lc.s = s.lc.s ∧ t.part.v = s.part.v
        ∧ t.readHome l 16 = (s.getS d).toNat % 64 + (s.getS a).toNat % 2 ^ 32 * 2 ^ 32
          + (s.getS b).toNat % 2 ^ 32 * 2 ^ 64 + 2 ^ 96
        ∧ s.KeptBut t (fun m n => m = l ∧ n = 16))
    ∧ (s.lc.gen.jlimit.toNat < j.toNat + 16 → s.SuperTakes .journalOverflow →
      ∃ t, exec (.jadd d a b) s = .next t ∧ s.TrappedSuper t .journalOverflow (j.setWidth 64))

/-- R257, R352: JCOMMIT and JDROP with nothing else under way. From JBASE downward the journal holds `n` entries, at
most 4,096, before one of STATE 0; the pending ones (STATE 1) whose node sa selects become committed (STATE 2), each
adding its increment to the count its token names, or dropped (STATE 3). No other byte changes. -/
def journalEnd : Prop :=
  ∀ (a b : SReg) (n : Nat) (loc mark tab : Nat → Loc) (s : State), s.Alone → s.MemOk → s.lc.contain = [] →
    s.Readable a → s.Readable b → n ≤ 4096 →
    let va (i : Nat) : Dword := s.lc.gen.jbase.setWidth 64 - BitVec.ofNat 64 (16 * (i + 1))
    let x (i : Nat) : Nat := s.readLoc (loc i) 16
    let pend (i : Nat) : Bool := decide (i < n) && x i / 2 ^ 96 == 1 && (s.getS a).getLsbD (x i % 64)
    let table (i : Nat) : Dword := s.getS b + BitVec.ofNat 64 (4 * (x i / 2 ^ 32 % 2 ^ 32))
    (∀ i, i ≤ n → s.GenAt .load false 16 (va i) (loc i)) →
    (∀ i, i < n → 1 ≤ x i / 2 ^ 96 ∧ x i / 2 ^ 96 < 4) → x n / 2 ^ 96 = 0 →
    (∀ i, pend i = true → s.GenAt .store false 4 (va i + 12) (mark i)) →
    (∀ i j, pend i = true → pend j = true → i ≠ j → (mark i).apart (mark j) 4) →
    (∃ t, exec (.jdrop a) s = .next t ∧ t.lc.pc = s.lc.pc + 4 ∧ t.lc.s = s.lc.s ∧ t.lc.gen = s.lc.gen
      ∧ t.part.v = s.part.v ∧ (∀ i, pend i = true → t.readHome (mark i) 4 = 3)
      ∧ s.KeptBut t (fun m k => k = 4 ∧ ∃ i, pend i = true ∧ m = mark i))
    ∧ ((s.getS b).toNat % 4 = 0 →
      (∀ i, pend i = true → s.GenAt .store true 4 (table i) (tab i)) →
      (∀ i j, pend i = true → pend j = true → (mark i).apart (tab j) 4
        ∧ ((tab i).place = (tab j).place ∨ (tab i).apart (tab j) 4)) →
      ∃ t, exec (.jcommit a b) s = .next t ∧ t.lc.pc = s.lc.pc + 4 ∧ t.lc.s = s.lc.s ∧ t.lc.gen = s.lc.gen
        ∧ t.part.v = s.part.v ∧ (∀ i, pend i = true → t.readHome (mark i) 4 = 2)
        ∧ (∀ i, pend i = true → t.readHome (tab i) 4 = (s.readHome (tab i) 4
          + (((List.range n).filter (fun j => pend j && (tab j).place == (tab i).place)).map
            (fun j => x j / 2 ^ 64 % 2 ^ 32)).sum) % 2 ^ 32)
        ∧ s.KeptBut t (fun m k => k = 4 ∧ ∃ i, pend i = true ∧ (m = mark i ∨ m = tab i)))
    ∧ ((s.getS b).toNat % 4 ≠ 0 → ∃ t e u, exec (.jcommit a b) s = .next t
        ∧ t.lc.vstalled = some e
        ∧ t.lc.vreport = some u ∧ u.cause = .misalignedStore ∧ u.tval = s.getS b ∧ t.dev = s.dev ∧ t.core = s.core)

/-- R255 to R257, R352, R353: entries of the journal are added, committed and dropped. Nothing else is under way and
the streams are followed in order: the model's choice, log 3. TVAL of an entry whose page fails is log 73. -/
def Obligations.Journal : Prop :=
  journalAdd ∧ journalEnd

/-- R262, R264, R265, R394 to R396: the unmasking instructions with nothing else under way and a valid header. UCFG
writes UMCFG; UCOMMIT stores the tokens of the elements kd selects, marks the positions within the window of each
dirty in the levels from LAYER0 up, and takes the elements out of the governing mask; UDIRTY moves the dirty bits of
VL positions into kd and clears them in memory. The model's choice: log 3; the record of a header's fault is log 70.
-/
def Obligations.Unmasking : Prop :=
  ∀ (k a : VReg) (b : SReg) (hl : Loc) (h : UmHeader) (word tok : Nat → Loc) (s : State), s.Alone → s.MemOk →
    s.lc.contain = [] → k.toNat < 8 → s.Readable b → s.HeaderAt hl h → (∀ n : Fin 8, s.part.kPoison[n] = 0) →
    let vl := s.lc.vec.vl.toNat
    let x := (s.getS b).toNat
    let sq := x / 2 ^ 44
    let pos := x / 2 ^ 20 % 2 ^ 24
    let dirty (t : State) (j : Nat) : Bool := (t.readHome (word (j / 64)) 8).testBit (j % 64)
    let reach (j : Nat) : Prop := s.GenAt .store true 8 (dirtyWord s.lc.gen.umdirty j) (word (j / 64))
    (x < 2 ^ 28 → x % 2 ^ 16 ≠ 0 →
      ∃ t, exec (.ucfg b) s = .next t ∧ t.lc.pc = s.lc.pc + 4
        ∧ t.lc.gen = { s.lc.gen with umcfg := (s.getS b).setWidth 28 } ∧ t.lc.s = s.lc.s
        ∧ { t.part with rem := s.part.rem } = s.part ∧ t.dev = s.dev ∧ t.core = s.core)
    ∧ ((2 ^ 28 ≤ x ∨ x % 2 ^ 16 = 0) → s.SuperTakes .unmaskConfigInvalid →
      ∃ t, exec (.ucfg b) s = .next t ∧ s.TrappedSuper t .unmaskConfigInvalid (s.getS b))
    ∧ (0 < vl → vl ≤ 1024 → sq < h.seqs → pos + vl ≤ h.posn →
      (let j0 := dirtyBit h sq (x / 2 ^ 16 % 16) pos
       (∀ i, i < vl → reach (j0 + i)) →
       (∀ i j, i < vl → j < vl → (j0 + i) / 64 ≠ (j0 + j) / 64 →
         (word ((j0 + i) / 64)).apart (word ((j0 + j) / 64)) 8) →
       ∃ t, exec (.udirty k b) s = .next t ∧ t.lc.pc = s.lc.pc + 4 ∧ t.lc.s = s.lc.s ∧ t.part.v = s.part.v
         ∧ (∀ i, (t.kreg k.toNat).getLsbD i = (decide (i < vl) && dirty s (j0 + i)))
         ∧ (∀ n, n < 8 → n ≠ k.toNat → t.kreg n = s.kreg n)
         ∧ (∀ i j, i < vl → j / 64 = (j0 + i) / 64 →
           dirty t j = (dirty s j && !(decide (j0 ≤ j) && decide (j < j0 + vl))))
         ∧ s.KeptBut t (fun m n => n = 8 ∧ ∃ i, i < vl ∧ m = word ((j0 + i) / 64)))
      ∧ (let w := s.lc.gen.umcfg.toNat / 2 ^ 16 % 256
         let layer := s.lc.gen.umcfg.toNat / 2 ^ 24 % 16
         let sel (i : Nat) : Bool := decide (i < vl) && (s.kreg k.toNat).getLsbD i
         let marks (j : Nat) : Prop := ∃ i y l, sel i = true ∧ y < h.posn ∧ pos + i ≤ y + w ∧ y ≤ pos + i + w
           ∧ layer ≤ l ∧ l < 16 ∧ j = dirtyBit h sq l y
         (∀ r, s.part.vPoison[a.toNat].getLsbD r = false) →
         (∀ i, sel i = true →
           s.GenAt .store false 4 (h.tokens + BitVec.ofNat 64 (4 * (sq * h.posn + pos + i))) (tok i)) →
         (∀ j, marks j → reach j) →
         (∀ i j, sel i = true → sel j = true → i ≠ j → (tok i).apart (tok j) 4) →
         (∀ i j, marks i → marks j → i / 64 ≠ j / 64 → (word (i / 64)).apart (word (j / 64)) 8) →
         (∀ i j, sel i = true → marks j → (tok i).apart (word (j / 64)) 8
           ∧ (word (j / 64)).apart (tok i) 8) →
         ∃ t, exec (.ucommit k a b .n32) s = .next t ∧ t.lc.pc = s.lc.pc + 4 ∧ t.lc.s = s.lc.s ∧ t.part.v = s.part.v
           ∧ (∀ i, sel i = true → t.readHome (tok i) 4 = elem s.part.v[a.toNat] 32 i)
           ∧ (∀ i j, marks i → j / 64 = i / 64 → (dirty t j = true ↔ dirty s j = true ∨ marks j))
           ∧ s.KeptBut t (fun m n => (n = 4 ∧ ∃ i, sel i = true ∧ m = tok i) ∨ (n = 8 ∧ ∃ j, marks j ∧ m = word (j / 64)))
           ∧ (s.lc.vec.vmsel ≠ 8 → ∀ i, (t.kreg s.lc.vec.vmsel.toNat).getLsbD i
             = ((s.kreg s.lc.vec.vmsel.toNat).getLsbD i && !sel i))
           ∧ ∀ n, n < 8 → (s.lc.vec.vmsel = 8 ∨ n ≠ s.lc.vec.vmsel.toNat) → t.kreg n = s.kreg n))

/-! ### Stack contexts, copy channels, row lines and banks, MAJ 38 to 3A -/

/-- R189, R190, R59, R79, R378: SKBIND of an address in local HBM whose stack is not degraded, outside any loop, when
the LC's old context has completed. In order it takes the lowest free context of the SVU at once: SAFF and sd receive
its name, the context is fresh. When the scalar unit runs ahead the old context frees, the request joins the SVU's
queue and the instruction stays; a granted request completes it. A degraded stack raises REMOTE_STACK_UNREACHABLE, an
unassigned or host address LOAD_ACCESS. Whether the scalar unit runs ahead is log 3, the order of a rebinding log 30.
-/
def Obligations.StackBinding : Prop :=
  ∀ (d a : SReg) (pa : Nat) (leaf : Dword) (s : State), s.lc.loops = [] → s.Readable a → s.Writable d →
    s.rawLoad (s.getS a) = .ok (pa, leaf) →
    let st := homeStack pa
    let j := chanPair pa
    let m := s.dev.member.toNat
    let word (c : Nat) : Dword := BitVec.ofNat 64 (2 ^ 63 + m * 2 ^ 48 + st * 2 ^ 44 + j * 2 ^ 40 + c * 2 ^ 32)
    let bound (t : State) (c : Nat) : Prop := t.lc.saff = word c ∧ t.Holds d (word c) ∧ s.SameRegsBut t d
      ∧ t.lc.ctx = some (StackCtx.fresh (s.getS a) s.lc.ptbase s.lc.asid) ∧ t.lc.pc = s.lc.pc + 4
      ∧ (∀ b ∈ t.dev.binds, b.who ≠ s.lc.key) ∧ t.part = s.part ∧ t.core = s.core ∧ t.dev.mem = s.dev.mem
    (paKind pa = .hbm → (s.dev.stack st).degraded = false →
      ((∀ b ∈ s.dev.binds, b.who ≠ s.lc.key) → (s.lc.ctx.isSome → s.kDone = true) →
        (s.runAhead = false → (∀ b ∈ s.dev.binds, b.stack = st → b.svu = j → b.granted ≠ none) →
          ∀ c, c < 32 → (∀ u ∈ s.dev.ctxUses, u.stack = st → u.svu = j → u.ctx = c → u.owner = s.lc.key) →
          (∀ e, e < c → ∃ u ∈ s.dev.ctxUses, u.stack = st ∧ u.svu = j ∧ u.ctx = e ∧ u.owner ≠ s.lc.key) →
          ∃ t, exec (.skbind d a) s = .next t ∧ bound t c ∧ ∃ u ∈ t.dev.ctxUses,
            u.stack = st ∧ u.svu = j ∧ u.ctx = c ∧ u.owner = s.lc.key)
        ∧ (s.runAhead = true → ∃ t, exec (.skbind d a) s = .next t ∧ t.lc.pc = s.lc.pc ∧ t.lc.ctx = none ∧ t.lc.saff = 0
          ∧ (∀ u ∈ t.dev.ctxUses, u.owner ≠ s.lc.key) ∧ t.dev.binds = s.dev.binds ++ [⟨s.lc.key, st, j, none⟩]
          ∧ t.lc.s = s.lc.s ∧ t.part = s.part ∧ t.core = s.core))
      ∧ ∀ c, (∃ b, s.dev.binds.find? (fun b => b.who == s.lc.key && b.stack == st && b.svu == j) = some b
          ∧ b.granted = some c) → c < 32 → m < 1024 → s.runAhead = true →
        ∃ t, exec (.skbind d a) s = .next t ∧ bound t c)
    ∧ (paKind pa = .hbm → (s.dev.stack st).degraded = true → s.SuperTakes .remoteStackUnreachable →
      ∃ t, exec (.skbind d a) s = .next t ∧ s.TrappedSuper t .remoteStackUnreachable (s.getS a))
    ∧ (paKind pa = .unassigned ∨ paKind pa = .host → s.SuperTakes .loadAccess →
      ∃ t, exec (.skbind d a) s = .next t ∧ s.TrappedSuper t .loadAccess (s.getS a))

/-- R195, R380: SKLOOP opens a level and goes to the K stream with its count, SKEND of a complete level ends it and goes
there; an instruction of the K stream counts in every open level. A third level, a level that does not fit its outer
one, an SKEND of an incomplete level or of none raise STACK_LOOP_NESTING, and the open levels are abandoned; an outer
length above 96 raises STACK_BUFFER_OVERFLOW with it as TVAL. (The scalar unit runs ahead: log 3.) -/
def loopLevels : Prop :=
  ∀ (a b : SReg) (s : State), s.runAhead = true → s.lc.saff.getLsbD 63 = true → s.Readable a → s.Readable b →
    s.lc.kqueue.length < 32 →
    let len := s.getS b
    let sent (t : State) (op : VOp) (x : Dword) : Prop := ∃ e : VEntry, e.op = op ∧ e.x = x ∧ e.placed = true
      ∧ e.pc = s.lc.pc.setWidth 64 ∧ t.lc.kqueue = s.lc.kqueue ++ [e] ∧ t.lc.pc = s.lc.pc + 4
      ∧ { t.lc with
          pc := s.lc.pc, kqueue := s.lc.kqueue, loops := s.lc.loops, passed := s.lc.passed, pcval := s.lc.pcval
          async := s.lc.async } = s.lc
      ∧ t.part = s.part ∧ t.core = s.core ∧ t.dev = s.dev
    let nesting (i : Instr) : Prop := s.SuperTakes .stackLoopNesting → ∃ t, exec i s = .next t ∧ t.lc.loops = []
      ∧ t.lc.trap.scause = BitVec.ofNat 8 Cause.stackLoopNesting.code ∧ t.lc.trap.stval = 0
      ∧ t.lc.pc = s.core.stvec ∧ t.lc.s = s.lc.s
    (s.lc.loops = [] →
      (len.toNat ≤ 96 → ∃ t, exec (.skloop a b) s = .next t ∧ sent t .skloop (s.getS a) ∧ t.lc.loops = [⟨len, 0⟩])
      ∧ (96 < len.toNat → s.SuperTakes .stackBufferOverflow →
        ∃ t, exec (.skloop a b) s = .next t ∧ s.TrappedSuper t .stackBufferOverflow len)
      ∧ nesting .skend)
    ∧ (∀ l, s.lc.loops = [l] → l.seen ≤ l.length.toNat →
      (len.toNat + 2 + l.seen ≤ l.length.toNat → ∃ t, exec (.skloop a b) s = .next t ∧ sent t .skloop (s.getS a)
        ∧ t.lc.loops = [⟨len, 0⟩, { l with seen := l.seen + 1 }])
      ∧ (l.length.toNat < len.toNat + 2 + l.seen → nesting (.skloop a b)))
    ∧ (∀ l k r, s.lc.loops = l :: k :: r → nesting (.skloop a b))
    ∧ (∀ l r, s.lc.loops = l :: r →
      (l.length.toNat ≤ l.seen → ∃ t, exec .skend s = .next t ∧ sent t .skend 0
        ∧ t.lc.loops = r.map (fun (k : SkLevel) => { k with seen := k.seen + 1 }))
      ∧ (l.seen < l.length.toNat → nesting .skend))

/-- R178, R198, R379, R381: SKFENCE goes on once every earlier instruction of the K stream and its updates are
performed, waits until then, and raises STACK_LOOP_NESTING in an open loop; SKSTRM goes to the K stream with the
descriptor's address, and a stream number from 4 on raises BAD_REGISTER. Without a bound context both raise
STACK_CONTEXT_UNBOUND. -/
def stackFenceStream : Prop :=
  ∀ (j a : SReg) (s : State),
    (s.lc.saff.getLsbD 63 = true → s.lc.loops = [] → s.deferredHandled = false →
      (s.kDone = true → s.dev.scUpdates = [] → ∃ t, exec .skfence s = .next t ∧ s.WentTo t (s.lc.pc + 4))
      ∧ ((s.kDone = false ∨ s.dev.scUpdates ≠ []) → exec .skfence s = .next s)
      ∧ (s.runAhead = true → j.toNat < 4 → s.Readable a → s.lc.kqueue.length < 32 →
        ∃ (t : State) (e : VEntry), exec (.skstrm j a) s = .next t ∧ e.op = .skstrm (j.setWidth 2)
          ∧ e.x = s.getS a ∧ e.placed = true ∧ t.lc.kqueue = s.lc.kqueue ++ [e] ∧ t.lc.pc = s.lc.pc + 4
          ∧ { t.lc with
              pc := s.lc.pc, kqueue := s.lc.kqueue, passed := s.lc.passed, pcval := s.lc.pcval
              async := s.lc.async } = s.lc
          ∧ t.part = s.part ∧ t.core = s.core ∧ t.dev = s.dev))
    ∧ (s.lc.saff.getLsbD 63 = true → s.lc.loops ≠ [] → s.SuperTakes .stackLoopNesting →
      ∃ t, exec .skfence s = .next t ∧ t.lc.loops = []
        ∧ t.lc.trap.scause = BitVec.ofNat 8 Cause.stackLoopNesting.code)
    ∧ (4 ≤ j.toNat → s.SuperTakes .badRegister → ∃ t, exec (.skstrm j a) s = .next t ∧ s.TrappedSuper t .badRegister 20)
    ∧ (s.lc.saff.getLsbD 63 = false → s.SuperTakes .stackContextUnbound →
      (∃ t, exec .skfence s = .next t ∧ s.TrappedSuper t .stackContextUnbound 0)
      ∧ (j.toNat < 4 → ∃ t, exec (.skstrm j a) s = .next t ∧ s.TrappedSuper t .stackContextUnbound 0))

/-- R178, R195, R198, R379 to R381: loops, fences and address streams of the stack context. The scalar unit runs
ahead: log 3. -/
def Obligations.StackLoops : Prop :=
  loopLevels ∧ stackFenceStream

/-- R157, R158, R426 to R431: a copy command whose checks pass takes the channel's next identifier into sd and enters
the channel behind what is there, with VL, the rows, ROWPITCH, REDGRP and the LC's address space captured; one whose
buffer holds eight waits;
XWAIT of a transfer that is done goes on, of one still to complete waits, of one not issued raises
COPY_CHANNEL_INVALID; an identifier of all ones raises COPY_ID_WRAP. (The scalar unit runs ahead: log 3.) -/
def Obligations.CopyCommands : Prop :=
  ∀ (d a b : SReg) (h : BitVec 2) (r e : Bool) (v : VReg) (f : BitVec 3) (ty : RedTy) (s : State), s.runAhead = true →
    s.Readable a → s.Readable b → s.Writable d →
    let c := s.lc.chans[h.toNat]
    let len := s.lc.vec.vl.toNat
    let rows := max 1 s.lc.vec.rowcnt.toNat
    c.err = none →
    let enters (i : Instr) (k : XKind) (dst src : Dword) (n : Nat) : Prop :=
      (c.cmds.length < 8 → ∃ t, exec i s = .next t ∧ t.Holds d (c.next.setWidth 64) ∧ s.SameRegsBut t d
        ∧ t.lc.chans[h.toNat] = { c with
            next := c.next + 1
            cmds := c.cmds ++ [⟨c.next, k, dst, src, len, n, s.lc.vec.rowpitch, s.super, s.env⟩] }
        ∧ (∀ q : Fin 4, q.val ≠ h.toNat → t.lc.chans[q] = s.lc.chans[q])
        ∧ { t.lc with pc := s.lc.pc, s := s.lc.s, sPoison := s.lc.sPoison, chans := s.lc.chans } = s.lc
        ∧ t.lc.pc = s.lc.pc + 4 ∧ t.part = s.part ∧ t.core = s.core ∧ t.dev = s.dev)
      ∧ (8 ≤ c.cmds.length → exec i s = .next s)
    (c.next ≠ 0xFFFF_FFFF →
      ((r = false ∨ copyMeets (s.getS a) (s.getS b) s.lc.vec.rowpitch.toInt len rows = false) →
        enters (.xcpy d a b h r) (.cpy r) (s.getS a) (s.getS b) rows)
      ∧ (v.toNat + f.toNat + 1 ≤ 31 → s.owns = true → (s.getS b).toNat % 4 = 0 → len ≤ 1024 → s.unperformedV = [] →
        enters (.xdeil d v b h f) (.deil v (f.toNat + 1)) 0 (s.getS b) 1)
      ∧ ((s.getS a).toNat % ty.ty.bytes = 0 → (s.getS b).toNat % ty.ty.bytes = 0 →
        rangesMeet (s.getS a).toNat (s.getS b).toNat (len * rows * ty.ty.bytes) (len * rows * ty.ty.bytes) = false →
        (e = true → (pagesOf (s.getS a) (len * rows * ty.ty.bytes)).any s.notLocal = false
          ∧ 0 < field s.lc.redgrp 8 6 ∧ field s.lc.redgrp 8 6 ≤ 16
          ∧ field s.lc.redgrp 0 4 < field s.lc.redgrp 8 6) →
        enters (.xred d a b h e ty) (.red ty e s.lc.redgrp) (s.getS a) (s.getS b) rows)
      ∧ (r = true → copyMeets (s.getS a) (s.getS b) s.lc.vec.rowpitch.toInt len rows = true →
        s.SuperTakes .copyChannelInvalid →
        ∃ t, exec (.xcpy d a b h r) s = .next t ∧ s.TrappedSuper t .copyChannelInvalid (h.setWidth 64)))
    ∧ (c.next = 0xFFFF_FFFF → s.SuperTakes .copyIdWrap →
      ∃ t, exec (.xcpy d a b h r) s = .next t ∧ s.TrappedSuper t .copyIdWrap (h.setWidth 64))
    ∧ ((s.getS a).toNat < c.next.toNat →
      ((s.getS a).toNat < c.done.toNat → ∃ t, exec (.xwait a h) s = .next t ∧ s.WentTo t (s.lc.pc + 4))
      ∧ (c.done.toNat ≤ (s.getS a).toNat → exec (.xwait a h) s = .next s))
    ∧ (c.next.toNat ≤ (s.getS a).toNat → s.SuperTakes .copyChannelInvalid →
      ∃ t, exec (.xwait a h) s = .next t ∧ s.TrappedSuper t .copyChannelInvalid (h.setWidth 64))

/-- R215 to R219, R372: with no bank command of the LC under way and no held fault, RLOPEN enters the line in the
handle table and its request in the sequencer, sh pending; of a line already granted it writes the handle; RLREL of a
live handle takes it out of the table and sends the release; RLSTAT writes the slot's status. A line whose pin slot
another live entry uses, or a 65th entry, raises ROW_LINE_LIMIT; a value that is no live handle ROW_LINE_STALE_HANDLE
with it as TVAL. (The scalar unit runs ahead: log 3.) -/
def Obligations.RowLines : Prop :=
  ∀ (h a : SReg) (pa : Nat) (leaf : Dword) (s : State), s.runAhead = true → s.lc.bqueue = [] →
    (∀ c ∈ s.dev.seqs, c.who ≠ s.lc.key) → s.lc.breport = none → s.lc.bankErr = [] →
    let sent (t : State) (k : BKind) : Prop := ∃ q : SeqCmd, t.dev.seqs = s.dev.seqs ++ [q] ∧ q.who = s.lc.key
      ∧ q.cmd.kind = k ∧ q.cmd.pc = s.lc.pc.setWidth 64
      ∧ { t.dev with seqs := s.dev.seqs, admits := s.dev.admits } = s.dev ∧ t.lc.pc = s.lc.pc + 4
      ∧ t.part = s.part ∧ t.core = s.core ∧ t.lc.s = s.lc.s ∧ t.lc.bqueue = []
    (s.Readable a → s.Writable h → s.rawLoad (s.getS a) = .ok (pa, leaf) → paKind pa = .hbm →
      (s.dev.stack (homeStack pa)).degraded = false →
      let l := paLine pa
      (∀ e, s.lc.handles.find? (fun e => !e.lost && e.line == l) = some e → e.granted = true →
        ∃ t, exec (.rlopen h a) s = .next t ∧ s.Wrote t h (e.handle.setWidth 64))
      ∧ ((∀ e ∈ s.lc.handles, e.lost = false → e.line ≠ l ∧ e.line.sameSlot l = false) →
        (s.lc.handles.length < 64 → ∃ t, exec (.rlopen h a) s = .next t ∧ sent t (.open h l (!leafW leaf))
          ∧ t.lc.handles = s.lc.handles ++ [⟨0, l, !leafW leaf, false, false⟩]
          ∧ t.lc.pending = s.lc.pending ++ (if h = 0 then [] else [h]))
        ∧ (64 ≤ s.lc.handles.length → s.SuperTakes .rowLineLimit →
          ∃ t, exec (.rlopen h a) s = .next t ∧ s.TrappedSuper t .rowLineLimit 64))
      ∧ ∀ e, s.lc.handles.find? (fun e => !e.lost && e.line == l) = none →
        s.lc.handles.find? (fun e => !e.lost && e.line.sameSlot l) = some e → s.SuperTakes .rowLineLimit →
        ∃ t, exec (.rlopen h a) s = .next t
          ∧ s.TrappedSuper t .rowLineLimit (0x1_0000_0000 + e.limitWord.setWidth 64))
    ∧ (s.Readable h →
      (∀ e, s.lc.handle (s.getS h) = some e → ∃ t, exec (.rlrel h) s = .next t ∧ sent t (.release e.handle e.line)
        ∧ t.lc.handles = s.lc.handles.erase e ∧ t.lc.pending = s.lc.pending)
      ∧ (s.lc.handle (s.getS h) = none → (∀ e ∈ s.lc.handles, e.lost = false) → s.SuperTakes .rowLineStaleHandle →
        ∃ t, exec (.rlrel h) s = .next t ∧ s.TrappedSuper t .rowLineStaleHandle (s.getS h))
      ∧ (s.Writable a → ∃ t, exec (.rlstat h a) s = .next t ∧ t.Holds a (s.stat (s.getS h)) ∧ s.SameRegsBut t a
        ∧ t.lc.pc = s.lc.pc + 4 ∧ t.lc.pending = s.lc.pending ∧ t.lc.handles = s.lc.handles ∧ t.dev = s.dev
        ∧ t.part = s.part ∧ t.core = s.core))

/-- R61, R222, R225, R226, R335, R179: with nothing in the B stream's buffer, no RLOPEN of the LC at a sequencer and no
held fault, a BKOP on live handles enters the sequencer of its stack, which holds less than 256, with its lines and
scalar; BKWAVE with a valid descriptor enters with it where no sequencer of its stacks holds 64 waves; BKFENCE goes on,
and waits while a command it covers has not completed. A read-only destination raises STORE_ACCESS, a stale handle
ROW_LINE_STALE_HANDLE, a source in another unit, a misplaced FADD, a descriptor out of alignment or an invalid one
BANK_COMMAND_INVALID, and BF16 with LSE or FADD BAD_TYPE. (The scalar unit runs ahead: log 3.) -/
def Obligations.BankCommands : Prop :=
  ∀ (h a b : SReg) (w : Bool) (o : BkOp) (l : Loc) (s : State), s.runAhead = true → s.lc.bqueue = [] →
    s.lc.breport = none → s.lc.bankErr = [] → s.Readable h → s.Readable a → s.Readable b →
    let sent (t : State) (k : BKind) : Prop := ∃ q : SeqCmd, t.dev.seqs = s.dev.seqs ++ [q] ∧ q.who = s.lc.key
      ∧ q.cmd.kind = k ∧ q.cmd.pc = s.lc.pc.setWidth 64 ∧ q.probed = false
      ∧ { t.dev with seqs := s.dev.seqs, admits := s.dev.admits } = s.dev
      ∧ t.lc.pc = s.lc.pc + 4 ∧ t.part = s.part ∧ t.core = s.core ∧ t.lc.s = s.lc.s ∧ t.lc.handles = s.lc.handles
    let x := s.getS a
    let opening : Prop := ∃ c ∈ s.dev.seqs, c.who = s.lc.key ∧ ∃ g m ro, c.cmd.kind = .open g m ro
    (¬opening → ¬(w = true ∧ (o = .lse ∨ o = .fadd)) →
      (∀ d, s.lc.handle (s.getS h) = some d →
        ∀ src : Option HEntry, (if o.sourced then src = s.lc.handle x ∧ src ≠ none else src = none) →
        ((∀ e, src = some e → e.line.stack = d.line.stack ∧ e.line.unit = d.line.unit) →
          (d.ro = false → (o = .fadd → x.toNat % 4 = 0 ∧ x.toNat < 1024) →
            (s.dev.seqs.filter (fun q => match q.cmd.kind with
              | .op _ _ m _ _ _ _ _ => m.stack == d.line.stack
              | _ => false)).length < 256 →
            ∃ t, exec (.bkop h a b w o) s = .next t ∧ sent t (.op o w d.line (src.map (·.line))
              ((if o = .scale then x else s.getS b).setWidth 32) (if o = .fadd then x.toNat else 0) d.handle
              ((src.map (·.handle)).getD 0)))
          ∧ (d.ro = true → s.SuperTakes .storeAccess → ∃ t, exec (.bkop h a b w o) s = .next t
            ∧ s.TrappedSuper t .storeAccess (s.getS h)))
        ∧ ((∃ e, src = some e ∧ (e.line.stack ≠ d.line.stack ∨ e.line.unit ≠ d.line.unit))
            ∨ (o = .fadd ∧ d.ro = false ∧ (x.toNat % 4 ≠ 0 ∨ 1024 ≤ x.toNat)) →
          s.SuperTakes .bankCommandInvalid →
          ∃ t, exec (.bkop h a b w o) s = .next t ∧ s.TrappedSuper t .bankCommandInvalid x))
      ∧ (∀ d, s.lc.handle (s.getS h) = some d → o.sourced = true → s.lc.handle x = none →
        (∀ e ∈ s.lc.handles, e.lost = false) → s.SuperTakes .rowLineStaleHandle →
        ∃ t, exec (.bkop h a b w o) s = .next t ∧ s.TrappedSuper t .rowLineStaleHandle x)
      ∧ (s.lc.handle (s.getS h) = none → (∀ e ∈ s.lc.handles, e.lost = false) → s.SuperTakes .rowLineStaleHandle →
        ∃ t, exec (.bkop h a b w o) s = .next t ∧ s.TrappedSuper t .rowLineStaleHandle (s.getS h)))
    ∧ (w = true → (o = .lse ∨ o = .fadd) → s.SuperTakes .badType →
      ∃ t, exec (.bkop h a b w o) s = .next t ∧ s.TrappedSuper t .badType 3)
    ∧ (¬opening → s.Reaches .load false true x 64 l → s.CleanAt l →
      let y := s.readLoc l 64
      let d := waveOf x y s.lc.bnkwin
      (d.invalid (y / 2 ^ 480) = false → (∀ k ∈ s.dev.waveStacks d s.env s.super, s.dev.wavesAt k < 64) →
        ∃ t, exec (.bkwave a) s = .next t ∧ sent t (.wave d))
      ∧ (d.invalid (y / 2 ^ 480) = true → s.SuperTakes .bankCommandInvalid →
        ∃ t, exec (.bkwave a) s = .next t ∧ s.TrappedSuper t .bankCommandInvalid x))
    ∧ (x.toNat % 64 ≠ 0 → s.SuperTakes .bankCommandInvalid →
      ∃ t, exec (.bkwave a) s = .next t ∧ s.TrappedSuper t .bankCommandInvalid x)
    ∧ ((∀ c ∈ s.dev.seqs, c.who = s.lc.key → c.cmd.kind.computes = false) →
      ∃ t, exec (.bkfence 0) s = .next t ∧ s.WentTo t (s.lc.pc + 4))
    ∧ ((∃ c ∈ s.dev.seqs, c.who = s.lc.key ∧ c.cmd.kind.computes = true) → exec (.bkfence 0) s = .next s)
    ∧ ∀ e, h ≠ 0 → s.lc.handle (s.getS h) = some e →
      ((∀ c ∈ s.dev.seqs, c.who = s.lc.key → c.cmd.kind.namesHandle e.handle = false) →
        ∃ t, exec (.bkfence h) s = .next t ∧ s.WentTo t (s.lc.pc + 4))
      ∧ ((∃ c ∈ s.dev.seqs, c.who = s.lc.key ∧ c.cmd.kind.namesHandle e.handle = true) →
        exec (.bkfence h) s = .next s)

/-! ### Events at the LC in turn -/

/-- R78, R150, R237, R241, R269, R281, R294, R305, R306: the effects that writes of CSRs have, as events of the LC in
turn. TCFG takes an accepted configuration; ACCALLOC adds only what no other partition holds, and what it adds reads
zero; BANKROLE, with no access under way to a bank that changes, leaves a bank whose role changes reading zero; XRESET of a channel with nothing outstanding sets its
identifiers to 0, of another raises BAD_CONTROL_STATE; TKILL ends the task; SCCTL.COMMIT performs the held granules;
POOLTAIL moves the tail of the selected stack's ring. That these effects are events of their own on the agenda is the
model's choice: log 3. -/
def Obligations.ControlEvents : Prop :=
  ∀ (s : State) (v : Dword),
    ((∀ e ∈ s.liveV, e.op.shapes = false) →
      (∀ k : TReg, s.part.tstate.getLsbD 0 = true → (v.extractLsb' 16 9).toNat ≤ 256 → (v.extractLsb' 0 8).toNat ≤ 128 →
        let c : TCfg := ⟨v.extractLsb' 28 4, v.extractLsb' 16 9, v.extractLsb' 0 8⟩
        let g := s.part.grant.cfg[k.toNat]
        c.rows.toNat ≤ g.rows.toNat → pitchOf c.cols.toNat c.type ≤ s.part.grant.pitch k.toNat →
        ∃ t, exec (.tcfgWrite k v) s = .next t ∧ t.lc.tcfg[k.toNat] = c
          ∧ (∀ j : Fin 8, j.val ≠ k.toNat → t.lc.tcfg[j] = s.lc.tcfg[j])
          ∧ { t with lc := { t.lc with tcfg := s.lc.tcfg } } = s)
      ∧ (let taken (a : Nat) : Bool := (s.coreParts s.core.no).any (fun p => p.no != s.part.no && p.accalloc.getLsbD a)
        (∀ a, a < 16 → s.part.accalloc.getLsbD a = true → (v.getLsbD a = true ∧ taken a = false)
          ∨ ∀ e ∈ s.queuedV, e.namesAcc a = false) →
        ∃ t, exec (.accallocWrite v) s = .next t
          ∧ (∀ a, a < 16 → t.part.accalloc.getLsbD a = (v.getLsbD a && !taken a))
          ∧ (∀ a : Fin 16, t.core.acc[a]
            = if t.part.accalloc.getLsbD a && !s.part.accalloc.getLsbD a then 0 else s.core.acc[a])
          ∧ { t with
              part := { t.part with accalloc := s.part.accalloc }
              core := { t.core with
                acc := s.core.acc, accPoison := s.core.accPoison, accError := s.core.accError } } = s))
    ∧ (s.MemOk → (∀ b, b < 32 → field v (2 * b) 2 ≠ 3) →
      (∀ p ∈ s.coreParts s.core.no, ∀ g ∈ p.grant.segs, s.core.role (g / 2) = 2 → field v (2 * (g / 2)) 2 = 2) →
      (∀ p ∈ s.part.grant.segs, s.core.role (p / 2) = 2 → field v (2 * (p / 2)) 2 = 2) →
      (∀ l ∈ s.allLcs, s.sccOf l = false) → s.roleBusy v = false →
      ∃ t, exec (.bankroleWrite v) s = .next t ∧ t.core.bankrole = v
        ∧ (∀ o, Memory.get t.core.scratch o
          = if s.core.role (o / 131072) = field v (2 * (o / 131072)) 2 then Memory.get s.core.scratch o else 0)
        ∧ (∀ g, t.core.seg g = if s.core.role (g / 2) = field v (2 * (g / 2)) 2 then s.core.seg g else 0)
        ∧ { t with core := { t.core with
            bankrole := s.core.bankrole, scratch := s.core.scratch, scratchPoison := s.core.scratchPoison
            scratchError := s.core.scratchError, segs := s.core.segs, segError := s.core.segError } } = s)
    ∧ (∀ h : BitVec 2,
      (s.lc.chans[h.toNat].done = s.lc.chans[h.toNat].next → ∃ t, exec (.xreset h) s = .next t
        ∧ t.lc.chans[h.toNat] = { s.lc.chans[h.toNat] with next := 0, done := 0 }
        ∧ (∀ q : Fin 4, q.val ≠ h.toNat → t.lc.chans[q] = s.lc.chans[q])
        ∧ { t with lc := { t.lc with chans := s.lc.chans } } = s)
      ∧ (s.lc.chans[h.toNat].done ≠ s.lc.chans[h.toNat].next → s.SuperTakes .badControlState →
        ∃ t, exec (.xreset h) s = .next t ∧ s.TrappedSuper t .badControlState 0x11E))
    ∧ (∀ (code : BitVec 7) (u : Task), s.dev.task s.lc.key.task = some u → u.ended = none →
      ∃ t, exec (.tkill code) s = .next t ∧ s.EndedTask t s.lc.key.task code.toNat)
    ∧ (s.MemOk → (s.lc.contain.map (·.granule)).Nodup → s.dev.combines = [] →
      ∃ t, exec .scctlCommit s = .next t ∧ t.lc.contain = []
        ∧ (∀ h ∈ s.lc.contain, ∀ i, i < 64 → h.mask.getLsbD i = true →
          Memory.get t.dev.mem (64 * h.granule + i) = h.data.extractLsb' (8 * i) 8)
        ∧ (∀ a, (∀ h ∈ s.lc.contain, a / 64 ≠ h.granule ∨ h.mask.getLsbD (a % 64) = false) →
          Memory.get t.dev.mem a = Memory.get s.dev.mem a)
        ∧ { t with
            lc := { t.lc with contain := s.lc.contain }
            dev := { t.dev with
              mem := s.dev.mem, memPoison := s.dev.memPoison, memError := s.dev.memError, l2Error := s.dev.l2Error
              scrubs := s.dev.scrubs, monitors := s.dev.monitors } } = s)
    ∧ (s.svxDone = true → s.lc.hostErr = none →
      ((v.setWidth 32 - s.pool.poolhead).toNat ≤ s.pool.poolsize.toNat →
        ∃ t, exec (.pooltailWrite v) s = .next t ∧ t.dev.stack s.lc.stksel.toNat = { s.pool with pooltail := v.setWidth 32 }
          ∧ (∀ n, n ≠ s.pool.no → t.dev.stack n = s.dev.stack n) ∧ { t with dev := { t.dev with hbm := s.dev.hbm } } = s)
      ∧ (s.pool.poolsize.toNat < (v.setWidth 32 - s.pool.poolhead).toNat → s.SuperTakes .badControlState →
        ∃ t, exec (.pooltailWrite v) s = .next t ∧ s.TrappedSuper t .badControlState 0x127))

/-- R304, R305: TLBINV waits for a release and for what has already been translated, then drops of the core's held
translations, and beyond core scope of every core's, the base dies' and the device-memory windows', exactly those it
names: one page's of the LC's ASID or global, all of the ASID that are not global, all that are not global, or all; and
of the central die's table pointers, beyond core scope of every walker pool's, those of the ASID or all. Nothing else
changes. Events and the held translations are the model's: logs 3, 4 and 46; core scope's table pointers are log 77. -/
def Obligations.InvalidationEvents : Prop :=
  ∀ (c : InvScope) (vpn : BitVec 41) (s : State),
    let va := vpn.toNat * 65536
    let covers (e : TlbEntry) : Bool := match e.kind with
      | .page => e.va / 2 ^ 16 == va / 2 ^ 16
      | .summary => e.va / 2 ^ 19 == va / 2 ^ 19
      | .block => e.va / 2 ^ 28 == va / 2 ^ 28
    let drops (i : Instr) (gone : TlbEntry → Bool) (gonePtr : PtrEntry → Bool) : Prop :=
      ((s.svxDone = false ∨ (s.lc.hostErr = none ∧ s.translatedDone = false)) → exec i s = .next s)
      ∧ (s.svxDone = true → s.lc.hostErr = none → s.translatedDone = true →
        let kept (l : List TlbEntry) : List TlbEntry := l.filter (fun e => !gone e)
        (c = .core → exec i s = .next { s with
          core := { s.core with tlb := kept s.core.tlb }
          dev := { s.dev with ptrs := s.dev.ptrs.filter (fun p => !(p.pool.isNone && gonePtr p)) } })
        ∧ (c ≠ .core → exec i s = .next { s with
          core := { s.core with tlb := kept s.core.tlb }
          cores := s.cores.map (fun k => { k with tlb := kept k.tlb })
          dev := { s.dev with
            baseTlb := s.dev.baseTlb.filter (fun e => !gone e.entry)
            ioTlb := kept s.dev.ioTlb
            ptrs := s.dev.ptrs.filter (fun p => !gonePtr p) } }))
    drops (.tlbinvPage c vpn) (fun e => (e.glob || e.asid == s.lc.asid) && covers e) (fun p => p.asid == s.lc.asid)
    ∧ drops (.tlbinvAsid c) (fun e => !e.glob && e.asid == s.lc.asid) (fun p => p.asid == s.lc.asid)
    ∧ drops (.tlbinvNonglobal c) (fun e => !e.glob) (fun _ => true)
    ∧ drops (.tlbinvAll c) (fun _ => true) (fun _ => true)

/-- R287 to R290: VSAVE of the own partition stores its v and k registers in the vector frame and leaves the partition
holding no state; VLOAD of frame 0 gives it the zero state and this LC as owner; SSWITCH with sa = 0 stores the scalar
frame at SAVEBASE, releases the LC's pins and context, and the partition is to be free after the next ERET; with the
frame of an LC that has left its partition, whose reserved bits are zero, it stores its own and brings that LC in;
SSWITCH from a trap within supervisor level raises BAD_CONTROL_STATE. Events are the model's (log 3); the layout of
frames is log 12, what a switch leaves logs 37 to 41, VSAVE and VLOAD logs 40 and 43, reserved bits log 84. -/
def Obligations.SaveEvents : Prop :=
  ∀ (s : State) (v : Dword), s.MemOk →
    (s.liveV = [] →
      (∀ loc, field v 0 3 = s.part.no → (s.part.core = s.core.no) → (∀ o l, s.part.ownerKey = some o → s.findLc o = some l → l.deilRegs = []) →
        let n := 2112 + 1024 * (s.part.grant.segs.length + (accNumbers s.part.accalloc).length)
        s.AreaAt .store (v &&& granuleMask) n loc →
        ∃ t, exec (.vsave v) s = .next t
          ∧ (∀ (r : VReg) (b : Nat), b < 4096 →
            t.areaByte loc (64 * r.toNat + b / 64) (b % 64) = s.part.v[r.toNat].extractLsb' (8 * b) 8)
          ∧ (∀ (r : Fin 8) (b : Nat), b < 128 →
            t.areaByte loc (2048 + 2 * r.val + b / 64) (b % 64) = s.part.k[r].extractLsb' (8 * b) 8)
          ∧ s.KeptButArea t n loc
          ∧ t.part.ownerKey = none ∧ t.part.accalloc = 0 ∧ t.part.grant.segs = [] ∧ t.part.v = Vector.replicate 32 0
          ∧ t.lc.s = s.lc.s ∧ t.lc.pc = s.lc.pc ∧ t.core = s.core)
      ∧ (v &&& granuleMask = 0 → ∃ t, exec (.vload v) s = .next t
        ∧ t.part = { Part.reset s.part.core s.part.no with
            ownerTask := s.lc.taskid, ownerLcid := BitVec.ofNat 12 s.lc.key.lcid, ownerKey := some s.lc.key
            vqueue := s.part.vqueue, mslot := s.part.mslot, rem := s.part.rem, done := s.part.done
            credit := s.part.credit, age := s.part.age }
        ∧ t.lc.vsaved = none ∧ t.lc.tcfg = Vector.replicate 8 TCfg.zero
        ∧ { t with part := s.part, lc := { t.lc with vsaved := s.lc.vsaved, tcfg := s.lc.tcfg } } = s))
    ∧ (s.lc.trap.plevel = true → s.SuperTakes .badControlState →
      ∃ t, exec (.sswitch v) s = .next t ∧ s.TrappedSuper t .badControlState 0x11A)
    ∧ (∀ scalar ctx held : Nat → Nat, s.lc.trap.plevel = false → s.liveV = [] → s.bankWork = [] → s.kstep = none →
      s.pickStore [] s.lc.stores = none → s.engineRoom = true →
      let base : Dword := s.lc.trap.savebase.setWidth 64
      let outside (i : Nat) (a : Nat → Nat) (b : Nat) : Prop := a i + 64 ≤ b ∨ b + 64 ≤ a i
      s.AreaAt .store base 256 scalar → s.AreaAt .store (base + 0x4000) 1024 ctx →
      (s.sccOf s.lc = true → s.AreaAt .store (base + 0x1_4000) 1024 held) →
      (∀ i j, i < 256 → j < 1024 → outside i scalar (ctx j) ∧ (s.sccOf s.lc = true → outside i scalar (held j))) →
      let stored (t : State) : Prop := s.SavedRegs t scalar
        ∧ (∀ b, b < 8 → t.areaByte scalar 96 b = (s.lc.pc.setWidth 64).extractLsb' (8 * b) 8)
        ∧ (∀ x ∈ t.dev.slots, x.holder ≠ some s.lc.key)
        ∧ ∀ a, (∀ i, i < 256 → a < scalar i ∨ scalar i + 64 ≤ a) →
          (∀ i, i < 1024 → (a < ctx i ∨ ctx i + 64 ≤ a) ∧ (s.sccOf s.lc = true → a < held i ∨ held i + 64 ≤ a)) →
          Memory.get t.dev.mem a = Memory.get s.dev.mem a
      (v &&& granuleMask = 0 → ∃ t, exec (.sswitch v) s = .next t ∧ stored t ∧ t.lc.leaving = true ∧ t.lc.ctx = none
        ∧ (s.lc.ctx ≠ none → ∀ u ∈ t.dev.ctxUses, u.owner ≠ s.lc.key)
        ∧ t.lc.s = s.lc.s ∧ t.lc.pc = s.lc.pc ∧ t.part = s.part ∧ t.core = s.core ∧ t.lcs = s.lcs)
      ∧ ∀ (sin cin : Nat → Nat) (l : Lc), v &&& granuleMask ≠ 0 →
        s.AreaAt .load (v &&& granuleMask) 256 sin → s.AreaAt .load ((v &&& granuleMask) + 0x4000) 1024 cin →
        let sound (a : Nat → Nat) (i : Nat) (known : List Nat) : Prop := a i % 64 = 0
          ∧ a i / 64 ∉ s.dev.memError ∧ a i / 64 ∉ s.dev.l2Error
          ∧ Memory.read s.dev.mem (a i) 64 &&& (2 ^ 512 - 1 - known.getD i 0) = 0
          ∧ (∀ j, j < 256 → outside i a (scalar j))
          ∧ ∀ j, j < 1024 → outside i a (ctx j) ∧ (s.sccOf s.lc = true → outside i a (held j))
        (∀ i, i < 256 → sound sin i scalarKnown) → (∀ i, i < 1024 → sound cin i ctxKnown) →
        let word (o : Nat) : Dword := BitVec.ofNat 64 (Memory.read s.dev.mem (sin (o / 64) + o % 64) 8)
        let named (x : Lc) : Bool := x.taskid == (word 0x1298).setWidth 32 && x.key.lcid == (word 0x12A0).toNat
          && x.asid == (word 0x1D08).setWidth 16
        s.lcs.find? (fun x => (x.status == .preempted || x.status == .yielded) && named x) = some l →
        named s.lc = false → s.sccOf l = false → (l.status = .yielded ∨ s.core.pindrop = true) →
        ∃ t, exec (.sswitch v) s = .next t ∧ stored t ∧ t.lc.key = l.key ∧ t.lc.status = .resident
          ∧ t.lc.core = s.part.core ∧ t.lc.partNo = s.part.no ∧ (l.status = .preempted → t.part.vqueue = [])
          ∧ t.lc.pc = (word 0x1800 &&& pcMask).setWidth 57
          ∧ (∀ r : SReg, r ≠ 0 → r ∉ l.away → t.getS r = word (64 * r.toNat))
          ∧ t.lc.trap.savebase = (v &&& granuleMask).setWidth 57
          ∧ ∃ o ∈ t.lcs, o.key = s.lc.key ∧ o.status = .preempted ∧ o.s = s.lc.s ∧ o.pc = s.lc.pc)

/-! ### Tasks, launch ports and the host -/

/-- R28 to R34, R39, R50, R309, R311 to R314: a commit of a launch port takes the packet as it stands, or is refused
with REASON 11 before the device is ready, and a busy port ignores it; the intake rejects a packet with the number of
the first condition it fails, or accepts it as the next task; it answers a SPAWN with an identifier no live task of
the function holds; a completed task writes its record and is gone, and none waits for it; KILL ends a task; a
function-level reset ends the function's tasks, which write no record, and its ports are as after reset; the dispenser
answers a NEXTS that waits with the next strip, and with none when all are handed out. Events come from the agenda:
logs 3 and 9; records and resets of functions are logs 55 and 65, busy ports log 72. -/
def Obligations.TaskEvents : Prop :=
  ∀ (fn : Nat) (s : State),
    let d := s.dev
    let onlyFuncs (t : State) : Prop := (∀ g, g ≠ fn → t.dev.func g = d.func g)
      ∧ { t with dev := { t.dev with funcs := d.funcs } } = s
    (∀ p : BitVec 6,
      (32 ≤ fn → exec (.launchPortCommit fn p) s = .next s)
      ∧ (fn < 32 →
        let x := (d.func fn).port p
        ∃ t, exec (.launchPortCommit fn p) s = .next t ∧ onlyFuncs t
          ∧ (∀ q, q ≠ p → (t.dev.func fn).port q = (d.func fn).port q)
          ∧ (t.dev.func fn).port p = (if x.st = .busy then x
            else if d.boot = .ready then { x with
              st := .busy, reason := 0, taskid := 0, packet := x.bytes.setWidth 2048 }
            else { x with st := .rejected, reason := 11, taskid := 0 })))
    ∧ (d.nextServed = none → exec .launchIntake s = .next s)
    ∧ (∀ n, n < 64 → d.nextServed = some (fn, n) →
      let x := (d.func fn).port (BitVec.ofNat 6 n)
      let id : BitVec 32 := BitVec.ofNat 32 (pk x.packet 0x1C 0 32)
      let idBad := id.getLsbD 31 || (d.taskOf fn id).isSome
      (∀ r, rejectReason x.packet idBad = some r → ∃ t, exec .launchIntake s = .next t
        ∧ ((t.dev.func fn).port x.no) = { x with st := .rejected, reason := r, taskid := 0 }
        ∧ (∀ g, g ≠ fn → t.dev.func g = d.func g) ∧ t.dev.tasks = d.tasks ∧ t.dev.mem = d.mem ∧ t.lc = s.lc)
      ∧ (rejectReason x.packet idBad = none → ∃ t, exec .launchIntake s = .next t
        ∧ (t.dev.func fn).port x.no = { x with
            st := .accepted, reason := 0, taskid := id, stamp := s.cycleOf 0 }
        ∧ t.dev.tasks.length = d.tasks.length + 1 ∧ t.dev.nextSeq = d.nextSeq + 1
        ∧ (∃ u ∈ t.dev.tasks, u.seq = d.nextSeq ∧ u.fn = fn ∧ u.id = id ∧ u.spawned = false
          ∧ u.entry = BitVec.ofNat 64 (pk x.packet 0x00 0 57) ∧ u.elements = pk x.packet 0x08 0 48
          ∧ u.coremask = BitVec.ofNat 64 (pk x.packet 0x10 0 64) ∧ u.lcn = pk x.packet 0x18 0 13
          ∧ u.prio = pk x.packet 0x18 28 4 ∧ u.completion = BitVec.ofNat 64 (pk x.packet 0x30 0 64)
          ∧ u.ptbase = (d.func fn).launchpt ∧ u.asid = (d.func fn).launchasid ∧ u.started = 0 ∧ u.nextStrip = 0)
        ∧ t.dev.mem = d.mem ∧ t.lc = s.lc ∧ t.lcs = s.lcs))
    ∧ (∀ r, d.nextServed = some (fn, 64) → d.spawns.find? (fun x => x.fn == fn) = some r →
      (4096 ≤ d.tasks.length → ∃ t, exec .launchIntake s = .next t ∧ t.dev.tasks = d.tasks
        ∧ t.dev.spawnAnswers = d.spawnAnswers ++ [(r.who, 0)] ∧ t.lc = s.lc)
      ∧ (d.tasks.length < 4096 → ∃ (t : State) (id : BitVec 32), exec .launchIntake s = .next t
        ∧ t.dev.spawnAnswers = d.spawnAnswers ++ [(r.who, id)] ∧ id.getLsbD 31 = true
        ∧ (∀ u ∈ d.tasks, u.fn = fn → u.id ≠ id)
        ∧ (∃ u ∈ t.dev.tasks, u.seq = d.nextSeq ∧ u.fn = fn ∧ u.id = id ∧ u.spawned = true
          ∧ u.lcn = pk r.packet 0x18 0 13)
        ∧ r ∉ t.dev.spawns ∧ t.lc = s.lc))
    ∧ (∀ (seq : Nat) (u : Task), d.task seq = some u →
      (s.taskDone u = false → exec (.taskCompletion seq) s = .next s)
      ∧ (s.taskDone u = true → s.MemOk → d.combines = [] → u.spawned = false →
        ∃ t, exec (.taskCompletion seq) s = .next t ∧ t.dev.task seq = none
          ∧ (∀ w ∈ t.dev.tasks, seq ∉ w.deps) ∧ (∀ l ∈ t.allLcs, l.key.task = seq → l.status = .absent)
          ∧ (∀ l ∈ s.allLcs, l.key.task ≠ seq → l ∈ t.allLcs)
          ∧ (u.completion = 0 → t.dev.mem = d.mem)
          ∧ (u.completion ≠ 0 →
            let at_ := hostBase + (u.completion &&& ~~~15#64).toNat
            (∀ i, i < 8 → Memory.get t.dev.mem (at_ + i) = BitVec.ofNat 8 (u.completionWord / 2 ^ (8 * i)))
            ∧ (∀ i, i < 8 → Memory.get t.dev.mem (at_ + 8 + i) = (s.cycleOf 0).extractLsb' (8 * i) 8)
            ∧ ∀ a, (a < at_ ∨ at_ + 16 ≤ a) → Memory.get t.dev.mem a = Memory.get d.mem a)
          ∧ (u.ended = none → u.completionWord = 2 ^ 62)
          ∧ t.core = s.core ∧ t.part = s.part ∧ t.dev.funcs = d.funcs))
    ∧ (∀ id : BitVec 32,
      (d.taskOf fn id = none → exec (.killWrite fn id) s = .next s)
      ∧ ∀ u, d.taskOf fn id = some u → d.task u.seq = some u → u.ended = none →
        ∃ t, exec (.killWrite fn id) s = .next t ∧ s.EndedTask t u.seq 0)
    ∧ (32 ≤ fn → exec (.functionLevelReset fn) s = .next s)
    ∧ (fn < 32 → (d.tasks.map (·.seq)).Nodup → ∃ t, exec (.functionLevelReset fn) s = .next t
      ∧ (∀ p, (t.dev.func fn).port p = Port.reset p) ∧ (∀ g, g ≠ fn → t.dev.func g = d.func g)
      ∧ (∀ u ∈ t.dev.tasks, u.fn = fn → u.ended ≠ none ∧ u.completion = 0)
      ∧ t.dev.mgmt.owner = (if fn = 0 ∧ d.mgmt.owner = some .host then none else d.mgmt.owner)
      ∧ t.dev.mem = d.mem)
    ∧ (s.lc.nextsWait = false → exec .stripDispense s = .next s)
    ∧ (∀ u, s.lc.nextsWait = true → s.task = some u →
      (u.strips ≤ u.nextStrip → ∃ t, exec .stripDispense s = .next t ∧ t.lc.nextsAnswer = some none
        ∧ t.lc.nextsWait = false ∧ t.task = some u)
      ∧ (u.nextStrip < u.strips → u.ring = false → ∃ t, exec .stripDispense s = .next t
        ∧ t.lc.nextsAnswer = some (some u.nextStrip) ∧ t.lc.nextsWait = false
        ∧ t.task = some { u with nextStrip := u.nextStrip + 1 }
        ∧ { t with
            lc := { t.lc with nextsAnswer := s.lc.nextsAnswer, nextsWait := true }
            dev := { t.dev with tasks := d.tasks } } = s))

/-- R308 to R310, R315, R318: a request outside the window's size has no effect; a read of local bytes that are clean
answers them, and one that no page serves is answered with Unsupported Request and sets HWERR; a write puts its bytes
where the window's page lies; the oldest open host request is answered, a store that failed leaves its cause for the
LC's next fence, or CWFAIL when it was a completion record, and a timeout counts as a Completer Abort; what a peer
reads and writes, in requests of 64 to 256 bytes, and the table entries it walks lie at the home slice, its binds join
the others and its unbinds take what it holds; a link loss and the host's packet writes touch only what is theirs.
Events come from the agenda: logs 3 and 9; accesses of the window are log 56, traffic of peers log 88, deliveries of
stores log 96. -/
def Obligations.HostEvents : Prop :=
  ∀ (fn off : Nat) (bs : List Byte) (poisoned : Bool) (s : State), s.MemOk → s.dev.combines = [] →
    let d := s.dev
    let va := (d.func fn).hwbase.toNat + off
    let fits (n : Nat) : Prop := fn < 32 ∧ 0 < n ∧ n ≤ 4096 ∧ off + n ≤ 2 ^ 40
    let sp : Space := d.windowSpace (d.func fn)
    let reaches (k : Acc) (pa n : Nat) : Prop := ∃ e, va % 65536 + n ≤ 65536 ∧ va < 2 ^ 57
      ∧ inWindow (BitVec.ofNat 64 va) = false ∧ d.translate sp k (BitVec.ofNat 64 va) = .ok ⟨pa, e⟩ ∧ paKind pa ≠ .host
    let clean (pa n : Nat) : Prop := ∀ g ∈ granuleRange pa n, d.memPoison.contains g = false
      ∧ d.memError.contains g = false ∧ d.l2Error.contains g = false
    let wrote (t : State) (pa : Nat) : Prop :=
      (∀ i, i < bs.length → Memory.get t.dev.mem (pa + i) = bs.getD i 0)
        ∧ (∀ a, a < pa ∨ pa + bs.length ≤ a → Memory.get t.dev.mem a = Memory.get d.mem a)
        ∧ t.lc = s.lc ∧ t.core = s.core ∧ t.part = s.part ∧ t.dev.tasks = d.tasks
    (∀ n, (¬fits n → exec (.hostWindowRead fn off n) s = .next s)
      ∧ ∀ pa, fits n → reaches .load pa n → clean pa n → ∃ t, exec (.hostWindowRead fn off n) s = .next t
        ∧ t.dev.windowAnswers
          = d.windowAnswers ++ [⟨fn, some ((List.range n).map (fun i => Memory.get d.mem (pa + i))), false⟩]
        ∧ { t with dev := { t.dev with windowAnswers := d.windowAnswers, ioTlb := d.ioTlb, ptrs := d.ptrs } } = s)
    ∧ (∀ n c, fits n → va % 65536 + n ≤ 65536 → va < 2 ^ 57 → inWindow (BitVec.ofNat 64 va) = false →
      d.translate sp .load (BitVec.ofNat 64 va) = .error (.cause c) → ∃ t, exec (.hostWindowRead fn off n) s = .next t
        ∧ t.dev.windowAnswers = d.windowAnswers ++ [⟨fn, none, false⟩]
        ∧ t.dev.func fn = { d.func fn with fstatus := (d.func fn).fstatus ||| 8 } ∧ t.dev.mem = d.mem)
    ∧ (¬fits bs.length → exec (.hostWindowWrite fn off bs poisoned) s = .next s)
    ∧ (∀ pa, fits bs.length → reaches .store pa bs.length →
      ∃ t, exec (.hostWindowWrite fn off bs poisoned) s = .next t ∧ wrote t pa
        ∧ (poisoned = true → ∀ g ∈ granuleRange pa bs.length, t.dev.memPoison.contains g = true))
    ∧ (∀ (a : HostStatus) (r : HostReq), d.hostReqs.find? (fun x => x.answer.isNone) = some r → (d.hostReqs).Nodup →
      let ends (i : Instr) (a : HostStatus) (p : Bool) : Prop :=
        (r.store = false → ∃ t, exec i s = .next t ∧ t.dev.mem = d.mem ∧ t.lc = s.lc
          ∧ { r with answer := some a } ∈ t.dev.hostReqs ∧ r ∉ t.dev.hostReqs
          ∧ (∀ x ∈ d.hostReqs, x ≠ r → x ∈ t.dev.hostReqs)
          ∧ (p = true → ∀ g ∈ granuleRange r.pa r.bytes, t.dev.memPoison.contains g = true)
          ∧ (p = false → t.dev.memPoison = d.memPoison))
        ∧ (r.store = true → ∃ t, exec i s = .next t ∧ t.dev.hostReqs = d.hostReqs.erase r ∧ t.dev.mem = d.mem
          ∧ (hostCause a = none → { t with dev := { t.dev with hostReqs := d.hostReqs } } = s)
          ∧ ∀ c, hostCause a = some c →
            (∀ g, r.record = some g → t.dev.func g = { d.func g with fstatus := (d.func g).fstatus ||| 4 }
              ∧ { t with dev := { t.dev with hostReqs := d.hostReqs, funcs := d.funcs } } = s)
            ∧ (r.record = none → ∀ l, s.findLc r.who = some l →
              ∃ m ∈ t.allLcs, m.key = r.who ∧ m.hostErr = l.hostErr.or (some (c, r.va))))
      ends (.hostRequestCompletion a poisoned) a poisoned ∧ ends .completionTimeout .abort false)
    ∧ ((∀ x ∈ d.hostReqs, x.answer ≠ none) →
      exec .completionTimeout s = .next s ∧ ∀ a p, exec (.hostRequestCompletion a p) s = .next s)
    ∧ (∃ t, exec .pcieLinkLoss s = .next t
      ∧ t.dev.mgmt.owner = (if d.mgmt.owner = some .host then none else d.mgmt.owner)
      ∧ { t with dev := { t.dev with mgmt := { t.dev.mgmt with owner := d.mgmt.owner } } } = s)
    ∧ (∀ (p : BitVec 6) (o : BitVec 8) (n : Nat) (v : Dword), fn < 32 → ((d.func fn).port p).st ≠ .busy → n ≤ 8 →
      ∃ t, exec (.mmioRegisterWrite .host fn (.port p o n) v) s = .next t
        ∧ (∀ b, b < 1920 → ((t.dev.func fn).port p).bytes.getLsbD b
          = if 8 * o.toNat ≤ b ∧ b < 8 * (o.toNat + n) then v.getLsbD (b - 8 * o.toNat)
            else ((d.func fn).port p).bytes.getLsbD b)
        ∧ (∀ q, q ≠ p → (t.dev.func fn).port q = (d.func fn).port q)
        ∧ (∀ g, g ≠ fn → t.dev.func g = d.func g) ∧ { t with dev := { t.dev with funcs := d.funcs } } = s)
    ∧ (∀ n, n < 64 ∨ 256 < n → exec (.ualinkTransactionArrival (.read off n)) s = .next s)
    ∧ (∀ n, 64 ≤ n → n ≤ 256 → off + n ≤ hbmSize → (d.stack (homeStack off)).degraded = false → clean off n →
      ∃ t, exec (.ualinkTransactionArrival (.read off n)) s = .next t
        ∧ t.dev.peerAnswers = d.peerAnswers ++ [((List.range n).map (fun i => Memory.get d.mem (off + i)), false)]
        ∧ { t with dev := { t.dev with peerAnswers := d.peerAnswers } } = s)
    ∧ (bs.length < 64 ∨ 256 < bs.length → exec (.ualinkTransactionArrival (.write off bs)) s = .next s)
    ∧ (64 ≤ bs.length → bs.length ≤ 256 → off + bs.length ≤ hbmSize → (d.stack (homeStack off)).degraded = false →
      ∃ t, exec (.ualinkTransactionArrival (.write off bs)) s = .next t ∧ wrote t off)
    ∧ (∀ src lc stack svu, stack < 12 → svu < 16 → s.runAhead = true →
      ∃ t, exec (.ualinkTransactionArrival (.bind src lc stack svu)) s = .next t
        ∧ t.dev.binds = d.binds ++ [⟨remoteKey src lc, stack, svu, none⟩] ∧ { t with dev := { t.dev with binds := d.binds } } = s)
    ∧ (∀ src lc, ∃ t, exec (.ualinkTransactionArrival (.unbind src lc)) s = .next t
      ∧ (∀ b ∈ t.dev.binds, b.who ≠ remoteKey src lc) ∧ (∀ u ∈ t.dev.ctxUses, u.owner ≠ remoteKey src lc)
      ∧ (∀ b ∈ d.binds, b.who ≠ remoteKey src lc → b ∈ t.dev.binds)
      ∧ (∀ u ∈ d.ctxUses, u.owner ≠ remoteKey src lc → u ∈ t.dev.ctxUses) ∧ t.lc = s.lc ∧ t.dev.mem = d.mem)
    ∧ (off % 8 = 0 → off + 8 ≤ hbmSize → (d.stack (homeStack off)).degraded = false → clean off 8 →
      ∃ t, exec (.ualinkTransactionArrival (.walk off)) s = .next t
        ∧ t.dev.peerAnswers = d.peerAnswers ++ [((List.range 8).map (fun i => Memory.get d.mem (off + i)), false)]
        ∧ { t with dev := { t.dev with peerAnswers := d.peerAnswers } } = s)
    ∧ ∀ src, ∃ t, exec (.ualinkTransactionArrival (.receive src bs)) s = .next t
      ∧ t.dev.received = d.received ++ [(src, bs)] ∧ { t with dev := { t.dev with received := d.received } } = s

/-! ### Management and boot -/

/-- R231, R315 to R317, R319, R324, R325: what only the owner may write is refused to any other claimant and reported
to it, and changes nothing else; the first claim of a device without owner is granted, the owner hands over and
releases; BNKLIM takes 16 to 512 and reaches at once every stack with no active unit; a clock step takes 0 to 12; a
value not accepted sets VALERR; power and heat move FLOOR and the thermal limits by their steps, within their bounds,
and undo exactly what they imposed; links that are up log what becomes of them, and a loss takes the bindings and the
monitors in the members that no port reaches any more. -/
def managementBlock : Prop :=
  ∀ (c heir : Claimant) (v : Dword) (core : BitVec 6) (s : State),
    let d := s.dev
    let m := d.mgmt
    let onlyMgmt (t : State) (n : Mgmt) : Prop := { s with dev := { d with mgmt := n } } = t
    let flagged (t : State) (b : BitVec 4) : Prop := t.dev.func 0 = { d.func 0 with fstatus := (d.func 0).fstatus ||| b }
      ∧ (∀ g, g ≠ 0 → t.dev.func g = d.func g) ∧ { t with dev := { t.dev with funcs := d.funcs } } = s
    let refused (i : Instr) : Prop := ∃ t, exec i s = .next t ∧ (c = .host → flagged t 1)
      ∧ (c ≠ .host → onlyMgmt t { m with refusals := m.refusals ++ [(c, 0x4C)] })
    let unaccepted (i : Instr) : Prop := ∃ t, exec i s = .next t ∧ flagged t 2
    let floorMoves (t : State) (n : Nat) (up : Bool) : Prop := (t.findCore n).floor
      = if up then (if (s.findCore n).floor.toNat < 12 then (s.findCore n).floor + 1 else (s.findCore n).floor)
        else if (s.findCore n).floor = 0 then 0 else (s.findCore n).floor - 1
    let kept (t : State) : Prop := t.lc = s.lc ∧ t.lcs = s.lcs ∧ t.part = s.part ∧ t.dev.mem = d.mem ∧ t.dev.tasks = d.tasks
    (m.owner ≠ some c → refused (.ownershipHandover c heir) ∧ refused (.ownershipRelease c) ∧ refused (.bnklimWrite c v)
      ∧ refused (.clkstepWrite c core v) ∧ refused (.bootctlReset c) ∧ refused (.bootctlClear c)
      ∧ refused (.mmioRegisterWrite c 0 .actth v) ∧ refused (.mmioRegisterWrite c 0 .pcap v)
      ∧ (m.owner ≠ none → refused (.ownershipClaim c)))
    ∧ (m.owner = none → ∃ t, exec (.ownershipClaim c) s = .next t ∧ onlyMgmt t { m with owner := some c })
    ∧ (m.owner = some c →
      (∃ t, exec (.ownershipHandover c heir) s = .next t ∧ onlyMgmt t { m with owner := some heir })
      ∧ (∃ t, exec (.ownershipRelease c) s = .next t ∧ onlyMgmt t { m with owner := none })
      ∧ (let n := (v.extractLsb' 0 10).toNat
        (n < 16 ∨ 512 < n → unaccepted (.bnklimWrite c v))
        ∧ (16 ≤ n → n ≤ 512 → ∃ t, exec (.bnklimWrite c v) s = .next t ∧ t.dev.mgmt = { m with bnklim := n }
          ∧ (∀ k, k < 12 → (t.dev.stack k).limit = if d.busyUnits k = [] then n else (d.stack k).limit) ∧ kept t))
      ∧ (let n := (v.extractLsb' 0 4).toNat
        (12 < n → unaccepted (.clkstepWrite c core v))
        ∧ (n ≤ 12 → ∃ t, exec (.clkstepWrite c core v) s = .next t ∧ (t.findCore core.toNat).step = v.extractLsb' 0 4
          ∧ (∀ k, k ≠ core.toNat → t.findCore k = s.findCore k) ∧ t.dev = d ∧ kept t)))
    ∧ (∀ stack, (12 ≤ stack ∨ d.busyUnits stack ≠ [] → exec (.bnklimArrival stack) s = .next s)
      ∧ (stack < 12 → d.busyUnits stack = [] → ∃ t, exec (.bnklimArrival stack) s = .next t ∧ (t.dev.stack stack).limit = m.bnklim
        ∧ (∀ k, k ≠ stack → t.dev.stack k = d.stack k) ∧ kept t))
    ∧ (∀ n, n < 64 → s.floorRoom.getLsbD n = decide ((s.findCore n).floor.toNat < 12))
    ∧ (∀ n, n < 12 → d.limitRoom.getD n 0 = min 16 ((d.stack n).thermal - 16))
    ∧ (∀ watts,
      (m.pcap < watts → (∃ n, n < 64 ∧ (s.findCore n).floor.toNat < 12) → ∃ t, exec (.powerWindow watts) s = .next t
        ∧ (∀ n, n < 64 → floorMoves t n true)
        ∧ t.dev = { d with mgmt := { m with powerSteps := .floors s.floorRoom :: m.powerSteps } } ∧ kept t)
      ∧ (m.pcap < watts → (∀ n, n < 64 → 12 ≤ (s.findCore n).floor.toNat) →
        ((∀ n, n < 12 → (d.stack n).thermal ≤ 16) → exec (.powerWindow watts) s = .next s)
        ∧ ((∃ n, n < 12 ∧ 16 < (d.stack n).thermal) → ∃ t, exec (.powerWindow watts) s = .next t
          ∧ (∀ n, n < 12 → (t.dev.stack n).thermal = (d.stack n).thermal - d.limitRoom.getD n 0)
          ∧ t.dev.mgmt = { m with powerSteps := .limits d.limitRoom :: m.powerSteps } ∧ t.core = s.core ∧ kept t))
      ∧ (watts ≤ m.pcap → watts * 100 ≤ m.pcap * 95 →
        (m.powerSteps = [] → exec (.powerWindow watts) s = .next s)
        ∧ (∀ by_ r, m.powerSteps = .limits by_ :: r → ∃ t, exec (.powerWindow watts) s = .next t
          ∧ (∀ n, n < 12 → (t.dev.stack n).thermal = min 512 ((d.stack n).thermal + by_.getD n 0))
          ∧ t.dev.mgmt = { m with powerSteps := r } ∧ t.core = s.core ∧ kept t)
        ∧ (∀ cores r, m.powerSteps = .floors cores :: r → ∃ t, exec (.powerWindow watts) s = .next t
          ∧ (∀ n, n < 64 → cores.getLsbD n = true → floorMoves t n false)
          ∧ (∀ n, n < 64 → cores.getLsbD n = false → t.findCore n = s.findCore n)
          ∧ t.dev = { d with mgmt := { m with powerSteps := r } } ∧ kept t))
      ∧ (watts ≤ m.pcap → m.pcap * 95 < watts * 100 → exec (.powerWindow watts) s = .next s))
    ∧ (let heat := (s.findCore core.toNat).heat
      (∃ t, exec (.thermalCoreLimit core true) s = .next t ∧ floorMoves t core.toNat true
        ∧ (t.findCore core.toNat).heat = (if (s.findCore core.toNat).floor.toNat < 12 then heat + 1 else heat)
        ∧ (∀ k, k ≠ core.toNat → t.findCore k = s.findCore k) ∧ kept t
        ∧ t.dev = { d with mgmt := { m with log := m.log ++ [.thermalCoreLimit] } })
      ∧ (heat = 0 → exec (.thermalCoreLimit core false) s = .next s)
      ∧ (heat ≠ 0 → ∃ t, exec (.thermalCoreLimit core false) s = .next t ∧ floorMoves t core.toNat false
        ∧ (t.findCore core.toNat).heat = heat - 1
        ∧ (∀ k, k ≠ core.toNat → t.findCore k = s.findCore k) ∧ kept t ∧ t.dev = d))
    ∧ (∀ stack, stack < 12 → ∃ t, exec (.thermalBankLimit stack) s = .next t
      ∧ t.dev.stack stack = { d.stack stack with thermal := max 16 ((d.stack stack).thermal / 2), hot := true }
      ∧ (∀ k, k ≠ stack → t.dev.stack k = d.stack k) ∧ t.dev.mgmt = { m with log := m.log ++ [.thermalBankLimit] }
      ∧ kept t)
    ∧ ∀ (port : Nat) (lost : List Nat),
      (d.portsUp.getLsbD port = false → exec (.linkRetrain port) s = .next s ∧ exec (.linkDown port lost) s = .next s)
      ∧ (d.portsUp.getLsbD port = true →
        (∃ t, exec (.linkRetrain port) s = .next t ∧ onlyMgmt t { m with log := m.log ++ [.linkRetrain] })
        ∧ ∃ t, exec (.linkDown port lost) s = .next t ∧ t.dev.mgmt = { m with log := m.log ++ [.linkDown] }
          ∧ t.dev.mem = d.mem ∧ t.dev.tasks = d.tasks
          ∧ ((∀ u ∈ d.ctxUses, u.stack < 16 ∨ u.stack / 16 - 1 ∈ t.dev.reachable) → kept t ∧ t.core = s.core)
          ∧ (s.lc.status = .resident → s.lc.ctx ≠ none →
            (∃ u ∈ d.ctxUses, u.owner = s.lc.key ∧ 16 ≤ u.stack ∧ u.stack / 16 - 1 ∉ t.dev.reachable) →
            t.lc.key = s.lc.key ∧ t.lc.ctx = none ∧ ∃ r, t.lc.kreport = some r ∧ r.cause = .remoteStackUnreachable ∧ r.tval = 0)
          ∧ (∀ x, x ∈ t.dev.monitors ↔ x ∈ d.monitors ∧ ∀ k o, paKind x.pa = .peer k o →
            k = d.member.toNat ∨ k ∈ t.dev.reachable)
          ∧ (∀ p, p < 12 → t.dev.portsUp.getLsbD p = (d.portsUp.getLsbD p && decide (p ≠ port)))
          ∧ ∀ k, k ∈ t.dev.reachable ↔ k ∈ d.reachable ∧ k ∉ lost ∧ t.dev.portsUp ≠ 0)

/-- R317, R320 to R322: a boot whose steps all pass leaves the device ready, every step recorded as passed and no
attempt counted; one whose rails fail counts the attempt, records and logs the step, and after four in a row leaves the
device management-only; a device that has booted does not boot again. A reset by the owner leaves every core, LC and
task as at reset and keeps the boot record; CLEAR is remembered for the next boot; LOAD in recovery mode starts the
verification: an image that passes is written to flash and the boot goes on at step 7, which passes, fails or runs its
alternative; one that does not pass is logged. -/
def bootAttempts : Prop :=
  ∀ (c : Claimant) (f : BootFacts) (s : State),
    let d := s.dev
    let m := d.mgmt
    let onlyMgmt (t : State) (n : Mgmt) : Prop := { s with dev := { d with mgmt := n } } = t
    (d.boot ≠ .off → d.boot ≠ .offBus → exec (.deviceBoot f) s = .next s)
    ∧ (d.boot = .off ∨ d.boot = .offBus →
      (f.rails = .passed → f.clocks = .passed → f.fuses = .passed → f.links = .passed → f.firmware = .passed →
        f.trainFailed = 0 → f.slow = 0 → f.testFailed = 0 → f.narrow = 0 → f.portsDown = 0 →
        (∀ n, 1 ≤ n → n ≤ 7 → m.stepOutcome n < 2) →
        ∃ t, exec (.deviceBoot f) s = .next t ∧ t.dev.boot = .ready ∧ t.dev.mgmt.attempt = 0
          ∧ t.dev.mgmt.outcome = 0x1555 ∧ t.dev.portsUp = 0xFFF ∧ t.dev.member = f.member ∧ t.dev.reachable = f.reachable
          ∧ (∀ k, k < 12 → (t.dev.stack k).degraded = t.dev.mgmt.degraded.getLsbD k)
          ∧ (∀ k, k < 12 → (t.dev.stack k).czbase = f.czbase.getD k 0 &&& 0xF_FFFF_FFFF_0000)
          ∧ t.dev.mgmt.owner = none ∧ t.dev.mem = d.mem ∧ t.lc = s.lc ∧ t.core = s.core)
      ∧ (f.rails = .failed → m.clearNext = false → ∃ t, exec (.deviceBoot f) s = .next t
        ∧ t.dev.boot = (if 3 ≤ m.attempt then .managementOnly else .offBus)
        ∧ t.dev.mgmt.attempt = min 4 (m.attempt + 1) ∧ t.dev.mgmt.lastFail = 1 ∧ t.dev.mgmt.stepOutcome 1 = 2
        ∧ (∀ n, 2 ≤ n → n ≤ 7 → t.dev.mgmt.stepOutcome n = m.stepOutcome n)
        ∧ t.dev.mgmt.log = m.log ++ [.powerRailFault, .bootStepFail]
        ∧ { t with dev := { t.dev with mgmt := m, boot := d.boot } } = s))
    ∧ (m.owner = some c → s.MemOk → ∃ t, exec (.bootctlReset c) s = .next t ∧ t.lc = Lc.reset ∧ t.lcs = [] ∧ t.parts = []
      ∧ t.part = Part.reset 0 0 ∧ t.core = Core.reset 0 ∧ t.cores = [] ∧ t.dev.tasks = [] ∧ t.dev.funcs = []
      ∧ t.dev.boot = .off ∧ t.dev.mgmt.owner = none ∧ t.dev.mgmt.bnklim = 256 ∧ t.dev.mgmt.pcap = 2400
      ∧ t.dev.mgmt.outcome = m.outcome ∧ t.dev.mgmt.degraded = m.degraded ∧ t.dev.mgmt.lastFail = m.lastFail
      ∧ t.dev.mgmt.log = m.log ∧ t.dev.mgmt.clearNext = m.clearNext ∧ t.dev.mgmt.flash = m.flash
      ∧ ∀ a, a < hbmSize → Memory.get t.dev.mem a = 0)
    ∧ (m.owner = some c → ∃ t, exec (.bootctlClear c) s = .next t ∧ onlyMgmt t { m with clearNext := true })
    ∧ (d.boot = .recovery → ∃ t, exec (.bootctlLoad c) s = .next t ∧ onlyMgmt t { m with verifying := true })
    ∧ (d.boot ≠ .recovery → exec (.bootctlLoad c) s = .next s)
    ∧ (m.verifying = false → ∀ pass, exec (.imageVerifyDone pass) s = .next s)
    ∧ (let valid : Prop := Memory.read m.recovery 0 4 = 0x4E485466 ∧ Config.minVersion.toNat ≤ Memory.read m.recovery 4 4
        ∧ Memory.read m.recovery 8 8 ≤ 16772736
      let taken (t : State) : Prop := t.dev.mgmt.verifying = false ∧ t.dev.mgmt.flash = m.recovery
        ∧ t.dev.mgmt.stepOutcome 6 = 1
        ∧ { t with dev := { t.dev with mgmt := m, boot := d.boot, hbm := d.hbm } } = s
      let ready (t : State) : Prop := t.dev.boot = .ready ∧ t.dev.mgmt.attempt = 0 ∧ t.dev.mgmt.owner = none
        ∧ ∀ k, k < 12 → (t.dev.stack k).degraded = t.dev.mgmt.degraded.getLsbD k
      m.verifying = true →
        (valid → m.stepOutcome 7 < 2 → m.testFailed = 0 → ∃ t, exec (.imageVerifyDone true) s = .next t ∧ taken t ∧ ready t
          ∧ t.dev.mgmt.stepOutcome 7 = 1 ∧ t.dev.mgmt.degraded = m.degraded)
        ∧ (valid → m.stepOutcome 7 < 2 → m.testFailed ≠ 0 → ∃ t, exec (.imageVerifyDone true) s = .next t ∧ taken t
          ∧ t.dev.boot = (if 3 ≤ m.attempt then .managementOnly else .off) ∧ t.dev.mgmt.stepOutcome 7 = 2
          ∧ t.dev.mgmt.lastFail = 7 ∧ t.dev.mgmt.log = m.log ++ [.bootStepFail])
        ∧ (valid → 2 ≤ m.stepOutcome 7 → ∃ t, exec (.imageVerifyDone true) s = .next t ∧ taken t ∧ ready t
          ∧ t.dev.mgmt.stepOutcome 7 = 3 ∧ t.dev.mgmt.degraded = m.degraded ||| m.testFailed)
        ∧ ∀ pass, pass = false ∨ ¬valid → ∃ t, exec (.imageVerifyDone pass) s = .next t
          ∧ onlyMgmt t { m with verifying := false, log := m.log ++ [.signatureFail] })

/-- R231, R315 to R317, R319 to R322, R324, R325: the management block and the boot. Events come from the agenda: logs
3 and 9; claims are log 53, BNKLIM log 58, the boot logs 59 and 60, power control log 98, lost links logs 66 and 99.
-/
def Obligations.ManagementEvents : Prop :=
  managementBlock ∧ bootAttempts

/-! ### Memory, combining stores, copy channels and banks -/

/-- R153, R160, R162, R165, R187, R203, R204, R220, R275, R302, R306: what the memory side does on its own. A refresh
closes exactly the pinned rows of its bank; a patrol read corrects, poisons or leaves a granule, and not one that a
bank holds; a page walk fills the core's TLB, or the TLB of a bound context's SVU, with an entry that serves the
address with the walk's leaf; an expansion takes the pool's next frame and rewrites the leaf; updates join their
granule's entry and are applied to the value read, and what an entry gives back is what memory then holds; a copy
moves the bytes of one destination line; a contribution is staged, and the last rank writes the sum in rank order.
Events come from the agenda: logs 3, 4, 8 and 9; what a full store gives up is log 77. -/
def Obligations.MemoryEvents : Prop :=
  ∀ (g : Nat) (s : State), s.MemOk →
    let d := s.dev
    let onlyDev (t : State) : Prop := { t with dev := d } = s
    let granule (t : State) (v : Nat) : Prop := Memory.read t.dev.mem (64 * g) 64 = v % 2 ^ 512
      ∧ ∀ a, (a < 64 * g ∨ 64 * g + 64 ≤ a) → Memory.get t.dev.mem a = Memory.get d.mem a
    (∀ stack chan pc bank, ∃ t, exec (.bankRefresh stack chan pc bank) s = .next t
      ∧ t.dev.slots = d.slots.map (fun x =>
        if x.st = .pinned ∧ x.stack = stack ∧ x.chan = chan ∧ x.bank = 32 * pc + bank then { x with st := .closed } else x)
      ∧ { t with dev := { t.dev with
          slots := d.slots, actcnt := d.actcnt, actError := d.actError, mgmt := { t.dev.mgmt with log := d.mgmt.log } } } = s)
    ∧ (∀ c u, (s.bankHeld g = true ∨ hbmSize ≤ 64 * g → exec (.patrolScrubRead g c u) s = .next s)
      ∧ (s.bankHeld g = false → 64 * g < hbmSize →
        (u = true ∨ d.memError.contains g = true → ∃ t, exec (.patrolScrubRead g c u) s = .next t
          ∧ t.dev.memPoison.contains g = true ∧ t.dev.memError.contains g = false
          ∧ t.dev.mgmt.log = d.mgmt.log ++ [.scrubUncorrectable] ∧ t.dev.mem = d.mem ∧ onlyDev t)
        ∧ (u = false → d.memError.contains g = false → c = true → ∃ t, exec (.patrolScrubRead g c u) s = .next t
          ∧ t.dev.scrubs.contains g = true ∧ t.dev.mgmt.log = d.mgmt.log ++ [.scrubCorrected]
          ∧ t.dev.mem = d.mem ∧ t.dev.memPoison = d.memPoison ∧ onlyDev t)
        ∧ (u = false → d.memError.contains g = false → c = false → exec (.patrolScrubRead g c u) s = .next s)))
    ∧ (∃ t, exec (.scrubWriteBack g) s = .next t ∧ t.dev.scrubs.contains g = false
      ∧ { t with dev := { t.dev with scrubs := d.scrubs } } = s)
    ∧ (∀ va : Dword, s.lc.ctx = none → (s.space s.super).holds va = true → exec (.pageTableWalk va) s = .next s)
    ∧ (∀ (va : Dword) (l : Leaf), va.toNat < 2 ^ 57 → (∀ p ∈ d.ptrs, p.next % 65536 = 0) →
      d.walk (s.space s.super) .load va.toNat = .ok l → inWindow va = false →
      (leafC l.entry = false → exec (.pageExpansion va) s = .next s
        ∧ ((s.space s.super).holds va = false → s.lc.ctx = none → ∃ t e, exec (.pageTableWalk va) s = .next t
          ∧ t.core.tlb = tlbFill (Config.choice s.tick) s.core.tlb e
          ∧ (e.leaf? s.lc.asid va.toNat).map (·.entry) = some l.entry
          ∧ { t with core := { t.core with tlb := s.core.tlb }, dev := { t.dev with ptrs := d.ptrs } } = s))
      ∧ (∀ (c : StackCtx) (m : Leaf), s.lc.ctx = some c → d.walk (s.ctxSpace s.super) .load va.toNat = .ok m →
        leafC m.entry = false → (s.ctxSpace s.super).holds va = false → ∃ t e, exec (.pageTableWalk va) s = .next t
          ∧ t.dev.baseTlb = baseFill (Config.choice s.tick) d.baseTlb ⟨s.ctxHome.1, s.ctxHome.2, e⟩
          ∧ (e.leaf? c.asid va.toNat).map (·.entry) = some m.entry
          ∧ { t with
              core := { t.core with tlb := s.core.tlb }
              dev := { t.dev with ptrs := d.ptrs, baseTlb := d.baseTlb } } = s)
      ∧ (leafC l.entry = true → d.combines = [] →
        (s.lc.ctx = none → ∃ t, exec (.pageTableWalk va) s = .next t ∧ { t with dev := { t.dev with ptrs := d.ptrs } } = s)
        ∧ ∀ ws : List Nat,
          let st := d.stack (leafHstack l.entry)
          let frame := (d.entry (st.poolbase.toNat + 8 * (st.poolhead.toNat % st.poolsize.toNat))).toNat
          let descAt := l.addr / 128 * 128 + 0x48 + 8 * leafDslot l.entry
          st.frame = none → st.poolhead ≠ st.pooltail → frame % 65536 = 0 → paKind frame = .hbm → homeStack frame = st.no →
          decodePage d.mem st.czbase.toNat (d.entry descAt) = some ws →
          ∃ t, exec (.pageExpansion va) s = .next t ∧ onlyDev t
            ∧ (t.dev.stack st.no).poolhead = st.poolhead + 1
            ∧ t.dev.entry l.addr = expandedEntry l.entry (frame / 65536)))
    ∧ (d.scUpdates = [] → exec .scatterAddArrival s = .next s)
    ∧ (∀ u, d.scUpdates = [u] →
      (∀ e v, d.combines = [e] → e.granule = u.pa / 64 → e.value = some v → ∃ t, exec .scatterAddArrival s = .next t
        ∧ t.dev.scUpdates = [] ∧ t.dev.combines = [{ e with value := some (BitVec.ofNat 512 (u.apply v.toNat)) }]
        ∧ { t with dev := { t.dev with scUpdates := d.scUpdates, combines := d.combines } } = s)
      ∧ ((∀ e ∈ d.combines, e.granule ≠ u.pa / 64) → (d.combining u.pa).length < 128 →
        ∃ t, exec .scatterAddArrival s = .next t ∧ t.dev.scUpdates = []
          ∧ t.dev.combines = d.combines ++ [⟨u.pa / 64, [u], none⟩]
          ∧ { t with dev := { t.dev with scUpdates := d.scUpdates, combines := d.combines } } = s))
    ∧ (∀ e, d.combines.find? (fun c => c.granule == g) = some e → (d.combines.map (·.granule)).Nodup →
      let applied := e.chain.foldl (fun v u => u.apply v)
      (∃ t, exec (.scatterOldValue g) s = .next t ∧ { t with dev := { t.dev with combines := d.combines } } = s
        ∧ (e.value = none → { e with
            value := some (BitVec.ofNat 512 (applied (Memory.read d.mem (64 * g) 64))), chain := [] } ∈ t.dev.combines)
        ∧ (e.value ≠ none → e ∈ t.dev.combines) ∧ ∀ c ∈ d.combines, c.granule ≠ g → c ∈ t.dev.combines)
      ∧ (∃ t, exec (.scatterRecall g) s = .next t
        ∧ granule t (applied ((e.value.map BitVec.toNat).getD (Memory.read d.mem (64 * g) 64)))
        ∧ t.dev.combines = d.combines.filter (fun c => c.granule != g) ∧ onlyDev t)
      ∧ ∀ v, e.value = some v →
        (e.chain = [] → ∃ t, exec (.scatterIdleWriteBack g) s = .next t ∧ granule t v.toNat
          ∧ t.dev.combines = d.combines.filter (fun c => c.granule != g) ∧ onlyDev t)
        ∧ (e.chain ≠ [] → exec (.scatterIdleWriteBack g) s = .next s))
    ∧ (∀ h : BitVec 2,
      let ch := s.lc.chans[h.toNat]
      (ch.cmds = [] ∨ ch.err ≠ none → exec (.copyTransferStep h) s = .next s)
      ∧ ∀ (c : XCmd) (r : List XCmd) (tw : Bool), ch.cmds = c :: r → ch.err = none → c.kind = .cpy tw →
        (c.len = 0 → ∃ t, exec (.copyTransferStep h) s = .next t
          ∧ t.lc.chans[h.toNat] = { ch with cmds := r, done := ch.done + 1, wp := 0, pos := 0 }
          ∧ { t with lc := { t.lc with chans := s.lc.chans } } = s)
        ∧ (c.descends = false → ch.wp.toNat < c.total → c.total < 2 ^ 32 →
          let at_ := c.dst + BitVec.ofNat 64 ch.wp.toNat
          let n := min (c.total - ch.wp.toNat) (64 - at_.toNat % 64)
          ∀ (pd : Nat) (e : Dword) (src : Nat → Loc),
            s.locateIn (s.spaceOf c.env c.super) .store at_ = .ok (.phys pd e) →
            (Loc.phys pd e).isHost = false → s.linkBad (.phys pd e) = false →
            (∀ j, j < n → s.locateIn (s.spaceOf c.env c.super) .load (c.srcAt (ch.wp.toNat + j)) = .ok (src j) ∧ (src j).isHost = false
              ∧ s.badAt (src j) = false) →
            ∃ t, exec (.copyTransferStep h) s = .next t
              ∧ (∀ j, j < n → Memory.get t.dev.mem (pd + j) = s.byteAt (src j) 0)
              ∧ (∀ a, (a < pd ∨ pd + n ≤ a) → Memory.get t.dev.mem a = Memory.get d.mem a)
              ∧ t.lc.chans[h.toNat] = (if ch.wp.toNat + n = c.total
                then { ch with cmds := r, done := ch.done + 1, wp := 0, pos := 0 }
                else { ch with wp := ch.wp + BitVec.ofNat 32 n })
              ∧ { t.lc with chans := s.lc.chans, pcval := s.lc.pcval, async := s.lc.async } = s.lc
              ∧ t.part = s.part ∧ t.core = s.core))
    ∧ (d.contributions = [] → exec .xredContributionArrival s = .next s)
    ∧ (∀ (c : Contribution) (l : Lc), d.contributions = [c] → s.findLc c.part.who = some l →
      (l.chans[c.part.ch.toNat]).err = none → d.combines = [] →
      let only (t : State) : Prop := t.core = s.core ∧ t.part = s.part ∧ t.lc.s = s.lc.s ∧ t.lc.pc = s.lc.pc
      (d.stages = [] → 1 < c.key.count → ∃ t, exec .xredContributionArrival s = .next t
        ∧ t.dev.stages = [{ c.key with parts := [c.part] }] ∧ t.dev.contributions = []
        ∧ { t.dev with stages := d.stages, contributions := d.contributions } = d ∧ only t)
      ∧ ∀ e, d.stages = [e] → e.fn = c.key.fn → e.taskid = c.key.taskid → e.gid = c.key.gid → e.granule = g →
        c.key.granule = g →
        (e.count = c.key.count → e.t = c.key.t → e.parts.all (fun p => p.rank != c.part.rank) = true →
          e.parts.length + 1 = e.count → ∃ t, exec .xredContributionArrival s = .next t
            ∧ t.dev.stages = [] ∧ t.dev.contributions = [] ∧ only t
            ∧ granule t ((List.range e.count).foldl (fun v r =>
                match (e.parts ++ [c.part]).find? (fun p => p.rank == r) with
                | some q => redGranule e.t.ty v q.cover.toNat q.data.toNat
                | none => v) (Memory.read d.mem (64 * g) 64)))
        ∧ (e.count ≠ c.key.count ∨ e.t ≠ c.key.t ∨ (∃ p ∈ e.parts, p.rank = c.part.rank) →
          ∃ t, exec .xredContributionArrival s = .next t ∧ t.dev.stages = d.stages ∧ t.dev.mem = d.mem
            ∧ ∃ m ∈ t.allLcs, m.key = c.part.who ∧ (m.chans[c.part.ch.toNat]).err = some (.reductionGroupInvalid, 0)))

/-- R61, R215, R216, R218, R222, R226 to R228, R231: at an admission point, and only there, a stack gives units to no
more commands than the limit of active units leaves room for, and leaves every command what it is; a probe of a wave
gives it its frames, or holds its fault at the LC; a row step applies the operation to the row's line, or folds it
into Y, and a written BNKLIM arrives with it; a yielded unit resumes; a sub-wave frees its units when all of them have
run, and the last one ends the wave, with an uncorrectable input then left for the LC; a BKOP waits while a slot it
names opens, and writes its line whole; an RLOPEN takes a free slot and writes the handle, the slot becomes Pinned, or
is released at once when nothing holds it any more, an RLREL releases it and its generation rises, and it becomes
Free. Events come from the agenda: log 3; yielding is log 22, when units become free log 97. -/
def Obligations.BankEvents : Prop :=
  ∀ (stack unit : Nat) (s : State), s.MemOk →
    let d := s.dev
    let onlySeqs (t : State) : Prop := { t with dev := { t.dev with seqs := d.seqs } } = s
    let lineIs (t : State) (l : Line) (which : List Nat) (v : Nat) : Prop :=
      (∀ g ∈ which, Memory.read t.dev.mem (lineAddr l (64 * g)) 64 = v / 2 ^ (512 * g) % 2 ^ 512)
        ∧ ∀ a, (∀ g ∈ which, a < lineAddr l (64 * g) ∨ lineAddr l (64 * g) + 64 ≤ a) →
          Memory.get t.dev.mem a = Memory.get d.mem a
    let gone (t : State) (c : SeqCmd) (tval : Dword) (bad : Bool) : Prop :=
      (∀ x ∈ t.dev.seqs, x.no ≠ c.no) ∧ (∀ x ∈ d.seqs, x.no ≠ c.no → x ∈ t.dev.seqs)
        ∧ (bad = false → t.lc = s.lc ∧ t.lcs = s.lcs)
        ∧ ∀ l, bad = true → s.findLc c.who = some l → ∃ m ∈ t.allLcs, m.key = c.who ∧ m.bankErr = l.bankErr ++ [tval]
    (stack ∉ d.admits → exec (.bankAdmission stack) s = .next s)
    ∧ (stack ∈ d.admits → ∃ t, exec (.bankAdmission stack) s = .next t
      ∧ { t with dev := { t.dev with seqs := d.seqs, admits := d.admits } } = s
      ∧ t.dev.admits = d.admits.filter (fun k => k != stack)
      ∧ t.dev.seqs.map (fun x => { x with todo := [], runs := [] })
        = d.seqs.map (fun (x : SeqCmd) => { x with todo := [], runs := [] })
      ∧ (t.dev.busyUnits stack).length ≤ max (d.busyUnits stack).length (d.stack stack).unitLimit
      ∧ (∀ k, k ≠ stack → t.dev.busyUnits k = d.busyUnits k)
      ∧ ∀ (c : SeqCmd) (r : List SeqCmd) (o : BkOp) (w : Bool) (dst : Line) (a : BitVec 32) (off : Nat) (dh sh : BitVec 32),
        d.seqs = c :: r → c.cmd.kind = .op o w dst none a off dh sh → dst.stack = stack → c.runs = [] →
        dst.unit ∉ d.busyUnits stack → (d.busyUnits stack).length < (d.stack stack).unitLimit →
        t.dev.seqs.head? = some { c with runs := [UnitRun.start stack 0 dst.unit] })
    ∧ ((∀ c ∈ d.seqs, c.cmd.kind.isWave = true → c.probed = true) → exec .waveProbe s = .next s)
    ∧ (∀ (c : SeqCmd) (r : List SeqCmd) (w : WaveDesc) (l : Lc), d.seqs = c :: r → c.cmd.kind = .wave w → c.probed = false →
      s.findLc c.who = some l → l.breport = none → (∀ x ∈ r, x.no ≠ c.no) →
      let at_ := ((d.waveStacks w c.cmd.env c.cmd.super).head?).getD 0
      let sp : Space := d.baseDie at_ c.cmd.env.ptbase c.cmd.env.asid c.cmd.super
      (∀ fs, w.scalars = 0 → d.rowProbes sp w.probes = (d, .ok fs) → w.offends fs = none →
        ∃ t c1, exec .waveProbe s = .next t ∧ { t with dev := { t.dev with seqs := d.seqs, admits := d.admits } } = s
          ∧ t.dev.admits = List.range 12 ∧ t.dev.seqs = c1 :: r ∧ c1.probed = true
          ∧ c1.frames = fs.map (fun f => f.getD 0) ∧ c1.alphas = List.replicate (w.count + 1) w.scalar
          ∧ c1.cmd = c.cmd ∧ c1.who = c.who ∧ c1.runs = c.runs ∧ c1.todo = c1.units w)
      ∧ ∀ k va, d.rowProbes sp w.probes = (d, .error (k, va)) → ∃ t, exec .waveProbe s = .next t ∧ t.dev = d
        ∧ ∃ m ∈ t.allLcs, m.key = c.who ∧ ∃ q, m.breport = some q ∧ q.cause = k ∧ q.tval = va ∧ q.pc = c.cmd.pc
          ∧ q.insn = c.cmd.word)
    ∧ (d.runOn stack unit = none → exec (.waveRowStep stack unit) s = .next s ∧ exec (.waveResume stack unit) s = .next s
      ∧ exec (.subwaveComplete stack unit) s = .next s ∧ exec (.bkopComplete stack unit) s = .next s)
    ∧ (∀ (c : SeqCmd) (r : UnitRun), d.runOn stack unit = some (c, r) → (d.seqs.map (·.no)).Nodup →
      (∀ (w : WaveDesc) (pb : Nat × Nat), c.cmd.kind = .wave w → (c.unitBanks w stack unit)[r.bank]? = some pb →
        exec (.subwaveComplete stack unit) s = .next s
        ∧ (r.yielded = true → exec (.waveRowStep stack unit) s = .next s)
        ∧ (r.yielded = false → ∃ t, exec (.waveRowStep stack unit) s = .next t
          ∧ (let x := waveLine (c.frames.getD ((w.npage + 1) * r.k + pb.1) 0) pb.2
            let y := waveLine (c.operandFrame w pb.1) pb.2
            let a := ((c.alphas[r.k]?).getD w.scalar).toNat
            let fold := (bankLine w.op w.w true a (if r.k = 0 then d.readLine y else r.ybuf.toNat) (d.readLine x) 0 0).1
            let plain := (bankLine w.op w.w false a (d.readLine x) (if w.usesL then d.readLine y else 0) 0 0).1
            d.combines = [] → (w.acc = true → r.k ≠ w.count → t.dev.mem = d.mem)
            ∧ (w.acc = true → r.k = w.count → lineIs t y (bankWrites w.op) fold)
            ∧ (w.acc = false → lineIs t x (bankWrites w.op) plain))
          ∧ (t.dev.stack stack).limit = d.mgmt.bnklim ∧ t.lc = s.lc ∧ t.core = s.core ∧ t.part = s.part))
      ∧ (∃ t, exec (.waveResume stack unit) s = .next t ∧ onlySeqs t
        ∧ ∃ x ∈ t.dev.seqs, x.no = c.no ∧ { r with yielded := false } ∈ x.runs)
      ∧ (∀ w : WaveDesc, c.cmd.kind = .wave w →
        let mine (x : UnitRun) : Prop := x.stack = stack ∧ x.sub = r.sub
        let left := c.runs.filter (fun x => !(x.stack == stack && x.sub == r.sub))
        ((∃ x ∈ c.runs, mine x ∧ x.bank < (c.unitBanks w x.stack x.unit).length) →
          exec (.subwaveComplete stack unit) s = .next s)
        ∧ ((∀ x ∈ c.runs, mine x → (c.unitBanks w x.stack x.unit).length ≤ x.bank) →
          ∃ t, exec (.subwaveComplete stack unit) s = .next t ∧ t.dev.mem = d.mem ∧ stack ∈ t.dev.admits
            ∧ (left = [] → c.todo = [] → gone t c w.at_ c.bad)
            ∧ (left ≠ [] ∨ c.todo ≠ [] → { c with runs := left } ∈ t.dev.seqs
              ∧ { t with dev := { t.dev with seqs := d.seqs, admits := d.admits } } = s)))
      ∧ (∀ (o : BkOp) (w : Bool) (dst : Line) (src : Option Line) (a : BitVec 32) (off : Nat) (dh sh : BitVec 32),
        c.cmd.kind = .op o w dst src a off dh sh →
        ((∃ l ∈ dst :: src.toList, (d.slotOf l).st = .opening) → exec (.bkopComplete stack unit) s = .next s)
        ∧ ((∀ l ∈ dst :: src.toList, (d.slotOf l).st ≠ .opening) → d.combines = [] → ∃ t bad, exec (.bkopComplete stack unit) s = .next t ∧ gone t c (dh.setWidth 64) bad
          ∧ (o ≠ .fadd → lineIs t dst (bankWrites o)
            (bankLine o w false a.toNat (d.readLine dst) ((src.map d.readLine).getD 0) 0 0).1)
          ∧ (o = .fadd → off % 4 = 0 → off < 1024 → Memory.read t.dev.mem (lineAddr dst off) 4
              = (Fmt.f32.add 0 (Memory.read d.mem (lineAddr dst off) 4) a.toNat).1 % 2 ^ 32
            ∧ ∀ b, (b < lineAddr dst off ∨ lineAddr dst off + 4 ≤ b) → Memory.get t.dev.mem b = Memory.get d.mem b)
          ∧ (bad = true → d.memError ≠ []) ∧ stack ∈ t.dev.admits)))
    ∧ ((∀ c ∈ d.seqs, ∀ h l ro, c.cmd.kind = .open h l ro → (d.slotOf l).st ≠ .free) → exec .rowPinGrant s = .next s)
    ∧ (∀ (c : SeqCmd) (r : List SeqCmd) (h : SReg) (l : Line) (ro : Bool), d.seqs = c :: r → c.cmd.kind = .open h l ro →
      (d.slotOf l).st = .free → c.who = s.lc.key → s.lc.status ≠ .absent → d.combines = [] →
      ∃ t, exec .rowPinGrant s = .next t ∧ (t.dev.slotOf l).st = .opening ∧ (t.dev.slotOf l).row = l.row
        ∧ (t.dev.slotOf l).holder = some s.lc.key ∧ (t.dev.slotOf l).gen = (d.slotOf l).gen
        ∧ t.Holds h ((handleWord l ro (d.slotOf l).gen.toNat).setWidth 64) ∧ s.SameRegsBut t h
        ∧ (∀ e ∈ s.lc.handles, e.line = l → e.granted = false →
          { e with handle := handleWord l ro (d.slotOf l).gen.toNat, granted := true } ∈ t.lc.handles)
        ∧ (∀ x ∈ t.dev.seqs, x.no ≠ c.no) ∧ t.dev.mem = d.mem)
    ∧ (∀ l : Line, l.row / 8192 < 4 →
      let x := d.slotOf l
      let slot := rowSlot l.row
      (x.st ≠ .opening → exec (.pinOpened l.stack l.chan l.bank slot) s = .next s)
      ∧ (x.st = .opening → d.combines = [] → ∃ t, exec (.pinOpened l.stack l.chan l.bank slot) s = .next t
        ∧ t.dev.slotOf l = (if x.holder = none then { x with st := .released, gen := x.gen + 1 } else { x with st := .pinned })
        ∧ { t with dev := { t.dev with slots := d.slots } } = s)
      ∧ (x.st ≠ .released → exec (.slotFreed l.stack l.chan l.bank slot) s = .next s)
      ∧ (x.st = .released → ∃ t, exec (.slotFreed l.stack l.chan l.bank slot) s = .next t
        ∧ (t.dev.slotOf l).st = .free ∧ (t.dev.slotOf l).gen = x.gen ∧ t.dev.mem = d.mem ∧ t.lc = s.lc)
      ∧ ∀ (c : SeqCmd) (r : List SeqCmd) (hd : BitVec 32), d.seqs = c :: r → c.cmd.kind = .release hd l → x.st ≠ .opening →
        ∃ t, exec (.pinReleased l.stack l.chan l.bank slot) s = .next t ∧ (t.dev.slotOf l).st = .released
          ∧ (t.dev.slotOf l).gen = x.gen + 1 ∧ (t.dev.slotOf l).holder = none ∧ t.dev.mem = d.mem ∧ t.lc = s.lc
          ∧ (∀ y ∈ t.dev.seqs, y.no ≠ c.no))

/-! ### Streams, arbitration and scheduling -/

/-- R55, R56: in one core cycle the arbiter of the lane groups gives the issuable heads that have element groups left
min(8, what they have left) slots, to none more than it has left; a head that got none ages by the slots that were
given, one that got some has age 0. The cycle is an event of the agenda: log 3. -/
def Obligations.LaneSlots : Prop :=
  ∀ l : List Contender, (l.map (·.part)).Nodup → l.length ≤ 8 → (∀ c ∈ l, 0 < c.rem) →
    let r := arbitrate l
    let left := (l.map (·.rem)).sum
    r.map (·.part) = l.map (·.part) ∧ (r.map (·.got)).sum = min 8 left
      ∧ ∀ (i : Nat) (c x : Contender), l[i]? = some c → r[i]? = some x →
        x.rem + x.got = c.rem ∧ x.w = c.w ∧ x.age = (if x.got = 0 then c.age + min 8 left else 0)

/-- R55 to R60, R200, R207, R208, R245, R270, R275: the lane groups take up to 8 of the element groups left of the only
ready head, which leaves the queue with its last one, and partitions with none lose their credit and age; a matrix band
done counts, and the last one empties the slot; the fault of the head of V, or of K, is reported, and without one
nothing is; the context executes the instruction its queue offers when the round of its SVU comes to it; the oldest
bind that waits takes the lowest free context; a stream generates the next address; a lost binding leaves the LC
without context and with REMOTE_STACK_UNREACHABLE to be raised. Events come from the agenda: log 3; lost bindings are
log 66, slots log 83. -/
def Obligations.StreamEvents : Prop :=
  ∀ s : State, s.Focused →
    let others (P : Part → Prop) : Prop := ∀ n, n < 8 → n ≠ s.part.no → P (s.findPart s.core.no n)
    (others (fun p => p.vqueue = [] ∧ p.mslot = none) → s.part.mslot = none →
      (s.part.vqueue = [] → ∃ t, exec .laneArbitration s = .next t ∧ t.lc = s.lc ∧ t.core = s.core ∧ t.dev = s.dev
        ∧ t.part = { s.part with credit := 0, age := 0 })
      ∧ (∀ e, s.headReady = some e → s.part.done = true → 0 < s.remOf e → ∃ t, exec .laneArbitration s = .next t
        ∧ { t.lc with pcval := s.lc.pcval, async := s.lc.async } = s.lc ∧ t.core = s.core ∧ t.dev = s.dev
        ∧ { t.part with credit := s.part.credit } = (if 8 < s.remOf e then
            { s.part with rem := some (s.remOf e - 8), age := 0 }
          else { s.part with vqueue := s.part.vqueue.tail, rem := none, done := false, age := 0 }))
      ∧ exec .matrixBandComplete s = .next s)
    ∧ (∃ t, exec .firstBandStart s = .next t ∧ { t with part := { t.part with mslot := s.part.mslot } } = s
      ∧ t.part.mslot = s.part.mslot.map (fun m => { m with started := true }))
    ∧ (∀ (m : MSlot) (o : MatOp) (u : State), others (fun p => p.mslot = none) → s.part.mslot = some m →
      m.started = true → m.entry.mat = some o → m.band < m.entry.bands o → s.runBand m.entry o m.band = .ok u →
      ∃ t, exec .matrixBandComplete s = .next t ∧ t.core = u.core ∧ t.dev = s.dev ∧ t.lc.s = s.lc.s
        ∧ t.part.mslot = (if m.band + 1 = m.entry.bands o then none else some { m with band := m.band + 1 })
        ∧ { t.part with mslot := s.part.mslot, bcredit := s.part.bcredit } = s.part)
    ∧ (∀ (e : VEntry) (r : List VEntry), s.part.mslot = none → s.vStopped = false → s.part.vqueue = e :: r →
      s.headWaits e = false → e.mat = none → s.owns = true → s.part.done = false → e.restart = none →
      (e.stepwise = false ∨ s.remOf e ≤ 1) →
      (∀ u q, s.runEntry e = .error (.fault u q) → u.part.vqueue = e :: r →
        ∃ t, exec .streamTrapReport s = .next t ∧ t.lc.vreport = some q ∧ t.part.vqueue = r
          ∧ t.lc.vstalled = some { e with restart := none, rm := none }
          ∧ t.lc.pc = u.lc.pc ∧ t.lc.s = u.lc.s ∧ t.core = u.core ∧ t.dev = u.dev)
      ∧ (∀ u, s.runEntry e = .ok u → exec .streamTrapReport s = .next s))
    ∧ (s.part.vqueue = [] → s.part.mslot = none → exec .streamTrapReport s = .next s)
    ∧ (s.lc.ctx = none → exec .stackContextExecute s = .next s ∧ exec .deferredTrapReport s = .next s
      ∧ exec .bindingLost s = .next s ∧ ∀ j, exec (.addressStreamGenerate j) s = .next s)
    ∧ (∀ (c : StackCtx) (e : VEntry) (r : List VEntry), s.lc.ctx = some c → c.stalled = none → s.lc.kreport = none →
      (c.levels = [] → c.buf = [] → c.pos = 0 → s.lc.kqueue = e :: r → e.barrier = none → e.abandons = false →
        (e.op = .skloop → ∃ t, exec .stackContextExecute s = .next t ∧ t.lc.kqueue = r
          ∧ t.lc.ctx = some { c with levels := [⟨field e.x 0 32, 0, 0⟩] }
          ∧ { t with lc := { t.lc with kqueue := s.lc.kqueue, ctx := s.lc.ctx } } = s)
        ∧ (e.op ≠ .skloop → e.op ≠ .skend → ∀ v, s.dev.ctxUses.find? (fun x => x.owner == s.lc.key) = some v →
          (s.ctxTurn v = true →
            (∀ u, s.runEntry e = .ok u → u.lc.kreport = none → exec .deferredTrapReport s = .next s
              ∧ exec .stackContextExecute s = .next { u with lc := { u.lc with kqueue := r }, dev := u.dev.serve v })
            ∧ ∀ u q x, s.runEntry e = .error (.fault u q) → u.lc.ctx = some x → exec .stackContextExecute s = .next s
              ∧ ∃ t, exec .deferredTrapReport s = .next t ∧ t.lc.kreport = some q ∧ t.lc.kqueue = r
                ∧ t.lc.ctx = some { x with stalled := some e } ∧ t.part = u.part ∧ t.dev = u.dev.serve v
                ∧ t.lc.s = u.lc.s)
          ∧ (s.ctxTurn v = false → s.kstep.isSome = true →
            exec .stackContextExecute s = .next s ∧ exec .deferredTrapReport s = .next s)))
      ∧ ∀ (j : BitVec 2) (a : AStream), c.streams[j.toNat] = some a →
        (a.count ≤ a.next ∨ 64 ≤ (c.sq[j.toNat]).length → exec (.addressStreamGenerate j) s = .next s)
        ∧ (a.next < a.count → (c.sq[j.toNat]).length < 64 → a.indexed = false →
          ∃ t x, exec (.addressStreamGenerate j) s = .next t ∧ t.lc.ctx = some x
            ∧ (∃ y, x.sq[j.toNat] = c.sq[j.toNat] ++ [y]
              ∧ y.addr = a.base + BitVec.ofNat 64 a.next * a.step + a.addend)
            ∧ x.streams[j.toNat] = some { a with next := a.next + 1 } ∧ x.w = c.w ∧ t.lc.s = s.lc.s ∧ t.part = s.part))
    ∧ (s.lc.ctx ≠ none → ∃ t q, exec .bindingLost s = .next t ∧ t.lc.ctx = none ∧ t.lc.kqueue = []
      ∧ t.lc.loops = [] ∧ t.lc.saff = 0 ∧ t.lc.kreport = some q ∧ q.cause = .remoteStackUnreachable
      ∧ q.tval = 0 ∧ q.deferred = true ∧ (∀ u ∈ t.dev.ctxUses, u.owner ≠ s.lc.key)
      ∧ t.lc.s = s.lc.s ∧ t.part = s.part ∧ t.dev.mem = s.dev.mem)
    ∧ (∀ stack svu,
      ((∀ u ∈ s.dev.ctxUses, ¬(u.stack = stack ∧ u.svu = svu)) → ∃ t, exec (.stackUnitFail stack svu) s = .next t
        ∧ { s with dev := { s.dev with mgmt := { s.dev.mgmt with log := s.dev.mgmt.log ++ [.stackUnitFail] } } } = t)
      ∧ (s.lc.ctx ≠ none → (∀ u ∈ s.dev.ctxUses, u.stack = stack → u.svu = svu → u.owner = s.lc.key) →
        (∃ u ∈ s.dev.ctxUses, u.stack = stack ∧ u.svu = svu) → ∃ t, exec (.stackUnitFail stack svu) s = .next t
          ∧ t.lc.ctx = none ∧ (∃ q, t.lc.kreport = some q ∧ q.cause = .remoteStackUnreachable ∧ q.tval = 0)
          ∧ t.lc.s = s.lc.s ∧ t.dev.mgmt.log = s.dev.mgmt.log ++ [.stackUnitFail])
      ∧ ((∀ b ∈ s.dev.binds, b.stack = stack → b.svu = svu → b.granted ≠ none) →
        exec (.contextGrant stack svu) s = .next s)
      ∧ ∀ b n, s.dev.binds.find? (fun x => x.stack == stack && x.svu == svu && x.granted.isNone) = some b → n < 32 →
        (∀ u ∈ s.dev.ctxUses, u.stack = stack → u.svu = svu → u.ctx ≠ n) →
        (∀ k, k < n → ∃ u ∈ s.dev.ctxUses, u.stack = stack ∧ u.svu = svu ∧ u.ctx = k) →
        ∃ t, exec (.contextGrant stack svu) s = .next t ∧ t.dev.ctxUses = s.dev.ctxUses ++ [⟨stack, svu, n, b.who⟩]
          ∧ { b with granted := some n } ∈ t.dev.binds ∧ (∀ x ∈ s.dev.binds, x ≠ b → x ∈ t.dev.binds)
          ∧ { t with dev := { t.dev with ctxUses := s.dev.ctxUses, binds := s.dev.binds } } = s)

/-- R35, R52, R53, R63 to R68, R83, R185, R248, R268, R270, R271: a slice that has run out makes SLICE_EXPIRED due
when an LC of a ready task can use the core, and begins again either way; so does the watchdog without that condition;
PREEMPT_REQUEST falls due once, at the resident LC of lowest priority, when a task of a higher one finds no free
partition; a counter at its end starts over and makes COUNTER_OVERFLOW due where asked; at the boundary a pending
stream report is taken before a due cause, and at supervisor level no cause is; an LC that has waited long enough
yields its partition; a free partition takes the first task's next LC; a write wakes the MWAIT it reached. Events come
from the agenda: log 3; offers are log 64, the order of placement log 52. -/
def Obligations.SchedulingEvents : Prop :=
  ∀ s : State, s.Focused →
    let slice := field s.core.preempt 0 24
    let dog := field s.core.preempt 40 16
    (slice = 0 ∨ s.lc.slice < slice * 1024 → exec .sliceExpired s = .next s)
    ∧ (slice ≠ 0 → slice * 1024 ≤ s.lc.slice → ∃ t, exec .sliceExpired s = .next t ∧ t.lc.slice = 0
      ∧ (s.firstTask s.core.no = none → t.lc.async = s.lc.async)
      ∧ (s.firstTask s.core.no ≠ none → (Cause.sliceExpired, (0 : Dword)) ∈ t.lc.async
        ∧ ∀ x, x ∈ t.lc.async ↔ x ∈ s.lc.async ∨ x = (.sliceExpired, 0))
      ∧ { t with lc := { t.lc with slice := s.lc.slice, async := s.lc.async } } = s)
    ∧ (dog = 0 ∨ s.lc.wdog < dog * 65536 → exec .progressWatchdog s = .next s)
    ∧ (dog ≠ 0 → dog * 65536 ≤ s.lc.wdog → ∃ t, exec .progressWatchdog s = .next t ∧ t.lc.wdog = 0
      ∧ (∀ x, x ∈ t.lc.async ↔ x ∈ s.lc.async ∨ x = (.progressWatchdog, 0))
      ∧ { t with lc := { t.lc with wdog := s.lc.wdog, async := s.lc.async } } = s)
    ∧ (s.core.preempt.getLsbD 63 = false → s.core.preReq = none → exec .preemptRequest s = .next s)
    ∧ (∀ u p l, s.core.preempt.getLsbD 63 = true → s.core.preReq = none →
      (∀ n, n < 8 → s.residentOn s.core.no n ≠ none) → s.firstTask s.core.no = some (u, p) →
      s.lowest s.core.no = some l → s.prioOf l < u.prio → ∃ t, exec .preemptRequest s = .next t
        ∧ t.core.preReq = some l.key ∧ (∃ m ∈ t.allLcs, m.key = l.key ∧ (Cause.preemptRequest, (0 : Dword)) ∈ m.async)
        ∧ t.dev = s.dev ∧ t.part = s.part ∧ t.lc.s = s.lc.s ∧ t.lc.pc = s.lc.pc)
    ∧ (∀ n : BitVec 3,
      let sel := s.lc.pcsel[n.toNat]
      (sel.getLsbD 16 = false ∨ s.lc.pcval[n.toNat] ≠ BitVec.allOnes 48 → exec (.counterOverflow n) s = .next s)
      ∧ (sel.getLsbD 16 = true → s.lc.pcval[n.toNat] = BitVec.allOnes 48 →
        ∃ t, exec (.counterOverflow n) s = .next t ∧ t.lc.pcval[n.toNat] = 0
          ∧ (∀ k : Fin 8, k.val ≠ n.toNat → t.lc.pcval[k] = s.lc.pcval[k])
          ∧ (sel.getLsbD 17 = false → t.lc.async = s.lc.async)
          ∧ (sel.getLsbD 17 = true → ∀ x, x ∈ t.lc.async ↔ x ∈ s.lc.async ∨ x = (.counterOverflow, n.setWidth 64))
          ∧ { t with lc := { t.lc with pcval := s.lc.pcval, async := s.lc.async } } = s))
    ∧ (s.lc.vreport = none → s.lc.kreport = none →
      (s.super = true ∨ s.lc.async = [] → exec .trapDelivery s = .next s)
      ∧ ∀ c v, s.super = false → s.lc.async = [(c, v)] → c ∈ asyncOrder → s.lc.nextsAnswer = none → s.spawning = false →
        (c = .counterOverflow ∨ s.lc.trap.smode = 0) → s.SuperTakes c → ∃ t, exec .trapDelivery s = .next t
          ∧ t.lc.async = [] ∧ t.lc.trap.scause = BitVec.ofNat 8 c.code ∧ t.lc.trap.stval = v
          ∧ t.lc.trap.sepc = s.lc.pc &&& ~~~3#57 ∧ t.lc.trap.sinsn = 0 ∧ t.lc.trap.level = true
          ∧ t.lc.pc = s.core.stvec ∧ t.lc.s = s.lc.s)
    ∧ (∀ r, s.lc.vreport = some r → s.lc.kreport = none → s.lc.nextsAnswer = none → s.spawning = false →
      s.SuperTakes r.cause → r.deferred = false → ∃ t, exec .trapDelivery s = .next t ∧ t.lc.vreport = none
        ∧ t.lc.trap.scause = BitVec.ofNat 8 r.cause.code ∧ t.lc.trap.stval = r.tval
        ∧ t.lc.trap.sepc = r.pc.setWidth 57 &&& ~~~3#57 ∧ t.lc.trap.sinsn = r.insn ∧ t.lc.trap.sdrpcV = true
        ∧ t.lc.trap.sdrpcPc = s.lc.pc &&& ~~~3#57 ∧ t.lc.pc = s.core.stvec
        ∧ t.lc.async = s.lc.async ∧ t.lc.s = s.lc.s)
    ∧ (s.lc.waited = 0 ∨ s.othersRunnable = false ∨ s.lc.waited ≤ s.core.yieldAfter → exec .lcYield s = .next s)
    ∧ (∀ (f : State) (u : Task) (a : SReg) (loc : Nat → Nat), s.MemOk → s.lc.waited ≠ 0 → s.othersRunnable = true →
      s.core.yieldAfter < s.lc.waited → s.fetch = .ok f → decode f.ir = .ok (.waiti a) → s.task = some u →
      u.scc = false → s.AreaAt .store (u.saveArea s.lc.key.lcid) 256 loc → ∃ t, exec .lcYield s = .next t
        ∧ t.lc.status = .yielded ∧ t.lc.key = s.lc.key ∧ t.lc.wait = .iteration (s.getS a).toNat ∧ t.part.vqueue = []
        ∧ t.lc.vheld = ⟨s.lc.vstalled, (s.part.mslot.map (fun (m : MSlot) =>
              { m.entry with restart := some (BitVec.ofNat 16 m.band, 0) })).toList
            ++ (if s.part.done then s.part.vqueue.tail else s.part.vqueue)⟩ :: s.lc.vheld
        ∧ s.SavedRegs t loc ∧ s.KeptButArea t 256 loc)
    ∧ (∀ core part, 64 ≤ core ∨ 8 ≤ part ∨ s.residentOn core part ≠ none → exec (.partitionOffer core part) s = .next s)
    ∧ (∀ core part (u : Task), core < 64 → s.residentOn core part = none → part < 8 →
      (∀ n, n < part → s.residentOn core n ≠ none) → s.firstTask core = some (u, .start) → u.gangWaits = false →
      s.spread u .start = some (core, part) → ∃ t, exec (.partitionOffer core part) s = .next t
        ∧ t.lc.key = ⟨u.seq, u.started⟩ ∧ t.lc.status = .resident ∧ t.lc.core = core ∧ t.lc.partNo = part
        ∧ t.lc.pc = u.entry.setWidth 57 ∧ t.lc.erem = BitVec.ofNat 64 u.elements ∧ t.lc.strip = BitVec.allOnes 64
        ∧ t.lc.taskid = u.id ∧ t.lc.ptbase = u.ptbase ∧ t.lc.asid = u.asid ∧ t.getS 0 = 0
        ∧ (∀ (r : SReg) (x : Dword), 1 ≤ r.toNat → u.args[r.toNat - 1]? = some x → t.getS r = x)
        ∧ (∀ r : SReg, u.args.length < r.toNat → t.getS r = 0)
        ∧ (∀ l ∈ s.allLcs, l ∈ t.allLcs) ∧ t.dev.mem = s.dev.mem
        ∧ ∀ w, t.dev.task u.seq = some w → s.dev.task u.seq = some u → w = { u with started := u.started + 1 })
    ∧ ((∀ m ∈ s.dev.monitors, m.who = s.lc.key → m.got = none) → exec .monitorWake s = .next s)
    ∧ ∀ (f : State) (d a b : SReg) (l : Loc) (m : Monitor) (v : Woken), s.fetch = .ok f →
      decode f.ir = .ok (.mwait d a b) → f.Readable a → f.Readable b → f.Writable d → inWindow (f.getS a) = false →
      f.Reaches .load false true (f.getS a) 8 l → l.monitored = some m.pa → v.bad = false → v.poison = false →
      f.dev.monitors.find? (fun x => x.who == s.lc.key) = some m → m.got = some v →
      ∃ t, exec .monitorWake s = .next t
        ∧ State.Wrote { f with dev := { f.dev with monitors := f.dev.monitors.filter (fun x => x.who != s.lc.key) } } t d v.value
end

