-- ==== Sys2Proof/Laws/Codec.lean ====
section
/-! SUPPORT. Laws/Codec.lean: laws of the decoder and the encoder: fields and bits of the layouts of R88, the major
opcode's arm of the decoder, an accepted word, and the codes of R85, R91, R97, R100, R223 and R331. -/

namespace Sys2Proof

/-! ### Fields and bits of appended fields -/

@[simp] theorem fld_append_hi {m k : Nat} (x : BitVec m) (y : BitVec k) (lo n : Nat) (h : k ≤ lo) :
    (x ++ y).extractLsb' lo n = x.extractLsb' (lo - k) n := BitVec.extractLsb'_append_eq_of_le h

@[simp] theorem fld_append_lo {m k : Nat} (x : BitVec m) (y : BitVec k) (lo n : Nat) (h : lo + n ≤ k) :
    (x ++ y).extractLsb' lo n = y.extractLsb' lo n := BitVec.extractLsb'_append_eq_of_add_le h

@[simp] theorem bit_append_hi {m k : Nat} (x : BitVec m) (y : BitVec k) (i : Nat) (h : k ≤ i) :
    (x ++ y).getLsbD i = x.getLsbD (i - k) := by
  rw [BitVec.getLsbD_append, if_neg (by omega)]

@[simp] theorem bit_append_lo {m k : Nat} (x : BitVec m) (y : BitVec k) (i : Nat) (h : i < k) :
    (x ++ y).getLsbD i = y.getLsbD i := by
  rw [BitVec.getLsbD_append, if_pos h]

@[simp] theorem bit_bit1 (b : Bool) : (bit1 b).getLsbD 0 = b := by cases b <;> rfl

/-! ### An accepted word -/

/-- A word with no reserved bit set and no reserved value is the instruction (step 3 of R103). -/
theorem accept_ok {w res : IWord} {bad : List Nat} (i : Instr) (h : w &&& res = 0) (hb : bad = []) :
    accept w res bad i = .ok i := by
  unfold accept; rw [h, hb]; rfl

/-- The bits [lo + n - 1 : lo]. -/
def run (r : Nat × Nat) : IWord := (BitVec.allOnes r.2).setWidth 32 <<< r.1

theorem and_run (w : IWord) (lo n : Nat) (h : w.extractLsb' lo n = 0) : w &&& run (lo, n) = 0 := by
  apply BitVec.eq_of_getLsbD_eq
  intro i hi
  have hb := congrArg (fun x => x.getLsbD (i - lo)) h
  simp only [BitVec.getLsbD_extractLsb'] at hb
  simp only [run, BitVec.getLsbD_and, BitVec.getLsbD_shiftLeft, BitVec.getLsbD_setWidth, BitVec.getLsbD_allOnes]
  by_cases h1 : i < lo
  · simp [h1]
  · rw [show lo + (i - lo) = i by omega] at hb
    by_cases h2 : i - lo < n
    · simp only [h2, decide_true, Bool.true_and] at hb
      simp [hb]
    · simp [h2]

/-- A word whose reserved fields are zero, and that has no reserved value, is accepted. -/
theorem accept_runs' {w res : IWord} {bad : List Nat} (i : Instr) (rs : List (Nat × Nat))
    (he : res = rs.foldr (fun r m => run r ||| m) 0) (hb : bad = [])
    (hz : ∀ r ∈ rs, w.extractLsb' r.1 r.2 = 0) : accept w res bad i = .ok i := by
  refine accept_ok i ?_ hb
  subst he
  induction rs with
  | nil => exact BitVec.and_zero
  | cons r rs ih =>
    have h1 := and_run w r.1 r.2 (hz r (by simp))
    have h2 := ih (fun x hx => hz x (by simp [hx]))
    simp only [List.foldr_cons]
    apply BitVec.eq_of_getLsbD_eq
    intro j hj
    have e1 := congrArg (fun x => x.getLsbD j) h1
    have e2 := congrArg (fun x => x.getLsbD j) h2
    simp only [BitVec.getLsbD_and] at e1 e2
    simp only [BitVec.getLsbD_and, BitVec.getLsbD_or, Bool.and_or_distrib_left, e1, e2, Bool.or_self]

/-- A word whose reserved fields are zero is accepted: `rs` lists them by their lowest bit and width. -/
theorem accept_runs {w res : IWord} (i : Instr) (rs : List (Nat × Nat)) (he : res = rs.foldr (fun r m => run r ||| m) 0)
    (hz : ∀ r ∈ rs, w.extractLsb' r.1 r.2 = 0) : accept w res [] i = .ok i :=
  accept_runs' i rs he rfl hz

/-- A reserved value that does not hold is not reported. -/
theorem badAt_nil {c : Bool} {n : Nat} (h : c = false) : badAt c n = [] := by rw [h]; rfl

/-! ### Codes -/

@[simp] theorem ty_roundTrip (t : Ty) : Ty.ofCode t.code = t := by cases t <;> rfl
@[simp] theorem cmpPred_roundTrip (c : CmpPred) : CmpPred.ofCode c.code = c := by cases c <;> rfl
@[simp] theorem vamoOp_roundTrip (o : VamoOp) : VamoOp.ofCode o.code = o := by cases o <;> rfl
@[simp] theorem amoOp_roundTrip (o : AmoOp) : AmoOp.ofCode? o.code = some o := by cases o <;> rfl
@[simp] theorem bkOp_roundTrip (o : BkOp) : BkOp.ofCode o.code = o := by cases o <;> rfl
@[simp] theorem redTy_roundTrip (t : RedTy) : RedTy.ofCode t.code = t := by cases t <;> rfl

/-! ### The major opcode of each layout -/

theorem encS_major (m : BitVec 6) (d a b : SReg) (f : BitVec 8) :
    fld (encS m d a b f) 26 6 = m := by
  simp (disch := omega) only [encS, fld, fld_append_hi, Nat.reduceSub, BitVec.extractLsb'_eq_self]
theorem encSI_major (m : BitVec 6) (d a : SReg) (i : BitVec 14) :
    fld (encSI m d a i) 26 6 = m := by
  simp (disch := omega) only [encSI, fld, fld_append_hi, Nat.reduceSub, BitVec.extractLsb'_eq_self]
theorem encSU_major (m : BitVec 6) (d : SReg) (i : BitVec 20) :
    fld (encSU m d i) 26 6 = m := by
  simp (disch := omega) only [encSU, fld, fld_append_hi, Nat.reduceSub, BitVec.extractLsb'_eq_self]
theorem encSA_major (m : BitVec 6) (d a : SReg) (z c : BitVec 2) (b : SReg) (f : BitVec 4) :
    fld (encSA m d a z c b f) 26 6 = m := by
  simp (disch := omega) only [encSA, fld, fld_append_hi, Nat.reduceSub, BitVec.extractLsb'_eq_self]
theorem encV_major (m : BitVec 6) (p : Bool) (d a b : VReg) (t : BitVec 4) (f : BitVec 6) :
    fld (encV m p d a b t f) 26 6 = m := by
  simp (disch := omega) only [encV, fld, fld_append_hi, Nat.reduceSub, BitVec.extractLsb'_eq_self]
theorem encVS_major (m : BitVec 6) (p : Bool) (d a : VReg) (b : SReg) (t : BitVec 4) (f : BitVec 5) :
    fld (encVS m p d a b t f) 26 6 = m := by
  simp (disch := omega) only [encVS, fld, fld_append_hi, Nat.reduceSub, BitVec.extractLsb'_eq_self]
theorem encVM_major (m : BitVec 6) (p : Bool) (t : VReg) (a : SReg) (u : BitVec 3) (k o : Bool) (y : BitVec 4) (x : VReg) :
    fld (encVM m p t a u k o y x) 26 6 = m := by
  simp (disch := omega) only [encVM, fld, fld_append_hi, Nat.reduceSub, BitVec.extractLsb'_eq_self]
theorem encT_major (m : BitVec 6) (c : AccReg) (a b : TReg) (x y g f : BitVec 4) :
    fld (encT m c a b x y g f) 26 6 = m := by
  simp (disch := omega) only [encT, fld, fld_append_hi, Nat.reduceSub, BitVec.extractLsb'_eq_self]
theorem encX_major (m : BitVec 6) (d a b : SReg) (h : BitVec 2) (f : BitVec 6) :
    fld (encX m d a b h f) 26 6 = m := by
  simp (disch := omega) only [encX, fld, fld_append_hi, Nat.reduceSub, BitVec.extractLsb'_eq_self]
theorem encK_major (m : BitVec 6) (h a b : SReg) (w : Bool) (f : BitVec 7) :
    fld (encK m h a b w f) 26 6 = m := by
  simp (disch := omega) only [encK, fld, fld_append_hi, Nat.reduceSub, BitVec.extractLsb'_eq_self]

/-! ### The arm of each major opcode -/

section
set_option Elab.async false

theorem decode_01 {w : IWord} (h : fld w 26 6 = 0x01) :
    decode w = decInt w := by
  unfold decode; simp only [h]; rfl

theorem decode_02 {w : IWord} (h : fld w 26 6 = 0x02) :
    decode w = accept w 0 [] (.addi (fld w 20 6) (fld w 14 6) (fld w 0 14)) := by
  unfold decode; simp only [h]; rfl

theorem decode_03 {w : IWord} (h : fld w 26 6 = 0x03) :
    decode w = accept w 0 [] (.andi (fld w 20 6) (fld w 14 6) (fld w 0 14)) := by
  unfold decode; simp only [h]; rfl

theorem decode_04 {w : IWord} (h : fld w 26 6 = 0x04) :
    decode w = accept w 0 [] (.ori (fld w 20 6) (fld w 14 6) (fld w 0 14)) := by
  unfold decode; simp only [h]; rfl

theorem decode_05 {w : IWord} (h : fld w 26 6 = 0x05) :
    decode w = accept w 0 [] (.xori (fld w 20 6) (fld w 14 6) (fld w 0 14)) := by
  unfold decode; simp only [h]; rfl

theorem decode_06 {w : IWord} (h : fld w 26 6 = 0x06) :
    decode w = accept w 0 [] (.slti (fld w 20 6) (fld w 14 6) (fld w 0 14)) := by
  unfold decode; simp only [h]; rfl

theorem decode_07 {w : IWord} (h : fld w 26 6 = 0x07) :
    decode w = decShiftImm w := by
  unfold decode; simp only [h]; rfl

theorem decode_08 {w : IWord} (h : fld w 26 6 = 0x08) :
    decode w = accept w 0 [] (.lui (fld w 20 6) (fld w 0 20)) := by
  unfold decode; simp only [h]; rfl

theorem decode_09 {w : IWord} (h : fld w 26 6 = 0x09) :
    decode w = accept w 0 [] (.addpc (fld w 20 6) (fld w 0 20)) := by
  unfold decode; simp only [h]; rfl

theorem decode_0a {w : IWord} (h : fld w 26 6 = 0x0a) :
    decode w = accept w 0 (badAt (flag w 11 && (fld w 12 2) == 3) 11) (.ld (fld w 20 6) (fld w 14 6) (fld w 12 2) (flag w 11) (fld w 0 11)) := by
  unfold decode; simp only [h]; rfl

theorem decode_0b {w : IWord} (h : fld w 26 6 = 0x0b) :
    decode w = accept w 0x800 [] (.st (fld w 20 6) (fld w 14 6) (fld w 12 2) (fld w 0 11)) := by
  unfold decode; simp only [h]; rfl

theorem decode_0c {w : IWord} (h : fld w 26 6 = 0x0c) :
    decode w = accept w 0x3FF [] (.lda (fld w 20 6) (fld w 14 6) (fld w 12 2) (fld w 10 2)) := by
  unfold decode; simp only [h]; rfl

theorem decode_0d {w : IWord} (h : fld w 26 6 = 0x0d) :
    decode w = accept w 0x3FF [] (.stl (fld w 20 6) (fld w 14 6) (fld w 12 2) (fld w 10 2)) := by
  unfold decode; simp only [h]; rfl

theorem decode_0e {w : IWord} (h : fld w 26 6 = 0x0e) :
    decode w = decAmo w := by
  unfold decode; simp only [h]; rfl

theorem decode_10 {w : IWord} (h : fld w 26 6 = 0x10) :
    decode w = accept w 0 [] (.beq (fld w 20 6) (fld w 14 6) (fld w 0 14)) := by
  unfold decode; simp only [h]; rfl

theorem decode_11 {w : IWord} (h : fld w 26 6 = 0x11) :
    decode w = accept w 0 [] (.bne (fld w 20 6) (fld w 14 6) (fld w 0 14)) := by
  unfold decode; simp only [h]; rfl

theorem decode_12 {w : IWord} (h : fld w 26 6 = 0x12) :
    decode w = accept w 0 [] (.blt (fld w 20 6) (fld w 14 6) (fld w 0 14)) := by
  unfold decode; simp only [h]; rfl

theorem decode_13 {w : IWord} (h : fld w 26 6 = 0x13) :
    decode w = accept w 0 [] (.bge (fld w 20 6) (fld w 14 6) (fld w 0 14)) := by
  unfold decode; simp only [h]; rfl

theorem decode_14 {w : IWord} (h : fld w 26 6 = 0x14) :
    decode w = accept w 0 [] (.bltu (fld w 20 6) (fld w 14 6) (fld w 0 14)) := by
  unfold decode; simp only [h]; rfl

theorem decode_15 {w : IWord} (h : fld w 26 6 = 0x15) :
    decode w = accept w 0 [] (.bgeu (fld w 20 6) (fld w 14 6) (fld w 0 14)) := by
  unfold decode; simp only [h]; rfl

theorem decode_16 {w : IWord} (h : fld w 26 6 = 0x16) :
    decode w = accept w 0 [] (.jal (fld w 20 6) (fld w 0 20)) := by
  unfold decode; simp only [h]; rfl

theorem decode_17 {w : IWord} (h : fld w 26 6 = 0x17) :
    decode w = accept w 0 [] (.jalr (fld w 20 6) (fld w 14 6) (fld w 0 14)) := by
  unfold decode; simp only [h]; rfl

theorem decode_18 {w : IWord} (h : fld w 26 6 = 0x18) :
    decode w = decFp w := by
  unfold decode; simp only [h]; rfl

theorem decode_19 {w : IWord} (h : fld w 26 6 = 0x19) :
    decode w = decCsr w := by
  unfold decode; simp only [h]; rfl

theorem decode_1a {w : IWord} (h : fld w 26 6 = 0x1a) :
    decode w = accept w 0x3FF0 [] (.setvl (fld w 20 6) (fld w 14 6) (Ty.ofCode (fld w 0 4))) := by
  unfold decode; simp only [h]; rfl

theorem decode_1b {w : IWord} (h : fld w 26 6 = 0x1b) :
    decode w = decQueue w := by
  unfold decode; simp only [h]; rfl

theorem decode_1c {w : IWord} (h : fld w 26 6 = 0x1c) :
    decode w = decSync w := by
  unfold decode; simp only [h]; rfl

theorem decode_20 {w : IWord} (h : fld w 26 6 = 0x20) :
    decode w = decVBin w := by
  unfold decode; simp only [h]; rfl

theorem decode_21 {w : IWord} (h : fld w 26 6 = 0x21) :
    decode w = decVBinS w := by
  unfold decode; simp only [h]; rfl

theorem decode_22 {w : IWord} (h : fld w 26 6 = 0x22) :
    decode w = decVTern w := by
  unfold decode; simp only [h]; rfl

theorem decode_23 {w : IWord} (h : fld w 26 6 = 0x23) :
    decode w = decVUnary w := by
  unfold decode; simp only [h]; rfl

theorem decode_24 {w : IWord} (h : fld w 26 6 = 0x24) :
    decode w = decVCmp w := by
  unfold decode; simp only [h]; rfl

theorem decode_25 {w : IWord} (h : fld w 26 6 = 0x25) :
    decode w = decVPerm w := by
  unfold decode; simp only [h]; rfl

theorem decode_26 {w : IWord} (h : fld w 26 6 = 0x26) :
    decode w = decVRed w := by
  unfold decode; simp only [h]; rfl

theorem decode_27 {w : IWord} (h : fld w 26 6 = 0x27) :
    decode w = decMask w := by
  unfold decode; simp only [h]; rfl

theorem decode_28 {w : IWord} (h : fld w 26 6 = 0x28) :
    decode w = decVMem w (fun m => .vld (flag w 25) (fld w 20 5) (fld w 14 6) m (flag w 10) (flag w 9) (Ty.ofCode (fld w 5 4))) := by
  unfold decode; simp only [h]; rfl

theorem decode_29 {w : IWord} (h : fld w 26 6 = 0x29) :
    decode w = decVMem w (fun m => .vst (flag w 25) (fld w 20 5) (fld w 14 6) m (flag w 10) (flag w 9) (Ty.ofCode (fld w 5 4))) := by
  unfold decode; simp only [h]; rfl

theorem decode_2a {w : IWord} (h : fld w 26 6 = 0x2a) :
    decode w = decVamo w (fun op => .vamo (flag w 25) (fld w 20 5) (fld w 14 6) op (flag w 10) (flag w 9) (Ty.ofCode (fld w 5 4)) (fld w 0 5)) := by
  unfold decode; simp only [h]; rfl

theorem decode_2b {w : IWord} (h : fld w 26 6 = 0x2b) :
    decode w = decVamo w (fun op => .vamon (flag w 25) (fld w 20 5) (fld w 14 6) op (flag w 10) (flag w 9) (Ty.ofCode (fld w 5 4)) (fld w 0 5)) := by
  unfold decode; simp only [h]; rfl

theorem decode_30 {w : IWord} (h : fld w 26 6 = 0x30) :
    decode w = decTile w := by
  unfold decode; simp only [h]; rfl

theorem decode_31 {w : IWord} (h : fld w 26 6 = 0x31) :
    decode w = decTMem w (.tld (fld w 20 5) (fld w 14 6) (flag w 10) (flag w 9) (Ty.ofCode (fld w 5 4))) := by
  unfold decode; simp only [h]; rfl

theorem decode_32 {w : IWord} (h : fld w 26 6 = 0x32) :
    decode w = decTMem w (.tst (fld w 20 5) (fld w 14 6) (flag w 10) (flag w 9) (Ty.ofCode (fld w 5 4))) := by
  unfold decode; simp only [h]; rfl

theorem decode_33 {w : IWord} (h : fld w 26 6 = 0x33) :
    decode w = decMatrix w false := by
  unfold decode; simp only [h]; rfl

theorem decode_34 {w : IWord} (h : fld w 26 6 = 0x34) :
    decode w = decMatrix w true := by
  unfold decode; simp only [h]; rfl

theorem decode_35 {w : IWord} (h : fld w 26 6 = 0x35) :
    decode w = decAcc w := by
  unfold decode; simp only [h]; rfl

theorem decode_38 {w : IWord} (h : fld w 26 6 = 0x38) :
    decode w = decCopy w := by
  unfold decode; simp only [h]; rfl

theorem decode_39 {w : IWord} (h : fld w 26 6 = 0x39) :
    decode w = decStack w := by
  unfold decode; simp only [h]; rfl

theorem decode_3a {w : IWord} (h : fld w 26 6 = 0x3a) :
    decode w = decBank w := by
  unfold decode; simp only [h]; rfl

theorem decode_3b {w : IWord} (h : fld w 26 6 = 0x3b) :
    decode w = decGen w := by
  unfold decode; simp only [h]; rfl

theorem decode_3c {w : IWord} (h : fld w 26 6 = 0x3c) :
    decode w = decJournal w := by
  unfold decode; simp only [h]; rfl

theorem decode_3f {w : IWord} (h : fld w 26 6 = 0x3f) :
    decode w = decSystem w := by
  unfold decode; simp only [h]; rfl

end

end Sys2Proof
end

