-- ==== Sys2Proof/Laws/State.lean ====
section
/-! SUPPORT. Laws/State.lean: what each small update of the state leaves in each field, so that no proof unfolds a
record update: one lemma for each field of State, and for each field of Lc where the update reaches into it. -/

set_option Elab.async false

namespace Sys2Proof.Machine

/-! ### Scalar registers -/

@[simp] theorem Lc.setS_key (l : Lc) (r : SReg) (v : Dword) (p : Bool) : (l.setS r v p).key = l.key := by
  unfold Lc.setS; split <;> rfl
@[simp] theorem Lc.setS_status (l : Lc) (r : SReg) (v : Dword) (p : Bool) : (l.setS r v p).status = l.status := by
  unfold Lc.setS; split <;> rfl
@[simp] theorem Lc.setS_core (l : Lc) (r : SReg) (v : Dword) (p : Bool) : (l.setS r v p).core = l.core := by
  unfold Lc.setS; split <;> rfl
@[simp] theorem Lc.setS_partNo (l : Lc) (r : SReg) (v : Dword) (p : Bool) : (l.setS r v p).partNo = l.partNo := by
  unfold Lc.setS; split <;> rfl
@[simp] theorem Lc.setS_pc (l : Lc) (r : SReg) (v : Dword) (p : Bool) : (l.setS r v p).pc = l.pc := by
  unfold Lc.setS; split <;> rfl
@[simp] theorem Lc.setS_q (l : Lc) (r : SReg) (v : Dword) (p : Bool) : (l.setS r v p).q = l.q := by
  unfold Lc.setS; split <;> rfl
@[simp] theorem Lc.setS_vec (l : Lc) (r : SReg) (v : Dword) (p : Bool) : (l.setS r v p).vec = l.vec := by
  unfold Lc.setS; split <;> rfl
@[simp] theorem Lc.setS_vstart (l : Lc) (r : SReg) (v : Dword) (p : Bool) : (l.setS r v p).vstart = l.vstart := by
  unfold Lc.setS; split <;> rfl
@[simp] theorem Lc.setS_epr (l : Lc) (r : SReg) (v : Dword) (p : Bool) : (l.setS r v p).epr = l.epr := by
  unfold Lc.setS; split <;> rfl
@[simp] theorem Lc.setS_fflags (l : Lc) (r : SReg) (v : Dword) (p : Bool) : (l.setS r v p).fflags = l.fflags := by
  unfold Lc.setS; split <;> rfl
@[simp] theorem Lc.setS_ftrapen (l : Lc) (r : SReg) (v : Dword) (p : Bool) : (l.setS r v p).ftrapen = l.ftrapen := by
  unfold Lc.setS; split <;> rfl
@[simp] theorem Lc.setS_accrecomp (l : Lc) (r : SReg) (v : Dword) (p : Bool) : (l.setS r v p).accrecomp = l.accrecomp := by
  unfold Lc.setS; split <;> rfl
@[simp] theorem Lc.setS_restartpc (l : Lc) (r : SReg) (v : Dword) (p : Bool) : (l.setS r v p).restartpc = l.restartpc := by
  unfold Lc.setS; split <;> rfl
@[simp] theorem Lc.setS_saff (l : Lc) (r : SReg) (v : Dword) (p : Bool) : (l.setS r v p).saff = l.saff := by
  unfold Lc.setS; split <;> rfl
@[simp] theorem Lc.setS_bnkwin (l : Lc) (r : SReg) (v : Dword) (p : Bool) : (l.setS r v p).bnkwin = l.bnkwin := by
  unfold Lc.setS; split <;> rfl
@[simp] theorem Lc.setS_chans (l : Lc) (r : SReg) (v : Dword) (p : Bool) : (l.setS r v p).chans = l.chans := by
  unfold Lc.setS; split <;> rfl
@[simp] theorem Lc.setS_redgrp (l : Lc) (r : SReg) (v : Dword) (p : Bool) : (l.setS r v p).redgrp = l.redgrp := by
  unfold Lc.setS; split <;> rfl
@[simp] theorem Lc.setS_gen (l : Lc) (r : SReg) (v : Dword) (p : Bool) : (l.setS r v p).gen = l.gen := by
  unfold Lc.setS; split <;> rfl
@[simp] theorem Lc.setS_tcfg (l : Lc) (r : SReg) (v : Dword) (p : Bool) : (l.setS r v p).tcfg = l.tcfg := by
  unfold Lc.setS; split <;> rfl
@[simp] theorem Lc.setS_strip (l : Lc) (r : SReg) (v : Dword) (p : Bool) : (l.setS r v p).strip = l.strip := by
  unfold Lc.setS; split <;> rfl
@[simp] theorem Lc.setS_ebase (l : Lc) (r : SReg) (v : Dword) (p : Bool) : (l.setS r v p).ebase = l.ebase := by
  unfold Lc.setS; split <;> rfl
@[simp] theorem Lc.setS_erem (l : Lc) (r : SReg) (v : Dword) (p : Bool) : (l.setS r v p).erem = l.erem := by
  unfold Lc.setS; split <;> rfl
@[simp] theorem Lc.setS_taskid (l : Lc) (r : SReg) (v : Dword) (p : Bool) : (l.setS r v p).taskid = l.taskid := by
  unfold Lc.setS; split <;> rfl
@[simp] theorem Lc.setS_gmask (l : Lc) (r : SReg) (v : Dword) (p : Bool) : (l.setS r v p).gmask = l.gmask := by
  unfold Lc.setS; split <;> rfl
@[simp] theorem Lc.setS_trap (l : Lc) (r : SReg) (v : Dword) (p : Bool) : (l.setS r v p).trap = l.trap := by
  unfold Lc.setS; split <;> rfl
@[simp] theorem Lc.setS_pcsel (l : Lc) (r : SReg) (v : Dword) (p : Bool) : (l.setS r v p).pcsel = l.pcsel := by
  unfold Lc.setS; split <;> rfl
@[simp] theorem Lc.setS_pcval (l : Lc) (r : SReg) (v : Dword) (p : Bool) : (l.setS r v p).pcval = l.pcval := by
  unfold Lc.setS; split <;> rfl
@[simp] theorem Lc.setS_ptbase (l : Lc) (r : SReg) (v : Dword) (p : Bool) : (l.setS r v p).ptbase = l.ptbase := by
  unfold Lc.setS; split <;> rfl
@[simp] theorem Lc.setS_asid (l : Lc) (r : SReg) (v : Dword) (p : Bool) : (l.setS r v p).asid = l.asid := by
  unfold Lc.setS; split <;> rfl
@[simp] theorem Lc.setS_stksel (l : Lc) (r : SReg) (v : Dword) (p : Bool) : (l.setS r v p).stksel = l.stksel := by
  unfold Lc.setS; split <;> rfl
@[simp] theorem Lc.setS_bars (l : Lc) (r : SReg) (v : Dword) (p : Bool) : (l.setS r v p).bars = l.bars := by
  unfold Lc.setS; split <;> rfl
@[simp] theorem Lc.setS_nextsWait (l : Lc) (r : SReg) (v : Dword) (p : Bool) : (l.setS r v p).nextsWait = l.nextsWait := by
  unfold Lc.setS; split <;> rfl
@[simp] theorem Lc.setS_nextsAnswer (l : Lc) (r : SReg) (v : Dword) (p : Bool) : (l.setS r v p).nextsAnswer = l.nextsAnswer := by
  unfold Lc.setS; split <;> rfl
@[simp] theorem Lc.setS_loops (l : Lc) (r : SReg) (v : Dword) (p : Bool) : (l.setS r v p).loops = l.loops := by
  unfold Lc.setS; split <;> rfl
@[simp] theorem Lc.setS_handles (l : Lc) (r : SReg) (v : Dword) (p : Bool) : (l.setS r v p).handles = l.handles := by
  unfold Lc.setS; split <;> rfl
@[simp] theorem Lc.setS_ctx (l : Lc) (r : SReg) (v : Dword) (p : Bool) : (l.setS r v p).ctx = l.ctx := by
  unfold Lc.setS; split <;> rfl
@[simp] theorem Lc.setS_rebind (l : Lc) (r : SReg) (v : Dword) (p : Bool) : (l.setS r v p).rebind = l.rebind := by
  unfold Lc.setS; split <;> rfl
@[simp] theorem Lc.setS_passed (l : Lc) (r : SReg) (v : Dword) (p : Bool) : (l.setS r v p).passed = l.passed := by
  unfold Lc.setS; split <;> rfl
@[simp] theorem Lc.setS_kqueue (l : Lc) (r : SReg) (v : Dword) (p : Bool) : (l.setS r v p).kqueue = l.kqueue := by
  unfold Lc.setS; split <;> rfl
@[simp] theorem Lc.setS_bqueue (l : Lc) (r : SReg) (v : Dword) (p : Bool) : (l.setS r v p).bqueue = l.bqueue := by
  unfold Lc.setS; split <;> rfl
@[simp] theorem Lc.setS_stores (l : Lc) (r : SReg) (v : Dword) (p : Bool) : (l.setS r v p).stores = l.stores := by
  unfold Lc.setS; split <;> rfl
@[simp] theorem Lc.setS_vheld (l : Lc) (r : SReg) (v : Dword) (p : Bool) : (l.setS r v p).vheld = l.vheld := by
  unfold Lc.setS; split <;> rfl
@[simp] theorem Lc.setS_vstalled (l : Lc) (r : SReg) (v : Dword) (p : Bool) : (l.setS r v p).vstalled = l.vstalled := by
  unfold Lc.setS; split <;> rfl
@[simp] theorem Lc.setS_vreport (l : Lc) (r : SReg) (v : Dword) (p : Bool) : (l.setS r v p).vreport = l.vreport := by
  unfold Lc.setS; split <;> rfl
@[simp] theorem Lc.setS_kreport (l : Lc) (r : SReg) (v : Dword) (p : Bool) : (l.setS r v p).kreport = l.kreport := by
  unfold Lc.setS; split <;> rfl
@[simp] theorem Lc.setS_breport (l : Lc) (r : SReg) (v : Dword) (p : Bool) : (l.setS r v p).breport = l.breport := by
  unfold Lc.setS; split <;> rfl
@[simp] theorem Lc.setS_braised (l : Lc) (r : SReg) (v : Dword) (p : Bool) : (l.setS r v p).braised = l.braised := by
  unfold Lc.setS; split <;> rfl
@[simp] theorem Lc.setS_bankErr (l : Lc) (r : SReg) (v : Dword) (p : Bool) : (l.setS r v p).bankErr = l.bankErr := by
  unfold Lc.setS; split <;> rfl
@[simp] theorem Lc.setS_async (l : Lc) (r : SReg) (v : Dword) (p : Bool) : (l.setS r v p).async = l.async := by
  unfold Lc.setS; split <;> rfl
@[simp] theorem Lc.setS_hostErr (l : Lc) (r : SReg) (v : Dword) (p : Bool) : (l.setS r v p).hostErr = l.hostErr := by
  unfold Lc.setS; split <;> rfl
@[simp] theorem Lc.setS_slice (l : Lc) (r : SReg) (v : Dword) (p : Bool) : (l.setS r v p).slice = l.slice := by
  unfold Lc.setS; split <;> rfl
@[simp] theorem Lc.setS_wdog (l : Lc) (r : SReg) (v : Dword) (p : Bool) : (l.setS r v p).wdog = l.wdog := by
  unfold Lc.setS; split <;> rfl
@[simp] theorem Lc.setS_waited (l : Lc) (r : SReg) (v : Dword) (p : Bool) : (l.setS r v p).waited = l.waited := by
  unfold Lc.setS; split <;> rfl
@[simp] theorem Lc.setS_wait (l : Lc) (r : SReg) (v : Dword) (p : Bool) : (l.setS r v p).wait = l.wait := by
  unfold Lc.setS; split <;> rfl
@[simp] theorem Lc.setS_leaving (l : Lc) (r : SReg) (v : Dword) (p : Bool) : (l.setS r v p).leaving = l.leaving := by
  unfold Lc.setS; split <;> rfl
@[simp] theorem Lc.setS_vsaved (l : Lc) (r : SReg) (v : Dword) (p : Bool) : (l.setS r v p).vsaved = l.vsaved := by
  unfold Lc.setS; split <;> rfl
@[simp] theorem Lc.setS_residentSince (l : Lc) (r : SReg) (v : Dword) (p : Bool) : (l.setS r v p).residentSince = l.residentSince := by
  unfold Lc.setS; split <;> rfl
@[simp] theorem Lc.setS_contain (l : Lc) (r : SReg) (v : Dword) (p : Bool) : (l.setS r v p).contain = l.contain := by
  unfold Lc.setS; split <;> rfl
@[simp] theorem Lc.setS_pending (l : Lc) (r : SReg) (v : Dword) (p : Bool) : (l.setS r v p).pending = l.pending := by
  unfold Lc.setS; split <;> rfl
@[simp] theorem Lc.setS_away (l : Lc) (r : SReg) (v : Dword) (p : Bool) : (l.setS r v p).away = l.away := by
  unfold Lc.setS; split <;> rfl

/-! ### setS -/

@[simp] theorem State.setS_lc (s : State) (r : SReg) (v : Dword) : (s.setS r v).lc = s.lc.setS r v false := rfl
@[simp] theorem State.setS_part (s : State) (r : SReg) (v : Dword) : (s.setS r v).part = s.part := rfl
@[simp] theorem State.setS_core (s : State) (r : SReg) (v : Dword) : (s.setS r v).core = s.core := rfl
@[simp] theorem State.setS_lcs (s : State) (r : SReg) (v : Dword) : (s.setS r v).lcs = s.lcs := rfl
@[simp] theorem State.setS_parts (s : State) (r : SReg) (v : Dword) : (s.setS r v).parts = s.parts := rfl
@[simp] theorem State.setS_cores (s : State) (r : SReg) (v : Dword) : (s.setS r v).cores = s.cores := rfl
@[simp] theorem State.setS_dev (s : State) (r : SReg) (v : Dword) : (s.setS r v).dev = s.dev := rfl
@[simp] theorem State.setS_cycles (s : State) (r : SReg) (v : Dword) : (s.setS r v).cycles = s.cycles := rfl
@[simp] theorem State.setS_ir (s : State) (r : SReg) (v : Dword) : (s.setS r v).ir = s.ir := rfl
@[simp] theorem State.setS_retired (s : State) (r : SReg) (v : Dword) : (s.setS r v).retired = s.retired := rfl
@[simp] theorem State.setS_agenda (s : State) (r : SReg) (v : Dword) : (s.setS r v).agenda = s.agenda := rfl
@[simp] theorem State.setS_runAhead (s : State) (r : SReg) (v : Dword) : (s.setS r v).runAhead = s.runAhead := rfl
@[simp] theorem State.setS_tick (s : State) (r : SReg) (v : Dword) : (s.setS r v).tick = s.tick := rfl

/-! ### setSP -/

@[simp] theorem State.setSP_lc (s : State) (r : SReg) (v : Dword) (p : Bool) : (s.setSP r v p).lc = s.lc.setS r v p := rfl
@[simp] theorem State.setSP_part (s : State) (r : SReg) (v : Dword) (p : Bool) : (s.setSP r v p).part = s.part := rfl
@[simp] theorem State.setSP_core (s : State) (r : SReg) (v : Dword) (p : Bool) : (s.setSP r v p).core = s.core := rfl
@[simp] theorem State.setSP_lcs (s : State) (r : SReg) (v : Dword) (p : Bool) : (s.setSP r v p).lcs = s.lcs := rfl
@[simp] theorem State.setSP_parts (s : State) (r : SReg) (v : Dword) (p : Bool) : (s.setSP r v p).parts = s.parts := rfl
@[simp] theorem State.setSP_cores (s : State) (r : SReg) (v : Dword) (p : Bool) : (s.setSP r v p).cores = s.cores := rfl
@[simp] theorem State.setSP_dev (s : State) (r : SReg) (v : Dword) (p : Bool) : (s.setSP r v p).dev = s.dev := rfl
@[simp] theorem State.setSP_cycles (s : State) (r : SReg) (v : Dword) (p : Bool) : (s.setSP r v p).cycles = s.cycles := rfl
@[simp] theorem State.setSP_ir (s : State) (r : SReg) (v : Dword) (p : Bool) : (s.setSP r v p).ir = s.ir := rfl
@[simp] theorem State.setSP_retired (s : State) (r : SReg) (v : Dword) (p : Bool) : (s.setSP r v p).retired = s.retired := rfl
@[simp] theorem State.setSP_agenda (s : State) (r : SReg) (v : Dword) (p : Bool) : (s.setSP r v p).agenda = s.agenda := rfl
@[simp] theorem State.setSP_runAhead (s : State) (r : SReg) (v : Dword) (p : Bool) : (s.setSP r v p).runAhead = s.runAhead := rfl
@[simp] theorem State.setSP_tick (s : State) (r : SReg) (v : Dword) (p : Bool) : (s.setSP r v p).tick = s.tick := rfl

/-! ### retireAt -/

@[simp] theorem State.retireAt_lc (s : State) (pc : BitVec 57) : (s.retireAt pc).lc = { s.lc with pc := pc } := rfl
@[simp] theorem State.retireAt_part (s : State) (pc : BitVec 57) : (s.retireAt pc).part = s.part := rfl
@[simp] theorem State.retireAt_core (s : State) (pc : BitVec 57) : (s.retireAt pc).core = s.core := rfl
@[simp] theorem State.retireAt_lcs (s : State) (pc : BitVec 57) : (s.retireAt pc).lcs = s.lcs := rfl
@[simp] theorem State.retireAt_parts (s : State) (pc : BitVec 57) : (s.retireAt pc).parts = s.parts := rfl
@[simp] theorem State.retireAt_cores (s : State) (pc : BitVec 57) : (s.retireAt pc).cores = s.cores := rfl
@[simp] theorem State.retireAt_dev (s : State) (pc : BitVec 57) : (s.retireAt pc).dev = s.dev := rfl
@[simp] theorem State.retireAt_cycles (s : State) (pc : BitVec 57) : (s.retireAt pc).cycles = s.cycles := rfl
@[simp] theorem State.retireAt_ir (s : State) (pc : BitVec 57) : (s.retireAt pc).ir = s.ir := rfl
@[simp] theorem State.retireAt_retired (s : State) (pc : BitVec 57) : (s.retireAt pc).retired = true := rfl
@[simp] theorem State.retireAt_agenda (s : State) (pc : BitVec 57) : (s.retireAt pc).agenda = s.agenda := rfl
@[simp] theorem State.retireAt_runAhead (s : State) (pc : BitVec 57) : (s.retireAt pc).runAhead = s.runAhead := rfl
@[simp] theorem State.retireAt_tick (s : State) (pc : BitVec 57) : (s.retireAt pc).tick = s.tick := rfl

/-! ### retire -/

@[simp] theorem State.retire_lc (s : State) : (s.retire).lc = { s.lc with pc := s.lc.pc + 4 } := rfl
@[simp] theorem State.retire_part (s : State) : (s.retire).part = s.part := rfl
@[simp] theorem State.retire_core (s : State) : (s.retire).core = s.core := rfl
@[simp] theorem State.retire_lcs (s : State) : (s.retire).lcs = s.lcs := rfl
@[simp] theorem State.retire_parts (s : State) : (s.retire).parts = s.parts := rfl
@[simp] theorem State.retire_cores (s : State) : (s.retire).cores = s.cores := rfl
@[simp] theorem State.retire_dev (s : State) : (s.retire).dev = s.dev := rfl
@[simp] theorem State.retire_cycles (s : State) : (s.retire).cycles = s.cycles := rfl
@[simp] theorem State.retire_ir (s : State) : (s.retire).ir = s.ir := rfl
@[simp] theorem State.retire_retired (s : State) : (s.retire).retired = true := rfl
@[simp] theorem State.retire_agenda (s : State) : (s.retire).agenda = s.agenda := rfl
@[simp] theorem State.retire_runAhead (s : State) : (s.retire).runAhead = s.runAhead := rfl
@[simp] theorem State.retire_tick (s : State) : (s.retire).tick = s.tick := rfl

/-! ### addFlags -/

@[simp] theorem State.addFlags_lc (s : State) (fl : Flags) : (s.addFlags fl).lc = { s.lc with fflags := s.lc.fflags ||| fl } := rfl
@[simp] theorem State.addFlags_part (s : State) (fl : Flags) : (s.addFlags fl).part = s.part := rfl
@[simp] theorem State.addFlags_core (s : State) (fl : Flags) : (s.addFlags fl).core = s.core := rfl
@[simp] theorem State.addFlags_lcs (s : State) (fl : Flags) : (s.addFlags fl).lcs = s.lcs := rfl
@[simp] theorem State.addFlags_parts (s : State) (fl : Flags) : (s.addFlags fl).parts = s.parts := rfl
@[simp] theorem State.addFlags_cores (s : State) (fl : Flags) : (s.addFlags fl).cores = s.cores := rfl
@[simp] theorem State.addFlags_dev (s : State) (fl : Flags) : (s.addFlags fl).dev = s.dev := rfl
@[simp] theorem State.addFlags_cycles (s : State) (fl : Flags) : (s.addFlags fl).cycles = s.cycles := rfl
@[simp] theorem State.addFlags_ir (s : State) (fl : Flags) : (s.addFlags fl).ir = s.ir := rfl
@[simp] theorem State.addFlags_retired (s : State) (fl : Flags) : (s.addFlags fl).retired = s.retired := rfl
@[simp] theorem State.addFlags_agenda (s : State) (fl : Flags) : (s.addFlags fl).agenda = s.agenda := rfl
@[simp] theorem State.addFlags_runAhead (s : State) (fl : Flags) : (s.addFlags fl).runAhead = s.runAhead := rfl
@[simp] theorem State.addFlags_tick (s : State) (fl : Flags) : (s.addFlags fl).tick = s.tick := rfl

/-! ### count -/

@[simp] theorem State.count_lc (s : State) (e n : Nat) : (s.count e n).lc = s.lc.count e n := rfl
@[simp] theorem State.count_part (s : State) (e n : Nat) : (s.count e n).part = s.part := rfl
@[simp] theorem State.count_core (s : State) (e n : Nat) : (s.count e n).core = s.core := rfl
@[simp] theorem State.count_lcs (s : State) (e n : Nat) : (s.count e n).lcs = s.lcs := rfl
@[simp] theorem State.count_parts (s : State) (e n : Nat) : (s.count e n).parts = s.parts := rfl
@[simp] theorem State.count_cores (s : State) (e n : Nat) : (s.count e n).cores = s.cores := rfl
@[simp] theorem State.count_dev (s : State) (e n : Nat) : (s.count e n).dev = s.dev := rfl
@[simp] theorem State.count_cycles (s : State) (e n : Nat) : (s.count e n).cycles = s.cycles := rfl
@[simp] theorem State.count_ir (s : State) (e n : Nat) : (s.count e n).ir = s.ir := rfl
@[simp] theorem State.count_retired (s : State) (e n : Nat) : (s.count e n).retired = s.retired := rfl
@[simp] theorem State.count_agenda (s : State) (e n : Nat) : (s.count e n).agenda = s.agenda := rfl
@[simp] theorem State.count_runAhead (s : State) (e n : Nat) : (s.count e n).runAhead = s.runAhead := rfl
@[simp] theorem State.count_tick (s : State) (e n : Nat) : (s.count e n).tick = s.tick := rfl

/-! ### setPart and setK -/

@[simp] theorem State.setPart_lc (s : State) (p : Part) : (s.setPart p).lc = s.lc := by
  unfold State.setPart; split <;> rfl
@[simp] theorem State.setPart_core (s : State) (p : Part) : (s.setPart p).core = s.core := by
  unfold State.setPart; split <;> rfl
@[simp] theorem State.setPart_lcs (s : State) (p : Part) : (s.setPart p).lcs = s.lcs := by
  unfold State.setPart; split <;> rfl
@[simp] theorem State.setPart_cores (s : State) (p : Part) : (s.setPart p).cores = s.cores := by
  unfold State.setPart; split <;> rfl
@[simp] theorem State.setPart_dev (s : State) (p : Part) : (s.setPart p).dev = s.dev := by
  unfold State.setPart; split <;> rfl
@[simp] theorem State.setPart_cycles (s : State) (p : Part) : (s.setPart p).cycles = s.cycles := by
  unfold State.setPart; split <;> rfl
@[simp] theorem State.setPart_ir (s : State) (p : Part) : (s.setPart p).ir = s.ir := by
  unfold State.setPart; split <;> rfl
@[simp] theorem State.setPart_retired (s : State) (p : Part) : (s.setPart p).retired = s.retired := by
  unfold State.setPart; split <;> rfl
@[simp] theorem State.setPart_agenda (s : State) (p : Part) : (s.setPart p).agenda = s.agenda := by
  unfold State.setPart; split <;> rfl
@[simp] theorem State.setPart_runAhead (s : State) (p : Part) : (s.setPart p).runAhead = s.runAhead := by
  unfold State.setPart; split <;> rfl
@[simp] theorem State.setPart_tick (s : State) (p : Part) : (s.setPart p).tick = s.tick := by
  unfold State.setPart; split <;> rfl
@[simp] theorem State.setK_lc (s : State) (n : Nat) (x : KBits) (p : BitVec 2) : (s.setK n x p).lc = s.lc := by
  unfold State.setK; split <;> simp
@[simp] theorem State.setK_core (s : State) (n : Nat) (x : KBits) (p : BitVec 2) : (s.setK n x p).core = s.core := by
  unfold State.setK; split <;> simp
@[simp] theorem State.setK_lcs (s : State) (n : Nat) (x : KBits) (p : BitVec 2) : (s.setK n x p).lcs = s.lcs := by
  unfold State.setK; split <;> simp
@[simp] theorem State.setK_cores (s : State) (n : Nat) (x : KBits) (p : BitVec 2) : (s.setK n x p).cores = s.cores := by
  unfold State.setK; split <;> simp
@[simp] theorem State.setK_dev (s : State) (n : Nat) (x : KBits) (p : BitVec 2) : (s.setK n x p).dev = s.dev := by
  unfold State.setK; split <;> simp
@[simp] theorem State.setK_cycles (s : State) (n : Nat) (x : KBits) (p : BitVec 2) : (s.setK n x p).cycles = s.cycles := by
  unfold State.setK; split <;> simp
@[simp] theorem State.setK_ir (s : State) (n : Nat) (x : KBits) (p : BitVec 2) : (s.setK n x p).ir = s.ir := by
  unfold State.setK; split <;> simp
@[simp] theorem State.setK_retired (s : State) (n : Nat) (x : KBits) (p : BitVec 2) : (s.setK n x p).retired = s.retired := by
  unfold State.setK; split <;> simp
@[simp] theorem State.setK_agenda (s : State) (n : Nat) (x : KBits) (p : BitVec 2) : (s.setK n x p).agenda = s.agenda := by
  unfold State.setK; split <;> simp
@[simp] theorem State.setK_runAhead (s : State) (n : Nat) (x : KBits) (p : BitVec 2) : (s.setK n x p).runAhead = s.runAhead := by
  unfold State.setK; split <;> simp
@[simp] theorem State.setK_tick (s : State) (n : Nat) (x : KBits) (p : BitVec 2) : (s.setK n x p).tick = s.tick := by
  unfold State.setK; split <;> simp

/-- The LC's own partition takes a k register when it holds the vector state (R287). -/
theorem State.setK_part {s : State} (h : s.owns = true) (n : Nat) (x : KBits) (p : BitVec 2) :
    (s.setK n x p).part = s.part.setK n x p := by
  simp [State.setK, State.vectorHome, h, State.setPart, Part.setK]

/-- The other partitions are then as they were. -/
theorem State.setK_parts {s : State} (h : s.owns = true) (n : Nat) (x : KBits) (p : BitVec 2) :
    (s.setK n x p).parts = s.parts := by
  simp [State.setK, State.vectorHome, h, State.setPart, Part.setK]

/-- No partition takes it while none holds the vector state (log 80). -/
theorem State.setK_none {s : State} (h : s.vectorHome = none) (n : Nat) (x : KBits) (p : BitVec 2) : s.setK n x p = s := by
  simp [State.setK, h]

/-! ### vdone -/

@[simp] theorem State.vdone_lc (s : State) : (s.vdone).lc = { s.lc with vstart := 0 } := rfl
@[simp] theorem State.vdone_part (s : State) : (s.vdone).part = s.part := rfl
@[simp] theorem State.vdone_core (s : State) : (s.vdone).core = s.core := rfl
@[simp] theorem State.vdone_lcs (s : State) : (s.vdone).lcs = s.lcs := rfl
@[simp] theorem State.vdone_parts (s : State) : (s.vdone).parts = s.parts := rfl
@[simp] theorem State.vdone_cores (s : State) : (s.vdone).cores = s.cores := rfl
@[simp] theorem State.vdone_dev (s : State) : (s.vdone).dev = s.dev := rfl
@[simp] theorem State.vdone_cycles (s : State) : (s.vdone).cycles = s.cycles := rfl
@[simp] theorem State.vdone_ir (s : State) : (s.vdone).ir = s.ir := rfl
@[simp] theorem State.vdone_retired (s : State) : (s.vdone).retired = s.retired := rfl
@[simp] theorem State.vdone_agenda (s : State) : (s.vdone).agenda = s.agenda := rfl
@[simp] theorem State.vdone_runAhead (s : State) : (s.vdone).runAhead = s.runAhead := rfl
@[simp] theorem State.vdone_tick (s : State) : (s.vdone).tick = s.tick := rfl

/-! ### mdone -/

@[simp] theorem State.mdone_lc (s : State) : (s.mdone).lc = { s.lc with vstart := 0, epr := 0 } := rfl
@[simp] theorem State.mdone_part (s : State) : (s.mdone).part = s.part := rfl
@[simp] theorem State.mdone_core (s : State) : (s.mdone).core = s.core := rfl
@[simp] theorem State.mdone_lcs (s : State) : (s.mdone).lcs = s.lcs := rfl
@[simp] theorem State.mdone_parts (s : State) : (s.mdone).parts = s.parts := rfl
@[simp] theorem State.mdone_cores (s : State) : (s.mdone).cores = s.cores := rfl
@[simp] theorem State.mdone_dev (s : State) : (s.mdone).dev = s.dev := rfl
@[simp] theorem State.mdone_cycles (s : State) : (s.mdone).cycles = s.cycles := rfl
@[simp] theorem State.mdone_ir (s : State) : (s.mdone).ir = s.ir := rfl
@[simp] theorem State.mdone_retired (s : State) : (s.mdone).retired = s.retired := rfl
@[simp] theorem State.mdone_agenda (s : State) : (s.mdone).agenda = s.agenda := rfl
@[simp] theorem State.mdone_runAhead (s : State) : (s.mdone).runAhead = s.runAhead := rfl
@[simp] theorem State.mdone_tick (s : State) : (s.mdone).tick = s.tick := rfl

/-! ### setVec -/

@[simp] theorem State.setVec_lc (s : State) (f : VecCtl → VecCtl) : (s.setVec f).lc = { s.lc with vec := f s.lc.vec } := rfl
@[simp] theorem State.setVec_part (s : State) (f : VecCtl → VecCtl) : (s.setVec f).part = s.part := rfl
@[simp] theorem State.setVec_core (s : State) (f : VecCtl → VecCtl) : (s.setVec f).core = s.core := rfl
@[simp] theorem State.setVec_lcs (s : State) (f : VecCtl → VecCtl) : (s.setVec f).lcs = s.lcs := rfl
@[simp] theorem State.setVec_parts (s : State) (f : VecCtl → VecCtl) : (s.setVec f).parts = s.parts := rfl
@[simp] theorem State.setVec_cores (s : State) (f : VecCtl → VecCtl) : (s.setVec f).cores = s.cores := rfl
@[simp] theorem State.setVec_dev (s : State) (f : VecCtl → VecCtl) : (s.setVec f).dev = s.dev := rfl
@[simp] theorem State.setVec_cycles (s : State) (f : VecCtl → VecCtl) : (s.setVec f).cycles = s.cycles := rfl
@[simp] theorem State.setVec_ir (s : State) (f : VecCtl → VecCtl) : (s.setVec f).ir = s.ir := rfl
@[simp] theorem State.setVec_retired (s : State) (f : VecCtl → VecCtl) : (s.setVec f).retired = s.retired := rfl
@[simp] theorem State.setVec_agenda (s : State) (f : VecCtl → VecCtl) : (s.setVec f).agenda = s.agenda := rfl
@[simp] theorem State.setVec_runAhead (s : State) (f : VecCtl → VecCtl) : (s.setVec f).runAhead = s.runAhead := rfl
@[simp] theorem State.setVec_tick (s : State) (f : VecCtl → VecCtl) : (s.setVec f).tick = s.tick := rfl

/-! ### setGen -/

@[simp] theorem State.setGen_lc (s : State) (f : GenCtl → GenCtl) : (s.setGen f).lc = { s.lc with gen := f s.lc.gen } := rfl
@[simp] theorem State.setGen_part (s : State) (f : GenCtl → GenCtl) : (s.setGen f).part = s.part := rfl
@[simp] theorem State.setGen_core (s : State) (f : GenCtl → GenCtl) : (s.setGen f).core = s.core := rfl
@[simp] theorem State.setGen_lcs (s : State) (f : GenCtl → GenCtl) : (s.setGen f).lcs = s.lcs := rfl
@[simp] theorem State.setGen_parts (s : State) (f : GenCtl → GenCtl) : (s.setGen f).parts = s.parts := rfl
@[simp] theorem State.setGen_cores (s : State) (f : GenCtl → GenCtl) : (s.setGen f).cores = s.cores := rfl
@[simp] theorem State.setGen_dev (s : State) (f : GenCtl → GenCtl) : (s.setGen f).dev = s.dev := rfl
@[simp] theorem State.setGen_cycles (s : State) (f : GenCtl → GenCtl) : (s.setGen f).cycles = s.cycles := rfl
@[simp] theorem State.setGen_ir (s : State) (f : GenCtl → GenCtl) : (s.setGen f).ir = s.ir := rfl
@[simp] theorem State.setGen_retired (s : State) (f : GenCtl → GenCtl) : (s.setGen f).retired = s.retired := rfl
@[simp] theorem State.setGen_agenda (s : State) (f : GenCtl → GenCtl) : (s.setGen f).agenda = s.agenda := rfl
@[simp] theorem State.setGen_runAhead (s : State) (f : GenCtl → GenCtl) : (s.setGen f).runAhead = s.runAhead := rfl
@[simp] theorem State.setGen_tick (s : State) (f : GenCtl → GenCtl) : (s.setGen f).tick = s.tick := rfl

/-! ### setTrap -/

@[simp] theorem State.setTrap_lc (s : State) (f : TrapRegs → TrapRegs) : (s.setTrap f).lc = { s.lc with trap := f s.lc.trap } := rfl
@[simp] theorem State.setTrap_part (s : State) (f : TrapRegs → TrapRegs) : (s.setTrap f).part = s.part := rfl
@[simp] theorem State.setTrap_core (s : State) (f : TrapRegs → TrapRegs) : (s.setTrap f).core = s.core := rfl
@[simp] theorem State.setTrap_lcs (s : State) (f : TrapRegs → TrapRegs) : (s.setTrap f).lcs = s.lcs := rfl
@[simp] theorem State.setTrap_parts (s : State) (f : TrapRegs → TrapRegs) : (s.setTrap f).parts = s.parts := rfl
@[simp] theorem State.setTrap_cores (s : State) (f : TrapRegs → TrapRegs) : (s.setTrap f).cores = s.cores := rfl
@[simp] theorem State.setTrap_dev (s : State) (f : TrapRegs → TrapRegs) : (s.setTrap f).dev = s.dev := rfl
@[simp] theorem State.setTrap_cycles (s : State) (f : TrapRegs → TrapRegs) : (s.setTrap f).cycles = s.cycles := rfl
@[simp] theorem State.setTrap_ir (s : State) (f : TrapRegs → TrapRegs) : (s.setTrap f).ir = s.ir := rfl
@[simp] theorem State.setTrap_retired (s : State) (f : TrapRegs → TrapRegs) : (s.setTrap f).retired = s.retired := rfl
@[simp] theorem State.setTrap_agenda (s : State) (f : TrapRegs → TrapRegs) : (s.setTrap f).agenda = s.agenda := rfl
@[simp] theorem State.setTrap_runAhead (s : State) (f : TrapRegs → TrapRegs) : (s.setTrap f).runAhead = s.runAhead := rfl
@[simp] theorem State.setTrap_tick (s : State) (f : TrapRegs → TrapRegs) : (s.setTrap f).tick = s.tick := rfl

/-! ### updTask -/

@[simp] theorem State.updTask_lc (s : State) (f : Task → Task) : (s.updTask f).lc = s.lc := rfl
@[simp] theorem State.updTask_part (s : State) (f : Task → Task) : (s.updTask f).part = s.part := rfl
@[simp] theorem State.updTask_core (s : State) (f : Task → Task) : (s.updTask f).core = s.core := rfl
@[simp] theorem State.updTask_lcs (s : State) (f : Task → Task) : (s.updTask f).lcs = s.lcs := rfl
@[simp] theorem State.updTask_parts (s : State) (f : Task → Task) : (s.updTask f).parts = s.parts := rfl
@[simp] theorem State.updTask_cores (s : State) (f : Task → Task) : (s.updTask f).cores = s.cores := rfl
@[simp] theorem State.updTask_dev (s : State) (f : Task → Task) : (s.updTask f).dev = s.dev.updTask s.lc.key.task f := rfl
@[simp] theorem State.updTask_cycles (s : State) (f : Task → Task) : (s.updTask f).cycles = s.cycles := rfl
@[simp] theorem State.updTask_ir (s : State) (f : Task → Task) : (s.updTask f).ir = s.ir := rfl
@[simp] theorem State.updTask_retired (s : State) (f : Task → Task) : (s.updTask f).retired = s.retired := rfl
@[simp] theorem State.updTask_agenda (s : State) (f : Task → Task) : (s.updTask f).agenda = s.agenda := rfl
@[simp] theorem State.updTask_runAhead (s : State) (f : Task → Task) : (s.updTask f).runAhead = s.runAhead := rfl
@[simp] theorem State.updTask_tick (s : State) (f : Task → Task) : (s.updTask f).tick = s.tick := rfl

/-! ### count of an LC -/

@[simp] theorem Lc.count_key (l : Lc) (e n : Nat) : (l.count e n).key = l.key := rfl
@[simp] theorem Lc.count_status (l : Lc) (e n : Nat) : (l.count e n).status = l.status := rfl
@[simp] theorem Lc.count_core (l : Lc) (e n : Nat) : (l.count e n).core = l.core := rfl
@[simp] theorem Lc.count_partNo (l : Lc) (e n : Nat) : (l.count e n).partNo = l.partNo := rfl
@[simp] theorem Lc.count_pc (l : Lc) (e n : Nat) : (l.count e n).pc = l.pc := rfl
@[simp] theorem Lc.count_s (l : Lc) (e n : Nat) : (l.count e n).s = l.s := rfl
@[simp] theorem Lc.count_sPoison (l : Lc) (e n : Nat) : (l.count e n).sPoison = l.sPoison := rfl
@[simp] theorem Lc.count_q (l : Lc) (e n : Nat) : (l.count e n).q = l.q := rfl
@[simp] theorem Lc.count_vec (l : Lc) (e n : Nat) : (l.count e n).vec = l.vec := rfl
@[simp] theorem Lc.count_vstart (l : Lc) (e n : Nat) : (l.count e n).vstart = l.vstart := rfl
@[simp] theorem Lc.count_epr (l : Lc) (e n : Nat) : (l.count e n).epr = l.epr := rfl
@[simp] theorem Lc.count_fflags (l : Lc) (e n : Nat) : (l.count e n).fflags = l.fflags := rfl
@[simp] theorem Lc.count_ftrapen (l : Lc) (e n : Nat) : (l.count e n).ftrapen = l.ftrapen := rfl
@[simp] theorem Lc.count_accrecomp (l : Lc) (e n : Nat) : (l.count e n).accrecomp = l.accrecomp := rfl
@[simp] theorem Lc.count_restartpc (l : Lc) (e n : Nat) : (l.count e n).restartpc = l.restartpc := rfl
@[simp] theorem Lc.count_saff (l : Lc) (e n : Nat) : (l.count e n).saff = l.saff := rfl
@[simp] theorem Lc.count_bnkwin (l : Lc) (e n : Nat) : (l.count e n).bnkwin = l.bnkwin := rfl
@[simp] theorem Lc.count_chans (l : Lc) (e n : Nat) : (l.count e n).chans = l.chans := rfl
@[simp] theorem Lc.count_redgrp (l : Lc) (e n : Nat) : (l.count e n).redgrp = l.redgrp := rfl
@[simp] theorem Lc.count_gen (l : Lc) (e n : Nat) : (l.count e n).gen = l.gen := rfl
@[simp] theorem Lc.count_tcfg (l : Lc) (e n : Nat) : (l.count e n).tcfg = l.tcfg := rfl
@[simp] theorem Lc.count_strip (l : Lc) (e n : Nat) : (l.count e n).strip = l.strip := rfl
@[simp] theorem Lc.count_ebase (l : Lc) (e n : Nat) : (l.count e n).ebase = l.ebase := rfl
@[simp] theorem Lc.count_erem (l : Lc) (e n : Nat) : (l.count e n).erem = l.erem := rfl
@[simp] theorem Lc.count_taskid (l : Lc) (e n : Nat) : (l.count e n).taskid = l.taskid := rfl
@[simp] theorem Lc.count_gmask (l : Lc) (e n : Nat) : (l.count e n).gmask = l.gmask := rfl
@[simp] theorem Lc.count_trap (l : Lc) (e n : Nat) : (l.count e n).trap = l.trap := rfl
@[simp] theorem Lc.count_pcsel (l : Lc) (e n : Nat) : (l.count e n).pcsel = l.pcsel := rfl
@[simp] theorem Lc.count_ptbase (l : Lc) (e n : Nat) : (l.count e n).ptbase = l.ptbase := rfl
@[simp] theorem Lc.count_asid (l : Lc) (e n : Nat) : (l.count e n).asid = l.asid := rfl
@[simp] theorem Lc.count_stksel (l : Lc) (e n : Nat) : (l.count e n).stksel = l.stksel := rfl
@[simp] theorem Lc.count_bars (l : Lc) (e n : Nat) : (l.count e n).bars = l.bars := rfl
@[simp] theorem Lc.count_nextsWait (l : Lc) (e n : Nat) : (l.count e n).nextsWait = l.nextsWait := rfl
@[simp] theorem Lc.count_nextsAnswer (l : Lc) (e n : Nat) : (l.count e n).nextsAnswer = l.nextsAnswer := rfl
@[simp] theorem Lc.count_loops (l : Lc) (e n : Nat) : (l.count e n).loops = l.loops := rfl
@[simp] theorem Lc.count_handles (l : Lc) (e n : Nat) : (l.count e n).handles = l.handles := rfl
@[simp] theorem Lc.count_ctx (l : Lc) (e n : Nat) : (l.count e n).ctx = l.ctx := rfl
@[simp] theorem Lc.count_rebind (l : Lc) (e n : Nat) : (l.count e n).rebind = l.rebind := rfl
@[simp] theorem Lc.count_passed (l : Lc) (e n : Nat) : (l.count e n).passed = l.passed := rfl
@[simp] theorem Lc.count_kqueue (l : Lc) (e n : Nat) : (l.count e n).kqueue = l.kqueue := rfl
@[simp] theorem Lc.count_bqueue (l : Lc) (e n : Nat) : (l.count e n).bqueue = l.bqueue := rfl
@[simp] theorem Lc.count_stores (l : Lc) (e n : Nat) : (l.count e n).stores = l.stores := rfl
@[simp] theorem Lc.count_vheld (l : Lc) (e n : Nat) : (l.count e n).vheld = l.vheld := rfl
@[simp] theorem Lc.count_vstalled (l : Lc) (e n : Nat) : (l.count e n).vstalled = l.vstalled := rfl
@[simp] theorem Lc.count_vreport (l : Lc) (e n : Nat) : (l.count e n).vreport = l.vreport := rfl
@[simp] theorem Lc.count_kreport (l : Lc) (e n : Nat) : (l.count e n).kreport = l.kreport := rfl
@[simp] theorem Lc.count_breport (l : Lc) (e n : Nat) : (l.count e n).breport = l.breport := rfl
@[simp] theorem Lc.count_braised (l : Lc) (e n : Nat) : (l.count e n).braised = l.braised := rfl
@[simp] theorem Lc.count_bankErr (l : Lc) (e n : Nat) : (l.count e n).bankErr = l.bankErr := rfl
@[simp] theorem Lc.count_hostErr (l : Lc) (e n : Nat) : (l.count e n).hostErr = l.hostErr := rfl
@[simp] theorem Lc.count_slice (l : Lc) (e n : Nat) : (l.count e n).slice = l.slice := rfl
@[simp] theorem Lc.count_wdog (l : Lc) (e n : Nat) : (l.count e n).wdog = l.wdog := rfl
@[simp] theorem Lc.count_waited (l : Lc) (e n : Nat) : (l.count e n).waited = l.waited := rfl
@[simp] theorem Lc.count_wait (l : Lc) (e n : Nat) : (l.count e n).wait = l.wait := rfl
@[simp] theorem Lc.count_leaving (l : Lc) (e n : Nat) : (l.count e n).leaving = l.leaving := rfl
@[simp] theorem Lc.count_vsaved (l : Lc) (e n : Nat) : (l.count e n).vsaved = l.vsaved := rfl
@[simp] theorem Lc.count_residentSince (l : Lc) (e n : Nat) : (l.count e n).residentSince = l.residentSince := rfl
@[simp] theorem Lc.count_contain (l : Lc) (e n : Nat) : (l.count e n).contain = l.contain := rfl
@[simp] theorem Lc.count_pending (l : Lc) (e n : Nat) : (l.count e n).pending = l.pending := rfl
@[simp] theorem Lc.count_away (l : Lc) (e n : Nat) : (l.count e n).away = l.away := rfl

/-! ### Reading registers back -/

/-- A register written reads what was written; s0 reads 0 (R71). -/
theorem Lc.setS_get (l : Lc) (r q : SReg) (v : Dword) (p : Bool) :
    (l.setS r v p).s[q.toNat] = if r ≠ 0 ∧ r = q then v else l.s[q.toNat] := by
  unfold Lc.setS
  rcases eq_or_ne r 0#6 with h | h
  · simp [h]
  · by_cases e : r = q
    · subst e; simp [h]
    · have : r.toNat ≠ q.toNat := fun x => e (BitVec.eq_of_toNat_eq x)
      simp [h, e, this]

@[simp] theorem State.getS_retireAt (s : State) (pc : BitVec 57) (r : SReg) : (s.retireAt pc).getS r = s.getS r := rfl
@[simp] theorem State.getS_retire (s : State) (r : SReg) : s.retire.getS r = s.getS r := rfl
@[simp] theorem State.getS_addFlags (s : State) (fl : Flags) (r : SReg) : (s.addFlags fl).getS r = s.getS r := rfl
@[simp] theorem State.poisonedS_retireAt (s : State) (pc : BitVec 57) (r : SReg) :
    (s.retireAt pc).poisonedS r = s.poisonedS r := rfl
@[simp] theorem State.poisonedS_retire (s : State) (r : SReg) : s.retire.poisonedS r = s.poisonedS r := rfl
@[simp] theorem State.poisonedS_addFlags (s : State) (fl : Flags) (r : SReg) :
    (s.addFlags fl).poisonedS r = s.poisonedS r := rfl

/-- Reading a register after a write that carries poison. -/
theorem State.getS_setSP (s : State) (d r : SReg) (v : Dword) (p : Bool) :
    (s.setSP d v p).getS r = if r = d then (if d = 0 then 0 else v) else s.getS r := by
  unfold State.getS State.setSP
  simp only [Lc.setS_get]
  by_cases e : r = d
  · subst e
    rcases eq_or_ne r 0#6 with h | h <;> simp [h]
  · have e' : ¬d = r := fun x => e x.symm
    rcases eq_or_ne r 0#6 with h | h <;> simp [h, e, e']
    intro k k'; exact absurd k.symm k'

/-- Reading a register after a clean write. -/
theorem State.getS_setS (s : State) (d r : SReg) (v : Dword) :
    (s.setS d v).getS r = if r = d then (if d = 0 then 0 else v) else s.getS r := s.getS_setSP d r v false

/-- The poison of a register after a write. -/
theorem State.poisonedS_setSP (s : State) (d r : SReg) (v : Dword) (p : Bool) :
    (s.setSP d v p).poisonedS r = if r = d then (d != 0 && p) else s.poisonedS r := by
  unfold State.poisonedS State.setSP Lc.setS
  have hr := r.isLt
  have hd := d.isLt
  rcases eq_or_ne d 0#6 with k | k
  · rcases eq_or_ne r 0#6 with h | h <;> simp [h, k]
  · by_cases e : r = d
    · subst e
      have h64 : r.toNat < 64 := by omega
      cases p <;> simp [k, h64]
    · have ne : r.toNat ≠ d.toNat := fun x => e (BitVec.eq_of_toNat_eq x)
      have h64 : r.toNat < 64 := by omega
      have hlt : r.toNat < d.toNat ∨ r.toNat - d.toNat ≠ 0 := by omega
      rcases hlt with hlt | hlt <;> cases p <;> simp [k, e, h64, hlt]

/-- The poison of a register after a clean write. -/
theorem State.poisonedS_setS (s : State) (d r : SReg) (v : Dword) :
    (s.setS d v).poisonedS r = if r = d then false else s.poisonedS r := by
  have := s.poisonedS_setSP d r v false
  simpa [State.setSP, State.setS] using this

/-- A clean write of a register followed by retiring is what `WroteAt` says. -/
theorem State.wroteAt_setS (s : State) (d : SReg) (v : Dword) (pc : BitVec 57) : s.WroteAt ((s.setS d v).retireAt pc) d v pc := by
  refine ⟨⟨?_, ?_⟩, ?_, rfl, rfl, ?_⟩
  · simp [State.getS_setS]
  · simp [State.poisonedS_setS]
  · intro r h
    simp [State.getS_setS, State.poisonedS_setS, h]
  · simp only [State.SameButScalar, State.retireAt, State.setS, Lc.setS]
    split <;> rfl

/-- A clean write of a register followed by retiring to the next word. -/
theorem State.wrote_setS (s : State) (d : SReg) (v : Dword) : s.Wrote (s.setS d v).retire d v := by
  have : (s.setS d v).retire = (s.setS d v).retireAt (s.lc.pc + 4) := by simp [State.retire]
  rw [State.Wrote, this]
  exact s.wroteAt_setS d v _

/-! ### Operands -/

/-- A readable register gives its value. -/
theorem State.useS_ok {s : State} {r : SReg} (h : s.Readable r) : s.useS r = .ok (s.getS r) := by
  simp [State.useS, h.1, h.2]

/-- A register that no other stream has still to write gives its value with its poison. -/
theorem State.moveS_ok {s : State} {r : SReg} (h : s.Writable r) : s.moveS r = .ok (s.getS r, s.poisonedS r) := by
  simp only [State.Writable] at h
  simp [State.moveS, h]

/-- A writable register may be claimed. -/
theorem State.claimS_ok {s : State} {r : SReg} (h : s.Writable r) : s.claimS r = .ok () := by
  simp only [State.Writable] at h
  simp [State.claimS, h]

/-- All that reading an operand can do: its value, a wait, or POISON_SCALAR (R285). -/
theorem State.useS_cases (s : State) (r : SReg) :
    (s.Readable r ∧ s.useS r = .ok (s.getS r)) ∨ (s.freeS r = false ∧ s.useS r = .error .wait)
      ∨ (s.freeS r = true ∧ s.poisonedS r = true
        ∧ s.useS r = .error (.trap (s.report .poisonScalar (BitVec.ofNat 64 r.toNat)))) := by
  unfold State.useS State.Readable State.raise
  cases s.freeS r <;> cases s.poisonedS r <;> simp

/-! ### The end of a step -/

@[simp] theorem State.finish_ok (s t : State) : s.finish (.ok t) = .next t := rfl
@[simp] theorem State.finish_trap (s : State) (r : TrapRec) :
    s.finish (.error (.trap r)) = .next (s.takeTrap r false) := rfl
@[simp] theorem State.finish_trapIn (s t : State) (r : TrapRec) :
    s.finish (.error (.trapIn t r)) = .next (t.takeTrap r false) := rfl
@[simp] theorem State.finish_wait (s : State) : s.finish (.error .wait) = .next s := rfl
@[simp] theorem State.finish_waitIn (s t : State) : s.finish (.error (.waitIn t)) = .next t := rfl

/-- Every end of a scalar instruction's step is a next state. -/
theorem State.finish_next (s : State) (x : Except Halt State) : ∃ t, s.finish x = .next t := by
  cases x with
  | ok t => exact ⟨t, rfl⟩
  | error h => cases h <;> exact ⟨_, rfl⟩

end Sys2Proof.Machine
end

