-- ==== Sys2Proof/Laws/Memory.lean ====
section
/-! SUPPORT. Laws/Memory.lean: memory cells keep their canonical form, a byte written reads back and no other byte
changes, and what the operations that write memory leave of it. -/

set_option Elab.async false

namespace Sys2Proof.Machine

open Host (Cell)

/-! ### The canonical form -/

theorem Memory.wfFrom_mono {lo hi : Nat} (h : lo ≤ hi) : ∀ {m : List Cell},
    Memory.wfFrom hi m = true → Memory.wfFrom lo m = true
  | [], _ => rfl
  | (a, v) :: r, k => by
    simp only [Memory.wfFrom, Bool.and_eq_true, decide_eq_true_eq] at k ⊢
    exact ⟨⟨by omega, k.1.2⟩, k.2⟩

theorem Memory.wfFrom_put {lo a : Nat} (v : Byte) (h : lo ≤ a) : ∀ {m : List Cell},
    Memory.wfFrom lo m = true → Memory.wfFrom lo (Memory.put m a v) = true
  | [], _ => by
    unfold Memory.put
    split
    · rfl
    · simp_all [Memory.wfFrom]
  | (b, w) :: r, k => by
    simp only [Memory.wfFrom, Bool.and_eq_true, decide_eq_true_eq] at k
    unfold Memory.put
    split
    · split
      · simp_all [Memory.wfFrom]
      · rename_i h1 h2
        simp only [Memory.wfFrom, Bool.and_eq_true, decide_eq_true_eq]
        exact ⟨⟨h, by simpa using h2⟩, ⟨by omega, k.1.2⟩, k.2⟩
    · split
      · split
        · exact Memory.wfFrom_mono (by omega) k.2
        · rename_i h1 h2 h3
          subst h2
          simp only [Memory.wfFrom, Bool.and_eq_true, decide_eq_true_eq]
          exact ⟨⟨h, by simpa using h3⟩, k.2⟩
      · simp only [Memory.wfFrom, Bool.and_eq_true, decide_eq_true_eq]
        exact ⟨k.1, Memory.wfFrom_put v (by omega) k.2⟩

/-- Writing a byte keeps the canonical form. -/
theorem Memory.wf_put {m : List Cell} (h : Memory.wf m = true) (a : Nat) (v : Byte) :
    Memory.wf (Memory.put m a v) = true := Memory.wfFrom_put v (Nat.zero_le a) h

/-- Writing bytes keeps the canonical form. -/
theorem Memory.wf_write {m : List Cell} (h : Memory.wf m = true) (a n x : Nat) :
    Memory.wf (Memory.write m a n x) = true := by
  induction n generalizing m a x with
  | zero => exact h
  | succ n ih => exact ih (Memory.wf_put h _ _) _ _

theorem Memory.wfFrom_filter {lo : Nat} (p : Cell → Bool) : ∀ {m : List Cell},
    Memory.wfFrom lo m = true → Memory.wfFrom lo (m.filter p) = true
  | [], _ => rfl
  | (a, v) :: r, k => by
    simp only [Memory.wfFrom, Bool.and_eq_true, decide_eq_true_eq] at k
    simp only [List.filter_cons]
    split
    · simp only [Memory.wfFrom, Bool.and_eq_true, decide_eq_true_eq]
      exact ⟨k.1, Memory.wfFrom_filter p k.2⟩
    · exact Memory.wfFrom_mono (by omega) (Memory.wfFrom_filter p k.2)

/-- Dropping entries keeps the canonical form. -/
theorem Memory.wf_filter {m : List Cell} (h : Memory.wf m = true) (p : Cell → Bool) :
    Memory.wf (m.filter p) = true := Memory.wfFrom_filter p h

/-! ### Reading what was written -/

theorem Memory.get_below {lo a : Nat} (h : a < lo) : ∀ {m : List Cell},
    Memory.wfFrom lo m = true → Memory.get m a = unlistedByte
  | [], _ => rfl
  | (b, v) :: r, k => by
    simp only [Memory.wfFrom, Bool.and_eq_true, decide_eq_true_eq] at k
    unfold Memory.get
    rw [if_neg (by omega), if_pos (by omega)]

theorem Memory.get_put_from {lo : Nat} (a : Nat) (v : Byte) (b : Nat) : ∀ {m : List Cell},
    Memory.wfFrom lo m = true → Memory.get (Memory.put m a v) b = if b = a then v else Memory.get m b
  | [], _ => by
    unfold Memory.put
    split
    · rename_i h; subst h; by_cases e : b = a <;> simp [e, Memory.get]
    · by_cases e : b = a <;> simp [e, Memory.get]
  | (c, w) :: r, k => by
    simp only [Memory.wfFrom, Bool.and_eq_true, decide_eq_true_eq] at k
    have ih := Memory.get_put_from a v b k.2
    unfold Memory.put
    by_cases h1 : a < c
    · rw [if_pos h1]
      by_cases h2 : v = unlistedByte
      · rw [if_pos h2]
        by_cases e : b = a
        · subst e; rw [if_pos rfl, h2, Memory.get, if_neg (by omega), if_pos h1]
        · rw [if_neg e]
      · rw [if_neg h2]
        by_cases e : b = a
        · rw [if_pos e, Memory.get, if_pos e]
        · rw [if_neg e, Memory.get, if_neg e]
          by_cases h3 : b < a
          · rw [if_pos h3, Memory.get, if_neg (by omega), if_pos (by omega)]
          · rw [if_neg h3]
    · rw [if_neg h1]
      by_cases h2 : a = c
      · subst h2
        rw [if_pos rfl]
        by_cases h3 : v = unlistedByte
        · rw [if_pos h3]
          by_cases e : b = a
          · subst e; rw [if_pos rfl, h3]; exact Memory.get_below (by omega) k.2
          · rw [if_neg e]
            by_cases h4 : b < a
            · rw [Memory.get, if_neg e, if_pos h4]; exact Memory.get_below (by omega) k.2
            · rw [Memory.get, if_neg e, if_neg h4]
        · rw [if_neg h3]
          by_cases e : b = a
          · rw [if_pos e, Memory.get, if_pos e]
          · rw [if_neg e, Memory.get, Memory.get, if_neg e, if_neg e]
      · rw [if_neg h2]
        by_cases e : b = c
        · rw [Memory.get, if_pos e, if_neg (by omega), Memory.get, if_pos e]
        · by_cases h4 : b < c
          · rw [Memory.get, if_neg e, if_pos h4, if_neg (by omega), Memory.get, if_neg e, if_pos h4]
          · rw [Memory.get, if_neg e, if_neg h4, ih]
            by_cases h5 : b = a
            · rw [if_pos h5, if_pos h5]
            · rw [if_neg h5, if_neg h5, Memory.get, if_neg e, if_neg h4]

/-- A byte written reads as written, every other byte as before. -/
theorem Memory.get_put {m : List Cell} (h : Memory.wf m = true) (a : Nat) (v : Byte) (b : Nat) :
    Memory.get (Memory.put m a v) b = if b = a then v else Memory.get m b := Memory.get_put_from a v b h

/-- Bytes written read as written, every other byte as before. -/
theorem Memory.get_write {m : List Cell} (h : Memory.wf m = true) (a n x b : Nat) :
    Memory.get (Memory.write m a n x) b =
      if a ≤ b ∧ b < a + n then BitVec.ofNat 8 (x / 256 ^ (b - a)) else Memory.get m b := by
  induction n generalizing m a x with
  | zero => rw [if_neg (by omega)]; rfl
  | succ n ih =>
    rw [Memory.write, ih (Memory.wf_put h _ _), Memory.get_put h]
    by_cases e : b = a
    · subst e
      rw [if_neg (by omega), if_pos rfl, if_pos (by omega)]
      simp
    · by_cases k : a + 1 ≤ b ∧ b < a + 1 + n
      · rw [if_pos k, if_pos (by omega), Nat.div_div_eq_div_mul]
        congr 2
        have : b - a = (b - (a + 1)) + 1 := by omega
        rw [this, Nat.pow_succ, Nat.mul_comm]
      · rw [if_neg k, if_neg e, if_neg (by omega)]

/-- Bytes outside a write read as before. -/
theorem Memory.get_write_other {m : List Cell} (h : Memory.wf m = true) (a n x b : Nat) (k : b < a ∨ a + n ≤ b) :
    Memory.get (Memory.write m a n x) b = Memory.get m b := by
  rw [Memory.get_write h, if_neg (by omega)]

/-! ### Operations of the device and the core -/

@[simp] theorem Device.poison_mem (d : Device) (g : Nat) : (d.poison g).mem = d.mem := rfl

@[simp] theorem Device.wake_mem (d : Device) (lo hi : Nat) : (d.wake lo hi).mem = d.mem := rfl

/-- What a write of the device leaves of memory. -/
theorem Device.writeP_mem (d : Device) (pa n x : Nat) (p : Bool) : (d.writeP pa n x p).mem = Memory.write d.mem pa n x := by
  unfold Device.writeP
  split
  · rename_i h; subst h; rfl
  · rfl

/-- A write of the device touches nothing but memory, its poison and errors, scrubs and monitors. -/
theorem Device.writeP_rest (d : Device) (pa n x : Nat) (p : Bool) :
    { d.writeP pa n x p with
      mem := d.mem, memPoison := d.memPoison, memError := d.memError, l2Error := d.l2Error, scrubs := d.scrubs
      monitors := d.monitors } = d := by
  unfold Device.writeP
  split <;> rfl

/-- A write of the device keeps memory in canonical form. -/
theorem Device.writeP_wf {d : Device} (h : Memory.wf d.mem = true) (pa n x : Nat) (p : Bool) :
    Memory.wf (d.writeP pa n x p).mem = true := by
  rw [Device.writeP_mem]; exact Memory.wf_write h _ _ _

/-- So does the write of some bytes of a granule. -/
theorem Device.writeMasked_wf {d : Device} (h : Memory.wf d.mem = true) (g : Nat) (m : BitVec 64) (x : BitVec 512)
    (p : Bool) : Memory.wf (d.writeMasked g m x p).mem = true := by
  unfold Device.writeMasked
  simp only [Device.wake_mem]
  exact Memory.wf_write h _ _ _

/-- And the write of a clean value. -/
theorem Device.write_wf {d : Device} (h : Memory.wf d.mem = true) (pa n x : Nat) :
    Memory.wf (d.write pa n x).mem = true := Device.writeP_wf h _ _ _ _

/-- Words written in order keep memory in canonical form. -/
theorem Device.writeWords_wf {d : Device} (h : Memory.wf d.mem = true) (pa : Nat) (ws : List Nat) :
    Memory.wf (d.writeWords pa ws).mem = true := by
  induction ws generalizing d pa with
  | nil => exact h
  | cons w r ih =>
    rw [Device.writeWords]
    exact ih (Device.write_wf h _ _ _) _

/-- So does a combining entry given back (R203). -/
theorem Device.giveBack_wf {d : Device} (h : Memory.wf d.mem = true) (g : Nat) : Memory.wf (d.giveBack g).mem = true := by
  unfold Device.giveBack
  split
  · exact h
  · rw [Device.writeP_mem]
    exact Memory.wf_write h _ _ _

/-- And the recall of the open entries of an access (R204). -/
theorem Device.settle_wf {d : Device} (h : Memory.wf d.mem = true) (pa n : Nat) :
    Memory.wf (d.settle pa n).mem = true := by
  unfold Device.settle
  generalize d.combines.filter _ = l
  induction l generalizing d with
  | nil => exact h
  | cons c r ih => exact ih (Device.giveBack_wf h _)

/-- And a write that recalls first. -/
theorem Device.writeAt_wf {d : Device} (h : Memory.wf d.mem = true) (pa n x : Nat) (p : Bool) :
    Memory.wf (d.writeAt pa n x p).mem = true := by
  unfold Device.writeAt
  exact Device.writeP_wf (Device.settle_wf h _ _) _ _ _ _

end Sys2Proof.Machine
end

