-- ==== Sys2Proof/Laws/PerInstr.lean ====
section
/-! SUPPORT. Laws/PerInstr.lean: the family RoundTrip, one lemma for each constructor: the word of a well-formed
instruction decodes to it. -/

namespace Sys2Proof.Laws

open Sys2Proof

set_option Elab.async false
set_option linter.unusedSimpArgs false

/-- The word the encoder gives a well-formed instruction decodes to that instruction. -/
def RoundTrip.Statement (i : Instr) : Prop := i.wf = true → decode (encode i) = .ok i

theorem RoundTrip.add (d a b : SReg) : RoundTrip.Statement (.add d a b) := by
  intro _
  refine (decode_01 (encS_major ..)).trans ?_
  unfold decInt
  simp (disch := omega) only [encS, fld, fld_append_hi, fld_append_lo, Nat.reduceSub, BitVec.extractLsb'_eq_self]
  exact accept_ok _ (BitVec.and_zero) rfl

theorem RoundTrip.sub (d a b : SReg) : RoundTrip.Statement (.sub d a b) := by
  intro _
  refine (decode_01 (encS_major ..)).trans ?_
  unfold decInt
  simp (disch := omega) only [encS, fld, fld_append_hi, fld_append_lo, Nat.reduceSub, BitVec.extractLsb'_eq_self]
  exact accept_ok _ (BitVec.and_zero) rfl

theorem RoundTrip.mul (d a b : SReg) : RoundTrip.Statement (.mul d a b) := by
  intro _
  refine (decode_01 (encS_major ..)).trans ?_
  unfold decInt
  simp (disch := omega) only [encS, fld, fld_append_hi, fld_append_lo, Nat.reduceSub, BitVec.extractLsb'_eq_self]
  exact accept_ok _ (BitVec.and_zero) rfl

theorem RoundTrip.mulh (d a b : SReg) : RoundTrip.Statement (.mulh d a b) := by
  intro _
  refine (decode_01 (encS_major ..)).trans ?_
  unfold decInt
  simp (disch := omega) only [encS, fld, fld_append_hi, fld_append_lo, Nat.reduceSub, BitVec.extractLsb'_eq_self]
  exact accept_ok _ (BitVec.and_zero) rfl

theorem RoundTrip.mulhu (d a b : SReg) : RoundTrip.Statement (.mulhu d a b) := by
  intro _
  refine (decode_01 (encS_major ..)).trans ?_
  unfold decInt
  simp (disch := omega) only [encS, fld, fld_append_hi, fld_append_lo, Nat.reduceSub, BitVec.extractLsb'_eq_self]
  exact accept_ok _ (BitVec.and_zero) rfl

theorem RoundTrip.div (d a b : SReg) : RoundTrip.Statement (.div d a b) := by
  intro _
  refine (decode_01 (encS_major ..)).trans ?_
  unfold decInt
  simp (disch := omega) only [encS, fld, fld_append_hi, fld_append_lo, Nat.reduceSub, BitVec.extractLsb'_eq_self]
  exact accept_ok _ (BitVec.and_zero) rfl

theorem RoundTrip.divu (d a b : SReg) : RoundTrip.Statement (.divu d a b) := by
  intro _
  refine (decode_01 (encS_major ..)).trans ?_
  unfold decInt
  simp (disch := omega) only [encS, fld, fld_append_hi, fld_append_lo, Nat.reduceSub, BitVec.extractLsb'_eq_self]
  exact accept_ok _ (BitVec.and_zero) rfl

theorem RoundTrip.rem (d a b : SReg) : RoundTrip.Statement (.rem d a b) := by
  intro _
  refine (decode_01 (encS_major ..)).trans ?_
  unfold decInt
  simp (disch := omega) only [encS, fld, fld_append_hi, fld_append_lo, Nat.reduceSub, BitVec.extractLsb'_eq_self]
  exact accept_ok _ (BitVec.and_zero) rfl

theorem RoundTrip.remu (d a b : SReg) : RoundTrip.Statement (.remu d a b) := by
  intro _
  refine (decode_01 (encS_major ..)).trans ?_
  unfold decInt
  simp (disch := omega) only [encS, fld, fld_append_hi, fld_append_lo, Nat.reduceSub, BitVec.extractLsb'_eq_self]
  exact accept_ok _ (BitVec.and_zero) rfl

theorem RoundTrip.and (d a b : SReg) : RoundTrip.Statement (.and d a b) := by
  intro _
  refine (decode_01 (encS_major ..)).trans ?_
  unfold decInt
  simp (disch := omega) only [encS, fld, fld_append_hi, fld_append_lo, Nat.reduceSub, BitVec.extractLsb'_eq_self]
  exact accept_ok _ (BitVec.and_zero) rfl

theorem RoundTrip.or (d a b : SReg) : RoundTrip.Statement (.or d a b) := by
  intro _
  refine (decode_01 (encS_major ..)).trans ?_
  unfold decInt
  simp (disch := omega) only [encS, fld, fld_append_hi, fld_append_lo, Nat.reduceSub, BitVec.extractLsb'_eq_self]
  exact accept_ok _ (BitVec.and_zero) rfl

theorem RoundTrip.xor (d a b : SReg) : RoundTrip.Statement (.xor d a b) := by
  intro _
  refine (decode_01 (encS_major ..)).trans ?_
  unfold decInt
  simp (disch := omega) only [encS, fld, fld_append_hi, fld_append_lo, Nat.reduceSub, BitVec.extractLsb'_eq_self]
  exact accept_ok _ (BitVec.and_zero) rfl

theorem RoundTrip.shl (d a b : SReg) : RoundTrip.Statement (.shl d a b) := by
  intro _
  refine (decode_01 (encS_major ..)).trans ?_
  unfold decInt
  simp (disch := omega) only [encS, fld, fld_append_hi, fld_append_lo, Nat.reduceSub, BitVec.extractLsb'_eq_self]
  exact accept_ok _ (BitVec.and_zero) rfl

theorem RoundTrip.shr (d a b : SReg) : RoundTrip.Statement (.shr d a b) := by
  intro _
  refine (decode_01 (encS_major ..)).trans ?_
  unfold decInt
  simp (disch := omega) only [encS, fld, fld_append_hi, fld_append_lo, Nat.reduceSub, BitVec.extractLsb'_eq_self]
  exact accept_ok _ (BitVec.and_zero) rfl

theorem RoundTrip.sra (d a b : SReg) : RoundTrip.Statement (.sra d a b) := by
  intro _
  refine (decode_01 (encS_major ..)).trans ?_
  unfold decInt
  simp (disch := omega) only [encS, fld, fld_append_hi, fld_append_lo, Nat.reduceSub, BitVec.extractLsb'_eq_self]
  exact accept_ok _ (BitVec.and_zero) rfl

theorem RoundTrip.slt (d a b : SReg) : RoundTrip.Statement (.slt d a b) := by
  intro _
  refine (decode_01 (encS_major ..)).trans ?_
  unfold decInt
  simp (disch := omega) only [encS, fld, fld_append_hi, fld_append_lo, Nat.reduceSub, BitVec.extractLsb'_eq_self]
  exact accept_ok _ (BitVec.and_zero) rfl

theorem RoundTrip.sltu (d a b : SReg) : RoundTrip.Statement (.sltu d a b) := by
  intro _
  refine (decode_01 (encS_major ..)).trans ?_
  unfold decInt
  simp (disch := omega) only [encS, fld, fld_append_hi, fld_append_lo, Nat.reduceSub, BitVec.extractLsb'_eq_self]
  exact accept_ok _ (BitVec.and_zero) rfl

theorem RoundTrip.min (d a b : SReg) : RoundTrip.Statement (.min d a b) := by
  intro _
  refine (decode_01 (encS_major ..)).trans ?_
  unfold decInt
  simp (disch := omega) only [encS, fld, fld_append_hi, fld_append_lo, Nat.reduceSub, BitVec.extractLsb'_eq_self]
  exact accept_ok _ (BitVec.and_zero) rfl

theorem RoundTrip.max (d a b : SReg) : RoundTrip.Statement (.max d a b) := by
  intro _
  refine (decode_01 (encS_major ..)).trans ?_
  unfold decInt
  simp (disch := omega) only [encS, fld, fld_append_hi, fld_append_lo, Nat.reduceSub, BitVec.extractLsb'_eq_self]
  exact accept_ok _ (BitVec.and_zero) rfl

theorem RoundTrip.clz (d a : SReg) : RoundTrip.Statement (.clz d a) := by
  intro _
  refine (decode_01 (encS_major ..)).trans ?_
  unfold decInt
  simp (disch := omega) only [encS, fld, fld_append_hi, fld_append_lo, Nat.reduceSub, BitVec.extractLsb'_eq_self]
  refine accept_runs _ [(8, 6)] rfl ?_
  simp (disch := omega) only [List.forall_mem_cons, fld_append_hi, fld_append_lo, Nat.reduceSub]
  simp

theorem RoundTrip.popc (d a : SReg) : RoundTrip.Statement (.popc d a) := by
  intro _
  refine (decode_01 (encS_major ..)).trans ?_
  unfold decInt
  simp (disch := omega) only [encS, fld, fld_append_hi, fld_append_lo, Nat.reduceSub, BitVec.extractLsb'_eq_self]
  refine accept_runs _ [(8, 6)] rfl ?_
  simp (disch := omega) only [List.forall_mem_cons, fld_append_hi, fld_append_lo, Nat.reduceSub]
  simp

theorem RoundTrip.csel (d a b : SReg) : RoundTrip.Statement (.csel d a b) := by
  intro _
  refine (decode_01 (encS_major ..)).trans ?_
  unfold decInt
  simp (disch := omega) only [encS, fld, fld_append_hi, fld_append_lo, Nat.reduceSub, BitVec.extractLsb'_eq_self]
  exact accept_ok _ (BitVec.and_zero) rfl

theorem RoundTrip.addi (d a : SReg) (i : BitVec 14) : RoundTrip.Statement (.addi d a i) := by
  intro _
  refine (decode_02 (encSI_major ..)).trans ?_
  simp (disch := omega) only [encSI, fld, fld_append_hi, fld_append_lo, Nat.reduceSub, BitVec.extractLsb'_eq_self]
  exact accept_ok _ (BitVec.and_zero) rfl

theorem RoundTrip.andi (d a : SReg) (i : BitVec 14) : RoundTrip.Statement (.andi d a i) := by
  intro _
  refine (decode_03 (encSI_major ..)).trans ?_
  simp (disch := omega) only [encSI, fld, fld_append_hi, fld_append_lo, Nat.reduceSub, BitVec.extractLsb'_eq_self]
  exact accept_ok _ (BitVec.and_zero) rfl

theorem RoundTrip.ori (d a : SReg) (i : BitVec 14) : RoundTrip.Statement (.ori d a i) := by
  intro _
  refine (decode_04 (encSI_major ..)).trans ?_
  simp (disch := omega) only [encSI, fld, fld_append_hi, fld_append_lo, Nat.reduceSub, BitVec.extractLsb'_eq_self]
  exact accept_ok _ (BitVec.and_zero) rfl

theorem RoundTrip.xori (d a : SReg) (i : BitVec 14) : RoundTrip.Statement (.xori d a i) := by
  intro _
  refine (decode_05 (encSI_major ..)).trans ?_
  simp (disch := omega) only [encSI, fld, fld_append_hi, fld_append_lo, Nat.reduceSub, BitVec.extractLsb'_eq_self]
  exact accept_ok _ (BitVec.and_zero) rfl

theorem RoundTrip.slti (d a : SReg) (i : BitVec 14) : RoundTrip.Statement (.slti d a i) := by
  intro _
  refine (decode_06 (encSI_major ..)).trans ?_
  simp (disch := omega) only [encSI, fld, fld_append_hi, fld_append_lo, Nat.reduceSub, BitVec.extractLsb'_eq_self]
  exact accept_ok _ (BitVec.and_zero) rfl

theorem RoundTrip.shli (d a : SReg) (n : BitVec 6) : RoundTrip.Statement (.shli d a n) := by
  intro _
  refine (decode_07 (encSI_major ..)).trans ?_
  unfold decShiftImm
  simp (disch := omega) only [encSI, fld, fld_append_hi, fld_append_lo, Nat.reduceSub, BitVec.extractLsb'_eq_self]
  simp only [show 14 - (8 + 6) = 0 from rfl, show 15 - (8 + 6) = 1 from rfl, show 16 - (8 + 6) = 2 from rfl, show 17 - (8 + 6) = 3 from rfl, show 18 - (8 + 6) = 4 from rfl, show 19 - (8 + 6) = 5 from rfl, show 20 - (8 + 6) = 6 from rfl, show 21 - (8 + 6) = 7 from rfl, show 22 - (8 + 6) = 8 from rfl, show 23 - (8 + 6) = 9 from rfl, show 24 - (8 + 6) = 10 from rfl, show 25 - (8 + 6) = 11 from rfl, show 26 - (8 + 6) = 12 from rfl, bit_bit1, Nat.reduceSub, BitVec.extractLsb'_eq_self]
  refine accept_runs _ [(6, 6)] rfl ?_
  simp (disch := omega) only [List.forall_mem_cons, fld_append_hi, fld_append_lo, Nat.reduceSub]
  simp

theorem RoundTrip.shri (d a : SReg) (n : BitVec 6) : RoundTrip.Statement (.shri d a n) := by
  intro _
  refine (decode_07 (encSI_major ..)).trans ?_
  unfold decShiftImm
  simp (disch := omega) only [encSI, fld, fld_append_hi, fld_append_lo, Nat.reduceSub, BitVec.extractLsb'_eq_self]
  simp only [show 14 - (8 + 6) = 0 from rfl, show 15 - (8 + 6) = 1 from rfl, show 16 - (8 + 6) = 2 from rfl, show 17 - (8 + 6) = 3 from rfl, show 18 - (8 + 6) = 4 from rfl, show 19 - (8 + 6) = 5 from rfl, show 20 - (8 + 6) = 6 from rfl, show 21 - (8 + 6) = 7 from rfl, show 22 - (8 + 6) = 8 from rfl, show 23 - (8 + 6) = 9 from rfl, show 24 - (8 + 6) = 10 from rfl, show 25 - (8 + 6) = 11 from rfl, show 26 - (8 + 6) = 12 from rfl, bit_bit1, Nat.reduceSub, BitVec.extractLsb'_eq_self]
  refine accept_runs _ [(6, 6)] rfl ?_
  simp (disch := omega) only [List.forall_mem_cons, fld_append_hi, fld_append_lo, Nat.reduceSub]
  simp

theorem RoundTrip.srai (d a : SReg) (n : BitVec 6) : RoundTrip.Statement (.srai d a n) := by
  intro _
  refine (decode_07 (encSI_major ..)).trans ?_
  unfold decShiftImm
  simp (disch := omega) only [encSI, fld, fld_append_hi, fld_append_lo, Nat.reduceSub, BitVec.extractLsb'_eq_self]
  simp only [show 14 - (8 + 6) = 0 from rfl, show 15 - (8 + 6) = 1 from rfl, show 16 - (8 + 6) = 2 from rfl, show 17 - (8 + 6) = 3 from rfl, show 18 - (8 + 6) = 4 from rfl, show 19 - (8 + 6) = 5 from rfl, show 20 - (8 + 6) = 6 from rfl, show 21 - (8 + 6) = 7 from rfl, show 22 - (8 + 6) = 8 from rfl, show 23 - (8 + 6) = 9 from rfl, show 24 - (8 + 6) = 10 from rfl, show 25 - (8 + 6) = 11 from rfl, show 26 - (8 + 6) = 12 from rfl, bit_bit1, Nat.reduceSub, BitVec.extractLsb'_eq_self]
  refine accept_runs _ [(6, 6)] rfl ?_
  simp (disch := omega) only [List.forall_mem_cons, fld_append_hi, fld_append_lo, Nat.reduceSub]
  simp

theorem RoundTrip.lui (d : SReg) (i : BitVec 20) : RoundTrip.Statement (.lui d i) := by
  intro _
  refine (decode_08 (encSU_major ..)).trans ?_
  simp (disch := omega) only [encSU, fld, fld_append_hi, fld_append_lo, Nat.reduceSub, BitVec.extractLsb'_eq_self]
  exact accept_ok _ (BitVec.and_zero) rfl

theorem RoundTrip.addpc (d : SReg) (i : BitVec 20) : RoundTrip.Statement (.addpc d i) := by
  intro _
  refine (decode_09 (encSU_major ..)).trans ?_
  simp (disch := omega) only [encSU, fld, fld_append_hi, fld_append_lo, Nat.reduceSub, BitVec.extractLsb'_eq_self]
  exact accept_ok _ (BitVec.and_zero) rfl

theorem RoundTrip.st (s a : SReg) (z : BitVec 2) (i : BitVec 11) : RoundTrip.Statement (.st s a z i) := by
  intro _
  refine (decode_0b (encSI_major ..)).trans ?_
  simp (disch := omega) only [encSI, fld, fld_append_hi, fld_append_lo, Nat.reduceSub, BitVec.extractLsb'_eq_self]
  simp only [show 14 - (2 + 1 + 11) = 0 from rfl, show 15 - (2 + 1 + 11) = 1 from rfl, show 16 - (2 + 1 + 11) = 2 from rfl, show 17 - (2 + 1 + 11) = 3 from rfl, show 18 - (2 + 1 + 11) = 4 from rfl, show 19 - (2 + 1 + 11) = 5 from rfl, show 20 - (2 + 1 + 11) = 6 from rfl, show 21 - (2 + 1 + 11) = 7 from rfl, show 22 - (2 + 1 + 11) = 8 from rfl, show 23 - (2 + 1 + 11) = 9 from rfl, show 24 - (2 + 1 + 11) = 10 from rfl, show 25 - (2 + 1 + 11) = 11 from rfl, show 26 - (2 + 1 + 11) = 12 from rfl, bit_bit1, Nat.reduceSub, BitVec.extractLsb'_eq_self]
  refine accept_runs _ [(11, 1)] rfl ?_
  simp (disch := omega) only [List.forall_mem_cons, fld_append_hi, fld_append_lo, Nat.reduceSub]
  simp

theorem RoundTrip.lda (d a : SReg) (z c : BitVec 2) : RoundTrip.Statement (.lda d a z c) := by
  intro _
  refine (decode_0c (encSA_major ..)).trans ?_
  simp (disch := omega) only [encSA, fld, fld_append_hi, fld_append_lo, Nat.reduceSub, BitVec.extractLsb'_eq_self]
  refine accept_runs _ [(4, 6), (0, 4)] rfl ?_
  simp (disch := omega) only [List.forall_mem_cons, fld_append_hi, fld_append_lo, Nat.reduceSub]
  simp

theorem RoundTrip.stl (s a : SReg) (z c : BitVec 2) : RoundTrip.Statement (.stl s a z c) := by
  intro _
  refine (decode_0d (encSA_major ..)).trans ?_
  simp (disch := omega) only [encSA, fld, fld_append_hi, fld_append_lo, Nat.reduceSub, BitVec.extractLsb'_eq_self]
  refine accept_runs _ [(4, 6), (0, 4)] rfl ?_
  simp (disch := omega) only [List.forall_mem_cons, fld_append_hi, fld_append_lo, Nat.reduceSub]
  simp

theorem RoundTrip.beq (a b : SReg) (o : BitVec 14) : RoundTrip.Statement (.beq a b o) := by
  intro _
  refine (decode_10 (encSI_major ..)).trans ?_
  simp (disch := omega) only [encSI, fld, fld_append_hi, fld_append_lo, Nat.reduceSub, BitVec.extractLsb'_eq_self]
  exact accept_ok _ (BitVec.and_zero) rfl

theorem RoundTrip.bne (a b : SReg) (o : BitVec 14) : RoundTrip.Statement (.bne a b o) := by
  intro _
  refine (decode_11 (encSI_major ..)).trans ?_
  simp (disch := omega) only [encSI, fld, fld_append_hi, fld_append_lo, Nat.reduceSub, BitVec.extractLsb'_eq_self]
  exact accept_ok _ (BitVec.and_zero) rfl

theorem RoundTrip.blt (a b : SReg) (o : BitVec 14) : RoundTrip.Statement (.blt a b o) := by
  intro _
  refine (decode_12 (encSI_major ..)).trans ?_
  simp (disch := omega) only [encSI, fld, fld_append_hi, fld_append_lo, Nat.reduceSub, BitVec.extractLsb'_eq_self]
  exact accept_ok _ (BitVec.and_zero) rfl

theorem RoundTrip.bge (a b : SReg) (o : BitVec 14) : RoundTrip.Statement (.bge a b o) := by
  intro _
  refine (decode_13 (encSI_major ..)).trans ?_
  simp (disch := omega) only [encSI, fld, fld_append_hi, fld_append_lo, Nat.reduceSub, BitVec.extractLsb'_eq_self]
  exact accept_ok _ (BitVec.and_zero) rfl

theorem RoundTrip.bltu (a b : SReg) (o : BitVec 14) : RoundTrip.Statement (.bltu a b o) := by
  intro _
  refine (decode_14 (encSI_major ..)).trans ?_
  simp (disch := omega) only [encSI, fld, fld_append_hi, fld_append_lo, Nat.reduceSub, BitVec.extractLsb'_eq_self]
  exact accept_ok _ (BitVec.and_zero) rfl

theorem RoundTrip.bgeu (a b : SReg) (o : BitVec 14) : RoundTrip.Statement (.bgeu a b o) := by
  intro _
  refine (decode_15 (encSI_major ..)).trans ?_
  simp (disch := omega) only [encSI, fld, fld_append_hi, fld_append_lo, Nat.reduceSub, BitVec.extractLsb'_eq_self]
  exact accept_ok _ (BitVec.and_zero) rfl

theorem RoundTrip.jal (d : SReg) (i : BitVec 20) : RoundTrip.Statement (.jal d i) := by
  intro _
  refine (decode_16 (encSU_major ..)).trans ?_
  simp (disch := omega) only [encSU, fld, fld_append_hi, fld_append_lo, Nat.reduceSub, BitVec.extractLsb'_eq_self]
  exact accept_ok _ (BitVec.and_zero) rfl

theorem RoundTrip.jalr (d a : SReg) (i : BitVec 14) : RoundTrip.Statement (.jalr d a i) := by
  intro _
  refine (decode_17 (encSI_major ..)).trans ?_
  simp (disch := omega) only [encSI, fld, fld_append_hi, fld_append_lo, Nat.reduceSub, BitVec.extractLsb'_eq_self]
  exact accept_ok _ (BitVec.and_zero) rfl

theorem RoundTrip.fadd (d a b : SReg) (t : BitVec 3) : RoundTrip.Statement (.fadd d a b t) := by
  intro _
  refine (decode_18 (encS_major ..)).trans ?_
  unfold decFp
  simp (disch := omega) only [encS, fld, fld_append_hi, fld_append_lo, Nat.reduceSub, BitVec.extractLsb'_eq_self]
  simp only [show 8 - (5 + 3) = 0 from rfl, show 9 - (5 + 3) = 1 from rfl, show 10 - (5 + 3) = 2 from rfl, show 11 - (5 + 3) = 3 from rfl, show 12 - (5 + 3) = 4 from rfl, show 13 - (5 + 3) = 5 from rfl, show 14 - (5 + 3) = 6 from rfl, show 15 - (5 + 3) = 7 from rfl, show 16 - (5 + 3) = 8 from rfl, show 17 - (5 + 3) = 9 from rfl, show 18 - (5 + 3) = 10 from rfl, show 19 - (5 + 3) = 11 from rfl, show 20 - (5 + 3) = 12 from rfl, show 21 - (5 + 3) = 13 from rfl, show 22 - (5 + 3) = 14 from rfl, show 23 - (5 + 3) = 15 from rfl, show 24 - (5 + 3) = 16 from rfl, show 25 - (5 + 3) = 17 from rfl, show 26 - (5 + 3) = 18 from rfl, bit_bit1, Nat.reduceSub, BitVec.extractLsb'_eq_self]
  exact accept_ok _ (BitVec.and_zero) rfl

theorem RoundTrip.fsub (d a b : SReg) (t : BitVec 3) : RoundTrip.Statement (.fsub d a b t) := by
  intro _
  refine (decode_18 (encS_major ..)).trans ?_
  unfold decFp
  simp (disch := omega) only [encS, fld, fld_append_hi, fld_append_lo, Nat.reduceSub, BitVec.extractLsb'_eq_self]
  simp only [show 8 - (5 + 3) = 0 from rfl, show 9 - (5 + 3) = 1 from rfl, show 10 - (5 + 3) = 2 from rfl, show 11 - (5 + 3) = 3 from rfl, show 12 - (5 + 3) = 4 from rfl, show 13 - (5 + 3) = 5 from rfl, show 14 - (5 + 3) = 6 from rfl, show 15 - (5 + 3) = 7 from rfl, show 16 - (5 + 3) = 8 from rfl, show 17 - (5 + 3) = 9 from rfl, show 18 - (5 + 3) = 10 from rfl, show 19 - (5 + 3) = 11 from rfl, show 20 - (5 + 3) = 12 from rfl, show 21 - (5 + 3) = 13 from rfl, show 22 - (5 + 3) = 14 from rfl, show 23 - (5 + 3) = 15 from rfl, show 24 - (5 + 3) = 16 from rfl, show 25 - (5 + 3) = 17 from rfl, show 26 - (5 + 3) = 18 from rfl, bit_bit1, Nat.reduceSub, BitVec.extractLsb'_eq_self]
  exact accept_ok _ (BitVec.and_zero) rfl

theorem RoundTrip.fmul (d a b : SReg) (t : BitVec 3) : RoundTrip.Statement (.fmul d a b t) := by
  intro _
  refine (decode_18 (encS_major ..)).trans ?_
  unfold decFp
  simp (disch := omega) only [encS, fld, fld_append_hi, fld_append_lo, Nat.reduceSub, BitVec.extractLsb'_eq_self]
  simp only [show 8 - (5 + 3) = 0 from rfl, show 9 - (5 + 3) = 1 from rfl, show 10 - (5 + 3) = 2 from rfl, show 11 - (5 + 3) = 3 from rfl, show 12 - (5 + 3) = 4 from rfl, show 13 - (5 + 3) = 5 from rfl, show 14 - (5 + 3) = 6 from rfl, show 15 - (5 + 3) = 7 from rfl, show 16 - (5 + 3) = 8 from rfl, show 17 - (5 + 3) = 9 from rfl, show 18 - (5 + 3) = 10 from rfl, show 19 - (5 + 3) = 11 from rfl, show 20 - (5 + 3) = 12 from rfl, show 21 - (5 + 3) = 13 from rfl, show 22 - (5 + 3) = 14 from rfl, show 23 - (5 + 3) = 15 from rfl, show 24 - (5 + 3) = 16 from rfl, show 25 - (5 + 3) = 17 from rfl, show 26 - (5 + 3) = 18 from rfl, bit_bit1, Nat.reduceSub, BitVec.extractLsb'_eq_self]
  exact accept_ok _ (BitVec.and_zero) rfl

theorem RoundTrip.fdiv (d a b : SReg) (t : BitVec 3) : RoundTrip.Statement (.fdiv d a b t) := by
  intro _
  refine (decode_18 (encS_major ..)).trans ?_
  unfold decFp
  simp (disch := omega) only [encS, fld, fld_append_hi, fld_append_lo, Nat.reduceSub, BitVec.extractLsb'_eq_self]
  simp only [show 8 - (5 + 3) = 0 from rfl, show 9 - (5 + 3) = 1 from rfl, show 10 - (5 + 3) = 2 from rfl, show 11 - (5 + 3) = 3 from rfl, show 12 - (5 + 3) = 4 from rfl, show 13 - (5 + 3) = 5 from rfl, show 14 - (5 + 3) = 6 from rfl, show 15 - (5 + 3) = 7 from rfl, show 16 - (5 + 3) = 8 from rfl, show 17 - (5 + 3) = 9 from rfl, show 18 - (5 + 3) = 10 from rfl, show 19 - (5 + 3) = 11 from rfl, show 20 - (5 + 3) = 12 from rfl, show 21 - (5 + 3) = 13 from rfl, show 22 - (5 + 3) = 14 from rfl, show 23 - (5 + 3) = 15 from rfl, show 24 - (5 + 3) = 16 from rfl, show 25 - (5 + 3) = 17 from rfl, show 26 - (5 + 3) = 18 from rfl, bit_bit1, Nat.reduceSub, BitVec.extractLsb'_eq_self]
  exact accept_ok _ (BitVec.and_zero) rfl

theorem RoundTrip.fsqrt (d a : SReg) (t : BitVec 3) : RoundTrip.Statement (.fsqrt d a t) := by
  intro _
  refine (decode_18 (encS_major ..)).trans ?_
  unfold decFp
  simp (disch := omega) only [encS, fld, fld_append_hi, fld_append_lo, Nat.reduceSub, BitVec.extractLsb'_eq_self]
  simp only [show 8 - (5 + 3) = 0 from rfl, show 9 - (5 + 3) = 1 from rfl, show 10 - (5 + 3) = 2 from rfl, show 11 - (5 + 3) = 3 from rfl, show 12 - (5 + 3) = 4 from rfl, show 13 - (5 + 3) = 5 from rfl, show 14 - (5 + 3) = 6 from rfl, show 15 - (5 + 3) = 7 from rfl, show 16 - (5 + 3) = 8 from rfl, show 17 - (5 + 3) = 9 from rfl, show 18 - (5 + 3) = 10 from rfl, show 19 - (5 + 3) = 11 from rfl, show 20 - (5 + 3) = 12 from rfl, show 21 - (5 + 3) = 13 from rfl, show 22 - (5 + 3) = 14 from rfl, show 23 - (5 + 3) = 15 from rfl, show 24 - (5 + 3) = 16 from rfl, show 25 - (5 + 3) = 17 from rfl, show 26 - (5 + 3) = 18 from rfl, bit_bit1, Nat.reduceSub, BitVec.extractLsb'_eq_self]
  refine accept_runs _ [(8, 6)] rfl ?_
  simp (disch := omega) only [List.forall_mem_cons, fld_append_hi, fld_append_lo, Nat.reduceSub]
  simp

theorem RoundTrip.fma (d a b : SReg) (t : BitVec 3) : RoundTrip.Statement (.fma d a b t) := by
  intro _
  refine (decode_18 (encS_major ..)).trans ?_
  unfold decFp
  simp (disch := omega) only [encS, fld, fld_append_hi, fld_append_lo, Nat.reduceSub, BitVec.extractLsb'_eq_self]
  simp only [show 8 - (5 + 3) = 0 from rfl, show 9 - (5 + 3) = 1 from rfl, show 10 - (5 + 3) = 2 from rfl, show 11 - (5 + 3) = 3 from rfl, show 12 - (5 + 3) = 4 from rfl, show 13 - (5 + 3) = 5 from rfl, show 14 - (5 + 3) = 6 from rfl, show 15 - (5 + 3) = 7 from rfl, show 16 - (5 + 3) = 8 from rfl, show 17 - (5 + 3) = 9 from rfl, show 18 - (5 + 3) = 10 from rfl, show 19 - (5 + 3) = 11 from rfl, show 20 - (5 + 3) = 12 from rfl, show 21 - (5 + 3) = 13 from rfl, show 22 - (5 + 3) = 14 from rfl, show 23 - (5 + 3) = 15 from rfl, show 24 - (5 + 3) = 16 from rfl, show 25 - (5 + 3) = 17 from rfl, show 26 - (5 + 3) = 18 from rfl, bit_bit1, Nat.reduceSub, BitVec.extractLsb'_eq_self]
  exact accept_ok _ (BitVec.and_zero) rfl

theorem RoundTrip.fmin (d a b : SReg) (t : BitVec 3) : RoundTrip.Statement (.fmin d a b t) := by
  intro _
  refine (decode_18 (encS_major ..)).trans ?_
  unfold decFp
  simp (disch := omega) only [encS, fld, fld_append_hi, fld_append_lo, Nat.reduceSub, BitVec.extractLsb'_eq_self]
  simp only [show 8 - (5 + 3) = 0 from rfl, show 9 - (5 + 3) = 1 from rfl, show 10 - (5 + 3) = 2 from rfl, show 11 - (5 + 3) = 3 from rfl, show 12 - (5 + 3) = 4 from rfl, show 13 - (5 + 3) = 5 from rfl, show 14 - (5 + 3) = 6 from rfl, show 15 - (5 + 3) = 7 from rfl, show 16 - (5 + 3) = 8 from rfl, show 17 - (5 + 3) = 9 from rfl, show 18 - (5 + 3) = 10 from rfl, show 19 - (5 + 3) = 11 from rfl, show 20 - (5 + 3) = 12 from rfl, show 21 - (5 + 3) = 13 from rfl, show 22 - (5 + 3) = 14 from rfl, show 23 - (5 + 3) = 15 from rfl, show 24 - (5 + 3) = 16 from rfl, show 25 - (5 + 3) = 17 from rfl, show 26 - (5 + 3) = 18 from rfl, bit_bit1, Nat.reduceSub, BitVec.extractLsb'_eq_self]
  exact accept_ok _ (BitVec.and_zero) rfl

theorem RoundTrip.fmax (d a b : SReg) (t : BitVec 3) : RoundTrip.Statement (.fmax d a b t) := by
  intro _
  refine (decode_18 (encS_major ..)).trans ?_
  unfold decFp
  simp (disch := omega) only [encS, fld, fld_append_hi, fld_append_lo, Nat.reduceSub, BitVec.extractLsb'_eq_self]
  simp only [show 8 - (5 + 3) = 0 from rfl, show 9 - (5 + 3) = 1 from rfl, show 10 - (5 + 3) = 2 from rfl, show 11 - (5 + 3) = 3 from rfl, show 12 - (5 + 3) = 4 from rfl, show 13 - (5 + 3) = 5 from rfl, show 14 - (5 + 3) = 6 from rfl, show 15 - (5 + 3) = 7 from rfl, show 16 - (5 + 3) = 8 from rfl, show 17 - (5 + 3) = 9 from rfl, show 18 - (5 + 3) = 10 from rfl, show 19 - (5 + 3) = 11 from rfl, show 20 - (5 + 3) = 12 from rfl, show 21 - (5 + 3) = 13 from rfl, show 22 - (5 + 3) = 14 from rfl, show 23 - (5 + 3) = 15 from rfl, show 24 - (5 + 3) = 16 from rfl, show 25 - (5 + 3) = 17 from rfl, show 26 - (5 + 3) = 18 from rfl, bit_bit1, Nat.reduceSub, BitVec.extractLsb'_eq_self]
  exact accept_ok _ (BitVec.and_zero) rfl

theorem RoundTrip.fcmp (d a b : SReg) (t : BitVec 3) : RoundTrip.Statement (.fcmp d a b t) := by
  intro _
  refine (decode_18 (encS_major ..)).trans ?_
  unfold decFp
  simp (disch := omega) only [encS, fld, fld_append_hi, fld_append_lo, Nat.reduceSub, BitVec.extractLsb'_eq_self]
  simp only [show 8 - (5 + 3) = 0 from rfl, show 9 - (5 + 3) = 1 from rfl, show 10 - (5 + 3) = 2 from rfl, show 11 - (5 + 3) = 3 from rfl, show 12 - (5 + 3) = 4 from rfl, show 13 - (5 + 3) = 5 from rfl, show 14 - (5 + 3) = 6 from rfl, show 15 - (5 + 3) = 7 from rfl, show 16 - (5 + 3) = 8 from rfl, show 17 - (5 + 3) = 9 from rfl, show 18 - (5 + 3) = 10 from rfl, show 19 - (5 + 3) = 11 from rfl, show 20 - (5 + 3) = 12 from rfl, show 21 - (5 + 3) = 13 from rfl, show 22 - (5 + 3) = 14 from rfl, show 23 - (5 + 3) = 15 from rfl, show 24 - (5 + 3) = 16 from rfl, show 25 - (5 + 3) = 17 from rfl, show 26 - (5 + 3) = 18 from rfl, bit_bit1, Nat.reduceSub, BitVec.extractLsb'_eq_self]
  exact accept_ok _ (BitVec.and_zero) rfl

theorem RoundTrip.fclass (d a : SReg) (t : BitVec 3) : RoundTrip.Statement (.fclass d a t) := by
  intro _
  refine (decode_18 (encS_major ..)).trans ?_
  unfold decFp
  simp (disch := omega) only [encS, fld, fld_append_hi, fld_append_lo, Nat.reduceSub, BitVec.extractLsb'_eq_self]
  simp only [show 8 - (5 + 3) = 0 from rfl, show 9 - (5 + 3) = 1 from rfl, show 10 - (5 + 3) = 2 from rfl, show 11 - (5 + 3) = 3 from rfl, show 12 - (5 + 3) = 4 from rfl, show 13 - (5 + 3) = 5 from rfl, show 14 - (5 + 3) = 6 from rfl, show 15 - (5 + 3) = 7 from rfl, show 16 - (5 + 3) = 8 from rfl, show 17 - (5 + 3) = 9 from rfl, show 18 - (5 + 3) = 10 from rfl, show 19 - (5 + 3) = 11 from rfl, show 20 - (5 + 3) = 12 from rfl, show 21 - (5 + 3) = 13 from rfl, show 22 - (5 + 3) = 14 from rfl, show 23 - (5 + 3) = 15 from rfl, show 24 - (5 + 3) = 16 from rfl, show 25 - (5 + 3) = 17 from rfl, show 26 - (5 + 3) = 18 from rfl, bit_bit1, Nat.reduceSub, BitVec.extractLsb'_eq_self]
  refine accept_runs _ [(8, 6)] rfl ?_
  simp (disch := omega) only [List.forall_mem_cons, fld_append_hi, fld_append_lo, Nat.reduceSub]
  simp

theorem RoundTrip.fcvtFromFp (d a : SReg) (e : Ty) (t : BitVec 3) : RoundTrip.Statement (.fcvtFromFp d a e t) := by
  intro _
  refine (decode_18 (encS_major ..)).trans ?_
  unfold decFp
  simp (disch := omega) only [encS, ty_roundTrip, fld, fld_append_hi, fld_append_lo, Nat.reduceSub, BitVec.extractLsb'_eq_self]
  simp only [show 6 - (2 + 4) = 0 from rfl, show 7 - (2 + 4) = 1 from rfl, show 8 - (2 + 4) = 2 from rfl, show 9 - (2 + 4) = 3 from rfl, show 10 - (2 + 4) = 4 from rfl, show 11 - (2 + 4) = 5 from rfl, show 12 - (2 + 4) = 6 from rfl, show 13 - (2 + 4) = 7 from rfl, show 14 - (2 + 4) = 8 from rfl, show 15 - (2 + 4) = 9 from rfl, show 16 - (2 + 4) = 10 from rfl, show 17 - (2 + 4) = 11 from rfl, show 18 - (2 + 4) = 12 from rfl, show 19 - (2 + 4) = 13 from rfl, show 20 - (2 + 4) = 14 from rfl, show 21 - (2 + 4) = 15 from rfl, show 22 - (2 + 4) = 16 from rfl, show 23 - (2 + 4) = 17 from rfl, show 24 - (2 + 4) = 18 from rfl, show 25 - (2 + 4) = 19 from rfl, show 26 - (2 + 4) = 20 from rfl, show 8 - (5 + 3) = 0 from rfl, show 9 - (5 + 3) = 1 from rfl, show 10 - (5 + 3) = 2 from rfl, show 11 - (5 + 3) = 3 from rfl, show 12 - (5 + 3) = 4 from rfl, show 13 - (5 + 3) = 5 from rfl, show 14 - (5 + 3) = 6 from rfl, show 15 - (5 + 3) = 7 from rfl, show 16 - (5 + 3) = 8 from rfl, show 17 - (5 + 3) = 9 from rfl, show 18 - (5 + 3) = 10 from rfl, show 19 - (5 + 3) = 11 from rfl, show 20 - (5 + 3) = 12 from rfl, show 21 - (5 + 3) = 13 from rfl, show 22 - (5 + 3) = 14 from rfl, show 23 - (5 + 3) = 15 from rfl, show 24 - (5 + 3) = 16 from rfl, show 25 - (5 + 3) = 17 from rfl, show 26 - (5 + 3) = 18 from rfl, bit_bit1, Nat.reduceSub, ty_roundTrip, BitVec.extractLsb'_eq_self]
  refine accept_runs _ [(12, 2)] rfl ?_
  simp (disch := omega) only [List.forall_mem_cons, fld_append_hi, fld_append_lo, Nat.reduceSub]
  simp

theorem RoundTrip.fcvtFromInt (d a : SReg) (e : Ty) (t : BitVec 3) : RoundTrip.Statement (.fcvtFromInt d a e t) := by
  intro _
  refine (decode_18 (encS_major ..)).trans ?_
  unfold decFp
  simp (disch := omega) only [encS, ty_roundTrip, fld, fld_append_hi, fld_append_lo, Nat.reduceSub, BitVec.extractLsb'_eq_self]
  simp only [show 6 - (2 + 4) = 0 from rfl, show 7 - (2 + 4) = 1 from rfl, show 8 - (2 + 4) = 2 from rfl, show 9 - (2 + 4) = 3 from rfl, show 10 - (2 + 4) = 4 from rfl, show 11 - (2 + 4) = 5 from rfl, show 12 - (2 + 4) = 6 from rfl, show 13 - (2 + 4) = 7 from rfl, show 14 - (2 + 4) = 8 from rfl, show 15 - (2 + 4) = 9 from rfl, show 16 - (2 + 4) = 10 from rfl, show 17 - (2 + 4) = 11 from rfl, show 18 - (2 + 4) = 12 from rfl, show 19 - (2 + 4) = 13 from rfl, show 20 - (2 + 4) = 14 from rfl, show 21 - (2 + 4) = 15 from rfl, show 22 - (2 + 4) = 16 from rfl, show 23 - (2 + 4) = 17 from rfl, show 24 - (2 + 4) = 18 from rfl, show 25 - (2 + 4) = 19 from rfl, show 26 - (2 + 4) = 20 from rfl, show 8 - (5 + 3) = 0 from rfl, show 9 - (5 + 3) = 1 from rfl, show 10 - (5 + 3) = 2 from rfl, show 11 - (5 + 3) = 3 from rfl, show 12 - (5 + 3) = 4 from rfl, show 13 - (5 + 3) = 5 from rfl, show 14 - (5 + 3) = 6 from rfl, show 15 - (5 + 3) = 7 from rfl, show 16 - (5 + 3) = 8 from rfl, show 17 - (5 + 3) = 9 from rfl, show 18 - (5 + 3) = 10 from rfl, show 19 - (5 + 3) = 11 from rfl, show 20 - (5 + 3) = 12 from rfl, show 21 - (5 + 3) = 13 from rfl, show 22 - (5 + 3) = 14 from rfl, show 23 - (5 + 3) = 15 from rfl, show 24 - (5 + 3) = 16 from rfl, show 25 - (5 + 3) = 17 from rfl, show 26 - (5 + 3) = 18 from rfl, bit_bit1, Nat.reduceSub, ty_roundTrip, BitVec.extractLsb'_eq_self]
  refine accept_runs _ [(12, 2)] rfl ?_
  simp (disch := omega) only [List.forall_mem_cons, fld_append_hi, fld_append_lo, Nat.reduceSub]
  simp

theorem RoundTrip.csrr (d : SReg) (c : BitVec 14) : RoundTrip.Statement (.csrr d c) := by
  intro _
  refine (decode_19 (encSI_major ..)).trans ?_
  unfold decCsr
  simp (disch := omega) only [encSI, fld, fld_append_hi, fld_append_lo, Nat.reduceSub, BitVec.extractLsb'_eq_self]
  exact accept_ok _ (BitVec.and_zero) rfl

theorem RoundTrip.csrw (a : SReg) (c : BitVec 14) : RoundTrip.Statement (.csrw a c) := by
  intro _
  refine (decode_19 (encSI_major ..)).trans ?_
  unfold decCsr
  simp (disch := omega) only [encSI, fld, fld_append_hi, fld_append_lo, Nat.reduceSub, BitVec.extractLsb'_eq_self]
  exact accept_ok _ (BitVec.and_zero) rfl

theorem RoundTrip.csrs (a : SReg) (c : BitVec 14) : RoundTrip.Statement (.csrs a c) := by
  intro _
  refine (decode_19 (encSI_major ..)).trans ?_
  unfold decCsr
  simp (disch := omega) only [encSI, fld, fld_append_hi, fld_append_lo, Nat.reduceSub, BitVec.extractLsb'_eq_self]
  exact accept_ok _ (BitVec.and_zero) rfl

theorem RoundTrip.csrc (a : SReg) (c : BitVec 14) : RoundTrip.Statement (.csrc a c) := by
  intro _
  refine (decode_19 (encSI_major ..)).trans ?_
  unfold decCsr
  simp (disch := omega) only [encSI, fld, fld_append_hi, fld_append_lo, Nat.reduceSub, BitVec.extractLsb'_eq_self]
  exact accept_ok _ (BitVec.and_zero) rfl

theorem RoundTrip.setvl (d a : SReg) (t : Ty) : RoundTrip.Statement (.setvl d a t) := by
  intro _
  refine (decode_1a (encS_major ..)).trans ?_
  simp (disch := omega) only [encS, ty_roundTrip, fld, fld_append_hi, fld_append_lo, Nat.reduceSub, BitVec.extractLsb'_eq_self]
  simp only [show 8 - (4 + 4) = 0 from rfl, show 9 - (4 + 4) = 1 from rfl, show 10 - (4 + 4) = 2 from rfl, show 11 - (4 + 4) = 3 from rfl, show 12 - (4 + 4) = 4 from rfl, show 13 - (4 + 4) = 5 from rfl, show 14 - (4 + 4) = 6 from rfl, show 15 - (4 + 4) = 7 from rfl, show 16 - (4 + 4) = 8 from rfl, show 17 - (4 + 4) = 9 from rfl, show 18 - (4 + 4) = 10 from rfl, show 19 - (4 + 4) = 11 from rfl, show 20 - (4 + 4) = 12 from rfl, show 21 - (4 + 4) = 13 from rfl, show 22 - (4 + 4) = 14 from rfl, show 23 - (4 + 4) = 15 from rfl, show 24 - (4 + 4) = 16 from rfl, show 25 - (4 + 4) = 17 from rfl, show 26 - (4 + 4) = 18 from rfl, bit_bit1, Nat.reduceSub, ty_roundTrip, BitVec.extractLsb'_eq_self]
  refine accept_runs _ [(8, 6), (4, 4)] rfl ?_
  simp (disch := omega) only [List.forall_mem_cons, fld_append_hi, fld_append_lo, Nat.reduceSub]
  simp

theorem RoundTrip.qsend (a : SReg) (q : QReg) : RoundTrip.Statement (.qsend a q) := by
  intro _
  refine (decode_1b (encS_major ..)).trans ?_
  unfold decQueue
  simp (disch := omega) only [encS, fld, fld_append_hi, fld_append_lo, Nat.reduceSub, BitVec.extractLsb'_eq_self]
  simp only [show 6 - (3 + 3) = 0 from rfl, show 7 - (3 + 3) = 1 from rfl, show 8 - (3 + 3) = 2 from rfl, show 9 - (3 + 3) = 3 from rfl, show 10 - (3 + 3) = 4 from rfl, show 11 - (3 + 3) = 5 from rfl, show 12 - (3 + 3) = 6 from rfl, show 13 - (3 + 3) = 7 from rfl, show 14 - (3 + 3) = 8 from rfl, show 15 - (3 + 3) = 9 from rfl, show 16 - (3 + 3) = 10 from rfl, show 17 - (3 + 3) = 11 from rfl, show 18 - (3 + 3) = 12 from rfl, show 19 - (3 + 3) = 13 from rfl, show 20 - (3 + 3) = 14 from rfl, show 21 - (3 + 3) = 15 from rfl, show 22 - (3 + 3) = 16 from rfl, show 23 - (3 + 3) = 17 from rfl, show 24 - (3 + 3) = 18 from rfl, show 25 - (3 + 3) = 19 from rfl, show 26 - (3 + 3) = 20 from rfl, bit_bit1, Nat.reduceSub, BitVec.extractLsb'_eq_self]
  refine accept_runs _ [(20, 6), (11, 3)] rfl ?_
  simp (disch := omega) only [List.forall_mem_cons, fld_append_hi, fld_append_lo, Nat.reduceSub]
  simp

theorem RoundTrip.qrecv (d : SReg) (q : QReg) : RoundTrip.Statement (.qrecv d q) := by
  intro _
  refine (decode_1b (encS_major ..)).trans ?_
  unfold decQueue
  simp (disch := omega) only [encS, fld, fld_append_hi, fld_append_lo, Nat.reduceSub, BitVec.extractLsb'_eq_self]
  simp only [show 6 - (3 + 3) = 0 from rfl, show 7 - (3 + 3) = 1 from rfl, show 8 - (3 + 3) = 2 from rfl, show 9 - (3 + 3) = 3 from rfl, show 10 - (3 + 3) = 4 from rfl, show 11 - (3 + 3) = 5 from rfl, show 12 - (3 + 3) = 6 from rfl, show 13 - (3 + 3) = 7 from rfl, show 14 - (3 + 3) = 8 from rfl, show 15 - (3 + 3) = 9 from rfl, show 16 - (3 + 3) = 10 from rfl, show 17 - (3 + 3) = 11 from rfl, show 18 - (3 + 3) = 12 from rfl, show 19 - (3 + 3) = 13 from rfl, show 20 - (3 + 3) = 14 from rfl, show 21 - (3 + 3) = 15 from rfl, show 22 - (3 + 3) = 16 from rfl, show 23 - (3 + 3) = 17 from rfl, show 24 - (3 + 3) = 18 from rfl, show 25 - (3 + 3) = 19 from rfl, show 26 - (3 + 3) = 20 from rfl, bit_bit1, Nat.reduceSub, BitVec.extractLsb'_eq_self]
  refine accept_runs _ [(14, 6), (11, 3)] rfl ?_
  simp (disch := omega) only [List.forall_mem_cons, fld_append_hi, fld_append_lo, Nat.reduceSub]
  simp

theorem RoundTrip.qstat (d : SReg) (q : QReg) : RoundTrip.Statement (.qstat d q) := by
  intro _
  refine (decode_1b (encS_major ..)).trans ?_
  unfold decQueue
  simp (disch := omega) only [encS, fld, fld_append_hi, fld_append_lo, Nat.reduceSub, BitVec.extractLsb'_eq_self]
  simp only [show 6 - (3 + 3) = 0 from rfl, show 7 - (3 + 3) = 1 from rfl, show 8 - (3 + 3) = 2 from rfl, show 9 - (3 + 3) = 3 from rfl, show 10 - (3 + 3) = 4 from rfl, show 11 - (3 + 3) = 5 from rfl, show 12 - (3 + 3) = 6 from rfl, show 13 - (3 + 3) = 7 from rfl, show 14 - (3 + 3) = 8 from rfl, show 15 - (3 + 3) = 9 from rfl, show 16 - (3 + 3) = 10 from rfl, show 17 - (3 + 3) = 11 from rfl, show 18 - (3 + 3) = 12 from rfl, show 19 - (3 + 3) = 13 from rfl, show 20 - (3 + 3) = 14 from rfl, show 21 - (3 + 3) = 15 from rfl, show 22 - (3 + 3) = 16 from rfl, show 23 - (3 + 3) = 17 from rfl, show 24 - (3 + 3) = 18 from rfl, show 25 - (3 + 3) = 19 from rfl, show 26 - (3 + 3) = 20 from rfl, bit_bit1, Nat.reduceSub, BitVec.extractLsb'_eq_self]
  refine accept_runs _ [(14, 6), (11, 3)] rfl ?_
  simp (disch := omega) only [List.forall_mem_cons, fld_append_hi, fld_append_lo, Nat.reduceSub]
  simp

theorem RoundTrip.exit : RoundTrip.Statement (.exit) := by
  intro _
  refine (decode_1c (encS_major ..)).trans ?_
  unfold decSync
  simp (disch := omega) only [encS, fld, fld_append_hi, fld_append_lo, Nat.reduceSub, BitVec.extractLsb'_eq_self]
  refine accept_runs _ [(20, 6), (14, 6), (8, 6)] rfl ?_
  simp (disch := omega) only [List.forall_mem_cons, fld_append_hi, fld_append_lo, Nat.reduceSub]
  simp

theorem RoundTrip.yieldLc : RoundTrip.Statement (.yieldLc) := by
  intro _
  refine (decode_1c (encS_major ..)).trans ?_
  unfold decSync
  simp (disch := omega) only [encS, fld, fld_append_hi, fld_append_lo, Nat.reduceSub, BitVec.extractLsb'_eq_self]
  refine accept_runs _ [(20, 6), (14, 6), (8, 6)] rfl ?_
  simp (disch := omega) only [List.forall_mem_cons, fld_append_hi, fld_append_lo, Nat.reduceSub]
  simp

theorem RoundTrip.spawn (d a : SReg) : RoundTrip.Statement (.spawn d a) := by
  intro _
  refine (decode_1c (encS_major ..)).trans ?_
  unfold decSync
  simp (disch := omega) only [encS, fld, fld_append_hi, fld_append_lo, Nat.reduceSub, BitVec.extractLsb'_eq_self]
  refine accept_runs _ [(8, 6)] rfl ?_
  simp (disch := omega) only [List.forall_mem_cons, fld_append_hi, fld_append_lo, Nat.reduceSub]
  simp

theorem RoundTrip.mwait (d a b : SReg) : RoundTrip.Statement (.mwait d a b) := by
  intro _
  refine (decode_1c (encS_major ..)).trans ?_
  unfold decSync
  simp (disch := omega) only [encS, fld, fld_append_hi, fld_append_lo, Nat.reduceSub, BitVec.extractLsb'_eq_self]
  exact accept_ok _ (BitVec.and_zero) rfl

theorem RoundTrip.gjoin (a : SReg) : RoundTrip.Statement (.gjoin a) := by
  intro _
  refine (decode_1c (encS_major ..)).trans ?_
  unfold decSync
  simp (disch := omega) only [encS, fld, fld_append_hi, fld_append_lo, Nat.reduceSub, BitVec.extractLsb'_eq_self]
  refine accept_runs _ [(20, 6), (8, 6)] rfl ?_
  simp (disch := omega) only [List.forall_mem_cons, fld_append_hi, fld_append_lo, Nat.reduceSub]
  simp

theorem RoundTrip.gleave (a : SReg) : RoundTrip.Statement (.gleave a) := by
  intro _
  refine (decode_1c (encS_major ..)).trans ?_
  unfold decSync
  simp (disch := omega) only [encS, fld, fld_append_hi, fld_append_lo, Nat.reduceSub, BitVec.extractLsb'_eq_self]
  refine accept_runs _ [(20, 6), (8, 6)] rfl ?_
  simp (disch := omega) only [List.forall_mem_cons, fld_append_hi, fld_append_lo, Nat.reduceSub]
  simp

theorem RoundTrip.gbar (a : SReg) : RoundTrip.Statement (.gbar a) := by
  intro _
  refine (decode_1c (encS_major ..)).trans ?_
  unfold decSync
  simp (disch := omega) only [encS, fld, fld_append_hi, fld_append_lo, Nat.reduceSub, BitVec.extractLsb'_eq_self]
  refine accept_runs _ [(20, 6), (8, 6)] rfl ?_
  simp (disch := omega) only [List.forall_mem_cons, fld_append_hi, fld_append_lo, Nat.reduceSub]
  simp

theorem RoundTrip.post (a : SReg) : RoundTrip.Statement (.post a) := by
  intro _
  refine (decode_1c (encS_major ..)).trans ?_
  unfold decSync
  simp (disch := omega) only [encS, fld, fld_append_hi, fld_append_lo, Nat.reduceSub, BitVec.extractLsb'_eq_self]
  refine accept_runs _ [(20, 6), (8, 6)] rfl ?_
  simp (disch := omega) only [List.forall_mem_cons, fld_append_hi, fld_append_lo, Nat.reduceSub]
  simp

theorem RoundTrip.waiti (a : SReg) : RoundTrip.Statement (.waiti a) := by
  intro _
  refine (decode_1c (encS_major ..)).trans ?_
  unfold decSync
  simp (disch := omega) only [encS, fld, fld_append_hi, fld_append_lo, Nat.reduceSub, BitVec.extractLsb'_eq_self]
  refine accept_runs _ [(20, 6), (8, 6)] rfl ?_
  simp (disch := omega) only [List.forall_mem_cons, fld_append_hi, fld_append_lo, Nat.reduceSub]
  simp

theorem RoundTrip.probe (d a : SReg) : RoundTrip.Statement (.probe d a) := by
  intro _
  refine (decode_1c (encS_major ..)).trans ?_
  unfold decSync
  simp (disch := omega) only [encS, fld, fld_append_hi, fld_append_lo, Nat.reduceSub, BitVec.extractLsb'_eq_self]
  refine accept_runs _ [(8, 6)] rfl ?_
  simp (disch := omega) only [List.forall_mem_cons, fld_append_hi, fld_append_lo, Nat.reduceSub]
  simp

theorem RoundTrip.cwb (a : SReg) : RoundTrip.Statement (.cwb a) := by
  intro _
  refine (decode_1c (encS_major ..)).trans ?_
  unfold decSync
  simp (disch := omega) only [encS, fld, fld_append_hi, fld_append_lo, Nat.reduceSub, BitVec.extractLsb'_eq_self]
  refine accept_runs _ [(20, 6), (8, 6)] rfl ?_
  simp (disch := omega) only [List.forall_mem_cons, fld_append_hi, fld_append_lo, Nat.reduceSub]
  simp

theorem RoundTrip.cinv (a : SReg) : RoundTrip.Statement (.cinv a) := by
  intro _
  refine (decode_1c (encS_major ..)).trans ?_
  unfold decSync
  simp (disch := omega) only [encS, fld, fld_append_hi, fld_append_lo, Nat.reduceSub, BitVec.extractLsb'_eq_self]
  refine accept_runs _ [(20, 6), (8, 6)] rfl ?_
  simp (disch := omega) only [List.forall_mem_cons, fld_append_hi, fld_append_lo, Nat.reduceSub]
  simp

theorem RoundTrip.vadd (p : Bool) (d a b : VReg) (t : Ty) : RoundTrip.Statement (.vadd p d a b t) := by
  intro _
  refine (decode_20 (encV_major ..)).trans ?_
  unfold decVBin
  simp (disch := omega) only [encV, flag, bit_append_hi, bit_append_lo, bit_bit1, ty_roundTrip, fld, fld_append_hi, fld_append_lo, Nat.reduceSub, BitVec.extractLsb'_eq_self]
  exact accept_ok _ (BitVec.and_zero) rfl

theorem RoundTrip.vsub (p : Bool) (d a b : VReg) (t : Ty) : RoundTrip.Statement (.vsub p d a b t) := by
  intro _
  refine (decode_20 (encV_major ..)).trans ?_
  unfold decVBin
  simp (disch := omega) only [encV, flag, bit_append_hi, bit_append_lo, bit_bit1, ty_roundTrip, fld, fld_append_hi, fld_append_lo, Nat.reduceSub, BitVec.extractLsb'_eq_self]
  exact accept_ok _ (BitVec.and_zero) rfl

theorem RoundTrip.vmul (p : Bool) (d a b : VReg) (t : Ty) : RoundTrip.Statement (.vmul p d a b t) := by
  intro _
  refine (decode_20 (encV_major ..)).trans ?_
  unfold decVBin
  simp (disch := omega) only [encV, flag, bit_append_hi, bit_append_lo, bit_bit1, ty_roundTrip, fld, fld_append_hi, fld_append_lo, Nat.reduceSub, BitVec.extractLsb'_eq_self]
  exact accept_ok _ (BitVec.and_zero) rfl

theorem RoundTrip.vdiv (p : Bool) (d a b : VReg) (t : Ty) : RoundTrip.Statement (.vdiv p d a b t) := by
  intro _
  refine (decode_20 (encV_major ..)).trans ?_
  unfold decVBin
  simp (disch := omega) only [encV, flag, bit_append_hi, bit_append_lo, bit_bit1, ty_roundTrip, fld, fld_append_hi, fld_append_lo, Nat.reduceSub, BitVec.extractLsb'_eq_self]
  exact accept_ok _ (BitVec.and_zero) rfl

theorem RoundTrip.vmin (p : Bool) (d a b : VReg) (t : Ty) : RoundTrip.Statement (.vmin p d a b t) := by
  intro _
  refine (decode_20 (encV_major ..)).trans ?_
  unfold decVBin
  simp (disch := omega) only [encV, flag, bit_append_hi, bit_append_lo, bit_bit1, ty_roundTrip, fld, fld_append_hi, fld_append_lo, Nat.reduceSub, BitVec.extractLsb'_eq_self]
  exact accept_ok _ (BitVec.and_zero) rfl

theorem RoundTrip.vmax (p : Bool) (d a b : VReg) (t : Ty) : RoundTrip.Statement (.vmax p d a b t) := by
  intro _
  refine (decode_20 (encV_major ..)).trans ?_
  unfold decVBin
  simp (disch := omega) only [encV, flag, bit_append_hi, bit_append_lo, bit_bit1, ty_roundTrip, fld, fld_append_hi, fld_append_lo, Nat.reduceSub, BitVec.extractLsb'_eq_self]
  exact accept_ok _ (BitVec.and_zero) rfl

theorem RoundTrip.vand (p : Bool) (d a b : VReg) (t : Ty) : RoundTrip.Statement (.vand p d a b t) := by
  intro _
  refine (decode_20 (encV_major ..)).trans ?_
  unfold decVBin
  simp (disch := omega) only [encV, flag, bit_append_hi, bit_append_lo, bit_bit1, ty_roundTrip, fld, fld_append_hi, fld_append_lo, Nat.reduceSub, BitVec.extractLsb'_eq_self]
  exact accept_ok _ (BitVec.and_zero) rfl

theorem RoundTrip.vor (p : Bool) (d a b : VReg) (t : Ty) : RoundTrip.Statement (.vor p d a b t) := by
  intro _
  refine (decode_20 (encV_major ..)).trans ?_
  unfold decVBin
  simp (disch := omega) only [encV, flag, bit_append_hi, bit_append_lo, bit_bit1, ty_roundTrip, fld, fld_append_hi, fld_append_lo, Nat.reduceSub, BitVec.extractLsb'_eq_self]
  exact accept_ok _ (BitVec.and_zero) rfl

theorem RoundTrip.vxor (p : Bool) (d a b : VReg) (t : Ty) : RoundTrip.Statement (.vxor p d a b t) := by
  intro _
  refine (decode_20 (encV_major ..)).trans ?_
  unfold decVBin
  simp (disch := omega) only [encV, flag, bit_append_hi, bit_append_lo, bit_bit1, ty_roundTrip, fld, fld_append_hi, fld_append_lo, Nat.reduceSub, BitVec.extractLsb'_eq_self]
  exact accept_ok _ (BitVec.and_zero) rfl

theorem RoundTrip.vshl (p : Bool) (d a b : VReg) (t : Ty) : RoundTrip.Statement (.vshl p d a b t) := by
  intro _
  refine (decode_20 (encV_major ..)).trans ?_
  unfold decVBin
  simp (disch := omega) only [encV, flag, bit_append_hi, bit_append_lo, bit_bit1, ty_roundTrip, fld, fld_append_hi, fld_append_lo, Nat.reduceSub, BitVec.extractLsb'_eq_self]
  exact accept_ok _ (BitVec.and_zero) rfl

theorem RoundTrip.vshr (p : Bool) (d a b : VReg) (t : Ty) : RoundTrip.Statement (.vshr p d a b t) := by
  intro _
  refine (decode_20 (encV_major ..)).trans ?_
  unfold decVBin
  simp (disch := omega) only [encV, flag, bit_append_hi, bit_append_lo, bit_bit1, ty_roundTrip, fld, fld_append_hi, fld_append_lo, Nat.reduceSub, BitVec.extractLsb'_eq_self]
  exact accept_ok _ (BitVec.and_zero) rfl

theorem RoundTrip.vsra (p : Bool) (d a b : VReg) (t : Ty) : RoundTrip.Statement (.vsra p d a b t) := by
  intro _
  refine (decode_20 (encV_major ..)).trans ?_
  unfold decVBin
  simp (disch := omega) only [encV, flag, bit_append_hi, bit_append_lo, bit_bit1, ty_roundTrip, fld, fld_append_hi, fld_append_lo, Nat.reduceSub, BitVec.extractLsb'_eq_self]
  exact accept_ok _ (BitVec.and_zero) rfl

theorem RoundTrip.vaddVs (p : Bool) (d a : VReg) (b : SReg) (t : Ty) : RoundTrip.Statement (.vaddVs p d a b t) := by
  intro _
  refine (decode_21 (encVS_major ..)).trans ?_
  unfold decVBinS
  simp (disch := omega) only [encVS, flag, bit_append_hi, bit_append_lo, bit_bit1, ty_roundTrip, fld, fld_append_hi, fld_append_lo, Nat.reduceSub, BitVec.extractLsb'_eq_self]
  exact accept_ok _ (BitVec.and_zero) rfl

theorem RoundTrip.vsubVs (p : Bool) (d a : VReg) (b : SReg) (t : Ty) : RoundTrip.Statement (.vsubVs p d a b t) := by
  intro _
  refine (decode_21 (encVS_major ..)).trans ?_
  unfold decVBinS
  simp (disch := omega) only [encVS, flag, bit_append_hi, bit_append_lo, bit_bit1, ty_roundTrip, fld, fld_append_hi, fld_append_lo, Nat.reduceSub, BitVec.extractLsb'_eq_self]
  exact accept_ok _ (BitVec.and_zero) rfl

theorem RoundTrip.vmulVs (p : Bool) (d a : VReg) (b : SReg) (t : Ty) : RoundTrip.Statement (.vmulVs p d a b t) := by
  intro _
  refine (decode_21 (encVS_major ..)).trans ?_
  unfold decVBinS
  simp (disch := omega) only [encVS, flag, bit_append_hi, bit_append_lo, bit_bit1, ty_roundTrip, fld, fld_append_hi, fld_append_lo, Nat.reduceSub, BitVec.extractLsb'_eq_self]
  exact accept_ok _ (BitVec.and_zero) rfl

theorem RoundTrip.vdivVs (p : Bool) (d a : VReg) (b : SReg) (t : Ty) : RoundTrip.Statement (.vdivVs p d a b t) := by
  intro _
  refine (decode_21 (encVS_major ..)).trans ?_
  unfold decVBinS
  simp (disch := omega) only [encVS, flag, bit_append_hi, bit_append_lo, bit_bit1, ty_roundTrip, fld, fld_append_hi, fld_append_lo, Nat.reduceSub, BitVec.extractLsb'_eq_self]
  exact accept_ok _ (BitVec.and_zero) rfl

theorem RoundTrip.vminVs (p : Bool) (d a : VReg) (b : SReg) (t : Ty) : RoundTrip.Statement (.vminVs p d a b t) := by
  intro _
  refine (decode_21 (encVS_major ..)).trans ?_
  unfold decVBinS
  simp (disch := omega) only [encVS, flag, bit_append_hi, bit_append_lo, bit_bit1, ty_roundTrip, fld, fld_append_hi, fld_append_lo, Nat.reduceSub, BitVec.extractLsb'_eq_self]
  exact accept_ok _ (BitVec.and_zero) rfl

theorem RoundTrip.vmaxVs (p : Bool) (d a : VReg) (b : SReg) (t : Ty) : RoundTrip.Statement (.vmaxVs p d a b t) := by
  intro _
  refine (decode_21 (encVS_major ..)).trans ?_
  unfold decVBinS
  simp (disch := omega) only [encVS, flag, bit_append_hi, bit_append_lo, bit_bit1, ty_roundTrip, fld, fld_append_hi, fld_append_lo, Nat.reduceSub, BitVec.extractLsb'_eq_self]
  exact accept_ok _ (BitVec.and_zero) rfl

theorem RoundTrip.vandVs (p : Bool) (d a : VReg) (b : SReg) (t : Ty) : RoundTrip.Statement (.vandVs p d a b t) := by
  intro _
  refine (decode_21 (encVS_major ..)).trans ?_
  unfold decVBinS
  simp (disch := omega) only [encVS, flag, bit_append_hi, bit_append_lo, bit_bit1, ty_roundTrip, fld, fld_append_hi, fld_append_lo, Nat.reduceSub, BitVec.extractLsb'_eq_self]
  exact accept_ok _ (BitVec.and_zero) rfl

theorem RoundTrip.vorVs (p : Bool) (d a : VReg) (b : SReg) (t : Ty) : RoundTrip.Statement (.vorVs p d a b t) := by
  intro _
  refine (decode_21 (encVS_major ..)).trans ?_
  unfold decVBinS
  simp (disch := omega) only [encVS, flag, bit_append_hi, bit_append_lo, bit_bit1, ty_roundTrip, fld, fld_append_hi, fld_append_lo, Nat.reduceSub, BitVec.extractLsb'_eq_self]
  exact accept_ok _ (BitVec.and_zero) rfl

theorem RoundTrip.vxorVs (p : Bool) (d a : VReg) (b : SReg) (t : Ty) : RoundTrip.Statement (.vxorVs p d a b t) := by
  intro _
  refine (decode_21 (encVS_major ..)).trans ?_
  unfold decVBinS
  simp (disch := omega) only [encVS, flag, bit_append_hi, bit_append_lo, bit_bit1, ty_roundTrip, fld, fld_append_hi, fld_append_lo, Nat.reduceSub, BitVec.extractLsb'_eq_self]
  exact accept_ok _ (BitVec.and_zero) rfl

theorem RoundTrip.vshlVs (p : Bool) (d a : VReg) (b : SReg) (t : Ty) : RoundTrip.Statement (.vshlVs p d a b t) := by
  intro _
  refine (decode_21 (encVS_major ..)).trans ?_
  unfold decVBinS
  simp (disch := omega) only [encVS, flag, bit_append_hi, bit_append_lo, bit_bit1, ty_roundTrip, fld, fld_append_hi, fld_append_lo, Nat.reduceSub, BitVec.extractLsb'_eq_self]
  exact accept_ok _ (BitVec.and_zero) rfl

theorem RoundTrip.vshrVs (p : Bool) (d a : VReg) (b : SReg) (t : Ty) : RoundTrip.Statement (.vshrVs p d a b t) := by
  intro _
  refine (decode_21 (encVS_major ..)).trans ?_
  unfold decVBinS
  simp (disch := omega) only [encVS, flag, bit_append_hi, bit_append_lo, bit_bit1, ty_roundTrip, fld, fld_append_hi, fld_append_lo, Nat.reduceSub, BitVec.extractLsb'_eq_self]
  exact accept_ok _ (BitVec.and_zero) rfl

theorem RoundTrip.vsraVs (p : Bool) (d a : VReg) (b : SReg) (t : Ty) : RoundTrip.Statement (.vsraVs p d a b t) := by
  intro _
  refine (decode_21 (encVS_major ..)).trans ?_
  unfold decVBinS
  simp (disch := omega) only [encVS, flag, bit_append_hi, bit_append_lo, bit_bit1, ty_roundTrip, fld, fld_append_hi, fld_append_lo, Nat.reduceSub, BitVec.extractLsb'_eq_self]
  exact accept_ok _ (BitVec.and_zero) rfl

theorem RoundTrip.vbcast (p : Bool) (d : VReg) (b : SReg) (t : Ty) : RoundTrip.Statement (.vbcast p d b t) := by
  intro _
  refine (decode_21 (encVS_major ..)).trans ?_
  unfold decVBinS
  simp (disch := omega) only [encVS, flag, bit_append_hi, bit_append_lo, bit_bit1, ty_roundTrip, fld, fld_append_hi, fld_append_lo, Nat.reduceSub, BitVec.extractLsb'_eq_self]
  refine accept_runs _ [(15, 5)] rfl ?_
  simp (disch := omega) only [List.forall_mem_cons, fld_append_hi, fld_append_lo, Nat.reduceSub]
  simp

theorem RoundTrip.vslide (p : Bool) (d a : VReg) (b : SReg) (t : Ty) : RoundTrip.Statement (.vslide p d a b t) := by
  intro _
  refine (decode_21 (encVS_major ..)).trans ?_
  unfold decVBinS
  simp (disch := omega) only [encVS, flag, bit_append_hi, bit_append_lo, bit_bit1, ty_roundTrip, fld, fld_append_hi, fld_append_lo, Nat.reduceSub, BitVec.extractLsb'_eq_self]
  exact accept_ok _ (BitVec.and_zero) rfl

theorem RoundTrip.vextract (p : Bool) (a : VReg) (d : SReg) (t : Ty) : RoundTrip.Statement (.vextract p a d t) := by
  intro _
  refine (decode_21 (encVS_major ..)).trans ?_
  unfold decVBinS
  simp (disch := omega) only [encVS, flag, bit_append_hi, bit_append_lo, bit_bit1, ty_roundTrip, fld, fld_append_hi, fld_append_lo, Nat.reduceSub, BitVec.extractLsb'_eq_self]
  refine accept_runs _ [(20, 5)] rfl ?_
  simp (disch := omega) only [List.forall_mem_cons, fld_append_hi, fld_append_lo, Nat.reduceSub]
  simp

theorem RoundTrip.vma (p : Bool) (d a b : VReg) (t : Ty) : RoundTrip.Statement (.vma p d a b t) := by
  intro _
  refine (decode_22 (encV_major ..)).trans ?_
  unfold decVTern
  simp (disch := omega) only [encV, flag, bit_append_hi, bit_append_lo, bit_bit1, ty_roundTrip, fld, fld_append_hi, fld_append_lo, Nat.reduceSub, BitVec.extractLsb'_eq_self]
  exact accept_ok _ (BitVec.and_zero) rfl

theorem RoundTrip.vms (p : Bool) (d a b : VReg) (t : Ty) : RoundTrip.Statement (.vms p d a b t) := by
  intro _
  refine (decode_22 (encV_major ..)).trans ?_
  unfold decVTern
  simp (disch := omega) only [encV, flag, bit_append_hi, bit_append_lo, bit_bit1, ty_roundTrip, fld, fld_append_hi, fld_append_lo, Nat.reduceSub, BitVec.extractLsb'_eq_self]
  exact accept_ok _ (BitVec.and_zero) rfl

theorem RoundTrip.vnma (p : Bool) (d a b : VReg) (t : Ty) : RoundTrip.Statement (.vnma p d a b t) := by
  intro _
  refine (decode_22 (encV_major ..)).trans ?_
  unfold decVTern
  simp (disch := omega) only [encV, flag, bit_append_hi, bit_append_lo, bit_bit1, ty_roundTrip, fld, fld_append_hi, fld_append_lo, Nat.reduceSub, BitVec.extractLsb'_eq_self]
  exact accept_ok _ (BitVec.and_zero) rfl

theorem RoundTrip.vneg (p : Bool) (d a : VReg) (t : Ty) : RoundTrip.Statement (.vneg p d a t) := by
  intro _
  refine (decode_23 (encV_major ..)).trans ?_
  unfold decVUnary
  simp (disch := omega) only [encV, flag, bit_append_hi, bit_append_lo, bit_bit1, ty_roundTrip, fld, fld_append_hi, fld_append_lo, Nat.reduceSub, BitVec.extractLsb'_eq_self]
  refine accept_runs _ [(10, 5)] rfl ?_
  simp (disch := omega) only [List.forall_mem_cons, fld_append_hi, fld_append_lo, Nat.reduceSub]
  simp

theorem RoundTrip.vabs (p : Bool) (d a : VReg) (t : Ty) : RoundTrip.Statement (.vabs p d a t) := by
  intro _
  refine (decode_23 (encV_major ..)).trans ?_
  unfold decVUnary
  simp (disch := omega) only [encV, flag, bit_append_hi, bit_append_lo, bit_bit1, ty_roundTrip, fld, fld_append_hi, fld_append_lo, Nat.reduceSub, BitVec.extractLsb'_eq_self]
  refine accept_runs _ [(10, 5)] rfl ?_
  simp (disch := omega) only [List.forall_mem_cons, fld_append_hi, fld_append_lo, Nat.reduceSub]
  simp

theorem RoundTrip.vsqrt (p : Bool) (d a : VReg) (t : Ty) : RoundTrip.Statement (.vsqrt p d a t) := by
  intro _
  refine (decode_23 (encV_major ..)).trans ?_
  unfold decVUnary
  simp (disch := omega) only [encV, flag, bit_append_hi, bit_append_lo, bit_bit1, ty_roundTrip, fld, fld_append_hi, fld_append_lo, Nat.reduceSub, BitVec.extractLsb'_eq_self]
  refine accept_runs _ [(10, 5)] rfl ?_
  simp (disch := omega) only [List.forall_mem_cons, fld_append_hi, fld_append_lo, Nat.reduceSub]
  simp

theorem RoundTrip.vrcp (p : Bool) (d a : VReg) (t : Ty) : RoundTrip.Statement (.vrcp p d a t) := by
  intro _
  refine (decode_23 (encV_major ..)).trans ?_
  unfold decVUnary
  simp (disch := omega) only [encV, flag, bit_append_hi, bit_append_lo, bit_bit1, ty_roundTrip, fld, fld_append_hi, fld_append_lo, Nat.reduceSub, BitVec.extractLsb'_eq_self]
  refine accept_runs _ [(10, 5)] rfl ?_
  simp (disch := omega) only [List.forall_mem_cons, fld_append_hi, fld_append_lo, Nat.reduceSub]
  simp

theorem RoundTrip.vrsq (p : Bool) (d a : VReg) (t : Ty) : RoundTrip.Statement (.vrsq p d a t) := by
  intro _
  refine (decode_23 (encV_major ..)).trans ?_
  unfold decVUnary
  simp (disch := omega) only [encV, flag, bit_append_hi, bit_append_lo, bit_bit1, ty_roundTrip, fld, fld_append_hi, fld_append_lo, Nat.reduceSub, BitVec.extractLsb'_eq_self]
  refine accept_runs _ [(10, 5)] rfl ?_
  simp (disch := omega) only [List.forall_mem_cons, fld_append_hi, fld_append_lo, Nat.reduceSub]
  simp

theorem RoundTrip.vexp2 (p : Bool) (d a : VReg) (t : Ty) : RoundTrip.Statement (.vexp2 p d a t) := by
  intro _
  refine (decode_23 (encV_major ..)).trans ?_
  unfold decVUnary
  simp (disch := omega) only [encV, flag, bit_append_hi, bit_append_lo, bit_bit1, ty_roundTrip, fld, fld_append_hi, fld_append_lo, Nat.reduceSub, BitVec.extractLsb'_eq_self]
  refine accept_runs _ [(10, 5)] rfl ?_
  simp (disch := omega) only [List.forall_mem_cons, fld_append_hi, fld_append_lo, Nat.reduceSub]
  simp

theorem RoundTrip.vlog2 (p : Bool) (d a : VReg) (t : Ty) : RoundTrip.Statement (.vlog2 p d a t) := by
  intro _
  refine (decode_23 (encV_major ..)).trans ?_
  unfold decVUnary
  simp (disch := omega) only [encV, flag, bit_append_hi, bit_append_lo, bit_bit1, ty_roundTrip, fld, fld_append_hi, fld_append_lo, Nat.reduceSub, BitVec.extractLsb'_eq_self]
  refine accept_runs _ [(10, 5)] rfl ?_
  simp (disch := omega) only [List.forall_mem_cons, fld_append_hi, fld_append_lo, Nat.reduceSub]
  simp

theorem RoundTrip.vclass (p : Bool) (d a : VReg) (t : Ty) : RoundTrip.Statement (.vclass p d a t) := by
  intro _
  refine (decode_23 (encV_major ..)).trans ?_
  unfold decVUnary
  simp (disch := omega) only [encV, flag, bit_append_hi, bit_append_lo, bit_bit1, ty_roundTrip, fld, fld_append_hi, fld_append_lo, Nat.reduceSub, BitVec.extractLsb'_eq_self]
  refine accept_runs _ [(10, 5)] rfl ?_
  simp (disch := omega) only [List.forall_mem_cons, fld_append_hi, fld_append_lo, Nat.reduceSub]
  simp

theorem RoundTrip.vmov (p : Bool) (d a : VReg) (t : Ty) : RoundTrip.Statement (.vmov p d a t) := by
  intro _
  refine (decode_23 (encV_major ..)).trans ?_
  unfold decVUnary
  simp (disch := omega) only [encV, flag, bit_append_hi, bit_append_lo, bit_bit1, ty_roundTrip, fld, fld_append_hi, fld_append_lo, Nat.reduceSub, BitVec.extractLsb'_eq_self]
  refine accept_runs _ [(10, 5)] rfl ?_
  simp (disch := omega) only [List.forall_mem_cons, fld_append_hi, fld_append_lo, Nat.reduceSub]
  simp

theorem RoundTrip.viota (p : Bool) (d : VReg) (t : Ty) : RoundTrip.Statement (.viota p d t) := by
  intro _
  refine (decode_23 (encV_major ..)).trans ?_
  unfold decVUnary
  simp (disch := omega) only [encV, flag, bit_append_hi, bit_append_lo, bit_bit1, ty_roundTrip, fld, fld_append_hi, fld_append_lo, Nat.reduceSub, BitVec.extractLsb'_eq_self]
  refine accept_runs _ [(15, 5), (10, 5)] rfl ?_
  simp (disch := omega) only [List.forall_mem_cons, fld_append_hi, fld_append_lo, Nat.reduceSub]
  simp

theorem RoundTrip.vperm (p : Bool) (d a b : VReg) (t : Ty) : RoundTrip.Statement (.vperm p d a b t) := by
  intro _
  refine (decode_25 (encV_major ..)).trans ?_
  unfold decVPerm
  simp (disch := omega) only [encV, flag, bit_append_hi, bit_append_lo, bit_bit1, ty_roundTrip, fld, fld_append_hi, fld_append_lo, Nat.reduceSub, BitVec.extractLsb'_eq_self]
  exact accept_ok _ (BitVec.and_zero) rfl

theorem RoundTrip.vcompress (p : Bool) (d a : VReg) (t : Ty) : RoundTrip.Statement (.vcompress p d a t) := by
  intro _
  refine (decode_25 (encV_major ..)).trans ?_
  unfold decVPerm
  simp (disch := omega) only [encV, flag, bit_append_hi, bit_append_lo, bit_bit1, ty_roundTrip, fld, fld_append_hi, fld_append_lo, Nat.reduceSub, BitVec.extractLsb'_eq_self]
  refine accept_runs _ [(10, 5)] rfl ?_
  simp (disch := omega) only [List.forall_mem_cons, fld_append_hi, fld_append_lo, Nat.reduceSub]
  simp

theorem RoundTrip.vqsend (p : Bool) (a : VReg) (q : QReg) (t : Ty) : RoundTrip.Statement (.vqsend p a q t) := by
  intro _
  refine (decode_25 (encV_major ..)).trans ?_
  unfold decVPerm
  simp (disch := omega) only [encV, flag, bit_append_hi, bit_append_lo, bit_bit1, ty_roundTrip, fld, fld_append_hi, fld_append_lo, Nat.reduceSub, BitVec.extractLsb'_eq_self]
  simp only [show 5 - (2 + 3) = 0 from rfl, show 6 - (2 + 3) = 1 from rfl, show 7 - (2 + 3) = 2 from rfl, show 8 - (2 + 3) = 3 from rfl, show 9 - (2 + 3) = 4 from rfl, show 10 - (2 + 3) = 5 from rfl, show 11 - (2 + 3) = 6 from rfl, show 12 - (2 + 3) = 7 from rfl, show 13 - (2 + 3) = 8 from rfl, show 14 - (2 + 3) = 9 from rfl, show 15 - (2 + 3) = 10 from rfl, show 16 - (2 + 3) = 11 from rfl, show 17 - (2 + 3) = 12 from rfl, show 18 - (2 + 3) = 13 from rfl, show 19 - (2 + 3) = 14 from rfl, show 20 - (2 + 3) = 15 from rfl, show 21 - (2 + 3) = 16 from rfl, show 22 - (2 + 3) = 17 from rfl, show 23 - (2 + 3) = 18 from rfl, show 24 - (2 + 3) = 19 from rfl, show 25 - (2 + 3) = 20 from rfl, show 26 - (2 + 3) = 21 from rfl, bit_bit1, Nat.reduceSub, ty_roundTrip, BitVec.extractLsb'_eq_self]
  refine accept_runs _ [(20, 5), (13, 2)] rfl ?_
  simp (disch := omega) only [List.forall_mem_cons, fld_append_hi, fld_append_lo, Nat.reduceSub]
  simp

theorem RoundTrip.vqrecv (p : Bool) (d : VReg) (q : QReg) (t : Ty) : RoundTrip.Statement (.vqrecv p d q t) := by
  intro _
  refine (decode_25 (encV_major ..)).trans ?_
  unfold decVPerm
  simp (disch := omega) only [encV, flag, bit_append_hi, bit_append_lo, bit_bit1, ty_roundTrip, fld, fld_append_hi, fld_append_lo, Nat.reduceSub, BitVec.extractLsb'_eq_self]
  simp only [show 5 - (2 + 3) = 0 from rfl, show 6 - (2 + 3) = 1 from rfl, show 7 - (2 + 3) = 2 from rfl, show 8 - (2 + 3) = 3 from rfl, show 9 - (2 + 3) = 4 from rfl, show 10 - (2 + 3) = 5 from rfl, show 11 - (2 + 3) = 6 from rfl, show 12 - (2 + 3) = 7 from rfl, show 13 - (2 + 3) = 8 from rfl, show 14 - (2 + 3) = 9 from rfl, show 15 - (2 + 3) = 10 from rfl, show 16 - (2 + 3) = 11 from rfl, show 17 - (2 + 3) = 12 from rfl, show 18 - (2 + 3) = 13 from rfl, show 19 - (2 + 3) = 14 from rfl, show 20 - (2 + 3) = 15 from rfl, show 21 - (2 + 3) = 16 from rfl, show 22 - (2 + 3) = 17 from rfl, show 23 - (2 + 3) = 18 from rfl, show 24 - (2 + 3) = 19 from rfl, show 25 - (2 + 3) = 20 from rfl, show 26 - (2 + 3) = 21 from rfl, bit_bit1, Nat.reduceSub, ty_roundTrip, BitVec.extractLsb'_eq_self]
  refine accept_runs _ [(15, 5), (13, 2)] rfl ?_
  simp (disch := omega) only [List.forall_mem_cons, fld_append_hi, fld_append_lo, Nat.reduceSub]
  simp

theorem RoundTrip.kand (k a b : VReg) : RoundTrip.Statement (.kand k a b) := by
  intro _
  refine (decode_27 (encV_major ..)).trans ?_
  unfold decMask
  simp (disch := omega) only [encV, flag, bit_append_hi, bit_append_lo, bit_bit1, unplaced, fld, fld_append_hi, fld_append_lo, Nat.reduceSub, BitVec.extractLsb'_eq_self]
  refine accept_runs _ [(6, 4), (5, 1)] rfl ?_
  simp (disch := omega) only [List.forall_mem_cons, fld_append_hi, fld_append_lo, Nat.reduceSub]
  simp

theorem RoundTrip.kor (k a b : VReg) : RoundTrip.Statement (.kor k a b) := by
  intro _
  refine (decode_27 (encV_major ..)).trans ?_
  unfold decMask
  simp (disch := omega) only [encV, flag, bit_append_hi, bit_append_lo, bit_bit1, unplaced, fld, fld_append_hi, fld_append_lo, Nat.reduceSub, BitVec.extractLsb'_eq_self]
  refine accept_runs _ [(6, 4), (5, 1)] rfl ?_
  simp (disch := omega) only [List.forall_mem_cons, fld_append_hi, fld_append_lo, Nat.reduceSub]
  simp

theorem RoundTrip.kxor (k a b : VReg) : RoundTrip.Statement (.kxor k a b) := by
  intro _
  refine (decode_27 (encV_major ..)).trans ?_
  unfold decMask
  simp (disch := omega) only [encV, flag, bit_append_hi, bit_append_lo, bit_bit1, unplaced, fld, fld_append_hi, fld_append_lo, Nat.reduceSub, BitVec.extractLsb'_eq_self]
  refine accept_runs _ [(6, 4), (5, 1)] rfl ?_
  simp (disch := omega) only [List.forall_mem_cons, fld_append_hi, fld_append_lo, Nat.reduceSub]
  simp

theorem RoundTrip.knot (k a : VReg) : RoundTrip.Statement (.knot k a) := by
  intro _
  refine (decode_27 (encV_major ..)).trans ?_
  unfold decMask
  simp (disch := omega) only [encV, flag, bit_append_hi, bit_append_lo, bit_bit1, unplaced, fld, fld_append_hi, fld_append_lo, Nat.reduceSub, BitVec.extractLsb'_eq_self]
  refine accept_runs _ [(10, 5), (6, 4), (5, 1)] rfl ?_
  simp (disch := omega) only [List.forall_mem_cons, fld_append_hi, fld_append_lo, Nat.reduceSub]
  simp

theorem RoundTrip.kmov (k a : VReg) : RoundTrip.Statement (.kmov k a) := by
  intro _
  refine (decode_27 (encV_major ..)).trans ?_
  unfold decMask
  simp (disch := omega) only [encV, flag, bit_append_hi, bit_append_lo, bit_bit1, unplaced, fld, fld_append_hi, fld_append_lo, Nat.reduceSub, BitVec.extractLsb'_eq_self]
  refine accept_runs _ [(10, 5), (6, 4), (5, 1)] rfl ?_
  simp (disch := omega) only [List.forall_mem_cons, fld_append_hi, fld_append_lo, Nat.reduceSub]
  simp

theorem RoundTrip.kpop (a : VReg) (d : SReg) : RoundTrip.Statement (.kpop a d) := by
  intro _
  refine (decode_27 (encVS_major ..)).trans ?_
  unfold decMask
  simp (disch := omega) only [encVS, flag, bit_append_hi, bit_append_lo, bit_bit1, unplaced, fld, fld_append_hi, fld_append_lo, Nat.reduceSub, BitVec.extractLsb'_eq_self]
  refine accept_runs _ [(20, 5), (5, 4)] rfl ?_
  simp (disch := omega) only [List.forall_mem_cons, fld_append_hi, fld_append_lo, Nat.reduceSub]
  simp

theorem RoundTrip.kfirst (a : VReg) (d : SReg) : RoundTrip.Statement (.kfirst a d) := by
  intro _
  refine (decode_27 (encVS_major ..)).trans ?_
  unfold decMask
  simp (disch := omega) only [encVS, flag, bit_append_hi, bit_append_lo, bit_bit1, unplaced, fld, fld_append_hi, fld_append_lo, Nat.reduceSub, BitVec.extractLsb'_eq_self]
  refine accept_runs _ [(20, 5), (5, 4)] rfl ?_
  simp (disch := omega) only [List.forall_mem_cons, fld_append_hi, fld_append_lo, Nat.reduceSub]
  simp

theorem RoundTrip.tshape (d a : SReg) : RoundTrip.Statement (.tshape d a) := by
  intro _
  refine (decode_30 (encS_major ..)).trans ?_
  unfold decTile
  simp (disch := omega) only [encS, fld, fld_append_hi, fld_append_lo, Nat.reduceSub, BitVec.extractLsb'_eq_self]
  refine accept_runs _ [(8, 6)] rfl ?_
  simp (disch := omega) only [List.forall_mem_cons, fld_append_hi, fld_append_lo, Nat.reduceSub]
  simp

theorem RoundTrip.ten : RoundTrip.Statement (.ten) := by
  intro _
  refine (decode_30 (encS_major ..)).trans ?_
  unfold decTile
  simp (disch := omega) only [encS, fld, fld_append_hi, fld_append_lo, Nat.reduceSub, BitVec.extractLsb'_eq_self]
  refine accept_runs _ [(20, 6), (14, 6), (8, 6)] rfl ?_
  simp (disch := omega) only [List.forall_mem_cons, fld_append_hi, fld_append_lo, Nat.reduceSub]
  simp

theorem RoundTrip.tdis : RoundTrip.Statement (.tdis) := by
  intro _
  refine (decode_30 (encS_major ..)).trans ?_
  unfold decTile
  simp (disch := omega) only [encS, fld, fld_append_hi, fld_append_lo, Nat.reduceSub, BitVec.extractLsb'_eq_self]
  refine accept_runs _ [(20, 6), (14, 6), (8, 6)] rfl ?_
  simp (disch := omega) only [List.forall_mem_cons, fld_append_hi, fld_append_lo, Nat.reduceSub]
  simp

theorem RoundTrip.tzero (t : TReg) : RoundTrip.Statement (.tzero t) := by
  intro _
  refine (decode_30 (encS_major ..)).trans ?_
  unfold decTile
  simp (disch := omega) only [encS, fld, fld_append_hi, fld_append_lo, Nat.reduceSub, BitVec.extractLsb'_eq_self]
  simp only [show 6 - (3 + 3) = 0 from rfl, show 7 - (3 + 3) = 1 from rfl, show 8 - (3 + 3) = 2 from rfl, show 9 - (3 + 3) = 3 from rfl, show 10 - (3 + 3) = 4 from rfl, show 11 - (3 + 3) = 5 from rfl, show 12 - (3 + 3) = 6 from rfl, show 13 - (3 + 3) = 7 from rfl, show 14 - (3 + 3) = 8 from rfl, show 15 - (3 + 3) = 9 from rfl, show 16 - (3 + 3) = 10 from rfl, show 17 - (3 + 3) = 11 from rfl, show 18 - (3 + 3) = 12 from rfl, show 19 - (3 + 3) = 13 from rfl, show 20 - (3 + 3) = 14 from rfl, show 21 - (3 + 3) = 15 from rfl, show 22 - (3 + 3) = 16 from rfl, show 23 - (3 + 3) = 17 from rfl, show 24 - (3 + 3) = 18 from rfl, show 25 - (3 + 3) = 19 from rfl, show 26 - (3 + 3) = 20 from rfl, bit_bit1, Nat.reduceSub, BitVec.extractLsb'_eq_self]
  refine accept_runs _ [(20, 6), (14, 6), (11, 3)] rfl ?_
  simp (disch := omega) only [List.forall_mem_cons, fld_append_hi, fld_append_lo, Nat.reduceSub]
  simp

theorem RoundTrip.tslice (d a : SReg) (c : Bool) (t : TReg) : RoundTrip.Statement (.tslice d a c t) := by
  intro _
  refine (decode_30 (encS_major ..)).trans ?_
  unfold decTile
  simp (disch := omega) only [encS, flag, bit_append_hi, bit_append_lo, bit_bit1, fld, fld_append_hi, fld_append_lo, Nat.reduceSub, BitVec.extractLsb'_eq_self]
  simp only [show 6 - (2 + 1 + 3) = 0 from rfl, show 7 - (2 + 1 + 3) = 1 from rfl, show 8 - (2 + 1 + 3) = 2 from rfl, show 9 - (2 + 1 + 3) = 3 from rfl, show 10 - (2 + 1 + 3) = 4 from rfl, show 11 - (2 + 1 + 3) = 5 from rfl, show 12 - (2 + 1 + 3) = 6 from rfl, show 13 - (2 + 1 + 3) = 7 from rfl, show 14 - (2 + 1 + 3) = 8 from rfl, show 15 - (2 + 1 + 3) = 9 from rfl, show 16 - (2 + 1 + 3) = 10 from rfl, show 17 - (2 + 1 + 3) = 11 from rfl, show 18 - (2 + 1 + 3) = 12 from rfl, show 19 - (2 + 1 + 3) = 13 from rfl, show 20 - (2 + 1 + 3) = 14 from rfl, show 21 - (2 + 1 + 3) = 15 from rfl, show 22 - (2 + 1 + 3) = 16 from rfl, show 23 - (2 + 1 + 3) = 17 from rfl, show 24 - (2 + 1 + 3) = 18 from rfl, show 25 - (2 + 1 + 3) = 19 from rfl, show 26 - (2 + 1 + 3) = 20 from rfl, bit_bit1, Nat.reduceSub, BitVec.extractLsb'_eq_self]
  refine accept_runs _ [(12, 2)] rfl ?_
  simp (disch := omega) only [List.forall_mem_cons, fld_append_hi, fld_append_lo, Nat.reduceSub]
  simp

theorem RoundTrip.accrd (d a : SReg) (c : AccReg) : RoundTrip.Statement (.accrd d a c) := by
  intro _
  refine (decode_35 (encS_major ..)).trans ?_
  unfold decAcc
  simp (disch := omega) only [encS, fld, fld_append_hi, fld_append_lo, Nat.reduceSub, BitVec.extractLsb'_eq_self]
  simp only [show 6 - (2 + 4) = 0 from rfl, show 7 - (2 + 4) = 1 from rfl, show 8 - (2 + 4) = 2 from rfl, show 9 - (2 + 4) = 3 from rfl, show 10 - (2 + 4) = 4 from rfl, show 11 - (2 + 4) = 5 from rfl, show 12 - (2 + 4) = 6 from rfl, show 13 - (2 + 4) = 7 from rfl, show 14 - (2 + 4) = 8 from rfl, show 15 - (2 + 4) = 9 from rfl, show 16 - (2 + 4) = 10 from rfl, show 17 - (2 + 4) = 11 from rfl, show 18 - (2 + 4) = 12 from rfl, show 19 - (2 + 4) = 13 from rfl, show 20 - (2 + 4) = 14 from rfl, show 21 - (2 + 4) = 15 from rfl, show 22 - (2 + 4) = 16 from rfl, show 23 - (2 + 4) = 17 from rfl, show 24 - (2 + 4) = 18 from rfl, show 25 - (2 + 4) = 19 from rfl, show 26 - (2 + 4) = 20 from rfl, bit_bit1, Nat.reduceSub, BitVec.extractLsb'_eq_self]
  refine accept_runs _ [(12, 2)] rfl ?_
  simp (disch := omega) only [List.forall_mem_cons, fld_append_hi, fld_append_lo, Nat.reduceSub]
  simp

theorem RoundTrip.accwr (d a : SReg) (c : AccReg) : RoundTrip.Statement (.accwr d a c) := by
  intro _
  refine (decode_35 (encS_major ..)).trans ?_
  unfold decAcc
  simp (disch := omega) only [encS, fld, fld_append_hi, fld_append_lo, Nat.reduceSub, BitVec.extractLsb'_eq_self]
  simp only [show 6 - (2 + 4) = 0 from rfl, show 7 - (2 + 4) = 1 from rfl, show 8 - (2 + 4) = 2 from rfl, show 9 - (2 + 4) = 3 from rfl, show 10 - (2 + 4) = 4 from rfl, show 11 - (2 + 4) = 5 from rfl, show 12 - (2 + 4) = 6 from rfl, show 13 - (2 + 4) = 7 from rfl, show 14 - (2 + 4) = 8 from rfl, show 15 - (2 + 4) = 9 from rfl, show 16 - (2 + 4) = 10 from rfl, show 17 - (2 + 4) = 11 from rfl, show 18 - (2 + 4) = 12 from rfl, show 19 - (2 + 4) = 13 from rfl, show 20 - (2 + 4) = 14 from rfl, show 21 - (2 + 4) = 15 from rfl, show 22 - (2 + 4) = 16 from rfl, show 23 - (2 + 4) = 17 from rfl, show 24 - (2 + 4) = 18 from rfl, show 25 - (2 + 4) = 19 from rfl, show 26 - (2 + 4) = 20 from rfl, bit_bit1, Nat.reduceSub, BitVec.extractLsb'_eq_self]
  refine accept_runs _ [(12, 2)] rfl ?_
  simp (disch := omega) only [List.forall_mem_cons, fld_append_hi, fld_append_lo, Nat.reduceSub]
  simp

theorem RoundTrip.accz (c : AccReg) : RoundTrip.Statement (.accz c) := by
  intro _
  refine (decode_35 (encS_major ..)).trans ?_
  unfold decAcc
  simp (disch := omega) only [encS, fld, fld_append_hi, fld_append_lo, Nat.reduceSub, BitVec.extractLsb'_eq_self]
  simp only [show 6 - (2 + 4) = 0 from rfl, show 7 - (2 + 4) = 1 from rfl, show 8 - (2 + 4) = 2 from rfl, show 9 - (2 + 4) = 3 from rfl, show 10 - (2 + 4) = 4 from rfl, show 11 - (2 + 4) = 5 from rfl, show 12 - (2 + 4) = 6 from rfl, show 13 - (2 + 4) = 7 from rfl, show 14 - (2 + 4) = 8 from rfl, show 15 - (2 + 4) = 9 from rfl, show 16 - (2 + 4) = 10 from rfl, show 17 - (2 + 4) = 11 from rfl, show 18 - (2 + 4) = 12 from rfl, show 19 - (2 + 4) = 13 from rfl, show 20 - (2 + 4) = 14 from rfl, show 21 - (2 + 4) = 15 from rfl, show 22 - (2 + 4) = 16 from rfl, show 23 - (2 + 4) = 17 from rfl, show 24 - (2 + 4) = 18 from rfl, show 25 - (2 + 4) = 19 from rfl, show 26 - (2 + 4) = 20 from rfl, bit_bit1, Nat.reduceSub, BitVec.extractLsb'_eq_self]
  refine accept_runs _ [(20, 6), (14, 6), (12, 2)] rfl ?_
  simp (disch := omega) only [List.forall_mem_cons, fld_append_hi, fld_append_lo, Nat.reduceSub]
  simp

theorem RoundTrip.xcpy (d a b : SReg) (h : BitVec 2) (r : Bool) : RoundTrip.Statement (.xcpy d a b h r) := by
  intro _
  refine (decode_38 (encX_major ..)).trans ?_
  unfold decCopy
  simp (disch := omega) only [encX, flag, bit_append_hi, bit_append_lo, bit_bit1, fld, fld_append_hi, fld_append_lo, Nat.reduceSub, BitVec.extractLsb'_eq_self]
  simp only [show 6 - (5 + 1) = 0 from rfl, show 7 - (5 + 1) = 1 from rfl, show 8 - (5 + 1) = 2 from rfl, show 9 - (5 + 1) = 3 from rfl, show 10 - (5 + 1) = 4 from rfl, show 11 - (5 + 1) = 5 from rfl, show 12 - (5 + 1) = 6 from rfl, show 13 - (5 + 1) = 7 from rfl, show 14 - (5 + 1) = 8 from rfl, show 15 - (5 + 1) = 9 from rfl, show 16 - (5 + 1) = 10 from rfl, show 17 - (5 + 1) = 11 from rfl, show 18 - (5 + 1) = 12 from rfl, show 19 - (5 + 1) = 13 from rfl, show 20 - (5 + 1) = 14 from rfl, show 21 - (5 + 1) = 15 from rfl, show 22 - (5 + 1) = 16 from rfl, show 23 - (5 + 1) = 17 from rfl, show 24 - (5 + 1) = 18 from rfl, show 25 - (5 + 1) = 19 from rfl, show 26 - (5 + 1) = 20 from rfl, bit_bit1, Nat.reduceSub, BitVec.extractLsb'_eq_self]
  refine accept_runs _ [(1, 3)] rfl ?_
  simp (disch := omega) only [List.forall_mem_cons, fld_append_hi, fld_append_lo, Nat.reduceSub]
  simp

theorem RoundTrip.xred (d a b : SReg) (h : BitVec 2) (e : Bool) (t : RedTy) : RoundTrip.Statement (.xred d a b h e t) := by
  intro _
  refine (decode_38 (encX_major ..)).trans ?_
  unfold decCopy
  simp (disch := omega) only [encX, flag, bit_append_hi, bit_append_lo, bit_bit1, ty_roundTrip, fld, fld_append_hi, fld_append_lo, Nat.reduceSub, BitVec.extractLsb'_eq_self]
  simp only [show 6 - (2 + 1 + 3) = 0 from rfl, show 7 - (2 + 1 + 3) = 1 from rfl, show 8 - (2 + 1 + 3) = 2 from rfl, show 9 - (2 + 1 + 3) = 3 from rfl, show 10 - (2 + 1 + 3) = 4 from rfl, show 11 - (2 + 1 + 3) = 5 from rfl, show 12 - (2 + 1 + 3) = 6 from rfl, show 13 - (2 + 1 + 3) = 7 from rfl, show 14 - (2 + 1 + 3) = 8 from rfl, show 15 - (2 + 1 + 3) = 9 from rfl, show 16 - (2 + 1 + 3) = 10 from rfl, show 17 - (2 + 1 + 3) = 11 from rfl, show 18 - (2 + 1 + 3) = 12 from rfl, show 19 - (2 + 1 + 3) = 13 from rfl, show 20 - (2 + 1 + 3) = 14 from rfl, show 21 - (2 + 1 + 3) = 15 from rfl, show 22 - (2 + 1 + 3) = 16 from rfl, show 23 - (2 + 1 + 3) = 17 from rfl, show 24 - (2 + 1 + 3) = 18 from rfl, show 25 - (2 + 1 + 3) = 19 from rfl, show 26 - (2 + 1 + 3) = 20 from rfl, bit_bit1, Nat.reduceSub, ty_roundTrip, redTy_roundTrip, BitVec.extractLsb'_eq_self]
  exact accept_ok _ (BitVec.and_zero) rfl

theorem RoundTrip.xwait (a : SReg) (h : BitVec 2) : RoundTrip.Statement (.xwait a h) := by
  intro _
  refine (decode_38 (encX_major ..)).trans ?_
  unfold decCopy
  simp (disch := omega) only [encX, fld, fld_append_hi, fld_append_lo, Nat.reduceSub, BitVec.extractLsb'_eq_self]
  refine accept_runs _ [(20, 6), (8, 6), (0, 4)] rfl ?_
  simp (disch := omega) only [List.forall_mem_cons, fld_append_hi, fld_append_lo, Nat.reduceSub]
  simp

theorem RoundTrip.skbind (d a : SReg) : RoundTrip.Statement (.skbind d a) := by
  intro _
  refine (decode_39 (encS_major ..)).trans ?_
  unfold decStack
  simp (disch := omega) only [encS, fld, fld_append_hi, fld_append_lo, Nat.reduceSub, BitVec.extractLsb'_eq_self]
  refine accept_runs _ [(8, 6)] rfl ?_
  simp (disch := omega) only [List.forall_mem_cons, fld_append_hi, fld_append_lo, Nat.reduceSub]
  simp

theorem RoundTrip.skloop (a b : SReg) : RoundTrip.Statement (.skloop a b) := by
  intro _
  refine (decode_39 (encS_major ..)).trans ?_
  unfold decStack
  simp (disch := omega) only [encS, fld, fld_append_hi, fld_append_lo, Nat.reduceSub, BitVec.extractLsb'_eq_self]
  refine accept_runs _ [(20, 6)] rfl ?_
  simp (disch := omega) only [List.forall_mem_cons, fld_append_hi, fld_append_lo, Nat.reduceSub]
  simp

theorem RoundTrip.skend : RoundTrip.Statement (.skend) := by
  intro _
  refine (decode_39 (encS_major ..)).trans ?_
  unfold decStack
  simp (disch := omega) only [encS, fld, fld_append_hi, fld_append_lo, Nat.reduceSub, BitVec.extractLsb'_eq_self]
  refine accept_runs _ [(20, 6), (14, 6), (8, 6)] rfl ?_
  simp (disch := omega) only [List.forall_mem_cons, fld_append_hi, fld_append_lo, Nat.reduceSub]
  simp

theorem RoundTrip.skfence : RoundTrip.Statement (.skfence) := by
  intro _
  refine (decode_39 (encS_major ..)).trans ?_
  unfold decStack
  simp (disch := omega) only [encS, fld, fld_append_hi, fld_append_lo, Nat.reduceSub, BitVec.extractLsb'_eq_self]
  refine accept_runs _ [(20, 6), (14, 6), (8, 6)] rfl ?_
  simp (disch := omega) only [List.forall_mem_cons, fld_append_hi, fld_append_lo, Nat.reduceSub]
  simp

theorem RoundTrip.skstrm (j a : SReg) : RoundTrip.Statement (.skstrm j a) := by
  intro _
  refine (decode_39 (encS_major ..)).trans ?_
  unfold decStack
  simp (disch := omega) only [encS, fld, fld_append_hi, fld_append_lo, Nat.reduceSub, BitVec.extractLsb'_eq_self]
  refine accept_runs _ [(8, 6)] rfl ?_
  simp (disch := omega) only [List.forall_mem_cons, fld_append_hi, fld_append_lo, Nat.reduceSub]
  simp

theorem RoundTrip.rlopen (h a : SReg) : RoundTrip.Statement (.rlopen h a) := by
  intro _
  refine (decode_3a (encK_major ..)).trans ?_
  unfold decBank
  simp (disch := omega) only [encK, flag, bit_append_hi, bit_append_lo, bit_bit1, fld, fld_append_hi, fld_append_lo, Nat.reduceSub, BitVec.extractLsb'_eq_self]
  refine accept_runs _ [(8, 6), (7, 1)] rfl ?_
  simp (disch := omega) only [List.forall_mem_cons, fld_append_hi, fld_append_lo, Nat.reduceSub]
  simp

theorem RoundTrip.rlrel (h : SReg) : RoundTrip.Statement (.rlrel h) := by
  intro _
  refine (decode_3a (encK_major ..)).trans ?_
  unfold decBank
  simp (disch := omega) only [encK, flag, bit_append_hi, bit_append_lo, bit_bit1, fld, fld_append_hi, fld_append_lo, Nat.reduceSub, BitVec.extractLsb'_eq_self]
  refine accept_runs _ [(14, 6), (8, 6), (7, 1)] rfl ?_
  simp (disch := omega) only [List.forall_mem_cons, fld_append_hi, fld_append_lo, Nat.reduceSub]
  simp

theorem RoundTrip.rlstat (h d : SReg) : RoundTrip.Statement (.rlstat h d) := by
  intro _
  refine (decode_3a (encK_major ..)).trans ?_
  unfold decBank
  simp (disch := omega) only [encK, flag, bit_append_hi, bit_append_lo, bit_bit1, fld, fld_append_hi, fld_append_lo, Nat.reduceSub, BitVec.extractLsb'_eq_self]
  refine accept_runs _ [(8, 6), (7, 1)] rfl ?_
  simp (disch := omega) only [List.forall_mem_cons, fld_append_hi, fld_append_lo, Nat.reduceSub]
  simp

theorem RoundTrip.bkwave (a : SReg) : RoundTrip.Statement (.bkwave a) := by
  intro _
  refine (decode_3a (encK_major ..)).trans ?_
  unfold decBank
  simp (disch := omega) only [encK, flag, bit_append_hi, bit_append_lo, bit_bit1, fld, fld_append_hi, fld_append_lo, Nat.reduceSub, BitVec.extractLsb'_eq_self]
  refine accept_runs _ [(20, 6), (8, 6), (7, 1)] rfl ?_
  simp (disch := omega) only [List.forall_mem_cons, fld_append_hi, fld_append_lo, Nat.reduceSub]
  simp

theorem RoundTrip.bkfence (h : SReg) : RoundTrip.Statement (.bkfence h) := by
  intro _
  refine (decode_3a (encK_major ..)).trans ?_
  unfold decBank
  simp (disch := omega) only [encK, flag, bit_append_hi, bit_append_lo, bit_bit1, fld, fld_append_hi, fld_append_lo, Nat.reduceSub, BitVec.extractLsb'_eq_self]
  refine accept_runs _ [(14, 6), (8, 6), (7, 1)] rfl ?_
  simp (disch := omega) only [List.forall_mem_cons, fld_append_hi, fld_append_lo, Nat.reduceSub]
  simp

theorem RoundTrip.urank (k a : VReg) (t : Ty) : RoundTrip.Statement (.urank k a t) := by
  intro _
  refine (decode_3b (encV_major ..)).trans ?_
  unfold decGen
  simp (disch := omega) only [encV, flag, bit_append_hi, bit_append_lo, bit_bit1, ty_roundTrip, unplaced, fld, fld_append_hi, fld_append_lo, Nat.reduceSub, BitVec.extractLsb'_eq_self]
  refine accept_runs _ [(10, 5), (5, 1)] rfl ?_
  simp (disch := omega) only [List.forall_mem_cons, fld_append_hi, fld_append_lo, Nat.reduceSub]
  simp

theorem RoundTrip.ucommit (k a : VReg) (b : SReg) (t : Ty) : RoundTrip.Statement (.ucommit k a b t) := by
  intro _
  refine (decode_3b (encVS_major ..)).trans ?_
  unfold decGen
  simp (disch := omega) only [encVS, flag, bit_append_hi, bit_append_lo, bit_bit1, ty_roundTrip, unplaced, fld, fld_append_hi, fld_append_lo, Nat.reduceSub, BitVec.extractLsb'_eq_self]
  exact accept_ok _ (BitVec.and_zero) rfl

theorem RoundTrip.udirty (k : VReg) (b : SReg) : RoundTrip.Statement (.udirty k b) := by
  intro _
  refine (decode_3b (encVS_major ..)).trans ?_
  unfold decGen
  simp (disch := omega) only [encVS, flag, bit_append_hi, bit_append_lo, bit_bit1, unplaced, fld, fld_append_hi, fld_append_lo, Nat.reduceSub, BitVec.extractLsb'_eq_self]
  refine accept_runs _ [(15, 5), (5, 4)] rfl ?_
  simp (disch := omega) only [List.forall_mem_cons, fld_append_hi, fld_append_lo, Nat.reduceSub]
  simp

theorem RoundTrip.ucfg (b : SReg) : RoundTrip.Statement (.ucfg b) := by
  intro _
  refine (decode_3b (encVS_major ..)).trans ?_
  unfold decGen
  simp (disch := omega) only [encVS, flag, bit_append_hi, bit_append_lo, bit_bit1, unplaced, fld, fld_append_hi, fld_append_lo, Nat.reduceSub, BitVec.extractLsb'_eq_self]
  refine accept_runs _ [(20, 5), (15, 5), (5, 4)] rfl ?_
  simp (disch := omega) only [List.forall_mem_cons, fld_append_hi, fld_append_lo, Nat.reduceSub]
  simp

theorem RoundTrip.smpstep (d a : VReg) (b : SReg) (t : Ty) : RoundTrip.Statement (.smpstep d a b t) := by
  intro _
  refine (decode_3b (encVS_major ..)).trans ?_
  unfold decGen
  simp (disch := omega) only [encVS, flag, bit_append_hi, bit_append_lo, bit_bit1, ty_roundTrip, unplaced, fld, fld_append_hi, fld_append_lo, Nat.reduceSub, BitVec.extractLsb'_eq_self]
  exact accept_ok _ (BitVec.and_zero) rfl

theorem RoundTrip.vaccept (k a : VReg) (b : SReg) (t : Ty) : RoundTrip.Statement (.vaccept k a b t) := by
  intro _
  refine (decode_3b (encVS_major ..)).trans ?_
  unfold decGen
  simp (disch := omega) only [encVS, flag, bit_append_hi, bit_append_lo, bit_bit1, ty_roundTrip, unplaced, fld, fld_append_hi, fld_append_lo, Nat.reduceSub, BitVec.extractLsb'_eq_self]
  exact accept_ok _ (BitVec.and_zero) rfl

theorem RoundTrip.vpand (k a : VReg) : RoundTrip.Statement (.vpand k a) := by
  intro _
  refine (decode_3b (encV_major ..)).trans ?_
  unfold decGen
  simp (disch := omega) only [encV, flag, bit_append_hi, bit_append_lo, bit_bit1, unplaced, fld, fld_append_hi, fld_append_lo, Nat.reduceSub, BitVec.extractLsb'_eq_self]
  refine accept_runs _ [(10, 5), (6, 4), (5, 1)] rfl ?_
  simp (disch := omega) only [List.forall_mem_cons, fld_append_hi, fld_append_lo, Nat.reduceSub]
  simp

theorem RoundTrip.vgumbel (d : VReg) (b : SReg) (t : Ty) : RoundTrip.Statement (.vgumbel d b t) := by
  intro _
  refine (decode_3b (encVS_major ..)).trans ?_
  unfold decGen
  simp (disch := omega) only [encVS, flag, bit_append_hi, bit_append_lo, bit_bit1, ty_roundTrip, unplaced, fld, fld_append_hi, fld_append_lo, Nat.reduceSub, BitVec.extractLsb'_eq_self]
  refine accept_runs _ [(15, 5)] rfl ?_
  simp (disch := omega) only [List.forall_mem_cons, fld_append_hi, fld_append_lo, Nat.reduceSub]
  simp

theorem RoundTrip.vdraw (d : VReg) (b : SReg) (t : Ty) : RoundTrip.Statement (.vdraw d b t) := by
  intro _
  refine (decode_3b (encVS_major ..)).trans ?_
  unfold decGen
  simp (disch := omega) only [encVS, flag, bit_append_hi, bit_append_lo, bit_bit1, ty_roundTrip, unplaced, fld, fld_append_hi, fld_append_lo, Nat.reduceSub, BitVec.extractLsb'_eq_self]
  refine accept_runs _ [(15, 5)] rfl ?_
  simp (disch := omega) only [List.forall_mem_cons, fld_append_hi, fld_append_lo, Nat.reduceSub]
  simp

theorem RoundTrip.jadd (d a b : SReg) : RoundTrip.Statement (.jadd d a b) := by
  intro _
  refine (decode_3c (encS_major ..)).trans ?_
  unfold decJournal
  simp (disch := omega) only [encS, fld, fld_append_hi, fld_append_lo, Nat.reduceSub, BitVec.extractLsb'_eq_self]
  exact accept_ok _ (BitVec.and_zero) rfl

theorem RoundTrip.jcommit (a b : SReg) : RoundTrip.Statement (.jcommit a b) := by
  intro _
  refine (decode_3c (encS_major ..)).trans ?_
  unfold decJournal
  simp (disch := omega) only [encS, fld, fld_append_hi, fld_append_lo, Nat.reduceSub, BitVec.extractLsb'_eq_self]
  refine accept_runs _ [(20, 6)] rfl ?_
  simp (disch := omega) only [List.forall_mem_cons, fld_append_hi, fld_append_lo, Nat.reduceSub]
  simp

theorem RoundTrip.jdrop (a : SReg) : RoundTrip.Statement (.jdrop a) := by
  intro _
  refine (decode_3c (encS_major ..)).trans ?_
  unfold decJournal
  simp (disch := omega) only [encS, fld, fld_append_hi, fld_append_lo, Nat.reduceSub, BitVec.extractLsb'_eq_self]
  refine accept_runs _ [(20, 6), (8, 6)] rfl ?_
  simp (disch := omega) only [List.forall_mem_cons, fld_append_hi, fld_append_lo, Nat.reduceSub]
  simp

theorem RoundTrip.scall (c : BitVec 8) : RoundTrip.Statement (.scall c) := by
  intro _
  refine (decode_3f (encS_major ..)).trans ?_
  unfold decSystem
  simp (disch := omega) only [encS, fld, fld_append_hi, fld_append_lo, Nat.reduceSub, BitVec.extractLsb'_eq_self]
  refine accept_runs _ [(14, 6), (8, 6)] rfl ?_
  simp (disch := omega) only [List.forall_mem_cons, fld_append_hi, fld_append_lo, Nat.reduceSub]
  simp

theorem RoundTrip.ebreak (c : BitVec 8) : RoundTrip.Statement (.ebreak c) := by
  intro _
  refine (decode_3f (encS_major ..)).trans ?_
  unfold decSystem
  simp (disch := omega) only [encS, fld, fld_append_hi, fld_append_lo, Nat.reduceSub, BitVec.extractLsb'_eq_self]
  refine accept_runs _ [(14, 6), (8, 6)] rfl ?_
  simp (disch := omega) only [List.forall_mem_cons, fld_append_hi, fld_append_lo, Nat.reduceSub]
  simp

theorem RoundTrip.eret : RoundTrip.Statement (.eret) := by
  intro _
  refine (decode_3f (encS_major ..)).trans ?_
  unfold decSystem
  simp (disch := omega) only [encS, fld, fld_append_hi, fld_append_lo, Nat.reduceSub, BitVec.extractLsb'_eq_self]
  refine accept_runs _ [(14, 6), (8, 6), (0, 8)] rfl ?_
  simp (disch := omega) only [List.forall_mem_cons, fld_append_hi, fld_append_lo, Nat.reduceSub]
  simp

theorem RoundTrip.erpl (a : SReg) (v : VReg) : RoundTrip.Statement (.erpl a v) := by
  intro _
  refine (decode_3f (encS_major ..)).trans ?_
  unfold decSystem
  simp (disch := omega) only [encS, fld, fld_append_hi, fld_append_lo, Nat.reduceSub, BitVec.extractLsb'_eq_self]
  simp only [show 6 - (1 + 5) = 0 from rfl, show 7 - (1 + 5) = 1 from rfl, show 8 - (1 + 5) = 2 from rfl, show 9 - (1 + 5) = 3 from rfl, show 10 - (1 + 5) = 4 from rfl, show 11 - (1 + 5) = 5 from rfl, show 12 - (1 + 5) = 6 from rfl, show 13 - (1 + 5) = 7 from rfl, show 14 - (1 + 5) = 8 from rfl, show 15 - (1 + 5) = 9 from rfl, show 16 - (1 + 5) = 10 from rfl, show 17 - (1 + 5) = 11 from rfl, show 18 - (1 + 5) = 12 from rfl, show 19 - (1 + 5) = 13 from rfl, show 20 - (1 + 5) = 14 from rfl, show 21 - (1 + 5) = 15 from rfl, show 22 - (1 + 5) = 16 from rfl, show 23 - (1 + 5) = 17 from rfl, show 24 - (1 + 5) = 18 from rfl, show 25 - (1 + 5) = 19 from rfl, show 26 - (1 + 5) = 20 from rfl, bit_bit1, Nat.reduceSub, BitVec.extractLsb'_eq_self]
  refine accept_runs _ [(13, 1), (0, 8)] rfl ?_
  simp (disch := omega) only [List.forall_mem_cons, fld_append_hi, fld_append_lo, Nat.reduceSub]
  simp

theorem RoundTrip.sbar (m : BitVec 8) : RoundTrip.Statement (.sbar m) := by
  intro _
  show decode ((0x1C : BitVec 6) ++ (0 : BitVec 10) ++ m ++ (0x04 : BitVec 8)) = _
  refine (decode_1c (by simp (disch := omega) only [fld, fld_append_hi, fld_append_lo, Nat.reduceSub, BitVec.extractLsb'_eq_self])).trans ?_
  unfold decSync
  simp (disch := omega) only [fld, fld_append_hi, fld_append_lo, Nat.reduceSub, BitVec.extractLsb'_eq_self]
  refine accept_runs _ [(16, 10)] rfl ?_
  simp (disch := omega) only [List.forall_mem_cons, fld_append_hi, fld_append_lo, Nat.reduceSub]
  simp

theorem RoundTrip.nexts (o : BitVec 18) : RoundTrip.Statement (.nexts o) := by
  intro _
  show decode ((0x1C : BitVec 6) ++ o ++ (0x08 : BitVec 8)) = _
  refine (decode_1c (by simp (disch := omega) only [fld, fld_append_hi, fld_append_lo, Nat.reduceSub, BitVec.extractLsb'_eq_self])).trans ?_
  unfold decSync
  simp (disch := omega) only [fld, fld_append_hi, fld_append_lo, Nat.reduceSub, BitVec.extractLsb'_eq_self]
  exact accept_ok _ BitVec.and_zero rfl

theorem RoundTrip.fence (c : BitVec 2) : RoundTrip.Statement (.fence c) := by
  intro _
  revert c; decide

theorem RoundTrip.ld (d a : SReg) (z : BitVec 2) (x : Bool) (i : BitVec 11) : RoundTrip.Statement (.ld d a z x i) := by
  intro h
  have hb : (x && z == 3) = false := by
    have := (Bool.and_eq_true _ _ ▸ h).2
    cases x <;> simp_all [Instr.fieldsOk]
  refine (decode_0a (encSI_major ..)).trans ?_
  simp (disch := omega) only [encSI, fld, flag, bit_append_hi, bit_append_lo, bit_bit1, fld_append_hi, fld_append_lo,
    Nat.reduceSub, BitVec.extractLsb'_eq_self]
  simp only [show 14 - (2 + 1 + 11) = 0 from rfl, show 20 - (2 + 1 + 11) = 6 from rfl, Nat.reduceSub,
    BitVec.extractLsb'_eq_self]
  exact accept_ok _ BitVec.and_zero (badAt_nil hb)

theorem RoundTrip.amo (d a : SReg) (z c : BitVec 2) (b : SReg) (o : AmoOp) : RoundTrip.Statement (.amo d a z c b o) := by
  intro _
  refine (decode_0e (encSA_major ..)).trans ?_
  unfold decAmo
  simp (disch := omega) only [encSA, fld, fld_append_hi, fld_append_lo, Nat.reduceSub, BitVec.extractLsb'_eq_self,
    amoOp_roundTrip]
  exact accept_ok _ BitVec.and_zero rfl

theorem RoundTrip.vcvt (p : Bool) (d a : VReg) (s : Bool) (e t : Ty) : RoundTrip.Statement (.vcvt p d a s e t) := by
  intro h
  have hb : (s && !satAllowed e t) = false := by
    have := (Bool.and_eq_true _ _ ▸ h).2
    cases s <;> simp_all [Instr.fieldsOk]
  refine (decode_23 (encV_major ..)).trans ?_
  unfold decVUnary
  simp (disch := omega) only [encV, flag, bit_append_hi, bit_append_lo, bit_bit1, ty_roundTrip, fld, fld_append_hi,
    fld_append_lo, Nat.reduceSub, BitVec.extractLsb'_eq_self]
  simp only [show 5 - (1 + 4) = 0 from rfl, show 10 - (1 + 4) = 5 from rfl, bit_bit1, Nat.reduceSub, ty_roundTrip,
    BitVec.extractLsb'_eq_self]
  exact accept_ok _ BitVec.and_zero (badAt_nil hb)

theorem RoundTrip.vcmp (p : Bool) (k a b : VReg) (t : Ty) (c : CmpPred) : RoundTrip.Statement (.vcmp p k a b t c) := by
  intro _
  refine (decode_24 (encV_major ..)).trans ?_
  unfold decVCmp
  simp (disch := omega) only [encV, flag, bit_append_hi, bit_append_lo, bit_bit1, ty_roundTrip, fld, fld_append_hi,
    fld_append_lo, Nat.reduceSub, BitVec.extractLsb'_eq_self, cmpPred_roundTrip]
  simp only [show 6 - (3 + 3) = 0 from rfl, show 10 - (3 + 3) = 4 from rfl, show 15 - (3 + 3) = 9 from rfl,
    show 20 - (3 + 3) = 14 from rfl, bit_bit1, Nat.reduceSub, ty_roundTrip, BitVec.extractLsb'_eq_self]
  exact accept_ok _ BitVec.and_zero rfl

theorem RoundTrip.vsel (p : Bool) (d a b : VReg) (t : Ty) : RoundTrip.Statement (.vsel p d a b t) := by
  intro _
  refine (decode_24 (encV_major ..)).trans ?_
  unfold decVCmp
  simp (disch := omega) only [encV, flag, bit_append_hi, bit_append_lo, bit_bit1, ty_roundTrip, fld, fld_append_hi,
    fld_append_lo, Nat.reduceSub, BitVec.extractLsb'_eq_self]
  exact accept_ok _ BitVec.and_zero rfl

theorem RoundTrip.tld (t : VReg) (a : SReg) (k o : Bool) (y : Ty) : RoundTrip.Statement (.tld t a k o y) := by
  intro _
  refine (decode_31 (encVM_major ..)).trans ?_
  unfold decTMem
  simp (disch := omega) only [encVM, flag, bit_append_hi, bit_append_lo, bit_bit1, ty_roundTrip, fld, fld_append_hi,
    fld_append_lo, Nat.reduceSub, BitVec.extractLsb'_eq_self]
  refine accept_runs _ [(0, 5)] rfl ?_
  simp (disch := omega) only [List.forall_mem_cons, fld_append_hi, fld_append_lo, Nat.reduceSub]
  simp

theorem RoundTrip.tst (t : VReg) (a : SReg) (k o : Bool) (y : Ty) : RoundTrip.Statement (.tst t a k o y) := by
  intro _
  refine (decode_32 (encVM_major ..)).trans ?_
  unfold decTMem
  simp (disch := omega) only [encVM, flag, bit_append_hi, bit_append_lo, bit_bit1, ty_roundTrip, fld, fld_append_hi,
    fld_append_lo, Nat.reduceSub, BitVec.extractLsb'_eq_self]
  refine accept_runs _ [(0, 5)] rfl ?_
  simp (disch := omega) only [List.forall_mem_cons, fld_append_hi, fld_append_lo, Nat.reduceSub]
  simp

theorem vamo_ok (o : VamoOp) : (o.code == 7) = false := by cases o <;> rfl

theorem RoundTrip.vamo (p : Bool) (t : VReg) (a : SReg) (c : VamoOp) (k o : Bool) (y : Ty) (x : VReg) :
    RoundTrip.Statement (.vamo p t a c k o y x) := by
  intro _
  refine (decode_2a (encVM_major ..)).trans ?_
  unfold decVamo
  simp (disch := omega) only [encVM, flag, bit_append_hi, bit_append_lo, bit_bit1, ty_roundTrip, fld, fld_append_hi,
    fld_append_lo, Nat.reduceSub, BitVec.extractLsb'_eq_self, vamoOp_roundTrip]
  exact accept_ok _ BitVec.and_zero (badAt_nil (vamo_ok c))

theorem RoundTrip.vamon (p : Bool) (t : VReg) (a : SReg) (c : VamoOp) (k o : Bool) (y : Ty) (x : VReg) :
    RoundTrip.Statement (.vamon p t a c k o y x) := by
  intro _
  refine (decode_2b (encVM_major ..)).trans ?_
  unfold decVamo
  simp (disch := omega) only [encVM, flag, bit_append_hi, bit_append_lo, bit_bit1, ty_roundTrip, fld, fld_append_hi,
    fld_append_lo, Nat.reduceSub, BitVec.extractLsb'_eq_self, vamoOp_roundTrip]
  exact accept_ok _ BitVec.and_zero (badAt_nil (vamo_ok c))

/-- Decoding of an addressing mode (R91). -/
theorem decVMem_ok (m6 : BitVec 6) (p : Bool) (t : VReg) (a : SReg) (m : AMode) (k o : Bool) (y : BitVec 4)
    (mk : AMode → Instr) (h : m.wf p a = true) :
    decVMem (encVM m6 p t a m.fields.1 k o y m.fields.2) mk = .ok (mk m) := by
  unfold decVMem
  cases m with
  | unit | strided | tile =>
    simp (disch := omega) only [AMode.fields, encVM, fld, fld_append_hi, fld_append_lo, Nat.reduceSub,
      BitVec.extractLsb'_eq_self]
    refine accept_runs _ [(0, 5)] rfl ?_
    simp (disch := omega) only [List.forall_mem_cons, fld_append_hi, fld_append_lo, Nat.reduceSub]
    simp
  | indexed x =>
    simp (disch := omega) only [AMode.fields, encVM, fld, fld_append_hi, fld_append_lo, Nat.reduceSub,
      BitVec.extractLsb'_eq_self]
    exact accept_ok _ BitVec.and_zero rfl
  | segment x =>
    simp (disch := omega) only [AMode.fields, encVM, fld, fld_append_hi, fld_append_lo, Nat.reduceSub,
      BitVec.extractLsb'_eq_self]
    exact accept_ok _ BitVec.and_zero (badAt_nil (by simp only [AMode.wf] at h; rw [h]; rfl))
  | stream x =>
    simp only [AMode.wf, Bool.and_eq_true, beq_iff_eq] at h
    obtain ⟨rfl, rfl⟩ := h
    simp (disch := omega) only [AMode.fields, encVM, fld, flag, bit_append_hi, bit_append_lo, bit_bit1, fld_append_hi,
      fld_append_lo, Nat.reduceSub, BitVec.extractLsb'_eq_self]
    refine accept_runs _ [(14, 6)] rfl ?_
    simp (disch := omega) only [List.forall_mem_cons, fld_append_hi, fld_append_lo, Nat.reduceSub]
    simp

theorem RoundTrip.vld (p : Bool) (t : VReg) (a : SReg) (m : AMode) (k o : Bool) (y : Ty) :
    RoundTrip.Statement (.vld p t a m k o y) := by
  intro h
  refine (decode_28 (encVM_major ..)).trans ?_
  refine (decVMem_ok _ _ _ _ _ _ _ _ _ (Bool.and_eq_true _ _ ▸ h).2).trans ?_
  simp (disch := omega) only [encVM, fld, flag, bit_append_hi, bit_append_lo, bit_bit1, fld_append_hi, fld_append_lo,
    Nat.reduceSub, BitVec.extractLsb'_eq_self, ty_roundTrip]

theorem RoundTrip.vst (p : Bool) (t : VReg) (a : SReg) (m : AMode) (k o : Bool) (y : Ty) :
    RoundTrip.Statement (.vst p t a m k o y) := by
  intro h
  refine (decode_29 (encVM_major ..)).trans ?_
  refine (decVMem_ok _ _ _ _ _ _ _ _ _ (Bool.and_eq_true _ _ ▸ h).2).trans ?_
  simp (disch := omega) only [encVM, fld, flag, bit_append_hi, bit_append_lo, bit_bit1, fld_append_hi, fld_append_lo,
    Nat.reduceSub, BitVec.extractLsb'_eq_self, ty_roundTrip]

theorem RoundTrip.mma (c : AccReg) (a b : TReg) (x y : Ty) (v : MmaFlags) :
    RoundTrip.Statement (.mma c a b x y v) := by
  intro h
  obtain ⟨f, e, s⟩ := v
  have hb := (Bool.and_eq_true _ _ ▸ h).2
  simp only [Instr.fieldsOk, Bool.and_eq_true, Bool.or_eq_true, Bool.not_eq_true'] at hb
  refine (decode_33 (encT_major ..)).trans ?_
  unfold decMatrix
  simp (disch := omega) only [encT, fld, flag, bit_append_hi, bit_append_lo, bit_bit1, fld_append_hi, fld_append_lo,
    Nat.reduceSub, BitVec.extractLsb'_eq_self, ty_roundTrip]
  simp only [show 4 - (1 + 1 + 1 + 1) = 0 from rfl, show 5 - (1 + 1 + 1 + 1) = 1 from rfl, show 6 - (1 + 1 + 1 + 1) = 2 from rfl, show 7 - (1 + 1 + 1 + 1) = 3 from rfl, show 8 - (1 + 1 + 1 + 1) = 4 from rfl, show 9 - (1 + 1 + 1 + 1) = 5 from rfl, show 10 - (1 + 1 + 1 + 1) = 6 from rfl, show 11 - (1 + 1 + 1 + 1) = 7 from rfl, show 12 - (1 + 1 + 1 + 1) = 8 from rfl, show 13 - (1 + 1 + 1 + 1) = 9 from rfl, show 14 - (1 + 1 + 1 + 1) = 10 from rfl, show 15 - (1 + 1 + 1 + 1) = 11 from rfl, show 16 - (1 + 1 + 1 + 1) = 12 from rfl, show 17 - (1 + 1 + 1 + 1) = 13 from rfl, show 18 - (1 + 1 + 1 + 1) = 14 from rfl, show 19 - (1 + 1 + 1 + 1) = 15 from rfl, show 20 - (1 + 1 + 1 + 1) = 16 from rfl, show 21 - (1 + 1 + 1 + 1) = 17 from rfl, show 22 - (1 + 1 + 1 + 1) = 18 from rfl, Nat.reduceSub, ty_roundTrip,
    BitVec.extractLsb'_eq_self]
  refine accept_runs' _ [(7, 1)] rfl ?_ ?_
  · cases e <;> cases f <;> simp_all [badAt]
  simp (disch := omega) only [List.forall_mem_cons, fld_append_hi, fld_append_lo, Nat.reduceSub]
  simp

theorem RoundTrip.mmax (c : AccReg) (a b : TReg) (x y : Ty) (f e s : Bool) :
    RoundTrip.Statement (.mmax c a b x y f e s) := by
  intro h
  have hb := (Bool.and_eq_true _ _ ▸ h).2
  simp only [Instr.fieldsOk, Bool.and_eq_true, Bool.or_eq_true, Bool.not_eq_true'] at hb
  refine (decode_34 (encT_major ..)).trans ?_
  unfold decMatrix
  simp (disch := omega) only [encT, fld, flag, bit_append_hi, bit_append_lo, bit_bit1, fld_append_hi, fld_append_lo,
    Nat.reduceSub, BitVec.extractLsb'_eq_self, ty_roundTrip]
  simp only [show 4 - (1 + 1 + 1 + 1) = 0 from rfl, show 5 - (1 + 1 + 1 + 1) = 1 from rfl, show 6 - (1 + 1 + 1 + 1) = 2 from rfl, show 7 - (1 + 1 + 1 + 1) = 3 from rfl, show 8 - (1 + 1 + 1 + 1) = 4 from rfl, show 9 - (1 + 1 + 1 + 1) = 5 from rfl, show 10 - (1 + 1 + 1 + 1) = 6 from rfl, show 11 - (1 + 1 + 1 + 1) = 7 from rfl, show 12 - (1 + 1 + 1 + 1) = 8 from rfl, show 13 - (1 + 1 + 1 + 1) = 9 from rfl, show 14 - (1 + 1 + 1 + 1) = 10 from rfl, show 15 - (1 + 1 + 1 + 1) = 11 from rfl, show 16 - (1 + 1 + 1 + 1) = 12 from rfl, show 17 - (1 + 1 + 1 + 1) = 13 from rfl, show 18 - (1 + 1 + 1 + 1) = 14 from rfl, show 19 - (1 + 1 + 1 + 1) = 15 from rfl, show 20 - (1 + 1 + 1 + 1) = 16 from rfl, show 21 - (1 + 1 + 1 + 1) = 17 from rfl, show 22 - (1 + 1 + 1 + 1) = 18 from rfl, Nat.reduceSub, ty_roundTrip,
    BitVec.extractLsb'_eq_self]
  refine accept_runs' _ [(7, 1)] rfl ?_ ?_
  · cases e <;> cases f <;> simp_all [badAt]
  simp (disch := omega) only [List.forall_mem_cons, fld_append_hi, fld_append_lo, Nat.reduceSub]
  simp

theorem RoundTrip.xdeil (d : SReg) (v : VReg) (b : SReg) (h : BitVec 2) (f : BitVec 3) :
    RoundTrip.Statement (.xdeil d v b h f) := by
  intro hw
  have hb := (Bool.and_eq_true _ _ ▸ hw).2
  simp only [Instr.fieldsOk] at hb
  refine (decode_38 (encX_major ..)).trans ?_
  unfold decCopy
  simp (disch := omega) only [encX, fld, flag, bit_append_hi, bit_append_lo, bit_bit1, fld_append_hi, fld_append_lo,
    Nat.reduceSub, BitVec.extractLsb'_eq_self, ty_roundTrip]
  simp only [show 6 - (3 + 3) = 0 from rfl, show 7 - (3 + 3) = 1 from rfl, show 8 - (3 + 3) = 2 from rfl, show 9 - (3 + 3) = 3 from rfl, show 10 - (3 + 3) = 4 from rfl, show 11 - (3 + 3) = 5 from rfl, show 12 - (3 + 3) = 6 from rfl, show 13 - (3 + 3) = 7 from rfl, show 14 - (3 + 3) = 8 from rfl, show 15 - (3 + 3) = 9 from rfl, show 16 - (3 + 3) = 10 from rfl, show 17 - (3 + 3) = 11 from rfl, show 18 - (3 + 3) = 12 from rfl, show 19 - (3 + 3) = 13 from rfl, show 20 - (3 + 3) = 14 from rfl, show 21 - (3 + 3) = 15 from rfl, show 22 - (3 + 3) = 16 from rfl, show 6 - (1 + 5) = 0 from rfl, show 7 - (1 + 5) = 1 from rfl, show 8 - (1 + 5) = 2 from rfl, show 9 - (1 + 5) = 3 from rfl, show 10 - (1 + 5) = 4 from rfl, show 11 - (1 + 5) = 5 from rfl, show 12 - (1 + 5) = 6 from rfl, show 13 - (1 + 5) = 7 from rfl, show 14 - (1 + 5) = 8 from rfl, show 15 - (1 + 5) = 9 from rfl, show 16 - (1 + 5) = 10 from rfl, show 17 - (1 + 5) = 11 from rfl, show 18 - (1 + 5) = 12 from rfl, show 19 - (1 + 5) = 13 from rfl, show 20 - (1 + 5) = 14 from rfl, show 21 - (1 + 5) = 15 from rfl, show 22 - (1 + 5) = 16 from rfl, Nat.reduceSub,
    BitVec.extractLsb'_eq_self]
  refine accept_runs' _ [(3, 1), (19, 1)] rfl ?_ ?_
  · exact badAt_nil (by simpa using hb)
  simp (disch := omega) only [List.forall_mem_cons, fld_append_hi, fld_append_lo, Nat.reduceSub]
  simp

/-- A BKOP word reaches the arm that gives it its operation. -/
theorem decBank_bkop (h a b : SReg) (w : Bool) (o : BkOp) :
    decBank (encK 0x3A h a b w ((0x2 : BitVec 4) ++ o.code)) =
      accept (encK 0x3A h a b w ((0x2 : BitVec 4) ++ o.code)) (bkopRes o) [] (.bkop h a b w o) := by
  cases o <;>
  · unfold decBank
    simp (disch := omega) only [encK, fld, flag, bit_append_hi, bit_append_lo, bit_bit1, fld_append_hi, fld_append_lo,
      Nat.reduceSub, BitVec.extractLsb'_eq_self, bkOp_roundTrip, BkOp.code]
    simp only [show 7 - (4 + 3) = 0 from rfl, show 8 - (4 + 3) = 1 from rfl, show 9 - (4 + 3) = 2 from rfl, show 10 - (4 + 3) = 3 from rfl, show 11 - (4 + 3) = 4 from rfl, show 12 - (4 + 3) = 5 from rfl, show 13 - (4 + 3) = 6 from rfl, show 14 - (4 + 3) = 7 from rfl, show 15 - (4 + 3) = 8 from rfl, show 16 - (4 + 3) = 9 from rfl, show 17 - (4 + 3) = 10 from rfl, show 18 - (4 + 3) = 11 from rfl, show 19 - (4 + 3) = 12 from rfl, show 20 - (4 + 3) = 13 from rfl, show 21 - (4 + 3) = 14 from rfl, show 22 - (4 + 3) = 15 from rfl, bit_bit1, Nat.reduceSub, BitVec.extractLsb'_eq_self]
    rfl

theorem RoundTrip.bkop (h a b : SReg) (w : Bool) (o : BkOp) : RoundTrip.Statement (.bkop h a b w o) := by
  intro hw
  have hb := (Bool.and_eq_true _ _ ▸ hw).2
  simp only [Instr.fieldsOk, Bool.and_eq_true, Bool.or_eq_true, beq_iff_eq] at hb
  refine (decode_3a (encK_major ..)).trans ((decBank_bkop ..).trans ?_)
  cases o with
  | zero =>
    obtain ⟨rfl, rfl⟩ : a = 0 ∧ b = 0 := by simpa [BkOp.uses] using hb
    refine accept_runs _ [(14, 6), (8, 6)] rfl ?_
    simp (disch := omega) only [encK, List.forall_mem_cons, fld_append_hi, fld_append_lo, Nat.reduceSub]
    exact ⟨rfl, rfl, fun _ h => absurd h (by simp)⟩
  | copy | add | scale | max | lse =>
    obtain rfl : b = 0 := by simpa [BkOp.uses] using hb
    refine accept_runs _ [(8, 6)] rfl ?_
    simp (disch := omega) only [encK, List.forall_mem_cons, fld_append_hi, fld_append_lo, Nat.reduceSub]
    simp
  | axpy | fadd => exact accept_ok _ BitVec.and_zero rfl

/-- A reduction word reaches the arm of its function code. -/
theorem decVRed_ok (p : Bool) (d a b : VReg) (t : Ty) (g : Bool) (f : BitVec 5) (i : Instr) (hg : (g || b == 0) = true)
    (h : ∀ w : IWord, fld w 0 5 = f → flag w 25 = p → fld w 20 5 = d → fld w 15 5 = a → fld w 10 5 = b →
      fld w 6 4 = t.code → flag w 5 = g → decVRed w = accept w (if g then 0 else 0x7C00) [] i) :
    decVRed (encRed p d a b t g f) = .ok i := by
  have e := h (encRed p d a b t g f)
  simp (disch := omega) only [encRed, encV, fld, flag, bit_append_hi, bit_append_lo, bit_bit1, fld_append_hi,
    fld_append_lo, Nat.reduceSub, BitVec.extractLsb'_eq_self] at e
  simp only [show 6 - (1 + 5) = 0 from rfl, show 10 - (1 + 5) = 4 from rfl, show 15 - (1 + 5) = 9 from rfl, show 20 - (1 + 5) = 14 from rfl, show 25 - (1 + 5) = 19 from rfl, bit_bit1, Nat.reduceSub, BitVec.extractLsb'_eq_self, forall_const] at e
  refine e.trans ?_
  cases g with
  | true => exact accept_ok _ BitVec.and_zero rfl
  | false =>
    obtain rfl : b = 0 := by simpa using hg
    refine accept_runs _ [(10, 5)] rfl ?_
    simp (disch := omega) only [List.forall_mem_cons, fld_append_hi, fld_append_lo, Nat.reduceSub]
    exact ⟨rfl, fun _ h => absurd h (by simp)⟩

theorem RoundTrip.vredsum (p : Bool) (d a b : VReg) (t : Ty) (g : Bool) : RoundTrip.Statement (.vredsum p d a b t g) := by
  intro h
  show decode (encRed p d a b t g 0) = _
  refine (decode_26 (encV_major 0x26 p d a b t.code (bit1 g ++ (0 : BitVec 5)))).trans
    (decVRed_ok p d a b t g 0 _ (Bool.and_eq_true _ _ ▸ h).2 ?_)
  intro w h0 h1 h2 h3 h4 h5 h6
  unfold decVRed
  simp only [h0, h1, h2, h3, h4, h5, h6, ty_roundTrip]
  rfl

theorem RoundTrip.vredosum (p : Bool) (d a b : VReg) (t : Ty) (g : Bool) : RoundTrip.Statement (.vredosum p d a b t g) := by
  intro h
  show decode (encRed p d a b t g 1) = _
  refine (decode_26 (encV_major 0x26 p d a b t.code (bit1 g ++ (1 : BitVec 5)))).trans
    (decVRed_ok p d a b t g 1 _ (Bool.and_eq_true _ _ ▸ h).2 ?_)
  intro w h0 h1 h2 h3 h4 h5 h6
  unfold decVRed
  simp only [h0, h1, h2, h3, h4, h5, h6, ty_roundTrip]
  rfl

theorem RoundTrip.vredmax (p : Bool) (d a b : VReg) (t : Ty) (g : Bool) : RoundTrip.Statement (.vredmax p d a b t g) := by
  intro h
  show decode (encRed p d a b t g 2) = _
  refine (decode_26 (encV_major 0x26 p d a b t.code (bit1 g ++ (2 : BitVec 5)))).trans
    (decVRed_ok p d a b t g 2 _ (Bool.and_eq_true _ _ ▸ h).2 ?_)
  intro w h0 h1 h2 h3 h4 h5 h6
  unfold decVRed
  simp only [h0, h1, h2, h3, h4, h5, h6, ty_roundTrip]
  rfl

theorem RoundTrip.vredmin (p : Bool) (d a b : VReg) (t : Ty) (g : Bool) : RoundTrip.Statement (.vredmin p d a b t g) := by
  intro h
  show decode (encRed p d a b t g 3) = _
  refine (decode_26 (encV_major 0x26 p d a b t.code (bit1 g ++ (3 : BitVec 5)))).trans
    (decVRed_ok p d a b t g 3 _ (Bool.and_eq_true _ _ ▸ h).2 ?_)
  intro w h0 h1 h2 h3 h4 h5 h6
  unfold decVRed
  simp only [h0, h1, h2, h3, h4, h5, h6, ty_roundTrip]
  rfl

theorem RoundTrip.vargmax (p : Bool) (d a b : VReg) (t : Ty) (g : Bool) : RoundTrip.Statement (.vargmax p d a b t g) := by
  intro h
  show decode (encRed p d a b t g 4) = _
  refine (decode_26 (encV_major 0x26 p d a b t.code (bit1 g ++ (4 : BitVec 5)))).trans
    (decVRed_ok p d a b t g 4 _ (Bool.and_eq_true _ _ ▸ h).2 ?_)
  intro w h0 h1 h2 h3 h4 h5 h6
  unfold decVRed
  simp only [h0, h1, h2, h3, h4, h5, h6, ty_roundTrip]
  rfl

theorem RoundTrip.vargmin (p : Bool) (d a b : VReg) (t : Ty) (g : Bool) : RoundTrip.Statement (.vargmin p d a b t g) := by
  intro h
  show decode (encRed p d a b t g 5) = _
  refine (decode_26 (encV_major 0x26 p d a b t.code (bit1 g ++ (5 : BitVec 5)))).trans
    (decVRed_ok p d a b t g 5 _ (Bool.and_eq_true _ _ ▸ h).2 ?_)
  intro w h0 h1 h2 h3 h4 h5 h6
  unfold decVRed
  simp only [h0, h1, h2, h3, h4, h5, h6, ty_roundTrip]
  rfl

theorem RoundTrip.vscan (p : Bool) (d a b : VReg) (t : Ty) (g : Bool) : RoundTrip.Statement (.vscan p d a b t g) := by
  intro h
  show decode (encRed p d a b t g 8) = _
  refine (decode_26 (encV_major 0x26 p d a b t.code (bit1 g ++ (8 : BitVec 5)))).trans
    (decVRed_ok p d a b t g 8 _ (Bool.and_eq_true _ _ ▸ h).2 ?_)
  intro w h0 h1 h2 h3 h4 h5 h6
  unfold decVRed
  simp only [h0, h1, h2, h3, h4, h5, h6, ty_roundTrip]
  rfl


/-! An event is no instruction of a program: no word encodes it. -/

theorem RoundTrip.bankroleWrite (v : Dword) : RoundTrip.Statement (.bankroleWrite v) :=
  fun h => Bool.noConfusion h

theorem RoundTrip.accallocWrite (v : Dword) : RoundTrip.Statement (.accallocWrite v) :=
  fun h => Bool.noConfusion h

theorem RoundTrip.tcfgWrite (t : TReg) (v : Dword) : RoundTrip.Statement (.tcfgWrite t v) :=
  fun h => Bool.noConfusion h

theorem RoundTrip.tlbinvPage (c : InvScope) (vpn : BitVec 41) : RoundTrip.Statement (.tlbinvPage c vpn) :=
  fun h => Bool.noConfusion h

theorem RoundTrip.tlbinvAsid (c : InvScope) : RoundTrip.Statement (.tlbinvAsid c) :=
  fun h => Bool.noConfusion h

theorem RoundTrip.tlbinvNonglobal (c : InvScope) : RoundTrip.Statement (.tlbinvNonglobal c) :=
  fun h => Bool.noConfusion h

theorem RoundTrip.tlbinvAll (c : InvScope) : RoundTrip.Statement (.tlbinvAll c) :=
  fun h => Bool.noConfusion h

theorem RoundTrip.sswitch (v : Dword) : RoundTrip.Statement (.sswitch v) :=
  fun h => Bool.noConfusion h

theorem RoundTrip.vsave (v : Dword) : RoundTrip.Statement (.vsave v) :=
  fun h => Bool.noConfusion h

theorem RoundTrip.vload (v : Dword) : RoundTrip.Statement (.vload v) :=
  fun h => Bool.noConfusion h

theorem RoundTrip.xreset (h : BitVec 2) : RoundTrip.Statement (.xreset h) :=
  fun h => Bool.noConfusion h

theorem RoundTrip.tkill (code : BitVec 7) : RoundTrip.Statement (.tkill code) :=
  fun h => Bool.noConfusion h

theorem RoundTrip.scctlCommit : RoundTrip.Statement (.scctlCommit) :=
  fun h => Bool.noConfusion h

theorem RoundTrip.pooltailWrite (v : Dword) : RoundTrip.Statement (.pooltailWrite v) :=
  fun h => Bool.noConfusion h

theorem RoundTrip.launchPortCommit (fn : Nat) (p : BitVec 6) : RoundTrip.Statement (.launchPortCommit fn p) :=
  fun h => Bool.noConfusion h

theorem RoundTrip.launchIntake : RoundTrip.Statement (.launchIntake) :=
  fun h => Bool.noConfusion h

theorem RoundTrip.taskCompletion (task : Nat) : RoundTrip.Statement (.taskCompletion task) :=
  fun h => Bool.noConfusion h

theorem RoundTrip.killWrite (fn : Nat) (id : BitVec 32) : RoundTrip.Statement (.killWrite fn id) :=
  fun h => Bool.noConfusion h

theorem RoundTrip.functionLevelReset (fn : Nat) : RoundTrip.Statement (.functionLevelReset fn) :=
  fun h => Bool.noConfusion h

theorem RoundTrip.hostWindowRead (fn off bytes : Nat) : RoundTrip.Statement (.hostWindowRead fn off bytes) :=
  fun h => Bool.noConfusion h

theorem RoundTrip.hostWindowWrite (fn off : Nat) (data : List Byte) (poisoned : Bool) : RoundTrip.Statement (.hostWindowWrite fn off data poisoned) :=
  fun h => Bool.noConfusion h

theorem RoundTrip.hostRequestCompletion (st : HostStatus) (poisoned : Bool) : RoundTrip.Statement (.hostRequestCompletion st poisoned) :=
  fun h => Bool.noConfusion h

theorem RoundTrip.completionTimeout : RoundTrip.Statement (.completionTimeout) :=
  fun h => Bool.noConfusion h

theorem RoundTrip.pcieLinkLoss : RoundTrip.Statement (.pcieLinkLoss) :=
  fun h => Bool.noConfusion h

theorem RoundTrip.ownershipClaim (c : Claimant) : RoundTrip.Statement (.ownershipClaim c) :=
  fun h => Bool.noConfusion h

theorem RoundTrip.ownershipHandover (c heir : Claimant) : RoundTrip.Statement (.ownershipHandover c heir) :=
  fun h => Bool.noConfusion h

theorem RoundTrip.ownershipRelease (c : Claimant) : RoundTrip.Statement (.ownershipRelease c) :=
  fun h => Bool.noConfusion h

theorem RoundTrip.bnklimWrite (c : Claimant) (v : Dword) : RoundTrip.Statement (.bnklimWrite c v) :=
  fun h => Bool.noConfusion h

theorem RoundTrip.bnklimArrival (stack : Nat) : RoundTrip.Statement (.bnklimArrival stack) :=
  fun h => Bool.noConfusion h

theorem RoundTrip.clkstepWrite (c : Claimant) (core : BitVec 6) (v : Dword) : RoundTrip.Statement (.clkstepWrite c core v) :=
  fun h => Bool.noConfusion h

theorem RoundTrip.bootctlReset (c : Claimant) : RoundTrip.Statement (.bootctlReset c) :=
  fun h => Bool.noConfusion h

theorem RoundTrip.bootctlClear (c : Claimant) : RoundTrip.Statement (.bootctlClear c) :=
  fun h => Bool.noConfusion h

theorem RoundTrip.bootctlLoad (c : Claimant) : RoundTrip.Statement (.bootctlLoad c) :=
  fun h => Bool.noConfusion h

theorem RoundTrip.imageVerifyDone (pass : Bool) : RoundTrip.Statement (.imageVerifyDone pass) :=
  fun h => Bool.noConfusion h

theorem RoundTrip.mmioRegisterWrite (c : Claimant) (fn : Nat) (r : MmioReg) (v : Dword) : RoundTrip.Statement (.mmioRegisterWrite c fn r v) :=
  fun h => Bool.noConfusion h

theorem RoundTrip.deviceBoot (facts : BootFacts) : RoundTrip.Statement (.deviceBoot facts) :=
  fun h => Bool.noConfusion h

theorem RoundTrip.powerWindow (watts : Nat) : RoundTrip.Statement (.powerWindow watts) :=
  fun h => Bool.noConfusion h

theorem RoundTrip.thermalCoreLimit (core : BitVec 6) (hot : Bool) : RoundTrip.Statement (.thermalCoreLimit core hot) :=
  fun h => Bool.noConfusion h

theorem RoundTrip.thermalBankLimit (stack : Nat) : RoundTrip.Statement (.thermalBankLimit stack) :=
  fun h => Bool.noConfusion h

theorem RoundTrip.linkRetrain (port : Nat) : RoundTrip.Statement (.linkRetrain port) :=
  fun h => Bool.noConfusion h

theorem RoundTrip.linkDown (port : Nat) (lost : List Nat) : RoundTrip.Statement (.linkDown port lost) :=
  fun h => Bool.noConfusion h

theorem RoundTrip.stackUnitFail (stack svu : Nat) : RoundTrip.Statement (.stackUnitFail stack svu) :=
  fun h => Bool.noConfusion h

theorem RoundTrip.bindingLost : RoundTrip.Statement (.bindingLost) :=
  fun h => Bool.noConfusion h

theorem RoundTrip.bankRefresh (stack chan pc bank : Nat) : RoundTrip.Statement (.bankRefresh stack chan pc bank) :=
  fun h => Bool.noConfusion h

theorem RoundTrip.patrolScrubRead (granule : Nat) (correctable uncorrectable : Bool) : RoundTrip.Statement (.patrolScrubRead granule correctable uncorrectable) :=
  fun h => Bool.noConfusion h

theorem RoundTrip.scrubWriteBack (granule : Nat) : RoundTrip.Statement (.scrubWriteBack granule) :=
  fun h => Bool.noConfusion h

theorem RoundTrip.pageExpansion (va : Dword) : RoundTrip.Statement (.pageExpansion va) :=
  fun h => Bool.noConfusion h

theorem RoundTrip.pageTableWalk (va : Dword) : RoundTrip.Statement (.pageTableWalk va) :=
  fun h => Bool.noConfusion h

theorem RoundTrip.partitionOffer (core part : Nat) : RoundTrip.Statement (.partitionOffer core part) :=
  fun h => Bool.noConfusion h

theorem RoundTrip.laneArbitration : RoundTrip.Statement (.laneArbitration) :=
  fun h => Bool.noConfusion h

theorem RoundTrip.matrixBandComplete : RoundTrip.Statement (.matrixBandComplete) :=
  fun h => Bool.noConfusion h

theorem RoundTrip.lcYield : RoundTrip.Statement (.lcYield) :=
  fun h => Bool.noConfusion h

theorem RoundTrip.sliceExpired : RoundTrip.Statement (.sliceExpired) :=
  fun h => Bool.noConfusion h

theorem RoundTrip.preemptRequest : RoundTrip.Statement (.preemptRequest) :=
  fun h => Bool.noConfusion h

theorem RoundTrip.progressWatchdog : RoundTrip.Statement (.progressWatchdog) :=
  fun h => Bool.noConfusion h

theorem RoundTrip.counterOverflow (n : BitVec 3) : RoundTrip.Statement (.counterOverflow n) :=
  fun h => Bool.noConfusion h

theorem RoundTrip.stripDispense : RoundTrip.Statement (.stripDispense) :=
  fun h => Bool.noConfusion h

theorem RoundTrip.contextGrant (stack svu : Nat) : RoundTrip.Statement (.contextGrant stack svu) :=
  fun h => Bool.noConfusion h

theorem RoundTrip.stackContextExecute : RoundTrip.Statement (.stackContextExecute) :=
  fun h => Bool.noConfusion h

theorem RoundTrip.addressStreamGenerate (j : BitVec 2) : RoundTrip.Statement (.addressStreamGenerate j) :=
  fun h => Bool.noConfusion h

theorem RoundTrip.scatterAddArrival : RoundTrip.Statement (.scatterAddArrival) :=
  fun h => Bool.noConfusion h

theorem RoundTrip.scatterOldValue (granule : Nat) : RoundTrip.Statement (.scatterOldValue granule) :=
  fun h => Bool.noConfusion h

theorem RoundTrip.scatterIdleWriteBack (granule : Nat) : RoundTrip.Statement (.scatterIdleWriteBack granule) :=
  fun h => Bool.noConfusion h

theorem RoundTrip.scatterRecall (granule : Nat) : RoundTrip.Statement (.scatterRecall granule) :=
  fun h => Bool.noConfusion h

theorem RoundTrip.copyTransferStep (h : BitVec 2) : RoundTrip.Statement (.copyTransferStep h) :=
  fun h => Bool.noConfusion h

theorem RoundTrip.xredContributionArrival : RoundTrip.Statement (.xredContributionArrival) :=
  fun h => Bool.noConfusion h

theorem RoundTrip.monitorWake : RoundTrip.Statement (.monitorWake) :=
  fun h => Bool.noConfusion h

theorem RoundTrip.bankAdmission (stack : Nat) : RoundTrip.Statement (.bankAdmission stack) :=
  fun h => Bool.noConfusion h

theorem RoundTrip.waveProbe : RoundTrip.Statement (.waveProbe) :=
  fun h => Bool.noConfusion h

theorem RoundTrip.waveRowStep (stack unit : Nat) : RoundTrip.Statement (.waveRowStep stack unit) :=
  fun h => Bool.noConfusion h

theorem RoundTrip.waveResume (stack unit : Nat) : RoundTrip.Statement (.waveResume stack unit) :=
  fun h => Bool.noConfusion h

theorem RoundTrip.subwaveComplete (stack unit : Nat) : RoundTrip.Statement (.subwaveComplete stack unit) :=
  fun h => Bool.noConfusion h

theorem RoundTrip.bkopComplete (stack unit : Nat) : RoundTrip.Statement (.bkopComplete stack unit) :=
  fun h => Bool.noConfusion h

theorem RoundTrip.rowPinGrant : RoundTrip.Statement (.rowPinGrant) :=
  fun h => Bool.noConfusion h

theorem RoundTrip.pinOpened (stack chan bank slot : Nat) : RoundTrip.Statement (.pinOpened stack chan bank slot) :=
  fun h => Bool.noConfusion h

theorem RoundTrip.pinReleased (stack chan bank slot : Nat) : RoundTrip.Statement (.pinReleased stack chan bank slot) :=
  fun h => Bool.noConfusion h

theorem RoundTrip.slotFreed (stack chan bank slot : Nat) : RoundTrip.Statement (.slotFreed stack chan bank slot) :=
  fun h => Bool.noConfusion h

theorem RoundTrip.streamTrapReport : RoundTrip.Statement (.streamTrapReport) :=
  fun h => Bool.noConfusion h

theorem RoundTrip.deferredTrapReport : RoundTrip.Statement (.deferredTrapReport) :=
  fun h => Bool.noConfusion h

theorem RoundTrip.trapDelivery : RoundTrip.Statement (.trapDelivery) :=
  fun h => Bool.noConfusion h

theorem RoundTrip.firstBandStart : RoundTrip.Statement (.firstBandStart) :=
  fun h => Bool.noConfusion h

theorem RoundTrip.ualinkTransactionArrival (t : UaTrans) : RoundTrip.Statement (.ualinkTransactionArrival t) :=
  fun h => Bool.noConfusion h

end Sys2Proof.Laws
end

