-- ==== Sys2Proof/Laws/Streams.lean ====
section
/-! SUPPORT. Laws/Streams.lean: an instruction handed off while nothing else is under way executes in the same step, and
what writing elements of a register leaves (R55, R104, log 3). -/

set_option Elab.async false

namespace Sys2Proof.Machine

/-! ### Streams with nothing to do -/

/-- Nothing but the vector queue has anything to do. -/
structure State.Quiet (s : State) : Prop where
  inOrder : s.runAhead = false
  matrix : s.part.mslot = none
  stalled : s.lc.vstalled = none
  stores : s.lc.stores = []
  kqueue : s.lc.kqueue = []
  context : s.lc.ctx = none
  copies : ∀ h : Fin 4, (s.lc.chans[h]).cmds = []
  bqueue : s.lc.bqueue = []
  sequencers : s.dev.seqs = []
  slots : ∀ x ∈ s.dev.slots, x.st ≠ .opening ∧ x.st ≠ .released

theorem State.Alone.quiet {s : State} (h : s.Alone) : s.Quiet :=
  ⟨h.inOrder, h.matrix, h.stalled, h.stores, h.kqueue, h.context, h.copies, h.bqueue, h.sequencers, h.slots⟩

theorem State.Quiet.vpop {s : State} (h : s.Quiet) : s.vpop.Quiet :=
  ⟨h.inOrder, h.matrix, h.stalled, h.stores, h.kqueue, h.context, h.copies, h.bqueue, h.sequencers, h.slots⟩

theorem State.Quiet.count {s : State} (h : s.Quiet) (e n : Nat) : (s.count e n).Quiet :=
  ⟨h.inOrder, h.matrix, h.stalled, h.stores, h.kqueue, h.context, h.copies, h.bqueue, h.sequencers, h.slots⟩

theorem State.Quiet.vStopped {s : State} (h : s.Quiet) : s.vStopped = false := by
  simp [State.vStopped, h.stalled]

theorem State.ksteps_none {s : State} (h : s.lc.ctx = none) (n : Nat) : s.ksteps n = s := by
  cases n with
  | zero => rfl
  | succ n => simp [State.ksteps, State.kstep, State.kstepWith, h]

theorem State.Quiet.chan {s : State} (h : s.Quiet) (c : BitVec 2) : (s.lc.chans[c.toNat]).cmds = [] :=
  h.copies ⟨c.toNat, c.isLt⟩

theorem State.Quiet.drainX {s : State} (h : s.Quiet) : s.drainX = s := by
  simp only [State.drainX, List.foldl]
  simp only [h.chan, List.map_nil, List.sum_nil, State.copySteps]

theorem State.Quiet.drainB {s : State} (h : s.Quiet) : s.drainB = s := by
  have : s.dev.slots.all (fun x => x.st != .opening && x.st != .released) = true := by
    simp only [List.all_eq_true, Bool.and_eq_true, bne_iff_ne]
    exact h.slots
  simp [State.drainB, h.bqueue, h.sequencers, this]

theorem State.Quiet.chans_flat {s : State} (h : s.Quiet) {α : Type} (f : XCmd → Option α) :
    s.lc.chans.toList.flatMap (fun c => c.cmds.filterMap f) = [] := by
  simp only [List.flatMap_eq_nil_iff]
  intro c hc
  obtain ⟨i, hi, rfl⟩ := List.mem_iff_getElem.mp hc
  have := h.copies ⟨i, by simpa using hi⟩
  simp only [Vector.getElem_toList]
  simp only [Fin.getElem_fin] at this
  simp [this]

theorem State.Quiet.passBarrier {s : State} (h : s.Quiet) (hv : s.part.vqueue = []) : s.passBarrier = s := by
  have hx : s.lc.chans.toList.filterMap (fun c => c.cmds.head?.bind XCmd.barrier) = [] := by
    simp only [List.filterMap_eq_nil_iff]
    intro c hc
    obtain ⟨i, hi, rfl⟩ := List.mem_iff_getElem.mp hc
    have := h.copies ⟨i, by simpa using hi⟩
    simp only [Vector.getElem_toList]
    simp only [Fin.getElem_fin] at this
    simp [this]
  have : s.barriersReached = [] := by
    simp [State.barriersReached, hv, h.kqueue, h.bqueue, h.context, hx]
  simp [State.passBarrier, this]

theorem State.storeSteps_none {s : State} (h : s.lc.stores = []) (n : Nat) : State.storeSteps n s = s := by
  cases n with
  | zero => rfl
  | succ n => simp [State.storeSteps, State.storeStep, State.pickStore, h]

/-- A round of the streams changes nothing when nothing is queued. -/
theorem State.Quiet.round {s : State} (h : s.Quiet) (hv : s.part.vqueue = []) : s.round = s := by
  simp only [State.round, State.storeSteps_none h.stores, hv, List.length_nil, State.vsteps,
    State.ksteps_none h.context, h.drainX, h.drainB, h.passBarrier hv]

theorem State.Quiet.deilRegs {s : State} (h : s.Quiet) : s.lc.deilRegs = [] := by
  simp only [Lc.deilRegs, List.flatMap_eq_nil_iff]
  intro c hc
  obtain ⟨i, hi, rfl⟩ := List.mem_iff_getElem.mp hc
  have := h.copies ⟨i, by simpa using hi⟩
  simp only [Vector.getElem_toList]
  simp only [Fin.getElem_fin] at this
  simp [this]

/-- Nothing holds the only instruction of the streams. -/
theorem State.Quiet.headWaits {s : State} (h : s.Quiet) (e : VEntry) (hb : e.barrier = none) :
    s.headWaits e = false := by
  simp [State.headWaits, State.matrixHolds, h.matrix, h.deilRegs, Lc.kOutstanding, h.context, h.kqueue, h.stores, hb]

/-- The state an instruction executes in when it is handed off with nothing else under way. -/
def State.alone (s : State) (e : VEntry) : State :=
  { s with part := { s.part with vqueue := s.part.vqueue ++ [e] }, lc := { s.lc with passed := s.lc.passed + 1 } }

/-- An instruction handed off with nothing else under way, that completes and leaves the streams quiet, executes in the
same step; its element groups are counted (R83). -/
theorem State.pass_alone {s t : State} {e : VEntry} (h : s.Alone) (hb : e.barrier = none) (hi : e.restart = none)
    (hr : (s.alone e).runEntry e = .ok t) (hq : t.Quiet) (ht : t.part.vqueue = [e]) :
    s.pass e = .ok (t.vpop.count 2 ((s.alone e).remOf e)) := by
  have hs : (s.alone e).Quiet :=
    ⟨h.inOrder, h.matrix, h.stalled, h.stores, h.kqueue, h.context, h.copies, h.bqueue, h.sequencers, h.slots⟩
  have hv : (s.alone e).part.vqueue = [e] := by simp [State.alone, h.queue]
  have ho : (s.alone e).owns = true := h.owner
  have hd : (s.alone e).part.done = false := h.begun
  generalize hn : (s.alone e).remOf e = n
  have hp : (t.vpop.count 2 n).part.vqueue = [] := by simp [State.vpop, State.count_part, ht]
  have hh : (s.alone e).runHead e = .ok t := by simp [State.runHead, State.atRestart, hi, hr]
  have h1 : (s.alone e).vstep = (t.vpop.count 2 n, true) := by
    simp only [State.vstep, hs.vStopped, hv, hd, hs.headWaits e hb, ho, hh, hn]
    simp
  have h2 : (s.alone e).vsteps 1 = t.vpop.count 2 n := by
    simp only [State.vsteps, h1]
    rfl
  have hq2 := hq.vpop.count 2 n
  have h3 : (s.alone e).round = t.vpop.count 2 n := by
    simp only [State.round, State.storeSteps_none hs.stores, hv, List.length_singleton, h2]
    rw [State.ksteps_none hq2.context, hq2.drainX, hq2.drainB, hq2.passBarrier hp, State.storeSteps_none hq2.stores]
  have h4 : (s.alone e).drain = t.vpop.count 2 n := by
    simp only [State.drain, hs.inOrder]
    rw [h3, hq2.round hp]
    simp
  have h5 : ¬queueCap ≤ s.part.vqueue.length := by simp [h.queue, queueCap]
  simp only [State.pass, h5, if_false]
  exact congrArg _ h4

/-! ### Elements of a register -/

/-- An element written reads as written, and every other one as before, when the elements fit. -/
theorem getE_putE {x w i j y : Nat} : getE (putE x w i y) w j = if j = i then y % 2 ^ w else getE x w j := by
  have key : putE x w i y = x / 2 ^ (w * (i + 1)) * 2 ^ (w * (i + 1)) + (y % 2 ^ w) * 2 ^ (w * i) + x % 2 ^ (w * i) := by
    unfold putE getE
    rw [Nat.shiftRight_eq_div_pow, Nat.shiftLeft_eq, Nat.shiftLeft_eq]
    have e : 2 ^ (w * (i + 1)) = 2 ^ (w * i) * 2 ^ w := by rw [← pow_add]; ring_nf
    rw [e]
    have h1 := Nat.div_add_mod x (2 ^ (w * i))
    have h2 := Nat.div_add_mod (x / 2 ^ (w * i)) (2 ^ w)
    rw [← Nat.div_div_eq_div_mul]
    generalize hq : x / 2 ^ (w * i) / 2 ^ w = q at *
    generalize hm : x / 2 ^ (w * i) % 2 ^ w = m at *
    generalize hr : x % 2 ^ (w * i) = r at *
    generalize x / 2 ^ (w * i) = d at *
    generalize 2 ^ (w * i) = p at *
    generalize 2 ^ w = v at *
    subst h2
    have : x = (q * v + m) * p + r := by rw [← h1]; ring
    rw [this]
    have : (q * v + m) * p + r - m * p = q * v * p + r := by
      rw [Nat.add_mul]; omega
    rw [this]; ring
  rw [key]
  unfold getE
  simp only [Nat.shiftRight_eq_div_pow]
  have hlt : x % 2 ^ (w * i) < 2 ^ (w * i) := Nat.mod_lt _ (by positivity)
  have hy : y % 2 ^ w < 2 ^ w := Nat.mod_lt _ (by positivity)
  by_cases hji : j = i
  · subst hji
    rw [if_pos rfl]
    have e : 2 ^ (w * (j + 1)) = 2 ^ (w * j) * 2 ^ w := by rw [← pow_add]; ring_nf
    have : x / 2 ^ (w * (j + 1)) * 2 ^ (w * (j + 1)) + y % 2 ^ w * 2 ^ (w * j) + x % 2 ^ (w * j)
        = x % 2 ^ (w * j) + (x / 2 ^ (w * (j + 1)) * 2 ^ w + y % 2 ^ w) * 2 ^ (w * j) := by rw [e]; ring
    rw [this, Nat.add_mul_div_right _ _ (by positivity), Nat.div_eq_of_lt hlt, Nat.zero_add, Nat.mul_comm,
      Nat.mul_add_mod, Nat.mod_mod]
  · rw [if_neg hji]
    rcases Nat.lt_or_gt_of_ne hji with h | h
    · -- below: the low part is untouched
      have e1 : 2 ^ (w * i) = 2 ^ (w * (j + 1)) * 2 ^ (w * (i - j - 1)) := by
        rw [← pow_add, ← Nat.mul_add]; congr 2; omega
      have e2 : 2 ^ (w * (i + 1)) = 2 ^ (w * (j + 1)) * 2 ^ (w * (i - j)) := by
        rw [← pow_add, ← Nat.mul_add]; congr 2; omega
      have e3 : 2 ^ (w * (j + 1)) = 2 ^ (w * j) * 2 ^ w := by rw [← pow_add]; ring_nf
      have hmod (n : Nat) : n / 2 ^ (w * j) % 2 ^ w = n % 2 ^ (w * (j + 1)) / 2 ^ (w * j) := by
        rw [e3, Nat.mod_mul_right_div_self]
      rw [hmod, hmod]
      congr 1
      rw [e2, e1]
      rw [show x / (2 ^ (w * (j + 1)) * 2 ^ (w * (i - j))) * (2 ^ (w * (j + 1)) * 2 ^ (w * (i - j)))
          + y % 2 ^ w * (2 ^ (w * (j + 1)) * 2 ^ (w * (i - j - 1))) + x % (2 ^ (w * (j + 1)) * 2 ^ (w * (i - j - 1)))
        = 2 ^ (w * (j + 1)) * (x / (2 ^ (w * (j + 1)) * 2 ^ (w * (i - j))) * 2 ^ (w * (i - j))
          + y % 2 ^ w * 2 ^ (w * (i - j - 1))) + x % (2 ^ (w * (j + 1)) * 2 ^ (w * (i - j - 1))) by ring]
      rw [Nat.mul_add_mod, Nat.mod_mul_right_mod]
    · -- above: the high part is untouched
      have e1 : 2 ^ (w * j) = 2 ^ (w * (i + 1)) * 2 ^ (w * (j - i - 1)) := by
        rw [← pow_add, ← Nat.mul_add]; congr 2; omega
      have e2 : 2 ^ (w * (i + 1)) = 2 ^ (w * i) * 2 ^ w := by rw [← pow_add]; ring_nf
      have hlow : y % 2 ^ w * 2 ^ (w * i) + x % 2 ^ (w * i) < 2 ^ (w * (i + 1)) := by
        rw [e2]
        have : (y % 2 ^ w + 1) * 2 ^ (w * i) ≤ 2 ^ w * 2 ^ (w * i) := Nat.mul_le_mul_right _ hy
        rw [Nat.add_mul, Nat.one_mul] at this
        rw [Nat.mul_comm (2 ^ (w * i))]
        omega
      rw [e1, ← Nat.div_div_eq_div_mul, ← Nat.div_div_eq_div_mul]
      congr 2
      rw [Nat.add_assoc, Nat.add_comm, Nat.add_mul_div_right _ _ (by positivity), Nat.div_eq_of_lt hlow, Nat.zero_add]

/-- Elements written one after another: an index written once reads its value, one not written reads as before. -/
theorem getE_fold {w j : Nat} (ws : List EltW) (hn : (ws.map (·.1)).Nodup) (x : Nat) :
    getE (ws.foldl (fun x e => putE x w e.1 e.2.1) x) w j =
      match ws.find? (fun e => e.1 == j) with
      | some e => e.2.1 % 2 ^ w
      | none => getE x w j := by
  induction ws generalizing x with
  | nil => rfl
  | cons e r ih =>
    simp only [List.map_cons, List.nodup_cons] at hn
    rw [List.foldl_cons, ih hn.2, List.find?_cons]
    by_cases h : e.1 = j
    · have hr : r.find? (fun e => e.1 == j) = none := by
        simp only [List.find?_eq_none, beq_iff_eq]
        intro a ha k
        exact hn.1 (by rw [h, ← k]; exact List.mem_map_of_mem ha)
      simp [h, hr, getE_putE]
    · have hb : (e.1 == j) = false := by simpa using h
      rw [hb]
      simp only
      split
      · rfl
      · rw [getE_putE, if_neg (Ne.symm h)]

end Sys2Proof.Machine
end

