-- ==== Sys2Proof/Laws/Trap.lean ====
section
/-! SUPPORT. Laws/Trap.lean: what writing a fault record and delivering a trap can change (R267, R268, R271, R279). -/

set_option Elab.async false

namespace Sys2Proof.Machine

/-! ### Writing at a location -/

/-- A write at a location changes the device's memory, or the scratchpad of the core. -/
structure State.OnlyMem (s t : State) : Prop where
  lc : t.lc = s.lc
  part : t.part = s.part
  core : { t.core with
    scratch := s.core.scratch, scratchPoison := s.core.scratchPoison
    scratchError := s.core.scratchError } = s.core
  rest : { t with core := s.core, dev := s.dev } = s

theorem State.OnlyMem.refl (s : State) : s.OnlyMem s := ⟨rfl, rfl, rfl, rfl⟩

theorem State.OnlyMem.trans {s t u : State} (h : s.OnlyMem t) (k : t.OnlyMem u) : s.OnlyMem u := by
  obtain ⟨h1, h2, h3, h4⟩ := h
  obtain ⟨k1, k2, k3, k4⟩ := k
  refine ⟨k1.trans h1, k2.trans h2, ?_, ?_⟩
  · rw [← h3, ← k3]
  · rw [← h4, ← k4]

theorem State.onlyMem_dev (s : State) (d : Device) : s.OnlyMem { s with dev := d } := ⟨rfl, rfl, rfl, rfl⟩

theorem State.onlyMem_writeLoc (s : State) (l : Loc) (n x : Nat) (p : Bool) : s.OnlyMem (s.writeLoc l n x p) := by
  cases l <;> exact ⟨rfl, rfl, rfl, rfl⟩

theorem State.onlyMem_reachIn (s : State) (x : Space) (k : Acc) (va : Dword) : s.OnlyMem (s.reachIn x k va).1 := by
  unfold State.reachIn
  split
  · exact State.OnlyMem.refl _
  · split <;> exact State.onlyMem_dev _ _

theorem State.onlyMem_storeWords (s : State) (super : Bool) (va : Dword) (ws : List Nat) (t : State)
    (h : s.storeWords super va ws = some t) : s.OnlyMem t := by
  induction ws generalizing s va with
  | nil => cases h; exact State.OnlyMem.refl _
  | cons w r ih =>
    have hr := s.onlyMem_reachIn (s.space super) .store va
    unfold State.storeWords at h
    split at h
    · rename_i u l e
      rw [e] at hr
      exact hr.trans ((State.onlyMem_writeLoc _ _ _ _ _).trans (ih _ _ h))
    · cases h

/-! ### The fault record -/

/-- Writing a fault record changes memory, and of the LC only the record's index and RLOST. -/
structure State.OnlyRecord (s t : State) : Prop where
  lc : { t.lc with trap := s.lc.trap } = s.lc
  trap : { t.lc.trap with frecIdx := s.lc.trap.frecIdx, rlost := s.lc.trap.rlost } = s.lc.trap
  part : t.part = s.part
  core : { t.core with
    scratch := s.core.scratch, scratchPoison := s.core.scratchPoison
    scratchError := s.core.scratchError } = s.core
  rest : { t with lc := s.lc, core := s.core, dev := s.dev } = s

theorem State.onlyRecord_writeRecord (s : State) (r : TrapRec) : s.OnlyRecord (s.writeRecord r) := by
  unfold State.writeRecord
  simp only
  split
  · exact ⟨rfl, rfl, rfl, rfl, rfl⟩
  · split
    · rename_i t h
      obtain ⟨h1, h2, h3, h4⟩ := s.onlyMem_storeWords _ _ _ _ h
      refine ⟨?_, ?_, h2, h3, ?_⟩
      · simp only [h1]
      · simp only [h1]
      · rw [← h4]
    · exact ⟨rfl, rfl, rfl, rfl, rfl⟩

/-- No record is written for a cause that calls for none, or when the LC's record buffer has no room. -/
theorem State.writeRecord_none (s : State) (r : TrapRec) (h : r.cause.hasRecord = false ∨ s.lc.trap.frecCap = 0) :
    s.writeRecord r = s := by
  unfold State.writeRecord
  rcases h with h | h <;> simp [h]

theorem State.OnlyRecord.super {s t : State} (h : s.OnlyRecord t) : t.super = s.super := by
  unfold State.super; rw [← h.trap]

/-! ### Delivery -/

theorem State.super_report (s : State) (c : Cause) (v : Dword) : (s.report c v).cause = c := rfl

/-- A trap of the scalar unit that the supervisor takes. -/
theorem State.takeTrap_super (s : State) (c : Cause) (v : Dword) (h : s.SuperTakes c) :
    s.TrappedSuper (s.takeTrap (s.report c v) false) c v := by
  obtain ⟨h1, h2⟩ := h
  have hu : s.goesToUser (s.report c v).cause = false := by
    unfold State.goesToUser
    rw [s.super_report]
    rcases h1 with h | h | h | h <;> simp [h]
  obtain ⟨r1, r2, r3, r4, r5⟩ := s.onlyRecord_writeRecord (s.report c v)
  have hs := (s.onlyRecord_writeRecord (s.report c v)).super
  have hn := s.writeRecord_none (s.report c v)
  unfold State.takeTrap
  simp only [hu, h2, Bool.false_eq_true, if_false]
  generalize s.writeRecord (s.report c v) = t at *
  have e2 : t.lc.trap = { s.lc.trap with frecIdx := t.lc.trap.frecIdx, rlost := t.lc.trap.rlost } := by rw [← r2]
  have e1 : t.lc = { s.lc with trap := t.lc.trap } := by rw [← r1]
  have e4 : t.core = { s.core with
    scratch := t.core.scratch, scratchPoison := t.core.scratchPoison, scratchError := t.core.scratchError } := by
    rw [← r4]
  have e5 : t.holdV.part = s.holdV.part ∧ t.holdV.lc.vheld = s.holdV.lc.vheld ∧ t.holdV.lc.vstart = s.holdV.lc.vstart := by
    simp only [State.holdV, r3]
    rw [e1]
    simp
  refine ⟨⟨?_, ?_, ?_, ?_⟩, ?_, ?_, ?_, ?_, ?_, ?_, ?_, ⟨e5.1, e5.2.1, rfl, e5.2.2⟩, ?_⟩
  · simp only [State.holdV]; rw [e1]
  · simp only [State.holdV]; rw [r3]
  · exact r4
  · intro h; rw [hn h]; exact ⟨rfl, rfl⟩
  · simp [TrapRegs.enterSuper, State.report]
  · rfl
  · simp [TrapRegs.enterSuper, State.report]
  · rfl
  · rfl
  · refine ⟨?_, rfl⟩
    simp only [TrapRegs.enterSuper, State.holdV]; rw [e2]
  · simp only [State.holdV]; rw [e4]
  · simp only [TrapRegs.enterSuper, State.holdV]; rw [e2]; rfl

/-- A trap of the scalar unit that the LC's user handler takes. -/
theorem State.takeTrap_user (s : State) (c : Cause) (v : Dword) (h : s.UserTakes c) :
    s.TrappedUser (s.takeTrap (s.report c v) false) c v := by
  obtain ⟨h1, h2, h3, h4⟩ := h
  have hu : s.goesToUser (s.report c v).cause = true := by
    unfold State.goesToUser
    rw [s.super_report]
    have h2' : ¬s.lc.trap.tvec = 0#57 := h2
    simp [h1, h2', h3, h4]
  obtain ⟨r1, r2, r3, r4, r5⟩ := s.onlyRecord_writeRecord (s.report c v)
  have hn := s.writeRecord_none (s.report c v)
  unfold State.takeTrap
  simp only [hu, if_true]
  generalize s.writeRecord (s.report c v) = t at *
  have e2 : t.lc.trap = { s.lc.trap with frecIdx := t.lc.trap.frecIdx, rlost := t.lc.trap.rlost } := by rw [← r2]
  have e1 : t.lc = { s.lc with trap := t.lc.trap } := by rw [← r1]
  refine ⟨⟨?_, ?_, ?_, ?_⟩, ?_, ?_, ?_, ?_, ?_, ?_, ?_, ?_, ?_⟩
  · rw [e1]
  · rw [r3]
  · exact r4
  · intro h; rw [hn h]; exact ⟨rfl, rfl⟩
  · simp [TrapRegs.enterUser, State.report]
  · rfl
  · simp [TrapRegs.enterUser, State.report]
  · rfl
  · rfl
  · rfl
  · simp only; rw [e2]
  · refine ⟨r3, ?_⟩
    simp only; rw [e1]; exact ⟨rfl, rfl, rfl⟩
  · simp only [TrapRegs.enterUser]; rw [e2]; rfl

end Sys2Proof.Machine
end

