-- ==== Sys2Proof/Laws/Vector.lean ====
section
/-! SUPPORT. The hand-off of MAJ 20 to 2B: when its checks pass, what it queues, and the shape of every meaning of those
families. -/

set_option Elab.async false
set_option linter.unusedSimpArgs false
set_option linter.unreachableTactic false
set_option linter.unusedTactic false

namespace Sys2Proof.Machine

/-! ### The checks of R103 -/

/-- No register field is reported when all name registers. -/
theorem regs_ok (l : List (Nat × Bool)) (h : l.all (·.2) = true) :
    ((l.filter (fun r => !r.2)).map (·.1)).min? = none := by
  have : l.filter (fun r => !r.2) = [] := by
    simp only [List.filter_eq_nil_iff]
    simp only [List.all_eq_true] at h
    intro a ha
    simp [h a ha]
  simp [this]

/-- The checks pass on good fields, an owned vector state, a bound context where one is needed, and a good VL. -/
theorem State.guard_ok {s : State} {g : Guard} (regs : g.regs.all (·.2) = true) (types : g.types.all (·.2) = true)
    (owner : s.owns = true) (tile : g.tile = true → s.enView = true)
    (bound : g.context = true → s.lc.saff.getLsbD 63 = true) (vl : s.checkVl g = .ok ()) : s.guard g = .ok () := by
  unfold State.guard
  rw [regs_ok _ regs]
  have h : g.types.find? (fun t => !t.2) = none := by
    simp only [List.find?_eq_none]
    simp only [List.all_eq_true] at types
    intro a ha
    simp [types a ha]
  rw [h]
  simp only [owner, vl]
  cases ht : g.tile
  · cases hc : g.context
    · simp
    · simp only [bound hc]
      simp
  · simp only [tile ht]
    cases hc : g.context
    · simp
    · simp only [bound hc]
      simp

/-- MVL of a width (R71). -/
theorem mvlOf_eq (p : Bool) (b : Nat) : mvlOf p b = (if p then 8192 else 32768) / b := by
  unfold mvlOf mvl
  cases p
  · simp
  · simp only [if_true]
    rw [Nat.div_div_eq_div_mul, Nat.mul_comm, ← Nat.div_div_eq_div_mul]

/-- The VL checks pass (R86, R87, R156). -/
theorem State.checkVl_ok {s : State} {g : Guard} (draft : g.draft = false)
    (vl : s.lc.vec.vl.toNat ≤ mvlOf g.placed g.bits)
    (count : (if g.twoD then s.lc.vec.vl.toNat * s.lc.vec.rowcnt.toNat else s.lc.vec.vl.toNat) ≤ mvlOf g.placed g.bits)
    (mask : g.perK = true ∨ (g.governed = true ∧ s.lc.vec.vmsel ≠ 8) →
      (if g.twoD then s.lc.vec.vl.toNat * s.lc.vec.rowcnt.toNat else s.lc.vec.vl.toNat) ≤ 1024)
    (most : s.lc.vec.vl.toNat ≤ g.maxVl) : s.checkVl g = .ok () := by
  unfold State.checkVl
  simp only [draft]
  generalize (if g.twoD then s.lc.vec.vl.toNat * s.lc.vec.rowcnt.toNat else s.lc.vec.vl.toNat) = c at *
  split
  · rfl
  rw [if_neg (by omega), if_neg (by simp), if_neg (by omega), if_neg ?_, if_neg (by omega)]
  intro h
  simp only [Bool.and_eq_true, decide_eq_true_eq, Bool.or_eq_true, bne_iff_ne] at h
  have := mask h.2
  omega

/-! ### What is queued -/

/-- An unplaced instruction enters the vector queue when the scalar unit runs ahead. -/
theorem State.handOff_v (s : State) (op : VOp) (x y z : Dword) (xp : Bool) (kb : Option VReg)
    (h : s.runAhead = true) (k : s.part.vqueue.length < 32) :
    s.handOff false op x y z xp kb = .ok { s with
      part := { s.part with vqueue := s.part.vqueue ++ [s.capture op false x y z xp] }
      lc := { s.lc with passed := s.lc.passed + 1 } } := by
  simp [State.handOff, State.pass, queueCap, State.drain, h, Nat.not_le.mpr k]

/-- A placed instruction outside a loop enters the K send queue when the scalar unit runs ahead. -/
theorem State.handOff_k (s : State) (op : VOp) (x y z : Dword) (xp : Bool) (kb : Option VReg)
    (h : s.runAhead = true) (k : s.lc.kqueue.length < 32) (hl : s.lc.loops = [])
    (hm : ∀ k ∈ s.capturedK kb, s.kBusy k = false ∧ s.kpois k = 0) :
    s.handOff true op x y z xp kb = .ok ({ s with lc := { s.lc with
      kqueue := s.lc.kqueue ++ [s.capture op true x y z xp kb], passed := s.lc.passed + 1 } }.count 7 1) := by
  have h1 : (s.capturedK kb).any s.kBusy = false := by
    simp only [List.any_eq_false]
    intro a ha
    simp [(hm a ha).1]
  have h2 : (s.capturedK kb).find? (fun k => (List.range 2).any (fun g =>
      (s.kpois k).getLsbD g && decide (512 * g < s.lc.vec.vl.toNat))) = none := by
    simp only [List.find?_eq_none]
    intro a ha
    simp [(hm a ha).2]
  simp [State.handOff, h1, h2, State.countLoop, hl, bind, Except.bind, State.passK, queueCap, State.drain, h,
    Nat.not_le.mpr k]

/-- The meaning of a form is one of four shapes, with checks that its description gives. -/
structure VForm.Means (f : VForm) (i : Instr) (g : Guard) : Prop where
  fields : f.ok = true → g.regs.all (·.2) = true ∧ g.types.all (·.2) = true
  bits : g.bits = f.bits
  placed : g.placed = f.placed
  context : g.context = f.placed
  tile : g.tile = false
  draft : g.draft = false
  perK : g.perK = f.perK
  governed : g.governed = f.governed
  twoD : g.twoD = f.twoD
  maxVl : g.maxVl = f.maxVl
  shape :
    (f.read = none ∧ f.write = none ∧ f.carry = none
      ∧ ∀ s, exec i s = s.finish (s.vop f.placed g f.op f.heads))
    ∨ (∃ r, f.read = some r ∧ f.write = none ∧ f.carry = none ∧ f.heads = none
      ∧ ∀ s, exec i s = s.finish (s.vopS f.placed g f.op r))
    ∨ (∃ r, f.write = some r ∧ f.read = none ∧ f.carry = none ∧ f.heads = none
      ∧ ∀ s, exec i s = s.finish (s.vopD f.placed g f.op r))
    ∨ ∃ r, f.carry = some r ∧ f.read = none ∧ f.write = none ∧ f.heads = none
      ∧ ∀ s, exec i s = s.finish (do
        s.guard g
        let (x, xp) ← s.moveS r
        let u ← s.handOff f.placed f.op x 0 0 xp
        .ok u.retire)

/-- Every form of MAJ 20 to 2B has its description's meaning. -/
theorem vform_means (i : Instr) (f : VForm) (h : vform i = some f) : ∃ g, f.Means i g := by
  cases i <;> simp only [vform, reduceCtorEq, Option.some.injEq] at h <;> subst h <;>
  first
  | (refine ⟨_, ?_, rfl, rfl, rfl, rfl, rfl, rfl, rfl, rfl, rfl, .inl ⟨rfl, rfl, rfl, fun _ => rfl⟩⟩
     intro h; revert h; simp [vguard, memGuard, vamoGuard, and_assoc, vtOk]
     try (intro h1 h2 h3 h4; exact ⟨h1, h2, fun hg => h4.resolve_left (by simp [hg]), h3⟩)
     try tauto)
  | (refine ⟨_, ?_, rfl, rfl, rfl, rfl, rfl, rfl, rfl, rfl, rfl, .inr (.inl ⟨_, rfl, rfl, rfl, rfl, fun _ => rfl⟩)⟩
     intro h; revert h; simp [vguard, memGuard, vamoGuard, and_assoc, vtOk]
     try (intro h1 h2 h3 h4; exact ⟨h1, h2, fun hg => h4.resolve_left (by simp [hg]), h3⟩)
     try tauto)
  | (refine ⟨_, ?_, rfl, rfl, rfl, rfl, rfl, rfl, rfl, rfl, rfl,
       .inr (.inr (.inl ⟨_, rfl, rfl, rfl, rfl, fun _ => rfl⟩))⟩
     intro h; revert h; simp [vguard, memGuard, vamoGuard, and_assoc, vtOk]
     try (intro h1 h2 h3 h4; exact ⟨h1, h2, fun hg => h4.resolve_left (by simp [hg]), h3⟩)
     try tauto)
  | (refine ⟨_, ?_, rfl, rfl, rfl, rfl, rfl, rfl, rfl, rfl, rfl,
       .inr (.inr (.inr ⟨_, rfl, rfl, rfl, rfl, fun _ => rfl⟩))⟩
     intro h; revert h; simp [vguard, memGuard, vamoGuard, and_assoc, vtOk]
     try (intro h1 h2 h3 h4; exact ⟨h1, h2, fun hg => h4.resolve_left (by simp [hg]), h3⟩)
     try tauto)

/-- The checks pass for a form that is ready. -/
theorem VForm.Ready.guard {f : VForm} {s : State} {i : Instr} {g : Guard} (h : f.Ready s) (m : f.Means i g) :
    s.guard g = .ok () := by
  refine State.guard_ok (m.fields h.ok).1 (m.fields h.ok).2 h.owner (by simp [m.tile]) ?_ ?_
  · rw [m.context]
    exact h.bound
  · refine State.checkVl_ok m.draft ?_ ?_ ?_ ?_
    · rw [m.placed, m.bits, mvlOf_eq]
      exact h.vl
    · rw [m.placed, m.bits, mvlOf_eq, m.twoD]
      exact h.count
    · rw [m.perK, m.governed, m.twoD]
      exact h.mask
    · rw [m.maxVl]
      exact h.most

/-- The state from which a form is handed off: its scalar result is claimed. -/
def State.claimed (s : State) (f : VForm) : State :=
  match f.write with
  | some d => s.claim d
  | none => s

/-- An unplaced form that is ready and that its stream takes: the instruction it captured goes to the V stream. -/
theorem VForm.exec_pass {f : VForm} {s : State} {i : Instr} (hf : vform i = some f) (hp : f.placed = false)
    (h : f.Ready s) : ∃ (x : Dword) (xp : Bool), (∀ r, f.read = some r → x = s.getS r)
      ∧ (f.read = none → f.carry = none → x = 0 ∧ xp = false)
      ∧ (∀ r, f.carry = some r → x = s.getS r ∧ xp = s.poisonedS r)
      ∧ ∀ t, (s.claimed f).pass ((s.claimed f).capture f.op false x 0 0 xp) = .ok t → exec i s = .next t.retire := by
  obtain ⟨g, m⟩ := vform_means i f hf
  have hg := h.guard m
  rcases m.shape with ⟨hr, hw, hc, he⟩ | ⟨r, hr, hw, hc, hh, he⟩ | ⟨r, hw, hr, hc, hh, he⟩ | ⟨r, hc, hr, hw, hh, he⟩
  · refine ⟨0, false, by simp [hr], fun _ _ => ⟨rfl, rfl⟩, by simp [hc], fun t ht => ?_⟩
    rw [he]
    simp only [State.claimed, hw] at ht
    simp only [BitVec.ofNat_eq_ofNat] at ht
    simp [State.vop, hg, State.handOff, hp, ht, bind, Except.bind, State.finish]
  · refine ⟨s.getS r, false, by simp [hr], by simp [hr], by simp [hc], fun t ht => ?_⟩
    rw [he]
    simp only [State.claimed, hw] at ht
    simp only [BitVec.ofNat_eq_ofNat] at ht
    have := State.useS_ok (h.read r hr)
    simp [State.vopS, hg, this, State.handOff, hp, ht, bind, Except.bind, State.finish]
  · refine ⟨0, false, by simp [hr], fun _ _ => ⟨rfl, rfl⟩, by simp [hc], fun t ht => ?_⟩
    rw [he]
    simp only [State.claimed, hw] at ht
    simp only [BitVec.ofNat_eq_ofNat] at ht
    have := State.claimS_ok (h.write r hw)
    simp [State.vopD, hg, this, State.handOff, hp, ht, bind, Except.bind, State.finish]
  · refine ⟨s.getS r, s.poisonedS r, by simp [hr], by simp [hc], by simp [hc], fun t ht => ?_⟩
    rw [he]
    simp only [State.claimed, hw] at ht
    simp only [BitVec.ofNat_eq_ofNat] at ht
    have := State.moveS_ok (h.carry r hc)
    simp [hg, this, State.handOff, hp, ht, bind, Except.bind, State.finish]

/-! ### Elementwise instructions on their own -/

/-- An elementwise instruction on its own executes as the elementwise frame, and not at all when VL is 0. -/
theorem State.lanes_run {s : State} {x : Dword} {op : VOp} {l : Lanes} (h : s.lanes x op = some l) (xp : Bool) :
    let e := s.capture op false x 0 0 xp
    (s.alone e).runEntry e = if e.vl ≤ (s.alone e).start e then .ok (s.alone e).vdone
      else (s.alone e).elementwise e l.d l.bits (l.srcs.map (·, l.width)) l.val := by
  cases op <;> simp only [State.lanes, reduceCtorEq] at h
  case bin o d a b t => obtain rfl := Option.some.inj h; rfl
  case binS o d a t => obtain rfl := Option.some.inj h; rfl
  case tern o d a b t => obtain rfl := Option.some.inj h; rfl
  case un o d a t =>
    cases o <;> simp only [reduceCtorEq] at h <;> (obtain rfl := Option.some.inj h; rfl)
  case iota d t => obtain rfl := Option.some.inj h; rfl
  case cvt d a sat e t =>
    split at h
    · simp at h
    · obtain rfl := Option.some.inj h
      rename_i hc
      simp only [not_or] at hc
      simp [State.runEntry, State.runOp, State.capture, State.runAlu, State.runCvt, hc.1, hc.2]
      rfl

/-- The active elements of an unplaced instruction on its own. -/
theorem State.actives_alone {s : State} (h : s.Alone) (op x xp) :
    (s.alone (s.capture op false x 0 0 xp)).actives (s.capture op false x 0 0 xp) = s.activeList := by
  have h0 : s.lc.vstart.toNat = 0 := by simp [h.start]
  simp only [State.actives, State.elems, State.start, State.capture, State.alone, h0, VEntry.vl, State.activeList]
  simp only [List.drop_zero]
  apply List.filter_congr
  intro i hi
  simp only [List.mem_range] at hi
  simp only [State.governs, VEntry.allows, State.activeAt, hi]
  simp [State.kreg]

/-- A clean governing mask stops nothing. -/
theorem State.maskClean_alone {s : State} (op x xp) (h : s.lc.vec.vmsel ≠ 8 → s.kpois s.lc.vec.vmsel.toNat = 0) :
    (s.alone (s.capture op false x 0 0 xp)).maskClean (s.capture op false x 0 0 xp) = .ok () := by
  have e : (s.capture op false x 0 0 xp).ctl = s.lc.vec := rfl
  have e2 : ∀ n, (s.alone (s.capture op false x 0 0 xp)).kpois n = s.kpois n := fun _ => rfl
  unfold State.maskClean State.maskCleanOf
  simp only [e, e2]
  by_cases hv : s.lc.vec.vmsel = 8
  · simp [hv]
  · simp [h hv]

/-- Clean sources stop nothing. -/
theorem State.clean_alone {s : State} (op x xp act) (srcs : List VReg) (w : Nat) (h : ∀ r ∈ srcs, s.part.vPoison[r.toNat] = 0) :
    (s.alone (s.capture op false x 0 0 xp)).clean (s.capture op false x 0 0 xp) act (srcs.map (·, w)) = .ok () := by
  have : (srcs.map (·, w)).find? (fun r => act.any (fun i => (s.alone (s.capture op false x 0 0 xp)).vbad (s.capture op false x 0 0 xp) r.1 r.2 i)) = none := by
    simp only [List.find?_eq_none, List.mem_map, forall_exists_index, and_imp]
    rintro _ r hr rfl
    simp only [List.any_eq_true, not_exists, not_and]
    intro i _
    have : (s.alone (s.capture op false x 0 0 xp)).vpoison false r = 0 := by
      simp [State.vpoison, State.alone, h r hr]
    have e : (s.capture op false x 0 0 xp).placed = false := rfl
    simp only [State.vbad, e, this, Nat.zero_testBit]
    simp
  unfold State.clean
  simp only [this]

/-- Flags that no bit of FTRAPEN enables are only added to FFLAGS. -/
theorem State.commitFlags_ok {s : State} {e : VEntry} (fl : List (Nat × Flags)) (all) (h : ∀ r ∈ fl, r.2.setWidth 6 &&& e.ftrapen = 0) :
    s.commitFlags e fl all = .ok { s with lc := { s.lc with fflags := s.lc.fflags ||| fl.foldl (fun f r => f ||| r.2) 0 } } := by
  have h2 : ∀ (l : List (Nat × Flags)) (z : Flags), (∀ r ∈ l, r.2.setWidth 6 &&& e.ftrapen = 0) → z.setWidth 6 &&& e.ftrapen = 0 →
      (l.foldl (fun f r => f ||| r.2) z).setWidth 6 &&& e.ftrapen = 0 := by
    intro l
    induction l with
    | nil => intro z _ hz; exact hz
    | cons a r ih =>
      intro z hl hz
      refine ih _ (fun r hr => hl r (by simp [hr])) ?_
      have := hl a (by simp)
      ext i hi
      have h1 := congrArg (·.getLsbD i) this
      have h2 := congrArg (·.getLsbD i) hz
      simp [hi] at h1 h2 ⊢
      grind
  have h3 := h2 fl 0 h (by simp)
  unfold State.commitFlags
  simp only [h3]
  rfl

/-- A flag is in the union when it was there or an element raised it. -/
theorem flags_fold (l : List (Nat × Flags)) (z : Flags) (b : Nat) :
    (l.foldl (fun f r => f ||| r.2) z).getLsbD b = (z.getLsbD b || l.any (fun r => r.2.getLsbD b)) := by
  induction l generalizing z with
  | nil => simp
  | cons a r ih => simp [ih, Bool.or_assoc]


/-- An elementwise form neither writes nor carries a scalar register. -/
theorem State.lanes_form {i f l} {s : State} {x : Dword} (hf : vform i = some f) (hl : s.lanes x f.op = some l) : f.write = none ∧ f.carry = none := by
    cases i <;> simp only [vform, reduceCtorEq, Option.some.injEq] at hf <;> subst hf <;>
      first
      | exact ⟨rfl, rfl⟩
      | (simp only [State.lanes, reduceCtorEq] at hl; done)

/-- An elementwise instruction is no barrier. -/
theorem State.lanes_barrier {op : VOp} {l : Lanes} {s : State} {x : Dword} (hl : s.lanes x op = some l) (xp) : (s.capture op false x 0 0 xp).barrier = none := by
  cases op <;> first | rfl | simp [State.lanes] at hl

end Sys2Proof.Machine
end

