-- ==== Sys2Proof/Tests/Slice0.lean ====
section
/-! SUPPORT. Tests/Slice0.lean: tests of the decoder on words written from the layouts of R88 to R102, tests of
well-formedness, the manual's worked examples run for one step, and a witness for every statement that has hypotheses. -/

set_option Elab.async false

namespace Sys2Proof.Tests

open Sys2Proof.Machine

/-! ### Decoding: one word for each encoded row, its fields written out bit by bit (R88 to R102) -/

/-- What the decoder reads from words. -/
def words (l : List IWord) : List (Option Instr) := l.map (fun w => (decode w).toOption)

theorem test_decode_int :
    words [0b000001_100101_010110_001011_00000000,
      0b000001_100101_010110_001011_00000001,
      0b000001_100101_010110_001011_00000010,
      0b000001_100101_010110_001011_00000011,
      0b000001_100101_010110_001011_00000100,
      0b000001_100101_010110_001011_00000101,
      0b000001_100101_010110_001011_00000110,
      0b000001_100101_010110_001011_00000111,
      0b000001_100101_010110_001011_00001000,
      0b000001_100101_010110_001011_00001001,
      0b000001_100101_010110_001011_00001010,
      0b000001_100101_010110_001011_00001011,
      0b000001_100101_010110_001011_00001100,
      0b000001_100101_010110_001011_00001101,
      0b000001_100101_010110_001011_00001110,
      0b000001_100101_010110_001011_00001111,
      0b000001_100101_010110_001011_00010000,
      0b000001_100101_010110_001011_00010001,
      0b000001_100101_010110_001011_00010010,
      0b000001_100101_010110_00000000010011,
      0b000001_100101_010110_00000000010100,
      0b000001_100101_010110_001011_00010101] =
    [some (.add 37 22 11),
      some (.sub 37 22 11),
      some (.mul 37 22 11),
      some (.mulh 37 22 11),
      some (.mulhu 37 22 11),
      some (.div 37 22 11),
      some (.divu 37 22 11),
      some (.rem 37 22 11),
      some (.remu 37 22 11),
      some (.and 37 22 11),
      some (.or 37 22 11),
      some (.xor 37 22 11),
      some (.shl 37 22 11),
      some (.shr 37 22 11),
      some (.sra 37 22 11),
      some (.slt 37 22 11),
      some (.sltu 37 22 11),
      some (.min 37 22 11),
      some (.max 37 22 11),
      some (.clz 37 22),
      some (.popc 37 22),
      some (.csel 37 22 11)] := by decide

theorem test_decode_imm :
    words [0b000010_100101_010110_00000101010101,
      0b000011_100101_010110_00000101010101,
      0b000100_100101_010110_00000101010101,
      0b000101_100101_010110_00000101010101,
      0b000110_100101_010110_00000101010101,
      0b000111_100101_010110_00000000_101101,
      0b000111_100101_010110_01000000_101101,
      0b000111_100101_010110_10000000_101101,
      0b001000_100101_10000101010000110010,
      0b001001_100101_10000101010000110010] =
    [some (.addi 37 22 341),
      some (.andi 37 22 341),
      some (.ori 37 22 341),
      some (.xori 37 22 341),
      some (.slti 37 22 341),
      some (.shli 37 22 45),
      some (.shri 37 22 45),
      some (.srai 37 22 45),
      some (.lui 37 545842),
      some (.addpc 37 545842)] := by decide

theorem test_decode_memory :
    words [0b001010_100101_010110_01_1_00101010101,
      0b001011_101100_010110_10_0_00101010101,
      0b001100_100101_010110_10_01_0000000000,
      0b001101_101100_010110_10_01_0000000000,
      0b001110_100101_010110_10_10_001011_1001] =
    [some (.ld 37 22 1 true 341),
      some (.st 44 22 2 341),
      some (.lda 37 22 2 1),
      some (.stl 44 22 2 1),
      some (.amo 37 22 2 2 11 .fadd)] := by decide

theorem test_decode_branch :
    words [0b010000_010110_001011_00000000000011,
      0b010001_010110_001011_00000000000011,
      0b010010_010110_001011_00000000000011,
      0b010011_010110_001011_00000000000011,
      0b010100_010110_001011_00000000000011,
      0b010101_010110_001011_00000000000011,
      0b010110_100101_10000101010000110010,
      0b010111_100101_010110_00000101010101] =
    [some (.beq 22 11 3),
      some (.bne 22 11 3),
      some (.blt 22 11 3),
      some (.bge 22 11 3),
      some (.bltu 22 11 3),
      some (.bgeu 22 11 3),
      some (.jal 37 545842),
      some (.jalr 37 22 341)] := by decide

theorem test_decode_fp :
    words [0b011000_100101_010110_001011_00000_111,
      0b011000_100101_010110_001011_00001_111,
      0b011000_100101_010110_001011_00010_111,
      0b011000_100101_010110_001011_00011_111,
      0b011000_100101_010110_00000000100_111,
      0b011000_100101_010110_001011_00101_111,
      0b011000_100101_010110_001011_00110_111,
      0b011000_100101_010110_001011_00111_111,
      0b011000_100101_010110_001011_01000_111,
      0b011000_100101_010110_00000001001_111,
      0b011000_100101_010110_00_0010_01010_001,
      0b011000_100101_010110_00_0011_01011_001] =
    [some (.fadd 37 22 11 7),
      some (.fsub 37 22 11 7),
      some (.fmul 37 22 11 7),
      some (.fdiv 37 22 11 7),
      some (.fsqrt 37 22 7),
      some (.fma 37 22 11 7),
      some (.fmin 37 22 11 7),
      some (.fmax 37 22 11 7),
      some (.fcmp 37 22 11 7),
      some (.fclass 37 22 7),
      some (.fcvtFromFp 37 22 .f16 1),
      some (.fcvtFromInt 37 22 .bf16 1)] := by decide

theorem test_decode_csr :
    words [0b011001_100101_000000_00000100100011,
      0b011001_010110_000001_00000100100011,
      0b011001_010110_000010_00000100100011,
      0b011001_010110_000011_00000100100011,
      0b011010_100101_010110_0000000000_0111,
      0b011011_000000_010110_000_101_00000000,
      0b011011_100101_000000000_101_00000001,
      0b011011_100101_000000000_101_00000010] =
    [some (.csrr 37 291),
      some (.csrw 22 291),
      some (.csrs 22 291),
      some (.csrc 22 291),
      some (.setvl 37 22 .n64),
      some (.qsend 22 5),
      some (.qrecv 37 5),
      some (.qstat 37 5)] := by decide

theorem test_decode_task :
    words [0b011100_000000000000000000000000_10,
      0b011100_0000000000_10100101_00000100,
      0b011100_100011010001010110_00001000,
      0b011100_00000000000000000000001001,
      0b011100_00000000000000000000001010,
      0b011100_100101_010110_00000000001100,
      0b011100_100101_010110_001011_00010000,
      0b011100_000000_010110_00000000010100,
      0b011100_000000_010110_00000000010101,
      0b011100_000000_010110_00000000010110,
      0b011100_000000_010110_00000000011000,
      0b011100_000000_010110_00000000011001,
      0b011100_100101_010110_00000000011100,
      0b011100_000000_010110_00000000100000,
      0b011100_000000_010110_00000000100001] =
    [some (.fence 2),
      some (.sbar 165),
      some (.nexts 144470),
      some (.exit),
      some (.yieldLc),
      some (.spawn 37 22),
      some (.mwait 37 22 11),
      some (.gjoin 22),
      some (.gleave 22),
      some (.gbar 22),
      some (.post 22),
      some (.waiti 22),
      some (.probe 37 22),
      some (.cwb 22),
      some (.cinv 22)] := by decide

theorem test_decode_vector_binary :
    words [0b100000_1_00101_10110_01011_0111_000000,
      0b100000_1_00101_10110_01011_0111_000001,
      0b100000_1_00101_10110_01011_0111_000010,
      0b100000_1_00101_10110_01011_0111_000011,
      0b100000_1_00101_10110_01011_0111_000100,
      0b100000_1_00101_10110_01011_0111_000101,
      0b100000_1_00101_10110_01011_0111_000110,
      0b100000_1_00101_10110_01011_0111_000111,
      0b100000_1_00101_10110_01011_0111_001000,
      0b100000_1_00101_10110_01011_0111_001001,
      0b100000_1_00101_10110_01011_0111_001010,
      0b100000_1_00101_10110_01011_0111_001011] =
    [some (.vadd true 5 22 11 .n64),
      some (.vsub true 5 22 11 .n64),
      some (.vmul true 5 22 11 .n64),
      some (.vdiv true 5 22 11 .n64),
      some (.vmin true 5 22 11 .n64),
      some (.vmax true 5 22 11 .n64),
      some (.vand true 5 22 11 .n64),
      some (.vor true 5 22 11 .n64),
      some (.vxor true 5 22 11 .n64),
      some (.vshl true 5 22 11 .n64),
      some (.vshr true 5 22 11 .n64),
      some (.vsra true 5 22 11 .n64)] := by decide

theorem test_decode_vector_scalar :
    words [0b100001_1_00101_10110_001011_0111_00000,
      0b100001_1_00101_10110_001011_0111_00001,
      0b100001_1_00101_10110_001011_0111_00010,
      0b100001_1_00101_10110_001011_0111_00011,
      0b100001_1_00101_10110_001011_0111_00100,
      0b100001_1_00101_10110_001011_0111_00101,
      0b100001_1_00101_10110_001011_0111_00110,
      0b100001_1_00101_10110_001011_0111_00111,
      0b100001_1_00101_10110_001011_0111_01000,
      0b100001_1_00101_10110_001011_0111_01001,
      0b100001_1_00101_10110_001011_0111_01010,
      0b100001_1_00101_10110_001011_0111_01011,
      0b100001_1_00101_00000_001011_0111_10000,
      0b100001_1_00101_10110_001011_0111_10001,
      0b100001_1_00000_10110_100101_0111_10010] =
    [some (.vaddVs true 5 22 11 .n64),
      some (.vsubVs true 5 22 11 .n64),
      some (.vmulVs true 5 22 11 .n64),
      some (.vdivVs true 5 22 11 .n64),
      some (.vminVs true 5 22 11 .n64),
      some (.vmaxVs true 5 22 11 .n64),
      some (.vandVs true 5 22 11 .n64),
      some (.vorVs true 5 22 11 .n64),
      some (.vxorVs true 5 22 11 .n64),
      some (.vshlVs true 5 22 11 .n64),
      some (.vshrVs true 5 22 11 .n64),
      some (.vsraVs true 5 22 11 .n64),
      some (.vbcast true 5 11 .n64),
      some (.vslide true 5 22 11 .n64),
      some (.vextract true 22 37 .n64)] := by decide

theorem test_decode_vector_unary :
    words [0b100010_1_00101_10110_01011_0111_000000,
      0b100010_1_00101_10110_01011_0111_000001,
      0b100010_1_00101_10110_01011_0111_000010,
      0b100011_1_00101_10110_00000_0111_000000,
      0b100011_1_00101_10110_00000_0111_000001,
      0b100011_1_00101_10110_00000_0111_000010,
      0b100011_1_00101_10110_00000_0111_000011,
      0b100011_1_00101_10110_00000_0111_000100,
      0b100011_1_00101_10110_00000_0111_000101,
      0b100011_1_00101_10110_00000_0111_000110,
      0b100011_1_00101_10110_00000_0111_000111,
      0b100011_1_00101_10110_00000_0111_001000,
      0b100011_1_00101_0000000000_0111_001001,
      0b100011_1_00101_10110_1_0110_1010_010000] =
    [some (.vma true 5 22 11 .n64),
      some (.vms true 5 22 11 .n64),
      some (.vnma true 5 22 11 .n64),
      some (.vneg true 5 22 .n64),
      some (.vabs true 5 22 .n64),
      some (.vsqrt true 5 22 .n64),
      some (.vrcp true 5 22 .n64),
      some (.vrsq true 5 22 .n64),
      some (.vexp2 true 5 22 .n64),
      some (.vlog2 true 5 22 .n64),
      some (.vclass true 5 22 .n64),
      some (.vmov true 5 22 .n64),
      some (.viota true 5 .n64),
      some (.vcvt true 5 22 true .i64 .i8)] := by decide

theorem test_decode_vector_move :
    words [0b100100_1_00101_10110_01011_0111_000_100,
      0b100100_1_00101_10110_01011_0111_001000,
      0b100101_1_00101_10110_01011_0111_000000,
      0b100101_1_00101_10110_00000_0111_000001,
      0b100101_1_00000_10110_00_101_0111_000010,
      0b100101_1_00101_0000000_101_0111_000011] =
    [some (.vcmp true 5 22 11 .n64 .gt),
      some (.vsel true 5 22 11 .n64),
      some (.vperm true 5 22 11 .n64),
      some (.vcompress true 5 22 .n64),
      some (.vqsend true 22 5 .n64),
      some (.vqrecv true 5 5 .n64)] := by decide

theorem test_decode_vector_reduce :
    words [0b100110_1_00101_10110_01011_0111_1_00000,
      0b100110_1_00101_10110_01011_0111_1_00001,
      0b100110_1_00101_10110_01011_0111_1_00010,
      0b100110_1_00101_10110_01011_0111_1_00011,
      0b100110_1_00101_10110_01011_0111_1_00100,
      0b100110_1_00101_10110_01011_0111_1_00101,
      0b100110_1_00101_10110_01011_0111_1_01000] =
    [some (.vredsum true 5 22 11 .n64 true),
      some (.vredosum true 5 22 11 .n64 true),
      some (.vredmax true 5 22 11 .n64 true),
      some (.vredmin true 5 22 11 .n64 true),
      some (.vargmax true 5 22 11 .n64 true),
      some (.vargmin true 5 22 11 .n64 true),
      some (.vscan true 5 22 11 .n64 true)] := by decide

theorem test_decode_mask :
    words [0b100111_0_00101_10110_01011_0000000000,
      0b100111_0_00101_10110_01011_0000000001,
      0b100111_0_00101_10110_01011_0000000010,
      0b100111_0_00101_10110_000000000000011,
      0b100111_0_00101_10110_000000000000100,
      0b100111_000000_10110_100101_000000101,
      0b100111_000000_10110_100101_000000110] =
    [some (.kand 5 22 11),
      some (.kor 5 22 11),
      some (.kxor 5 22 11),
      some (.knot 5 22),
      some (.kmov 5 22),
      some (.kpop 22 37),
      some (.kfirst 22 37)] := by decide

theorem test_decode_vector_memory :
    words [0b101000_1_00111_010110_010_1_1_1001_01110,
      0b101001_1_00111_010110_011_0_1_1001_00110,
      0b101010_1_10101_010110_110_1_1_0110_01110,
      0b101011_1_10101_010110_010_1_1_0110_01110] =
    [some (.vld true 7 22 (.indexed 14) true true .n32),
      some (.vst true 7 22 (.segment 6) false true .n32),
      some (.vamo true 21 22 .swap true true .i64 14),
      some (.vamon true 21 22 .max true true .i64 14)] := by decide

theorem test_decode_tile :
    words [0b110000_100101_010110_00000000000000,
      0b110000_00000000000000000000000001,
      0b110000_00000000000000000000000010,
      0b110000_000000000000000_110_00000011,
      0b110000_011110_010110_00_1_110_00000100,
      0b110001_0_10101_010110_100_1_1_1001_00000,
      0b110010_0_10101_010110_100_1_1_1001_00000,
      0b110011_1101_110_011_0011_0010_000_1_0000,
      0b110100_0001_110_011_1100_1100_0_1_1_0_0000,
      0b110101_100101_010110_00_1101_00000000,
      0b110101_100101_010110_00_1101_00000001,
      0b110101_00000000000000_1101_00000010] =
    [some (.tshape 37 22),
      some (.ten),
      some (.tdis),
      some (.tzero 6),
      some (.tslice 30 22 true 6),
      some (.tld 21 22 true true .n32),
      some (.tst 21 22 true true .n32),
      some (.mma 13 6 3 .bf16 .f16 ⟨false, false, true⟩),
      some (.mmax 1 6 3 .mx8 .mx8 true true false),
      some (.accrd 37 22 13),
      some (.accwr 37 22 13),
      some (.accz 13)] := by decide

theorem test_decode_copy :
    words [0b111000_100101_010110_001011_10_00000_1,
      0b111000_100101_0_10011_001011_10_010_010,
      0b111000_100101_010110_001011_10_10_0_101,
      0b111000_000000_010110_000000_10_110000] =
    [some (.xcpy 37 22 11 2 true),
      some (.xdeil 37 19 11 2 2),
      some (.xred 37 22 11 2 false .n64),
      some (.xwait 22 2)] := by decide

theorem test_decode_stack :
    words [0b111001_100101_010110_00000000000000,
      0b111001_000000_010110_001011_00000001,
      0b111001_00000000000000000000000010,
      0b111001_00000000000000000000000011,
      0b111001_110010_010110_00000000000100] =
    [some (.skbind 37 22),
      some (.skloop 22 11),
      some (.skend),
      some (.skfence),
      some (.skstrm 50 22)] := by decide

theorem test_decode_bank :
    words [0b111010_000010_010110_00000000000000,
      0b111010_000010_00000000000000000001,
      0b111010_000010_100101_00000000000010,
      0b111010_000010_010110_001011_1_0010_100,
      0b111010_000000_010110_00000000100000,
      0b111010_000010_00000000000000100001] =
    [some (.rlopen 2 22),
      some (.rlrel 2),
      some (.rlstat 2 37),
      some (.bkop 2 22 11 true .axpy),
      some (.bkwave 22),
      some (.bkfence 2)] := by decide

theorem test_decode_generation :
    words [0b111011_0_00101_10110_00000_0111_000000,
      0b111011_0_00101_10110_001011_0111_00001,
      0b111011_0_00101_00000_001011_000000010,
      0b111011_00000000000_001011_000000011,
      0b111011_0_00101_10110_001011_0111_01000,
      0b111011_0_00101_10110_001011_0111_01001,
      0b111011_0_00101_10110_000000000001010,
      0b111011_0_00101_00000_001011_0111_01011,
      0b111011_0_00101_00000_001011_0111_01100,
      0b111100_100101_010110_001011_00000000,
      0b111100_000000_010110_001011_00000001,
      0b111100_000000_010110_00000000000010] =
    [some (.urank 5 22 .n64),
      some (.ucommit 5 22 11 .n64),
      some (.udirty 5 11),
      some (.ucfg 11),
      some (.smpstep 5 22 11 .n64),
      some (.vaccept 5 22 11 .n64),
      some (.vpand 5 22),
      some (.vgumbel 5 11 .n64),
      some (.vdraw 5 11 .n64),
      some (.jadd 37 22 11),
      some (.jcommit 22 11),
      some (.jdrop 22)] := by decide

theorem test_decode_system :
    words [0b111111_000000000000000000_10100101,
      0b111111_000001000000000000_01011010,
      0b111111_00001000000000000000000000,
      0b111111_000011_010110_0_10011_00000000] =
    [some (.scall 165),
      some (.ebreak 90),
      some (.eret),
      some (.erpl 22 19)] := by decide

/-! ### Well-formedness: one ill-formed term for each check, refused -/

theorem test_wf_event : Instr.sliceExpired.wf = false ∧ (Instr.smpstep 1 2 3 .f32).isEvent = false := by decide
theorem test_wf_load_size : (Instr.ld 4 5 3 true 0).wf = false ∧ (Instr.ld 4 5 3 false 0).wf = true := by decide
theorem test_wf_saturation : (Instr.vcvt false 1 2 true .f32 .f32).wf = false ∧ (Instr.vcvt false 1 2 true .f32 .e4m3).wf = true
    ∧ (Instr.vcvt false 1 2 true .i32 .i64).wf = false := by decide
theorem test_wf_heads : (Instr.vredsum false 1 2 3 .f32 false).wf = false ∧ (Instr.vscan false 1 2 3 .f32 false).wf = false
    ∧ (Instr.vredosum false 1 2 3 .f32 false).wf = false ∧ (Instr.vredmax false 1 2 3 .f32 false).wf = false
    ∧ (Instr.vredmin false 1 2 3 .f32 false).wf = false ∧ (Instr.vargmax false 1 2 3 .f32 false).wf = false
    ∧ (Instr.vargmin false 1 2 3 .f32 false).wf = false ∧ (Instr.vredsum false 1 2 3 .f32 true).wf = true := by decide
theorem test_wf_segment : (Instr.vld false 1 5 (.segment 0) false false .f32).wf = false
    ∧ (Instr.vst false 1 5 (.segment 8) false false .f32).wf = false
    ∧ (Instr.vld false 1 5 (.segment 7) false false .f32).wf = true := by decide
theorem test_wf_stream : (Instr.vld false 1 0 (.stream 2) false false .f32).wf = false
    ∧ (Instr.vst true 1 5 (.stream 2) false false .f32).wf = false
    ∧ (Instr.vld true 1 0 (.stream 2) false false .f32).wf = true := by decide
theorem test_wf_mmax : (Instr.mmax 0 0 2 .mx4 .mx8 false true false).wf = false
    ∧ (Instr.mmax 0 0 2 .mx8 .mx4 true false false).wf = false ∧ (Instr.mmax 0 0 2 .mx8 .mx4 false true false).wf = true := by decide
theorem test_wf_fields : (Instr.xdeil 7 4 9 0 0).wf = false ∧ (Instr.bkop 20 1 0 false .zero).wf = false
    ∧ (Instr.bkop 20 1 2 false .copy).wf = false ∧ (Instr.bkop 20 1 2 false .axpy).wf = true := by decide

/-! ### Small states -/

/-! ### Witnesses: states and operands that meet the hypotheses of the statements -/

/-- One LC of a task, resident at user level, its page at VA and PA 0x10000, a supervisor's handler set; s4 holds the
page's address, s5 the value 9. -/
def placed : State :=
  let s := State.reset.withFetchWord 32 0
  { s with core := { s.core with stvec := 0x8000 }, lc := { s.lc with s := (s.lc.s.set 4 0x10000).set 5 9 } }

/-- The same at supervisor level. -/
def placedSuper : State := { placed with lc := { placed.lc with trap := { placed.lc.trap with level := true } } }

/-- The same with a user handler. -/
def placedUser : State := { placed with lc := { placed.lc with trap := { placed.lc.trap with tvec := 0x4000 } } }

/-- The same with the scalar unit running ahead of the streams. -/
def ahead : State := { placed with runAhead := true }

/-- A place in the page. -/
def here (o : Nat) : Loc := .phys (0x10000 + o) 0x1001D

theorem placed_readable : ∀ r : SReg, placed.Readable r ∧ placed.Writable r := by
  have h : ∀ r : SReg, (placed.freeS r = true ∧ placed.poisonedS r = false) ∧ placed.freeS r = true := by decide
  exact h

theorem ahead_readable : ∀ r : SReg, ahead.Readable r ∧ ahead.Writable r := placed_readable

theorem placed_takes (c : Cause) : placed.SuperTakes c := ⟨.inr (.inl rfl), by decide⟩
theorem ahead_takes (c : Cause) : ahead.SuperTakes c := ⟨.inr (.inl rfl), by decide⟩

theorem placed_memOk : placed.MemOk := by
  refine ⟨by decide, by decide, by decide, by decide⟩

/-- The premises on an access, on a store, and on a state with nothing under way, as one evaluation each. -/
theorem reaches_of {s : State} {k : Acc} {st ld : Bool} {va : Dword} {n : Nat} {l : Loc}
    (h : (decide (va.toNat % n = 0) && decide (s.locate s.super k va = .ok l) && !s.watched s.super st ld va n
      && !s.scalarWaits va n && !s.bankWaits l && s.lc.stores.all (fun y => !y.meets l n && !(st && y.release))
      && !(st && s.linkBad l) && !(s.runAhead && l.isHost)) = true) : s.Reaches k st ld va n l := by
  simp only [Bool.and_eq_true, Bool.not_eq_true', decide_eq_true_eq, List.all_eq_true, Bool.and_eq_false_iff] at h
  obtain ⟨⟨⟨⟨⟨⟨⟨h1, h2⟩, h3⟩, h4⟩, h5⟩, h6⟩, h7⟩, h8⟩ := h
  refine ⟨h1, h2, h3, h4, h5, fun y hy => ⟨(h6 y hy).1, fun e => ?_⟩, fun e => ?_, fun e => ?_⟩
  · exact (h6 y hy).2.resolve_left (by simp [e])
  · exact h7.resolve_left (by simp [e])
  · exact absurd e (by rintro ⟨a, b⟩; rcases h8 with h | h <;> simp_all)

theorem storeAt_of {s : State} {va : Dword} {n : Nat} {l : Loc}
    (h : (decide (va.toNat % n = 0) && decide (s.locate s.super .store va = .ok l) && !s.watched s.super true false va n
      && !s.linkBad l) = true) : s.StoreAt va n l := by
  simp only [Bool.and_eq_true, Bool.not_eq_true', decide_eq_true_eq] at h
  exact ⟨h.1.1.1, h.1.1.2, h.1.2, h.2⟩

theorem placed_reaches : placed.Reaches .load false true (placed.getS 4) 8 (here 0)
    ∧ placed.Reaches .store true false (placed.getS 4) 8 (here 0)
    ∧ placed.Reaches .amo true true (placed.getS 4) 8 (here 0) :=
  ⟨reaches_of (by decide), reaches_of (by decide), reaches_of (by decide)⟩

theorem placed_clean : placed.CleanAt (here 0) := ⟨by decide, by decide⟩

theorem placed_alone : placed.Alone := by
  constructor <;> decide

theorem ok_of {ε α : Type} {x : Except ε α} (h : x.toBool = true) : ∃ u, x = .ok u := by
  cases x with
  | ok u => exact ⟨u, rfl⟩
  | error e => simp [Except.toBool] at h

/-! ### The manual's own examples: the words and the results are those its text prints -/

/-- The state after an instruction, and after the instruction a word encodes. -/
def okOr (i : Instr) (s : State) : State :=
  match exec i s with
  | .next t => t
  | _ => s
def after (w : IWord) (s : State) : State :=
  match decode w with
  | .ok i => okOr i s
  | .error _ => s

/-- A state with scalar registers, values of `n` bytes in memory, a vector length, and vector and mask registers set. -/
def withS (l : List (Fin 64 × Dword)) (s : State) : State :=
  { s with lc := { s.lc with s := l.foldl (fun v x => v.set x.1 x.2) s.lc.s } }
def withMem (n a : Nat) (l : List Nat) (s : State) : State :=
  { s with dev := { s.dev with mem := l.zipIdx.foldl (fun m x => Memory.write m (a + n * x.2) n x.1) s.dev.mem } }
def withVl (n : Nat) (s : State) : State := { s with lc := { s.lc with vec := { s.lc.vec with vl := BitVec.ofNat 13 n } } }
def packed (w : Nat) (l : List Nat) : Nat := l.zipIdx.foldl (fun a x => a + x.1 * 2 ^ (w * x.2)) 0
def withV (w : Nat) (l : List (Fin 32 × List Nat)) (s : State) : State :=
  { s with part := { s.part with v := l.foldl (fun v x => v.set x.1 (BitVec.ofNat _ (packed w x.2))) s.part.v } }
def withK (l : List (Fin 8 × Nat)) (s : State) : State :=
  { s with part := { s.part with k := l.foldl (fun v x => v.set x.1 (BitVec.ofNat _ x.2)) s.part.k } }

/-- A vector length with k1 as the governing mask. -/
def masked (n : Nat) : State :=
  let s := withVl n placed
  { s with lc := { s.lc with vec := { s.lc.vec with vmsel := 1 } } }

/-- The first `n` elements of `w` bits of a vector register, and `n` bytes of memory. -/
def lanes (w n : Nat) (r : Fin 32) (s : State) : List Nat := (List.range n).map (fun i => s.part.v[r].toNat / 2 ^ (w * i) % 2 ^ w)
def mem (n a : Nat) (s : State) : Nat := Memory.read s.dev.mem a n

theorem test_csel : (after 0x04928B15 (withS [(9, 0), (10, 5), (11, 6)] placed)).getS 9 = 6 := by decide +kernel
theorem test_add_wraps : (okOr (.add 4 5 6) (withS [(5, 0xFFFF_FFFF_FFFF_FFFF), (6, 2)] placed)).getS 4 = 1 := by decide +kernel
theorem test_div_overflow : (okOr (.div 4 5 6) (withS [(5, 0x8000_0000_0000_0000), (6, 0xFFFF_FFFF_FFFF_FFFF)] placed)).getS 4
    = 0x8000_0000_0000_0000 := by decide +kernel
theorem test_andi : (after 0x0C413FC0 (withS [(4, 0x1234567)] placed)).getS 4 = 0x1234540 := by decide +kernel
theorem test_addpc : (after 0x24700004 placed).getS 7 = 0x10010 := by decide +kernel
theorem test_lui_addi : (after 0x0871D678 (after 0x207048D1 placed)).getS 7 = 0x1234_5678 := by decide +kernel
theorem test_ld_signed : (after 0x28318FFF (withMem 1 0x10007 [0x80] (withS [(6, 0x10008)] placed))).getS 3
    = 0xFFFF_FFFF_FFFF_FF80 := by decide +kernel
/-- R331: the word at s6 holds 5. -/
def amoState : State := withMem 8 0x10000 [5] (withS [(6, 0x10000), (7, 3), (3, 8)] placed)
theorem test_amo_add : mem 8 0x10000 (after 0x3831B471 amoState) = 8 ∧ (after 0x3831B471 amoState).getS 3 = 5 := by
  decide +kernel
theorem test_amo_min : mem 8 0x10000 (after 0x3841A455 (withMem 8 0x10000 [20] (withS [(5, 0xFFFF_FFFF_FFFF_FFE2)] amoState)))
    = 0xFFFF_FFE2 := by decide +kernel
theorem test_bne : (after 0x44403FFD (withS [(4, 1)] placed)).lc.pc = placed.lc.pc - 12 := by decide +kernel
theorem test_jal : (after 0x5810000A placed).lc.pc = placed.lc.pc + 40 ∧ (after 0x5810000A placed).getS 1 = 0x10004 := by
  decide +kernel
/-- R346: the exact sum 1 − 2⁻²⁶ − 1, no flag. -/
theorem test_fma : (after 0x6061C829 (withS [(6, 0xBF800000), (7, 0x3F800400), (8, 0x3F7FF800)] placed)).getS 6
    = 0xB2800000 := by decide +kernel
theorem test_fcvt : (after 0x60414850 (withS [(5, 0xC004000000000000)] placed)).getS 4 = 0xFFFF_FFFF_FFFF_FFFE := by
  decide +kernel
theorem test_scall : (after 0xFC000005 placed).lc.trap.scause = 11 ∧ (after 0xFC000005 placed).lc.trap.stval = 5
    ∧ (after 0xFC000005 placed).lc.trap.sepc = 0x10000 ∧ (after 0xFC000005 placed).lc.pc = 0x8000 := by decide +kernel
theorem test_setvl : (after 0x68414001 (withS [(5, 2500)] placed)).getS 4 = 1024 := by decide +kernel
theorem test_kpop : (after 0x9C010A05 (withK [(1, 0x0F), (2, 0xB4)] (masked 8))).getS 5 = 1 := by decide +kernel
theorem test_kfirst : (after 0x9C010C06 (withK [(1, 0x0F), (2, 0xB4)] (masked 8))).getS 6 = 2 := by decide +kernel

/-- The example of R48: 1.0 to 8.0 in v1, heads at elements 3 and 6. -/
def segments : State := withK [(2, 0x48)] (withV 32 [(1, [0x3F800000, 0x40000000, 0x40400000, 0x40800000, 0x40A00000,
  0x40C00000, 0x40E00000, 0x41000000])] (withVl 8 placed))
theorem test_vredsum_seg : lanes 32 3 3 (after 0x98308860 segments) = [0x40C00000, 0x41700000, 0x41700000] := by decide +kernel
theorem test_vscan_seg : lanes 64 6 7 (after 0x987185E8 (withK [(1, 0x25)] (withV 64 [(3, [1, 2, 3, 4, 5, 6])] (withVl 6 placed))))
    = [1, 3, 3, 7, 12, 6] := by decide +kernel
theorem test_vargmax : lanes 32 1 3 (after 0x98308044 (withV 32 [(1, [0x40400000, 0x7FC00000, 0x40E00000, 0x40E00000,
    0xFF800000])] (withVl 5 placed))) = [2] := by decide +kernel
theorem test_vperm : lanes 64 4 4 (after 0x944189C0 (withV 64 [(3, [10, 20, 30, 40]), (2, [3, 3, 0, 7])] (withVl 4 placed)))
    = [40, 40, 10, 0] := by decide +kernel
theorem test_vslide : lanes 32 4 2 (after 0x84208631 (withS [(3, 0xFFFF_FFFF_FFFF_FFFF)] (withV 32 [(1, [5, 6, 7, 8])]
    (withVl 4 placed)))) = [0, 5, 6, 7] := by decide +kernel
theorem test_vcvt_saturates : lanes 8 3 2 (after 0x8C20C510 (withV 32 [(1, [0x43FA0000, 0xBE99999A, 0x7FC00000])]
    (withVl 3 placed))) = [0x7E, 0xAA, 0x7F] := by decide +kernel
theorem test_vld_segment : lanes 32 2 9 (after 0xA0819822 (withMem 4 0x10000 [1, 2, 3, 4, 5, 6] (withS [(6, 0x10000)]
    (withVl 2 placed)))) = [2, 5] := by decide +kernel
theorem test_vamo : lanes 32 4 3 (after 0xA8318022 (withMem 4 0x10000 [0x3F800000] (withS [(6, 0x10000)]
    (withV 32 [(2, [0, 8, 0, 0]), (3, [0x3F800000, 0x40000000, 0x4B800000, 0x3F800000])] (withVl 4 placed)))))
    = [0x3F800000, 0, 0x40000000, 0x4B800001] := by decide +kernel
theorem test_vpand : (after 0xEC20800A (withK [(1, 0xDB)] { masked 1 with
    lc := { (masked 1).lc with vec := { (masked 1).lc.vec with seqn := 2, draftn := 4 } } })).part.k[2] = 0x13 := by
  decide +kernel
/-- R259: the initial sampler state, four logits and keys. -/
def sampling : State :=
  let s := withV 32 [(1, [0x40A00000, 0x40A00000, 0x7FC00000, 0x40A00000]), (2, [0x3F800000, 0x3F800000, 0x41100000, 0x3F000000])]
    (withS [(40, 0xFF800000), (41, 0), (42, 0xFF800000), (43, 0xFFFFFFFF)] (withVl 4 placed))
  { s with lc := { s.lc with gen := { s.lc.gen with vocabn := 6 } } }
theorem test_smpstep : (after 0xEC20D028 sampling).getS 40 = 0x40A00000 ∧ (after 0xEC20D028 sampling).getS 41 = 0x40400000
    ∧ (after 0xEC20D028 sampling).getS 42 = 0x40C00000 ∧ (after 0xEC20D028 sampling).getS 43 = 0x0000_0004_0000_0000 := by
  decide +kernel
/-- R257: three pending entries of a journal over a boundary, the counts 3 and 0. -/
def journal3 : State :=
  let s := withMem 4 0x12000 [0, 0, 0, 0, 0, 17, 1, 1, 1, 17, 1, 1, 2, 40, 1, 1]
    (withMem 4 (0x13000 + 4 * 17) [3] (withS [(15, 4), (13, 3), (14, 0x13000)] (withVl 1 placed)))
  { s with lc := { s.lc with gen := { s.lc.gen with jbase := 0x12040, jlimit := 0x12100 } } }
theorem test_jdrop_jcommit : mem 4 (0x13000 + 4 * 17) (after 0xF0034E01 (after 0xF003C002 journal3)) = 5 := by decide +kernel
theorem test_tshape : (after 0xC040C000 (withS [(3, 0x14010103)] (after 0xC0000001 placed))).getS 4 = 0x14010103 := by
  decide +kernel
/-- R212, R214: the row, the unit and the handle of PA 0x31_2346_5A78. -/
theorem test_row_line : paLine 0x003123465A78 = ⟨3, 4, 11, 2330⟩ ∧ (paLine 0x003123465A78).unit = 133
    ∧ handleWord (paLine 0x003123465A78) false 0x2C = 0x3216002C := by decide
/-- R56: the first cycle of the table. -/
theorem test_arbitration : (arbitrate [⟨0, 32, 0, 0, 3, 0⟩, ⟨1, 2, 0, 0, 1, 0⟩]).map (fun c => (c.got, c.rem))
    = [(6, 26), (2, 0)] := by decide +kernel
/-- R296 to R300: the tables of the worked example, and PROBE at supervisor level. -/
def mapped : State :=
  let w (s : State) (a x : Nat) : State := withMem 8 a [x] s
  let s := { placedSuper with lc := { placedSuper.lc with ptbase := 0x40000 } }
  let s := w (w (w s 0x40000 0x50001) 0x50000 0x60001) (0x60000 + 8 * 256) 0x70001
  w (withMem 8 0x70000 ((List.range 8).map (fun i => 0x3000003123400015 + i * 0x10000)) s) 0x70040 0xFF80003123400001
theorem test_probe : (after 0x7041401C (withS [(5, 0x0000001000058000)] mapped)).getS 4 = 0x3000003123450015 := by decide +kernel

/-! ### Witnesses: states and operands that meet the hypotheses of the statements -/

/-! #### Encoding and the step -/

theorem witness_DecodeEncode : (Instr.vld false 3 4 (.indexed 2) false false .n32).wf = true := by decide

/-- The placed machine with a word at its PC. -/
def placedWord (w : Nat) : State :=
  { placed with dev := { placed.dev with mem := Memory.write placed.dev.mem placePa 4 w } }

/-- The hypotheses of StepRunsDecoded on a word at the PC. -/
def fetches (w : IWord) : Prop :=
  let s := placedWord w.toNat
  let b := s.atBoundary
  let c := b.coreWalk (b.lc.pc.setWidth 64)
  s.agenda = [] ∧ s.lc.status = .resident ∧ b.boundary = none ∧ b.lc.pc.extractLsb' 0 2 = 0
    ∧ c.locate c.super .fetch (b.lc.pc.setWidth 64) = .ok (here 0) ∧ (c.runAhead && (here 0).isHost) = false
    ∧ c.badAt (here 0) = false ∧ (∀ k, k < 4 → w.extractLsb' (8 * k) 8 = c.byteAt (here 0) k)
    ∧ ({ c with ir := w }).core.stvec ≠ 0

theorem witness_StepRunsDecoded :
    (fetches 0x0450_8400 ∧ decode 0x0450_8400 = .ok (.add 5 2 4))
    ∧ (fetches 0xFFFF_FFFF ∧ decode 0xFFFF_FFFF = .error .illegalOpcode)
    ∧ (fetches 0xFC20_0001 ∧ ∃ n, decode 0xFC20_0001 = .error (.reservedField n))
    ∧ (fetches 0x9E11_0C00 ∧ decode 0x9E11_0C00 = .error .placementUnsupported)
    ∧ ({ placed with lc := { placed.lc with pc := 0x10002 } }).atBoundary.lc.pc.extractLsb' 0 2 ≠ 0
    ∧ (Instr.sliceExpired).isEvent = true := by
  have l : ∀ w : IWord, w ∈ [0x0450_8400, 0xFFFF_FFFF, 0xFC20_0001, 0x9E11_0C00] → fetches w := by
    intro w h
    simp only [List.mem_cons, List.not_mem_nil, or_false] at h
    rcases h with rfl | rfl | rfl | rfl <;> (refine ⟨?_, ?_, ?_, ?_, ?_, ?_, ?_, ?_, ?_⟩ <;> decide +kernel)
  refine ⟨⟨l _ (by decide), ?_⟩, ⟨l _ (by decide), ?_⟩, ⟨l _ (by decide), 0, ?_⟩, ⟨l _ (by decide), ?_⟩, ?_, ?_⟩
    <;> decide +kernel

theorem witness_MemoryForm : State.reset.MemOk ∧ ∃ t, step State.reset = .next t :=
  ⟨⟨by decide, by decide, by decide, by decide⟩, _, rfl⟩

/-! #### Scalar instructions -/

theorem witness_IntegerOperations : placed.Readable 4 ∧ placed.Readable 5 ∧ placed.Writable 0 :=
  ⟨(placed_readable 4).1, (placed_readable 5).1, (placed_readable 0).2⟩

theorem witness_AddPc : placed.Writable 7 := (placed_readable 7).2

/-- A state whose register 5 is still to be written, and one in which it is poisoned. -/
def busy5 : State := { placed with lc := { placed.lc with pending := [5] } }
def poisoned5 : State := { placed with lc := { placed.lc with sPoison := 0x20 } }

theorem witness_OperandWaitOrPoison :
    readsTwo (.add 6 4 5) = some (4, 5) ∧ readsTwo (.bne 5 4 0) = some (5, 4)
    ∧ (busy5.freeS 5 = false ∧ busy5.Readable 4)
    ∧ (poisoned5.Writable 5 ∧ poisoned5.poisonedS 5 = true ∧ poisoned5.Readable 4
      ∧ poisoned5.SuperTakes .poisonScalar) :=
  ⟨rfl, rfl, ⟨by decide, by decide, by decide⟩, (by decide : poisoned5.freeS 5 = true), by decide,
    ⟨by decide, by decide⟩, .inr (.inl rfl), by decide⟩

theorem witness_ControlTransfers :
    (placed.getS 4).toNat ≠ (placed.getS 5).toNat ∧ placed.getS 4 = placed.getS 4
    ∧ (placed.getS 5 + (3 : BitVec 14).signExtend 64).extractLsb' 0 2 = 0
    ∧ (placed.getS 5 + (3 : BitVec 14).signExtend 64).extractLsb' 57 7 = 0
    ∧ (placed.getS 5 + (0 : BitVec 14).signExtend 64).extractLsb' 0 2 ≠ 0
    ∧ (placed.getS 0 + (0x3FFF : BitVec 14).signExtend 64).extractLsb' 57 7 ≠ 0
    ∧ placed.SuperTakes .fetchAccess ∧ placed.SuperTakes .misalignedFetch ∧ placed.Readable 5 ∧ placed.Writable 1 := by
  refine ⟨by decide, rfl, by decide, by decide, by decide, by decide, placed_takes _, placed_takes _,
    (placed_readable 5).1, (placed_readable 1).2⟩

/-- FTRAPEN enabling NX, with a user handler and without. -/
def nxTrap : State := { placed with lc := { placed.lc with ftrapen := 0x10 } }

theorem witness_ScalarFloat :
    fpType 1 = some .f32 ∧ intType 0 = some .i64 ∧ (Ty.f64).cls = .F
    ∧ (∀ fl : Flags, fl.setWidth 6 &&& placed.lc.ftrapen = 0)
    ∧ (Cause.fpInexact.code = 0x3A + 4 ∧ ((0x10 : Flags).setWidth 6 &&& nxTrap.lc.ftrapen).getLsbD 4 = true
      ∧ (∀ a, a < 4 → ((0x10 : Flags).setWidth 6 &&& nxTrap.lc.ftrapen).getLsbD a = false)
      ∧ (nxTrap.addFlags 0x10).SuperTakes .fpInexact ∧ (placedUser.addFlags 0x10).UserTakes .fpInexact)
    ∧ placed.SuperTakes .badType ∧ 4 ≤ (4 : BitVec 3).toNat ∧ 2 ≤ (2 : BitVec 3).toNat := by
  refine ⟨by decide, by decide, by decide, by decide +kernel, ⟨by decide, by decide, by decide, ⟨.inr (.inl rfl), by decide⟩,
    by decide, by decide, by decide, by decide⟩, placed_takes _, by decide, by decide⟩

theorem witness_ScalarLoads :
    placed.Reaches .load false true (placed.getS 4 + (0 : BitVec 11).signExtend 64) (2 ^ (3 : BitVec 2).toNat) (here 0)
    ∧ placed.Reaches .load false true (placed.getS 4 + (0x7FF : BitVec 11).signExtend 64 + 0x10) 1 (here 15)
    ∧ placed.Readable 4 ∧ placed.Writable 0 ∧ placed.CleanAt (here 0) ∧ placed.CleanAt (here 15) := by
  exact ⟨reaches_of (by decide), reaches_of (by decide), (placed_readable 4).1, (placed_readable 0).2, placed_clean,
    by decide, by decide⟩

/-- A vector store that waits in the V stream, of an LC whose scalar unit runs ahead. -/
def storing : VEntry :=
  { placed.capture (.store 1 .unit false false .f32) false 0x10000 0 0 false with ctl := { VecCtl.reset with vl := 1 } }
def outstanding : State := { ahead with part := { ahead.part with vqueue := [storing] } }

/-- An LC one of whose posted host stores has failed. -/
def hostFailed : State := { placed with lc := { placed.lc with hostErr := some (.storeAccess, 0x20000) } }

/-- A store of the LC that waits, and the machine with it and a move that performs it. -/
def waiting : PStore := ⟨false, 0x10008, 0x1001D, 0x10008, 8, 7, false, false, 0, [], 0⟩
def storeMove : State := { placed with lc := { placed.lc with stores := [waiting] }, agenda := [.store] }

theorem witness_ScalarStores :
    placed.MemOk ∧ placed.Readable 4 ∧ placed.Writable 5
    ∧ (placed.StoreAt (placed.getS 4 + (8 : BitVec 11).signExtend 64) 8 (here 8)
      ∧ placed.storeWaits (here 8) 0x10008 8 false = false ∧ storeMove.storeWaits (here 8) 0x10008 8 false = true
      ∧ storeMove.storeWaits (here 16) 0x10010 8 false = false)
    ∧ (placed.StoreAt (placed.getS 4) 8 (here 0) ∧ placed.lc.hostErr = none
      ∧ placed.storeWaits (here 0) 0x10000 8 true = false ∧ placed.svxDone = true
      ∧ outstanding.storeWaits (here 0) 0x10000 8 true = true ∧ outstanding.svxDone = false)
    ∧ (hostFailed.lc.hostErr = some (.storeAccess, 0x20000)
      ∧ ({ hostFailed with lc := { hostFailed.lc with hostErr := none } }).SuperTakes .storeAccess)
    ∧ (storeMove.agenda = .store :: [] ∧ storeMove.lc.stores = [waiting] ∧ storeMove.dev.combines = []
      ∧ storeMove.storeReady [] waiting = true) := by
  refine ⟨placed_memOk, (placed_readable 4).1, (placed_readable 5).2, ⟨storeAt_of ?_, ?_, ?_, ?_⟩,
    ⟨storeAt_of ?_, ?_, ?_, ?_, ?_, ?_⟩, ⟨?_, .inr (.inl rfl), ?_⟩, ?_, ?_, ?_, ?_⟩ <;> decide +kernel

/-- The placed machine with an uncorrectable granule at the page's start, with a poisoned one, and with a poisoned one on
a page of poison-on-read. -/
def uncorrectable : State := { placed with dev := { placed.dev with memError := [0x10000 / 64] } }
def poisonedHere : State := { placed with dev := { placed.dev with memPoison := [0x10000 / 64] } }
def poisonOnRead : State :=
  let c := placed.core
  { poisonedHere with core := { c with tlb := c.tlb.map (fun e => { e with leaves := [placeLeaf ||| 0x80] }) } }

/-- The page's start, on a page of poison-on-read. -/
def onReadHere : Loc := .phys 0x10000 0x1009D

theorem witness_ScalarAccessTraps :
    (placed.Readable 5 ∧ placed.Readable 4 ∧ placed.Writable 0 ∧ placed.SuperTakes .misalignedLoad
      ∧ (placed.getS 5).toNat % 2 ^ (1 : BitVec 2).toNat ≠ 0)
    ∧ (placed.getS 4 + (0x7FF : BitVec 11).signExtend 64).toNat % 2 ^ (1 : BitVec 2).toNat ≠ 0
    ∧ (placed.locate placed.super .load (placed.getS 0) = .error (.cause .loadPageFault)
      ∧ placed.locate placed.super .store (placed.getS 0) = .error (.cause .storePageFault))
    ∧ (uncorrectable.Reaches .load false true (placed.getS 4) 8 (here 0) ∧ uncorrectable.badAt (here 0) = true
      ∧ (uncorrectable.markBad (here 0)).SuperTakes .uncorrectableLoad)
    ∧ (poisonOnRead.Reaches .load false true (placed.getS 4) 8 onReadHere ∧ poisonOnRead.badAt onReadHere = false
      ∧ poisonOnRead.poisonAt onReadHere = true ∧ onReadHere.por = true)
    ∧ (poisonedHere.Reaches .load false true (placed.getS 4) 8 (here 0) ∧ poisonedHere.badAt (here 0) = false
      ∧ poisonedHere.poisonAt (here 0) = true ∧ (here 0).por = false) := by
  refine ⟨⟨(placed_readable 5).1, (placed_readable 4).1, (placed_readable 0).2, placed_takes _, ?_⟩, ?_, ⟨?_, ?_⟩,
    ⟨reaches_of ?_, ?_, .inr (.inl rfl), ?_⟩, ⟨reaches_of ?_, ?_, ?_, ?_⟩, reaches_of ?_, ?_, ?_, ?_⟩ <;> decide

theorem witness_Atomics :
    placed.MemOk ∧ placed.Readable 4 ∧ placed.Readable 5 ∧ placed.Writable 6 ∧ placed.Readable 6
    ∧ placed.Reaches .amo true true (placed.getS 4) (2 ^ (3 : BitVec 2).toNat) (here 0) ∧ placed.svxDone = true
    ∧ placed.lc.hostErr = none ∧ placed.badAt (here 0) = false ∧ placed.poisonHome (here 0) = false :=
  ⟨placed_memOk, (placed_readable 4).1, (placed_readable 5).1, (placed_readable 6).2, (placed_readable 6).1,
    placed_reaches.2.2, by decide +kernel, by decide, by decide, by decide⟩

/-- The placed machine with a monitor of its LC armed at the page's start, and with one that a write has reached. -/
def armed : State := { placed with dev := { placed.dev with monitors := [⟨placed.lc.key, 0x10000, none⟩] } }
def woken (w : Woken) : State :=
  { placed with dev := { placed.dev with monitors := [⟨placed.lc.key, 0x10000, some w⟩] } }

/-- The page at 0x10000 mapped to the peer member 2, which no link reaches. -/
def peerPage : State :=
  { placed with core := { placed.core with tlb := placed.core.tlb.map (fun e => { e with leaves := [0x4_0200_0001_001D] }) } }

theorem witness_WaitsAndHints :
    (placed.Readable 4 ∧ placed.Readable 0 ∧ placed.Writable 6 ∧ inWindow (placed.getS 4) = false
      ∧ placed.Reaches .load false true (placed.getS 4) 8 (here 0) ∧ (here 0).monitored = some 0x10000
      ∧ placed.CleanAt (here 0) ∧ (here 0).por = false
      ∧ placed.dev.monitors.find? (fun m => m.who == placed.lc.key) = none)
    ∧ (armed.Reaches .load false true (placed.getS 4) 8 (here 0)
      ∧ armed.dev.monitors.find? (fun m => m.who == armed.lc.key) = some ⟨placed.lc.key, 0x10000, none⟩)
    ∧ ((woken ⟨7, false, false⟩).Reaches .load false true (placed.getS 4) 8 (here 0)
      ∧ (woken ⟨7, true, false⟩).Reaches .load false true (placed.getS 4) 8 (here 0)
      ∧ (woken ⟨7, false, true⟩).Reaches .load false true (placed.getS 4) 8 (here 0)
      ∧ (woken ⟨7, false, true⟩).linkBad (here 0) = false
      ∧ (woken ⟨7, false, true⟩).dev.monitors.find? (fun m => m.who == placed.lc.key)
        = some ⟨placed.lc.key, 0x10000, some ⟨7, false, true⟩⟩)
    ∧ (uncorrectable.Reaches .load false true (placed.getS 4) 8 (here 0) ∧ uncorrectable.badAt (here 0) = true)
    ∧ (poisonOnRead.Reaches .load false true (placed.getS 4) 8 onReadHere ∧ poisonOnRead.poisonAt onReadHere = true
      ∧ onReadHere.por = true)
    ∧ placed.locate placed.super .load (placed.getS 4) = .ok (here 0)
    ∧ (∃ c, peerPage.locate peerPage.super .load (placed.getS 4) = .error (.cause c) ∧ peerPage.peerAt (placed.getS 4) = true)
    ∧ (inWindow (placed.getS 0) = false ∧ placed.peerAt (placed.getS 0) = false
      ∧ placed.locate placed.super .load (placed.getS 0) = .error (.cause .loadPageFault)
      ∧ (placed.getS 0).extractLsb' 57 7 = 0
      ∧ placed.dev.walk (placed.space placed.super) .load (placed.getS 0).toNat = .error .loadPageFault
      ∧ placed.dev.walk (placed.space placed.super) .store (placed.getS 0).toNat = .error .storePageFault)
    ∧ (mapped.dev.walk (mapped.space mapped.super) .load 0x0000001000058000).toOption.map (·.entry)
      = some 0x3000003123450015 := by
  refine ⟨⟨(placed_readable 4).1, (placed_readable 0).1, (placed_readable 6).2, ?_, placed_reaches.1, ?_, placed_clean, ?_, ?_⟩,
    ⟨reaches_of ?_, ?_⟩, ⟨reaches_of ?_, reaches_of ?_, reaches_of ?_, ?_, ?_⟩, ⟨reaches_of ?_, ?_⟩, ⟨reaches_of ?_, ?_, ?_⟩,
    ?_, ⟨.remoteStackUnreachable, ?_, ?_⟩, ⟨?_, ?_, ?_, ?_, ?_, ?_⟩, ?_⟩ <;> decide +kernel

theorem witness_CsrAccess :
    (∃ m g f, plainCsr 0x000 = some (m, g, f)) ∧ (∃ m g f, plainCsr 0x118 = some (m, g, f)) ∧ placedSuper.super = true
    ∧ placed.vkQuiet = true ∧ csrRefuses 0x001 9 ∧ ¬csrRefuses 0x001 8 ∧ placed.SuperTakes .badControlState
    ∧ ((placed.csr 0x100).isSome = true ∧ placed.super = false ∧ placed.SuperTakes .privileged)
    ∧ (placed.csr 0x3FF = none ∧ placed.SuperTakes .illegalOpcode) := by
  refine ⟨⟨_, _, _, rfl⟩, ⟨_, _, _, rfl⟩, by decide, by decide, ?_, ?_, placed_takes _, ⟨by decide, by decide, placed_takes _⟩,
    by decide, placed_takes _⟩ <;> unfold csrRefuses <;> decide

theorem witness_SetVl : (Ty.f32).cls ≠ .M ∧ (Ty.mx8).cls = .M ∧ placed.Readable 5 ∧ placed.Writable 0
    ∧ placed.SuperTakes .badType ∧ (3 : BitVec 10) ≠ 0
    ∧ ((withS [(5, 2500)] placed).Readable 5 ∧ (withS [(5, 2500)] placed).Writable 4 ∧ (withS [(5, 2500)] placed).getS 5 = 2500) :=
  ⟨by decide, by decide, (placed_readable 5).1, (placed_readable 0).2, placed_takes _, by decide,
    ⟨by decide, by decide⟩, (by decide : (withS [(5, 2500)] placed).freeS 4 = true), by decide⟩


/-! #### Queues, fences, strips, groups, the end of an LC -/

/-- The placed machine with `n` entries in every queue. -/
def queued (n : Nat) : State := { placed with lc := { placed.lc with q := Vector.replicate 8 (List.replicate n 1) } }

theorem witness_ScalarQueues :
    (0 : QReg).toNat < 4 ∧ (3 : QReg).toNat < 4 ∧ 4 ≤ (4 : QReg).toNat ∧ 4 ≤ (7 : QReg).toNat
    ∧ placed.Readable 5 ∧ placed.Writable 0 ∧ placed.lc.q[3].length < 16
    ∧ (queued 15).lc.q[0].length < 16 ∧ 16 ≤ (queued 16).lc.q[0].length
    ∧ ((queued 16).deadlocked = true ∧ (queued 16).SuperTakes .queueDeadlock)
    ∧ ({ outstanding with lc := (queued 16).lc }).deadlocked = false
    ∧ (queued 1).lc.q[4] = 1 :: [] ∧ placed.lc.q[4] = [] ∧ outstanding.lc.q[4] = [] ∧ outstanding.deadlocked = false
    ∧ placed.SuperTakes .badRegister := by
  refine ⟨by decide, by decide, by decide, by decide, (placed_readable 5).1, (placed_readable 0).2, by decide, by decide,
    by decide, ⟨by decide, .inr (.inl rfl), by decide⟩, by decide, by decide, by decide, by decide, by decide,
    placed_takes _⟩

theorem witness_Fences :
    (placed.svxDone = true ∧ placed.lc.hostErr = none) ∧ outstanding.svxDone = false
    ∧ (hostFailed.svxDone = true ∧ hostFailed.lc.hostErr = some (.storeAccess, 0x20000)
      ∧ ({ hostFailed with lc := { hostFailed.lc with hostErr := none } }).SuperTakes .storeAccess)
    ∧ ((0x03 : BitVec 8).getLsbD 0 = true ∧ placed.sbarDone 0x03 = true ∧ outstanding.sbarDone 0x03 = false)
    ∧ ((0x02 : BitVec 8) ≠ 0 ∧ (0x02 : BitVec 8).getLsbD 0 = false ∧ ahead.runAhead = true
      ∧ ahead.sbarRoom 0x02 = true ∧ ahead.sbarRoom 0xFE = true) := by
  refine ⟨⟨by decide +kernel, by decide⟩, by decide +kernel, ⟨by decide +kernel, by decide, .inr (.inl rfl), by decide⟩,
    ⟨by decide +kernel, by decide +kernel, by decide +kernel⟩, by decide, by decide, by decide, by decide +kernel,
    by decide +kernel⟩

/-- The placed machine with its task changed. -/
def withTask (f : Task → Task) (s : State) : State := { s with dev := { s.dev with tasks := s.dev.tasks.map f } }

/-- The task of the placed machine. -/
def placedTask : Task := placed.dev.tasks.head (by decide)

/-- The task has two strips of 4,096 elements and a ring; the LC holds the first. -/
def ringTask : Task := { placedTask with elements := 5000, ring := true, hasRing := true, nextStrip := 1, posted := [3] }
def ringed : State :=
  { placed with
    lc := { placed.lc with strip := 0, ebase := 0, erem := 5000 }, dev := { placed.dev with tasks := [ringTask] } }

/-- The same LC with the second strip, so that iterations 0 to 4,095 are earlier. -/
def ringSecond : State :=
  { ringed with lc := { ringed.lc with strip := 1, ebase := 4096, erem := 904, s := ringed.lc.s.set 6 3 } }

/-- The same task without a ring, its LC holding no strip. -/
def striped : State := { placed with dev := { placed.dev with tasks := [{ ringTask with ring := false, hasRing := false }] } }

/-- A member of group 0 alone, and of two of whom none, or the other, has arrived. -/
def grouped (members arrived : Nat) : State :=
  { placed with
    lc := { placed.lc with gmask := 1 }
    dev := { placed.dev with tasks := [{ placedTask with groups := placedTask.groups.set 0 ⟨members, arrived, 0⟩ }] } }
def arrivedIn (g : Nat) : State := { grouped 2 1 with lc := { placed.lc with gmask := 1, bars := [(0, g)] } }

theorem witness_StripsAndGroups :
    ((striped.task).isSome = true ∧ striped.lc.nextsAnswer = none ∧ striped.lc.strip = BitVec.allOnes 64
      ∧ striped.runAhead = false)
    ∧ (∃ u, striped.task = some u ∧ u.ring = false ∧ u.nextStrip < u.strips)
    ∧ (∃ u, ringed.task = some u ∧ u.ring = true ∧ ringed.Readable 5 ∧ ringed.lc.ebase.toNat ≤ (ringed.getS 0).toNat
      ∧ (ringed.getS 5).toNat < ringed.lc.ebase.toNat + ringed.heldLen ∧ ringed.svxDone = true ∧ ringed.lc.hostErr = none)
    ∧ ¬(ringed.getS 4).toNat < ringed.lc.ebase.toNat + ringed.heldLen
    ∧ (∃ u, ringSecond.task = some u ∧ (ringSecond.getS 6).toNat < ringSecond.lc.ebase.toNat
      ∧ (ringSecond.getS 6).toNat < u.elements ∧ u.isPosted (ringSecond.getS 6).toNat = true
      ∧ u.isPosted (ringSecond.getS 5).toNat = false)
    ∧ (placed.getS 5).toNat < 16 ∧ 16 ≤ (placed.getS 4).toNat ∧ placed.lc.gmask.getLsbD 9 = false
    ∧ ((grouped 1 0).lc.gmask.getLsbD ((grouped 1 0).getS 0).toNat = true ∧ (grouped 1 0).svxDone = true
      ∧ (grouped 1 0).lc.bars.find? (·.1 == 0) = none)
    ∧ (∃ u, (grouped 1 0).task = some u ∧ u.groups[0].arrived + 1 = u.groups[0].members)
    ∧ (∃ u, (grouped 2 0).task = some u ∧ u.groups[0].arrived + 1 ≠ u.groups[0].members)
    ∧ (∃ u, (arrivedIn 0).task = some u ∧ (arrivedIn 0).lc.bars.find? (·.1 == 0) = some (0, u.groups[0].generation))
    ∧ (∃ u, (arrivedIn 1).task = some u ∧ 1 ≠ u.groups[0].generation)
    ∧ placed.SuperTakes .groupInvalid ∧ placed.SuperTakes .groupNotMember ∧ ringed.SuperTakes .iterationOrder := by
  refine ⟨⟨by decide, by decide, by decide, by decide⟩, ⟨_, rfl, by decide, by decide⟩,
    ⟨_, rfl, by decide, ⟨by decide, by decide⟩, by decide, by decide, by decide +kernel, by decide⟩, by decide,
    ⟨_, rfl, by decide, by decide, by decide, by decide⟩, by decide, by decide, by decide,
    ⟨by decide, by decide +kernel, by decide⟩, ⟨_, rfl, by decide⟩, ⟨_, rfl, by decide⟩, ⟨_, rfl, by decide⟩,
    ⟨_, rfl, by decide⟩, placed_takes _, placed_takes _, .inr (.inl rfl), by decide⟩

/-- A translation that the core holds does not depend on memory. -/
theorem locate_held {s u : State} {k : Acc} {va : Dword} (h1 : u.space true = s.space true)
    (h2 : u.dev.combines = s.dev.combines) (h3 : u.dev.hbm = s.dev.hbm) (h4 : u.dev.member = s.dev.member)
    (h5 : u.dev.reachable = s.dev.reachable) (hw : inWindow va = false)
    (hl : ((s.space true).tlb.findSome? (fun t => t.leaf? (s.space true).asid va.toNat)).isSome = true) :
    u.locate true k va = s.locate true k va := by
  obtain ⟨l, hl⟩ := Option.isSome_iff_exists.mp hl
  have hr : ∀ pa, u.dev.reach k pa = s.dev.reach k pa := fun pa => by
    simp only [Device.reach, Device.stack, h3, h4, h5]
    rfl
  simp only [State.locate, State.locateIn, hw, Bool.false_eq_true, if_false, h1, Device.translate, Device.xlate, Device.leafOf,
    hl, hr, h2]

/-- The area from `va` on lies at consecutive addresses from `pa` on. -/
theorem area_of {s : State} {k : Acc} {va : Dword} {n pa : Nat} {e : Dword} (hn : s.dev.linkError = [])
    (h : ∀ i, i < n → inWindow (va + BitVec.ofNat 64 (64 * i)) = false
      ∧ ((s.space true).tlb.findSome? (fun t => t.leaf? (s.space true).asid (va + BitVec.ofNat 64 (64 * i)).toNat)).isSome
        = true
      ∧ s.locate true k (va + BitVec.ofNat 64 (64 * i)) = .ok (.phys (pa + 64 * i) e)) :
    s.AreaAt k va n (fun i => pa + 64 * i) :=
  ⟨fun i _ => by simp [hn], fun i j h1 h2 => by omega, fun i u hi h1 h2 h3 h4 h5 =>
    ⟨e, (locate_held h1 h2 h3 h4 h5 (h i hi).1 (h i hi).2.1).trans (h i hi).2.2⟩⟩

/-- A state with a 256 MiB block of user memory at 0x1000_0000 in the TLB. -/
def withBlock (s : State) : State :=
  { s with core := { s.core with tlb := s.core.tlb ++ [⟨.block, 0x1000_0000, 0, false, [0x1000_001F], 0⟩] } }

/-- A supervisor with the block, its save area there. -/
def blocked : State :=
  withBlock { placedSuper with lc := { placedSuper.lc with trap := { placedSuper.lc.trap with savebase := 0x1000_0000 } } }

theorem area_scalar : blocked.AreaAt .store 0x1000_0000 256 (fun i => 0x1000_0000 + 64 * i) :=
  area_of (e := 0x1000_001F) rfl (by decide +kernel)
theorem area_context : blocked.AreaAt .store 0x1000_4000 1024 (fun i => 0x1000_4000 + 64 * i) :=
  area_of (e := 0x1000_001F) rfl (by decide +kernel)
theorem area_vector : blocked.AreaAt .store 0x1004_0000 2112 (fun i => 0x1004_0000 + 64 * i) :=
  area_of (e := 0x1000_001F) rfl (by decide +kernel)
theorem area_in : blocked.AreaAt .load 0x1002_0000 256 (fun i => 0x1002_0000 + 64 * i) :=
  area_of (e := 0x1000_001F) rfl (by decide +kernel)
theorem area_in_context : blocked.AreaAt .load 0x1002_4000 1024 (fun i => 0x1002_4000 + 64 * i) :=
  area_of (e := 0x1000_001F) rfl (by decide +kernel)

/-- A task of two LCs with its save area in the block, one of them not started; the same under SCC, and with a save area
that no page holds. -/
def twoTask : Task := { placedTask with lcn := 2, lcsave := 0x1000_0000, started := 1 }
def twoLcs (u : Task) : State := withBlock { placed with dev := { placed.dev with tasks := [u] } }

theorem area_two (u : Task) : (twoLcs u).AreaAt .store 0x1000_0000 256 (fun i => 0x1000_0000 + 64 * i) := by
  have h : (twoLcs twoTask).AreaAt .store 0x1000_0000 256 (fun i => 0x1000_0000 + 64 * i) :=
    area_of (e := 0x1000_001F) rfl (by decide +kernel)
  exact ⟨h.links, h.apart, fun i v hi h1 h2 h3 h4 h5 => h.held i v hi h1 h2 h3 h4 h5⟩
theorem area_two_held (u : Task) : (twoLcs u).AreaAt .store 0x1001_4000 1024 (fun i => 0x1001_4000 + 64 * i) := by
  have h : (twoLcs twoTask).AreaAt .store 0x1001_4000 1024 (fun i => 0x1001_4000 + 64 * i) :=
    area_of (e := 0x1000_001F) rfl (by decide +kernel)
  exact ⟨h.links, h.apart, fun i v hi h1 h2 h3 h4 h5 => h.held i v hi h1 h2 h3 h4 h5⟩

/-- An LC in an open loop, and one of a task with a ring that holds a strip while a vector store is outstanding. -/
def looping : State := { placed with lc := { placed.lc with loops := [⟨4, 0⟩] } }
def ringBusy : State :=
  { outstanding with
    lc := { outstanding.lc with strip := 0, ebase := 0, erem := 5000 }, dev := { outstanding.dev with tasks := [ringTask] } }

/-- An LC whose SPAWN has been answered, and one that may spawn, with a launch packet in the page. -/
def answered : State := { placed with dev := { placed.dev with spawnAnswers := [(placed.lc.key, 5)] } }
def offered : State := { placed with dev := { placed.dev with spawns := [⟨placed.lc.key, 0, 0⟩] } }
def packet : BitVec 2048 := 0x10000 + 2 ^ 128 + (2 ^ 28 + 1) * 2 ^ 192
def packetAt : State := { placed with dev := { placed.dev with mem := Memory.write placed.dev.mem 0x10000 32 packet.toNat } }
def packetAhead : State := { packetAt with runAhead := true }
def packetLate : State := { packetAt with dev := { packetAt.dev with tasks := List.replicate 4096 placedTask } }
def noPacket : State := { placed with dev := { placed.dev with mem := [] } }

/-- The premises of SPAWN on a packet in the page. -/
def spawns (s : State) (p : BitVec 2048) : Prop :=
  s.spawning = false ∧ s.Readable 4 ∧ s.Writable 6 ∧ (s.getS 4).toNat % 64 = 0 ∧ s.svxDone = true ∧ s.lc.hostErr = none
    ∧ (∀ i, i < 4 → s.Reaches .load false true (s.getS 4 + BitVec.ofNat 64 (64 * i)) 64 (here (64 * i))
      ∧ s.CleanAt (here (64 * i)))
    ∧ ∀ k, k < 256 → p.extractLsb' (8 * k) 8 = s.readByte (here (64 * (k / 64))) (k % 64)

theorem spawns_of {s : State} {p : BitVec 2048} (h1 : s.spawning = false) (h2 : s.freeS 4 = true ∧ s.poisonedS 4 = false)
    (h3 : s.freeS 6 = true) (h4 : (s.getS 4).toNat % 64 = 0) (h5 : s.svxDone = true ∧ s.lc.hostErr = none)
    (h6 : ∀ i, i < 4 → (decide ((s.getS 4 + BitVec.ofNat 64 (64 * i)).toNat % 64 = 0)
      && decide (s.locate s.super .load (s.getS 4 + BitVec.ofNat 64 (64 * i)) = .ok (here (64 * i)))
      && !s.watched s.super false true (s.getS 4 + BitVec.ofNat 64 (64 * i)) 64
      && !s.scalarWaits (s.getS 4 + BitVec.ofNat 64 (64 * i)) 64 && !s.bankWaits (here (64 * i))
      && s.lc.stores.all (fun y => !y.meets (here (64 * i)) 64 && !(false && y.release))
      && !(false && s.linkBad (here (64 * i))) && !(s.runAhead && (here (64 * i)).isHost)) = true
      ∧ s.badAt (here (64 * i)) = false ∧ s.poisonAt (here (64 * i)) = false)
    (h7 : ∀ k, k < 256 → p.extractLsb' (8 * k) 8 = s.readByte (here (64 * (k / 64))) (k % 64)) : spawns s p :=
  ⟨h1, h2, h3, h4, h5.1, h5.2, fun i hi => ⟨reaches_of (h6 i hi).1, (h6 i hi).2⟩, h7⟩

theorem witness_LcLifecycle :
    (∃ u, placed.task = some u ∧ placed.lc.loops = [] ∧ placed.lc.breport = none ∧ placed.lc.bankErr = []
      ∧ (∀ h : Fin 4, (placed.lc.chans[h]).err = none) ∧ placed.exitDeadlock = false
      ∧ placed.allDone = true ∧ placed.lc.hostErr = none)
    ∧ (∃ u, outstanding.task = some u ∧ outstanding.allDone = false ∧ outstanding.lc.status ≠ .exited
      ∧ outstanding.heldLen = 0 ∧ u.scc = false ∧ outstanding.exitDeadlock = false ∧ outstanding.lc.loops = []
      ∧ outstanding.lc.breport = none ∧ outstanding.lc.bankErr = [] ∧ ∀ h : Fin 4, (outstanding.lc.chans[h]).err = none)
    ∧ (∃ u, ringBusy.task = some u ∧ u.ring = true ∧ ringBusy.heldLen ≠ 0 ∧ ringBusy.svxDone = false
      ∧ ringBusy.exitDeadlock = false)
    ∧ (looping.lc.loops ≠ [] ∧ looping.SuperTakes .stackLoopNesting)
    ∧ placed.othersRunnable = false
    ∧ (∀ u, u = twoTask ∨ u = { twoTask with scc := true } →
      (twoLcs u).othersRunnable = true ∧ (twoLcs u).MemOk ∧ (twoLcs u).task = some u
      ∧ u.saveArea (twoLcs u).lc.key.lcid = 0x1000_0000
      ∧ (twoLcs u).AreaAt .store 0x1000_0000 256 (fun i => 0x1000_0000 + 64 * i)
      ∧ (twoLcs u).AreaAt .store 0x1001_4000 1024 (fun i => 0x1001_4000 + 64 * i))
    ∧ (∃ u, (twoLcs { twoTask with lcsave := 0x40000 }).task = some u
      ∧ (twoLcs u).locate true .store (u.saveArea (twoLcs u).lc.key.lcid) = .error (.cause .storePageFault)
      ∧ (twoLcs u).othersRunnable = true ∧ (twoLcs u).SuperTakes .saveAreaFault)
    ∧ (∃ r, answered.dev.spawnAnswers.find? (·.1 == answered.lc.key) = some r)
    ∧ (offered.dev.spawnAnswers.find? (·.1 == offered.lc.key) = none ∧ offered.spawning = true)
    ∧ (placed.spawning = false ∧ (placed.getS 5).toNat % 64 ≠ 0 ∧ placed.SuperTakes .spawnInvalid)
    ∧ (outstanding.spawning = false ∧ (outstanding.getS 4).toNat % 64 = 0 ∧ outstanding.svxDone = false)
    ∧ (spawns noPacket 0 ∧ rejectReason 0 false ≠ none)
    ∧ (spawns packetAhead packet ∧ packetAhead.runAhead = true ∧ rejectReason packet false = none)
    ∧ (spawns packetAt packet ∧ packetAt.runAhead = false ∧ packetAt.dev.spawns = []
      ∧ (∀ f ∈ packetAt.dev.funcs, f.busy = []) ∧ (∃ u, packetAt.task = some u ∧ u.fn < 32)
      ∧ packetAt.dev.tasks.length < 4096)
    ∧ (spawns packetLate packet ∧ 4096 ≤ packetLate.dev.tasks.length) := by
  refine ⟨⟨_, rfl, ?_, ?_, ?_, ?_, ?_, ?_, ?_⟩, ⟨_, rfl, ?_, ?_, ?_, ?_, ?_, ?_, ?_, ?_, ?_⟩, ⟨_, rfl, ?_, ?_, ?_, ?_⟩,
    ⟨?_, .inr (.inl rfl), ?_⟩, ?_, ?two, ⟨_, rfl, ?_, ?_, .inr (.inl rfl), ?_⟩, ⟨_, rfl⟩, ⟨?_, ?_⟩, ⟨?_, ?_, placed_takes _⟩,
    ⟨?_, ?_, ?_⟩, ⟨spawns_of ?_ ?_ ?_ ?_ ?_ ?_ ?_, ?_⟩, ⟨spawns_of ?_ ?_ ?_ ?_ ?_ ?_ ?_, rfl, ?_⟩,
    ⟨spawns_of ?_ ?_ ?_ ?_ ?_ ?_ ?_, rfl, rfl, ?_, ⟨_, rfl, ?_⟩, ?_⟩, ⟨spawns_of ?_ ?_ ?_ ?_ ?_ ?_ ?_, ?_⟩⟩
  case two =>
    intro u hu
    exact ⟨by rcases hu with rfl | rfl <;> decide, placed_memOk, by rcases hu with rfl | rfl <;> rfl,
      by rcases hu with rfl | rfl <;> decide, area_two u, area_two_held u⟩
  all_goals decide +kernel

theorem witness_CallAndBreak : placed.core.stvec ≠ 0
    ∧ ∃ u, ({ placed with core := { placed.core with stvec := 0 } }).task = some u ∧ u.ended = none
      ∧ placed.lc.status ≠ .absent := ⟨by decide, _, rfl, by decide, by decide⟩

/-- A supervisor's handler of an uncorrectable load, in which ERET and ERPL return to the user level; SINSN is LD.n64 s4,
[s5], and VLD.f32 v1, [s5] with its entry held aside. -/
def inHandler (w : IWord) : State :=
  { placedSuper with lc := { placedSuper.lc with trap := { placedSuper.lc.trap with scause := 0x30, sinsn := w, sepc := 0x10000 } } }
def vldEntry : VEntry :=
  { (inHandler 0xA011_4020).capture (.load 1 .unit false false .f32) false 0 0 0 false with ctl := { VecCtl.reset with vl := 1 } }
def vldHeld : State :=
  let s := inHandler 0xA011_4020
  { s with lc := { s.lc with vheld := [⟨some vldEntry, []⟩] } }

/-- A user handler, with an entry stalled behind its trap. -/
def handlingUser : State :=
  { placedUser with lc := { placedUser.lc with trap := { placedUser.lc.trap with uh := true }, vstalled := some vldEntry } }

/-- The premises of ERET on what is pending. -/
def eretOpen (s : State) : Prop :=
  s.lc.rebind = none ∧ s.lc.leaving = false ∧ s.lc.vreport = none ∧ s.lc.braised = false
    ∧ (∀ h : Fin 4, (s.lc.chans[h]).raised = false) ∧ ∀ c, s.lc.ctx = some c → c.stalled = none

theorem witness_TrapReturns :
    ((eretOpen placedSuper ∧ eretOpen vldHeld ∧ eretOpen handlingUser ∧ eretOpen placed)
      ∧ (vldHeld.super = true ∧ vldHeld.liveV = [] ∧ vldHeld.established = true ∧ vldHeld.lc.vstalled = none
        ∧ vldHeld.lc.trap.uh = false ∧ ∀ g ∈ vldHeld.lc.vheld.tail, g.stalled = none)
      ∧ (placedSuper.super = true ∧ placedSuper.liveV = [] ∧ placedSuper.established = true ∧ placedSuper.lc.vheld = []))
    ∧ ({ outstanding with lc := placedSuper.lc }).liveV ≠ []
    ∧ (handlingUser.super = false ∧ handlingUser.lc.trap.uh = true)
    ∧ (placed.super = false ∧ placed.lc.trap.uh = false ∧ placed.SuperTakes .badControlState)
    ∧ ((inHandler 0x2841_7000).super = true ∧ 0x30 ≤ (inHandler 0x2841_7000).lc.trap.scause.toNat % 128
      ∧ (inHandler 0x2841_7000).lc.trap.scause.toNat % 128 ≤ 0x37
      ∧ decode (inHandler 0x2841_7000).lc.trap.sinsn = .ok (.ld 4 5 3 false 0)
      ∧ (inHandler 0x2841_7000).Readable 5 ∧ (inHandler 0x2841_7000).Writable 4)
    ∧ (vldHeld.super = true ∧ decode vldHeld.lc.trap.sinsn = .ok (.vld false 1 5 .unit false false .f32)
      ∧ vldHeld.owns = true ∧ vldHeld.liveV = [] ∧ tyMove .f32 = true ∧ vldHeld.lc.vstalled = none
      ∧ (∃ q rest, vldHeld.lc.vheld = ⟨some vldEntry, q⟩ :: rest) ∧ vldEntry.placed = false
      ∧ vldEntry.pc = vldHeld.lc.trap.sepc.setWidth 64) := by
  have o : ∀ s : State, (s.lc.rebind = none ∧ s.lc.leaving = false ∧ s.lc.vreport = none ∧ s.lc.braised = false
      ∧ ∀ h : Fin 4, (s.lc.chans[h]).raised = false) → s.lc.ctx = none → eretOpen s := by
    rintro s ⟨h1, h2, h3, h4, h5⟩ h6
    exact ⟨h1, h2, h3, h4, h5, fun c h => by simp [h6] at h⟩
  refine ⟨⟨⟨o _ ?_ rfl, o _ ?_ rfl, o _ ?_ rfl, o _ ?_ rfl⟩, ⟨?_, ?_, ?_, ?_, ?_, ?_⟩, ?_, ?_, ?_, ?_⟩, ?_, ⟨?_, ?_⟩,
    ⟨?_, ?_, placed_takes _⟩, ⟨?_, ?_, ?_, ?_, ⟨?_, ?_⟩, (by decide : (inHandler 0x2841_7000).freeS 4 = true)⟩,
    ⟨?_, ?_, ?_, ?_, ?_, ?_, ⟨_, _, rfl⟩, ?_, ?_⟩⟩ <;> decide

/-! #### Vector instructions -/

/-- The placed machine with a vector length, its scalar unit following the streams in order or running ahead of them. -/
def vec (n : Nat) : State := { placed with lc := { placed.lc with vec := { placed.lc.vec with vl := BitVec.ofNat 13 n } } }
def vecAhead (n : Nat) : State := { vec n with runAhead := true }

/-- The same with a bound stack context. -/
def bound (n : Nat) : State := { vecAhead n with lc := { (vecAhead n).lc with saff := 1#64 <<< 63 } }

theorem vec_readable (n : Nat) : ∀ r : SReg, (vec n).Readable r ∧ (vec n).Writable r := placed_readable
theorem bound_readable (n : Nat) : ∀ r : SReg, (bound n).Readable r ∧ (bound n).Writable r := placed_readable

theorem vec_alone (n : Nat) : (vec n).Alone := by
  obtain ⟨_, _, _, _, _, _, _, _, _, _, _, _, _, _, _, _, _⟩ := placed_alone
  constructor <;> assumption

theorem ready_of {s : State} {f : VForm} (hp : f.placed = false) (h2 : f.twoD = false) (hok : f.ok = true)
    (ho : s.owns = true) (hv : s.lc.vec.vl.toNat ≤ 32768 / f.bits) (hm : s.lc.vec.vl.toNat ≤ f.maxVl)
    (hk : (f.perK = true ∨ (f.governed = true ∧ s.lc.vec.vmsel ≠ 8)) → s.lc.vec.vl.toNat ≤ 1024)
    (hr : ∀ r, s.Readable r ∧ s.Writable r) (hq : s.part.vqueue.length < 32) : f.Ready s := by
  refine ⟨hok, ho, ?_, ?_, ?_, ?_, hm, fun r _ => (hr r).1, fun r _ => (hr r).2, fun r _ => (hr r).2, ?_, ?_, ?_⟩ <;>
    simp_all

theorem vec_ready {f : VForm} {n : Nat}
    (hc : (f.placed || f.twoD || !f.ok) = false) (hv : decide ((vec n).lc.vec.vl.toNat ≤ 32768 / f.bits) = true)
    (hm : decide ((vec n).lc.vec.vl.toNat ≤ min f.maxVl 1024) = true) : f.Ready (vec n) := by
  simp only [Bool.or_eq_false_iff, Bool.not_eq_false'] at hc
  simp only [decide_eq_true_eq] at hv hm
  exact ready_of hc.1.1 hc.1.2 hc.2 (by show placed.owns = true; decide) hv (by omega) (fun _ => by omega)
    (vec_readable n) (by show placed.part.vqueue.length < 32; decide)

theorem witness_VectorHandOff :
    (∃ f, vform (.vadd false 6 5 7 .f32) = some f ∧ f.Ready (vecAhead 1024) ∧ (vecAhead 1024).runAhead = true)
    ∧ (∃ f, vform (.vadd true 6 5 7 .f32) = some f ∧ f.Ready (bound 256) ∧ (bound 256).runAhead = true)
    ∧ (24 ≤ (24 : VReg).toNat ∧ (23 : VReg).toNat < 24 ∧ (Ty.f32).cls ≠ .I ∧ (Ty.n32).cls = .I)
    ∧ ({ placed with part := { placed.part with ownerKey := none } }).owns = false
    ∧ placed.owns = true ∧ placed.lc.saff.getLsbD 63 = false ∧ (bound 256).lc.saff.getLsbD 63 = true
    ∧ 32768 / (Ty.n32).bits < (vec 1025).lc.vec.vl.toNat ∧ 8192 / (Ty.n32).bits < (bound 257).lc.vec.vl.toNat
    ∧ ∀ c, placed.SuperTakes c := by
  refine ⟨⟨_, rfl, ready_of rfl rfl ?_ ?_ ?_ ?_ ?_ (vec_readable 1024) ?_, rfl⟩,
    ⟨_, rfl, ⟨?_, ?_, ?_, ?_, ?_, ?_, ?_, ?_, ?_, ?_, ?_, ?_, ?_⟩, rfl⟩, ?_, ?_, ?_, ?_, ?_, ?_, ?_, placed_takes⟩
  all_goals first
    | decide
    | (intro r h; exact absurd h (by simp))
    | (intro _ k h; rcases h with h | h
       · exact absurd rfl h.1
       · obtain ⟨b, h, _⟩ := h; cases h)

/-- The governing mask, and the registers an instruction reads, of a state with neither mask nor poison. -/
theorem vec_clean (n : Nat) : ∀ l, (vec n).CleanRegs l := by
  have h : ∀ r : VReg, placed.part.vPoison[r.toNat] = 0 := by decide
  intro l
  exact ⟨fun r _ => h r, fun h => absurd rfl h⟩

theorem active_below {s : State} {i : Nat} (h : s.activeAt i = true) : i < s.lc.vec.vl.toNat := by
  simp only [State.activeAt, Bool.and_eq_true, decide_eq_true_eq] at h
  exact h.1

theorem witness_VectorElements :
    ∃ f l, vform (.vadd false 6 5 7 .f32) = some f ∧ f.placed = false ∧ f.Ready (vec 2) ∧ (vec 2).Alone
      ∧ (vec 2).lanes ((vec 2).operand f) f.op = some l ∧ (vec 2).CleanRegs l.srcs
      ∧ ∀ j, (vec 2).activeAt j = true → (l.val j).2.setWidth 6 &&& (vec 2).lc.ftrapen = 0 := by
  refine ⟨_, _, rfl, rfl, vec_ready (by decide) (by decide) (by decide), vec_alone 2, rfl,
    vec_clean 2 _, fun j h => ?_⟩
  have : (vec 2).lc.ftrapen = 0 := rfl
  rw [this]
  exact BitVec.and_zero

/-- Divisions of zero by zero, with the trap of NV enabled, and a source register whose first granule is poisoned. -/
def dividing : State := { vec 2 with lc := { (vec 2).lc with ftrapen := 1 } }
def poisonedV : State := { vec 2 with part := { placed.part with vPoison := placed.part.vPoison.set 5 1 } }

theorem witness_VectorTraps :
    (∃ f l, vform (.vdiv false 6 5 7 .f32) = some f ∧ f.Ready dividing ∧ dividing.Alone
      ∧ dividing.lanes (dividing.operand f) f.op = some l ∧ dividing.CleanRegs l.srcs
      ∧ (dividing.activeList.foldl (fun u j => u ||| ((l.val j).2.setWidth 6 &&& dividing.lc.ftrapen)) (0 : BitVec 6)).getLsbD 0
        = true)
    ∧ ∃ f l, vform (.vdiv false 6 5 7 .f32) = some f ∧ f.Ready poisonedV ∧ poisonedV.Alone
      ∧ poisonedV.lanes (poisonedV.operand f) f.op = some l
      ∧ l.srcs.find? (fun r => poisonedV.activeList.any (fun j => poisonedV.part.vPoison[r.toNat].getLsbD (l.width * j / 512)))
        = some 5 := by
  obtain ⟨h1, h2, h3, h4, h5, h6, h7, h8, h9, h10, h11, h12, h13, h14, h15, h16, h17⟩ := vec_alone 2
  refine ⟨⟨_, _, rfl, ready_of rfl rfl ?_ ?_ ?_ ?_ ?_ (vec_readable 2) ?_,
      ⟨h1, h2, h3, h4, h5, h6, h7, h8, h9, h10, h11, h12, h13, h14, h15, h16, h17⟩, rfl, vec_clean 2 _, ?_⟩,
    ⟨_, _, rfl, ready_of rfl rfl ?_ ?_ ?_ ?_ ?_ (vec_readable 2) ?_,
      ⟨h1, h2, h3, h4, h5, h6, h7, h8, h9, h10, h11, h12, h13, h14, h15, h16, h17⟩, rfl, ?_⟩⟩ <;> decide +kernel

theorem witness_VectorIntegers : (Ty.i32).cls = .I ∧ (Ty.n8).cls = .I := by decide

theorem vec_masks (n : Nat) : (vec n).lc.vec.vmsel ≠ 8 → (vec n).kpois (vec n).lc.vec.vmsel.toNat = 0 :=
  fun h => absurd rfl h

/-- An unplaced form that is handed off at once and alone, with a length of 2. -/
def ReadyAlone (i : Instr) : Prop := ∃ f, vform i = some f ∧ f.placed = false ∧ f.Ready (vec 2) ∧ (vec 2).Alone

theorem ready_alone {i : Instr} {f : VForm} (h : vform i = some f) (hp : f.placed = false)
    (hc : (f.placed || f.twoD || !f.ok) = false) (hv : decide ((vec 2).lc.vec.vl.toNat ≤ 32768 / f.bits) = true)
    (hm : decide ((vec 2).lc.vec.vl.toNat ≤ min f.maxVl 1024) = true) : ReadyAlone i :=
  ⟨f, h, hp, vec_ready hc hv hm, vec_alone 2⟩

theorem witness_VectorMoves :
    (ReadyAlone (.vbcast false 1 4 .f32) ∧ ReadyAlone (.vslide false 1 2 5 .n32) ∧ ReadyAlone (.vmov false 1 2 .f32)
      ∧ ReadyAlone (.vperm false 1 2 3 .n32) ∧ ReadyAlone (.vsel false 1 2 3 .n32) ∧ ReadyAlone (.vcompress false 1 2 .n32)
      ∧ ReadyAlone (.vqrecv false 1 0 .n32) ∧ ReadyAlone (.vqsend false 1 7 .n32) ∧ ReadyAlone (.vextract false 6 5 .f64)
      ∧ ReadyAlone (.vcmp false 1 2 3 .n32 .lt) ∧ ReadyAlone (.kxor 1 2 3) ∧ ReadyAlone (.kpop 2 5)
      ∧ ReadyAlone (.kfirst 7 6))
    ∧ (∀ g, (vec 2).part.vPoison[3].getLsbD g = false) ∧ (vec 2).lc.q[7].length < 16
    ∧ (queued 1).lc.q[0] = 1 :: [] ∧ (∀ k : Fin 8, (vec 2).part.kPoison[k] = 0) ∧ 0 < (vec 2).lc.vec.vl.toNat
    ∧ ∀ j, (vec 2).activeAt j = true
      → (vpred .lt .n32 (elem (vec 2).part.v[2] 32 j) (elem (vec 2).part.v[3] 32 j)).2.setWidth 6 &&& (vec 2).lc.ftrapen = 0 := by
  refine ⟨⟨?_, ?_, ?_, ?_, ?_, ?_, ?_, ?_, ?_, ?_, ?_, ?_, ?_⟩, fun g => ?_, by decide, by decide, by decide, by decide,
    fun j _ => ?_⟩
  any_goals exact ready_alone rfl rfl (by decide) (by decide) (by decide)
  · have : (vec 2).part.vPoison[3] = 0 := rfl
    rw [this]; exact BitVec.getLsbD_zero
  · have : (vec 2).lc.ftrapen = 0 := rfl
    rw [this]; exact BitVec.and_zero

theorem witness_VectorReductions :
    ReadyAlone (.vredsum false 3 1 0 .f32 false) ∧ ReadyAlone (.vscan false 3 1 2 .f32 true)
    ∧ (vec 2).CleanRegs [1] ∧ (vec 2).lc.ftrapen = 0 ∧ (vec 2).kpois 2 = 0 ∧ (vec 2).lc.vec.vmsel.toNat ≠ 2
    ∧ 0 < (vec 2).lc.vec.vl.toNat := by
  refine ⟨?_, ?_, vec_clean 2 _, by decide, by decide, by decide, by decide⟩
  all_goals exact ready_alone rfl rfl (by decide) (by decide) (by decide)

theorem active_in {s : State} {m : AMode} {i : Nat} (h : s.activeIn m i = true) :
    i < (if m = .tile then s.lc.vec.vl.toNat * s.lc.vec.rowcnt.toNat else s.lc.vec.vl.toNat) := by
  simp only [State.activeIn, Bool.and_eq_true, decide_eq_true_eq] at h
  exact h.1

theorem two_of {i : Nat} (h : i < 2) : i = 0 ∨ i = 1 := by omega

/-- The accesses of a unit-stride form of two 32-bit elements at the page's start. -/
theorem vec_all (k : Acc) (st ld : Bool)
    (h : (vec 2).ElemAt k st ld .n32 ((vec 2).elemAddr .unit .n32 0x10000 0 0) (here 0)
      ∧ (vec 2).ElemAt k st ld .n32 ((vec 2).elemAddr .unit .n32 0x10000 1 0) (here 4)) :
    (vec 2).AllAt k st ld .unit .n32 ((vec 2).getS 4) (fun i _ => here (4 * i)) := by
  intro i j ha hj
  have hi : i < 2 := active_in ha
  have hj : j = 0 := by simp [modeFields] at hj; exact hj
  subst hj
  rcases two_of hi with rfl | rfl
  · exact h.1
  · exact h.2

theorem witness_VectorLoads :
    ReadyAlone (.vld false 3 4 .unit false false .n32) ∧ (vec 2).CleanRegs [] ∧ (∀ x, AMode.unit ≠ .stream x)
    ∧ (vec 2).AllAt .load false true .unit .n32 ((vec 2).getS 4) (fun i _ => here (4 * i))
    ∧ (∀ i j, (vec 2).activeIn .unit i = true → j < modeFields .unit → (vec 2).CleanAt (here (4 * i))) := by
  refine ⟨ready_alone rfl rfl (by decide) (by decide) (by decide), vec_clean 2 _, (by intro x h; cases h), vec_all _ _ _ ?_, ?_⟩
  · refine ⟨⟨?_, ?_, ?_, ?_⟩, ⟨?_, ?_, ?_, ?_⟩⟩ <;> decide
  · intro i j ha _
    rcases two_of (active_in ha) with rfl | rfl <;> exact ⟨by decide, by decide⟩

/-- A task under containment. -/
def contained : State := { vec 2 with dev := { placed.dev with tasks := [{ placedTask with scc := true }] } }

theorem witness_VectorStores :
    ReadyAlone (.vst false 3 4 .unit false false .n32) ∧ (vec 2).MemOk
    ∧ (vec 2).AllAt .store true false .unit .n32 ((vec 2).getS 4) (fun i _ => here (4 * i))
    ∧ [1].length ≤ 64
    ∧ (∀ i j, (vec 2).activeIn .unit i = true → j < modeFields .unit →
      ((vec 2).elemAddr .unit .n32 ((vec 2).getS 4) i j).toNat / 65536 ∈ [1])
    ∧ (vec 2).sccOf (vec 2).lc = false ∧ contained.sccOf contained.lc = true
    ∧ contained.lc.contain.length + contained.lc.vec.vl.toNat * modeFields .unit ≤ contained.cap
    ∧ (here 0).place.1 = true := by
  refine ⟨ready_alone rfl rfl (by decide) (by decide) (by decide), placed_memOk, vec_all _ _ _ ?_, by decide, ?_, by decide,
    by decide, by decide, rfl⟩
  · refine ⟨⟨?_, ?_, ?_, ?_⟩, ⟨?_, ?_, ?_, ?_⟩⟩ <;> decide
  · intro i j ha hj
    have hj : j = 0 := by simp [modeFields] at hj; exact hj
    subst hj
    rcases two_of (active_in ha) with rfl | rfl <;> decide

theorem witness_VectorAtomics :
    ReadyAlone (.vamo false 3 4 .add false false .n32 2) ∧ ReadyAlone (.vamon false 3 4 .add false false .n32 2)
    ∧ (vec 2).MemOk ∧ (vec 2).CleanRegs [2, 3]
    ∧ (vec 2).AllAt .amo true true (.indexed 2) .n32 ((vec 2).getS 4) (fun _ _ => here 0)
    ∧ (∀ i, (vec 2).activeAt i = true → ((vec 2).elemAddr (.indexed 2) .n32 ((vec 2).getS 4) i 0).toNat / 65536 ∈ [1])
    ∧ ((vec 2).badAt (here 0) = false ∧ (vec 2).poisonHome (here 0) = false) ∧ (here 0).place = (here 0).place := by
  refine ⟨ready_alone rfl rfl (by decide) (by decide) (by decide), ready_alone rfl rfl (by decide) (by decide) (by decide),
    placed_memOk, vec_clean 2 _, ?_, ?_, ⟨by decide, by decide⟩, rfl⟩
  · intro i j ha hj
    have hj : j = 0 := by simp [modeFields] at hj; exact hj
    subst hj
    rcases two_of (active_in ha) with rfl | rfl <;> refine ⟨?_, ?_, ?_, ?_⟩ <;> decide +kernel
  · intro i ha
    rcases two_of (active_below ha) with rfl | rfl <;> decide +kernel

/-- Two elements of which the second lies past the page. -/
def atEdge : State := { vec 2 with lc := { (vec 2).lc with s := (vec 2).lc.s.set 6 0x1FFFC } }

theorem witness_VectorAccessFaults :
    (∃ f, vform (.vld false 3 6 .unit false false .n32) = some f ∧ f.Ready atEdge) ∧ atEdge.Alone
    ∧ (∃ f, vform (.vst false 3 6 .unit false false .n32) = some f ∧ f.Ready atEdge) ∧ atEdge.sccOf atEdge.lc = false
    ∧ (∀ i, i < 2 → ((0x1FFFC : Dword) + BitVec.ofNat 64 (4 * i)).toNat % 4 = 0
      ∧ atEdge.watched atEdge.super false true (atEdge.elemAddr .unit .n32 (atEdge.getS 6) i 0) 4 = false
      ∧ atEdge.watched atEdge.super true false (atEdge.elemAddr .unit .n32 (atEdge.getS 6) i 0) 4 = false)
    ∧ (atEdge.activeAt 0 = true ∧ atEdge.activeAt 1 = true
      ∧ atEdge.locate atEdge.super .load (atEdge.elemAddr .unit .n32 (atEdge.getS 6) 0 0) = .ok (here 0xFFFC)
      ∧ atEdge.CleanAt (here 0xFFFC)
      ∧ atEdge.locate atEdge.super .load (atEdge.elemAddr .unit .n32 (atEdge.getS 6) 1 0) = .error (.cause .loadPageFault)
      ∧ (∃ l, atEdge.locate atEdge.super .store (atEdge.elemAddr .unit .n32 (atEdge.getS 6) 0 0) = .ok l)
      ∧ atEdge.locate atEdge.super .store (atEdge.elemAddr .unit .n32 (atEdge.getS 6) 1 0)
        = .error (.cause .storePageFault)) := by
  have hr : ∀ r, atEdge.Readable r ∧ atEdge.Writable r := placed_readable
  obtain ⟨h1, h2, h3, h4, h5, h6, h7, h8, h9, h10, h11, h12, h13, h14, h15, h16, h17⟩ := vec_alone 2
  refine ⟨⟨_, rfl, ready_of rfl rfl ?_ ?_ ?_ ?_ ?_ hr ?_⟩,
    ⟨h1, h2, h3, h4, h5, h6, h7, h8, h9, h10, h11, h12, h13, h14, h15, h16, h17⟩,
    ⟨_, rfl, ready_of rfl rfl ?_ ?_ ?_ ?_ ?_ hr ?_⟩, ?_, ?_, ?_, ?_, ?_, ⟨?_, ?_⟩, ?_, ⟨here 0xFFFC, ?_⟩, ?_⟩
  all_goals decide

/-! #### Tiles -/

/-- A partition with tiles of a type, 8 × 8 × 32, in one segment, and with accumulator 0. -/
def tiled (y : Ty) (n : Nat) : State :=
  let s := vec n
  let c := grantCfg y 8 8 32
  { s with part := { s.part with tstate := 1, accalloc := 1, grant := ⟨c, [48]⟩ }, lc := { s.lc with tcfg := c } }

theorem tiled_readable (y : Ty) (n : Nat) : ∀ r : SReg, (tiled y n).Readable r ∧ (tiled y n).Writable r := placed_readable

theorem tiled_alone (y : Ty) (n : Nat) : (tiled y n).Alone := by
  obtain ⟨_, _, _, _, _, _, _, _, _, _, _, _, _, _, _, _, _⟩ := vec_alone n
  constructor <;> assumption

theorem tiled_ok : (tiled .bf16 4).TilesOk ∧ (tiled .bf16 4).TilesClean := by
  refine ⟨⟨?_, ?_, ?_, ?_⟩, ?_, ?_⟩ <;> decide +kernel

theorem tiled_clean (y : Ty) (n : Nat) : ∀ l, (tiled y n).CleanRegs l := vec_clean n

theorem witness_TileState :
    ((vec 2).Alone ∧ (vec 2).lc.vec.vl.toNat ≤ 128 ∧ (vec 2).part.tstate.getLsbD 0 = false
      ∧ (vec 2).SuperTakes .tileStateDisabled)
    ∧ ((tiled .bf16 4).Alone ∧ (tiled .bf16 4).part.tstate.getLsbD 0 = true)
    ∧ mmaPair .bf16 .bf16 = true ∧ (32 : SReg).toNat ≥ 32 ∧ (31 : SReg).toNat < 32
    ∧ (tiled .bf16 4).part.accalloc.getLsbD 1 = false ∧ (tiled .bf16 4).part.accalloc.getLsbD 0 = true
    ∧ (∃ n, shapeError ((tiled .bf16 4).tcfgOf 0) ((tiled .bf16 4).tcfgOf 1) TCfg.zero TCfg.zero 0 1 .bf16 .bf16 false
      = some n)
    ∧ (128 ≤ ((tiled .bf16 4).getS 4).toNat ∧ (tiled .bf16 4).Readable 4)
    ∧ (tiled .bf16 4).SuperTakes .accumulatorUnallocated ∧ (tiled .bf16 4).SuperTakes .tileShapeMismatch :=
  ⟨⟨vec_alone 2, by decide, by decide, placed_takes _⟩, ⟨tiled_alone _ _, by decide⟩, by decide, by decide, by decide, by decide,
    by decide, ⟨1, by decide⟩, ⟨by decide, (tiled_readable _ _ 4).1⟩, placed_takes _, placed_takes _⟩

/-- A request for 8 × 8 × 32 in BF16, and one of a type that TSHAPE does not accept. -/
def shaping (w : Nat) : State := { tiled .bf16 4 with lc := { (tiled .bf16 4).lc with s := (vec 4).lc.s.set 7 (BitVec.ofNat 64 w) } }

theorem witness_TileShape :
    (shaping 0x1004_0403).Alone ∧ (shaping 0x1004_0403).part.tstate.getLsbD 0 = true ∧ (shaping 0x1004_0403).Readable 7
    ∧ (shaping 0x1004_0403).Writable 4
    ∧ shapeType (TCfg.mk (BitVec.ofNat 4 (((shaping 0x1004_0403).getS 7).toNat % 16)) 0 0).type = true
    ∧ shapeType (TCfg.mk (BitVec.ofNat 4 (((shaping 0x1004_0400).getS 7).toNat % 16)) 0 0).type = false
    ∧ footprint .bf16 128 128 128 ≤ 131072 := by
  have h : (shaping 0x1004_0403).Alone := by
    obtain ⟨_, _, _, _, _, _, _, _, _, _, _, _, _, _, _, _, _⟩ := tiled_alone .bf16 4
    constructor <;> assumption
  exact ⟨h, by decide, ⟨by decide, by decide⟩, (by decide : (shaping 0x1004_0403).freeS 4 = true), by decide, by decide,
    by decide⟩

theorem witness_TileSlices :
    (tiled .bf16 4).Alone ∧ (tiled .bf16 4).part.tstate.getLsbD 0 = true ∧ (tiled .bf16 4).TilesOk
    ∧ (tiled .bf16 4).TilesClean ∧ (tiled .bf16 4).Readable 0
    ∧ ((tiled .bf16 4).getS 0).toNat < ((tiled .bf16 4).tcfgOf 0).rows.toNat
    ∧ ((tiled .bf16 4).getS 5).toNat < ((tiled .bf16 4).tcfgOf 0).cols.toNat
    ∧ ((tiled .bf16 4).tcfgOf 0).rows.toNat ≤ ((tiled .bf16 4).getS 5).toNat
    ∧ (tiled .bf16 4).SuperTakes .tileShapeMismatch :=
  ⟨tiled_alone _ _, by decide, tiled_ok.1, tiled_ok.2, (tiled_readable _ _ 0).1, by decide, by decide, by decide,
    placed_takes _⟩

/-- One row of four elements of tile 0. -/
def tileRow : State :=
  let s := tiled .bf16 4
  { s with lc := { s.lc with vec := { s.lc.vec with rowcnt := 1, rowpitch := 64 } } }

theorem witness_TileMemory :
    (tileRow.Alone ∧ tileRow.MemOk ∧ tileType .bf16 = true ∧ tileRow.part.tstate.getLsbD 0 = true
      ∧ tileRow.TilesOk ∧ tileRow.TilesClean ∧ tileRow.Readable 4)
    ∧ (tileRow.tcfgOf 0).ty.toNat = (Ty.bf16).ctorIdx ∧ tileRow.lc.vec.rowcnt.toNat ≤ (tileRow.tcfgOf 0).rows.toNat
    ∧ tileRow.lc.vec.vl.toNat ≤ (tileRow.tcfgOf 0).cols.toNat ∧ tileRow.lc.vec.vl.toNat % packUnit .bf16 = 0
    ∧ tileRow.lc.vec.vl.toNat ≤ 32768 / (Ty.bf16).regBits ∧ tileUnits .bf16 tileRow.lc.vec.vl.toNat = (2, 4)
    ∧ (∀ i, i < 4 → ((0x10000 : Dword) + BitVec.ofNat 64 (i * 2)).toNat % 2 = 0
      ∧ tileRow.locate tileRow.super .load (0x10000 + BitVec.ofNat 64 (i * 2)) = .ok (here (2 * i))
      ∧ tileRow.locate tileRow.super .store (0x10000 + BitVec.ofNat 64 (i * 2)) = .ok (here (2 * i))
      ∧ tileRow.watched tileRow.super false true (0x10000 + BitVec.ofNat 64 (i * 2)) 2 = false
      ∧ tileRow.watched tileRow.super true false (0x10000 + BitVec.ofNat 64 (i * 2)) 2 = false
      ∧ (tileRow.badAt (here (2 * i)) = false ∧ tileRow.poisonAt (here (2 * i)) = false)
      ∧ ((0x10000 : Dword) + BitVec.ofNat 64 (i * 2)).toNat / 65536 ∈ [1])
    ∧ tileRow.sccOf tileRow.lc = false := by
  have h : tileRow.Alone := by
    obtain ⟨_, _, _, _, _, _, _, _, _, _, _, _, _, _, _, _, _⟩ := tiled_alone .bf16 4
    constructor <;> assumption
  obtain ⟨⟨a, b, c, d⟩, e⟩ := tiled_ok
  exact ⟨⟨h, placed_memOk, by decide, by decide, ⟨a, b, c, d⟩, e, (tiled_readable .bf16 4 4).1⟩, by decide, by decide, by decide,
    by decide, by decide, by decide, by decide, by decide⟩

theorem witness_MatrixProducts :
    ((tiled .bf16 4).Alone ∧ (tiled .bf16 4).part.tstate.getLsbD 0 = true ∧ (tiled .bf16 4).part.accalloc.getLsbD 0 = true
      ∧ (tiled .bf16 4).TilesClean ∧ (tiled .bf16 4).accErr 0 = 0 ∧ (tiled .bf16 4).accPois 0 = 0
      ∧ ((tiled .bf16 4).tcfgOf 0).rows.toNat ≤ 128 ∧ mmaPair .bf16 .bf16 = true
      ∧ shapeError ((tiled .bf16 4).tcfgOf 0) ((tiled .bf16 4).tcfgOf 2) TCfg.zero TCfg.zero 0 2 .bf16 .bf16 false = none)
    ∧ ((tiled .mx8 4).TilesClean ∧ (0 : TReg).getLsbD 0 = false ∧ (2 : TReg).getLsbD 0 = false ∧ (Ty.mx8).cls = .M
      ∧ shapeError ((tiled .mx8 4).tcfgOf 0) ((tiled .mx8 4).tcfgOf 2) ((tiled .mx8 4).tcfgOf 1) ((tiled .mx8 4).tcfgOf 3) 0 2
        .mx8 .mx8 true = none) :=
  ⟨⟨tiled_alone _ _, by decide +kernel, by decide +kernel, tiled_ok.2, by decide +kernel, by decide +kernel, by decide +kernel, by decide +kernel, by decide +kernel⟩,
    ⟨by decide +kernel, by decide +kernel⟩, by decide +kernel, by decide +kernel, by decide +kernel, by decide +kernel⟩

theorem witness_MatrixSaturation :
    (∃ n m e, FVal.add 0 (Fmt.f32.val 0x7F7F_FFFF) (exactSum [.fin false 1 127]) = .fin n m e
      ∧ (Fmt.f32.roundVal 0 (.fin n m e)).2 &&& flOF ≠ 0)
    ∧ FVal.add 0 (Fmt.f32.val 0) (exactSum [.inf true]) = .inf true
    ∧ ∃ q, FVal.add 0 (Fmt.f32.val 0) (exactSum [.nan false]) = .nan q := by
  refine ⟨⟨_, _, _, rfl, by decide +kernel⟩, by decide +kernel, ⟨_, rfl⟩⟩

theorem witness_Accumulators :
    (tiled .bf16 128).Alone ∧ (tiled .bf16 128).lc.vec.vl.toNat ≤ 128 ∧ (tiled .bf16 128).part.tstate.getLsbD 0 = true
    ∧ (tiled .bf16 128).part.accalloc.getLsbD 0 = true ∧ (tiled .bf16 128).CleanRegs [] ∧ (tiled .bf16 128).accErr 0 = 0
    ∧ (31 : SReg).toNat < 32 ∧ (tiled .bf16 128).Readable 5 ∧ ((tiled .bf16 128).getS 5).toNat < 128 :=
  ⟨tiled_alone _ _, by decide +kernel, by decide +kernel, by decide +kernel, tiled_clean _ _ _, by decide +kernel, by decide +kernel, (tiled_readable _ _ 5).1, by decide +kernel⟩

/-! #### Generation and journal -/

/-- A vocabulary of 100 tokens, one sequence of two drafts, half of the ranks unmasked, and the sampler's state at its
start in s8 to s11. -/
def drafting : State :=
  let s := vec 2
  { s with lc := { s.lc with
      vec := { s.lc.vec with seqn := 1, draftn := 2 }, gen := { s.lc.gen with vocabn := 100, umcfg := 0x8000 }
      s := ((s.lc.s.set 8 0xFF80_0000).set 10 0xFF80_0000).set 11 0xFFFF_FFFF } }

theorem drafting_alone : drafting.Alone := by
  obtain ⟨_, _, _, _, _, _, _, _, _, _, _, _, _, _, _, _, _⟩ := vec_alone 2
  constructor <;> assumption
theorem drafting_readable : ∀ r : SReg, drafting.Readable r ∧ drafting.Writable r := placed_readable
theorem drafting_clean : ∀ l, drafting.CleanRegs l := vec_clean 2

theorem witness_GenerationDraws :
    drafting.Alone ∧ drafting.Readable 5 ∧ drafting.CleanRegs [30, 31] ∧ (∀ n : Fin 8, drafting.part.kPoison[n] = 0)
    ∧ 0 < drafting.lc.vec.vl.toNat ∧ drafting.lc.vec.vl.toNat ≤ 512 ∧ (30 : VReg).toNat ≤ 30
    ∧ 0 < drafting.lc.vec.seqn.toNat * drafting.lc.vec.draftn.toNat
    ∧ drafting.lc.vec.seqn.toNat * drafting.lc.vec.draftn.toNat ≤ 512
    ∧ drafting.lc.gen.umcfg.toNat % 2 ^ 16 ≠ 0 ∧ (vec 2).lc.gen.umcfg.toNat % 2 ^ 16 = 0
    ∧ (vec 2).SuperTakes .unmaskConfigInvalid :=
  ⟨drafting_alone, (drafting_readable 5).1, drafting_clean _, by decide, by decide, by decide, by decide, by decide, by decide,
    by decide, by decide, placed_takes _⟩

/-- The sampler's state in four registers of a state. -/
def samplerOf (s : State) (b : SReg) : Sampler :=
  let w (r : SReg) : Nat := (s.getS r).toNat % 2 ^ 32
  ⟨w b, w (b + 1), w (b + 2), (s.getS (b + 3)).toNat / 2 ^ 32, w (b + 3)⟩

theorem witness_SamplerStep :
    drafting.Alone ∧ (∀ r ∈ samplerRegs 8, drafting.Readable r) ∧ (∀ r ∈ samplerRegs 60, drafting.Readable r)
    ∧ (samplerOf drafting 8).invalid = none ∧ (samplerOf drafting 60).invalid = some 1 ∧ drafting.CleanRegs [1, 2] :=
  ⟨drafting_alone, fun r _ => (drafting_readable r).1, fun r _ => (drafting_readable r).1, by decide +kernel, by decide +kernel,
    drafting_clean _⟩

/-- A journal of one pending entry of node 0, token 0 and increment 5 below JBASE, and a table in the page. -/
def journalled : State :=
  let s := vec 2
  { s with
    lc := { s.lc with gen := { s.lc.gen with jbase := 0x10020, jlimit := 0x10100 }, s := (s.lc.s.set 6 0x10200).set 7 1 }
    dev := { s.dev with mem := Memory.write s.dev.mem 0x10010 16 (5 * 2 ^ 64 + 2 ^ 96) } }

theorem journalled_alone : journalled.Alone := by
  obtain ⟨_, _, _, _, _, _, _, _, _, _, _, _, _, _, _, _, _⟩ := vec_alone 2
  constructor <;> assumption
theorem journalled_readable : ∀ r : SReg, journalled.Readable r ∧ journalled.Writable r := placed_readable

theorem journalled_memOk : journalled.MemOk := by refine ⟨?_, ?_, ?_, ?_⟩ <;> decide +kernel

theorem witness_Journal :
    (journalled.Alone ∧ journalled.MemOk ∧ journalled.Readable 5
      ∧ journalled.lc.gen.jbase.toNat + 16 ≤ journalled.lc.gen.jlimit.toNat
      ∧ journalled.GenAt .store false 16 (journalled.lc.gen.jbase.setWidth 64) (here 0x20))
    ∧ ((vec 2).lc.gen.jlimit.toNat < (vec 2).lc.gen.jbase.toNat + 16 ∧ (vec 2).SuperTakes .journalOverflow)
    ∧ (journalled.lc.contain = [] ∧ journalled.Readable 7 ∧ journalled.Readable 6 ∧ (journalled.getS 6).toNat % 4 = 0
      ∧ (∀ i, i ≤ 1 → journalled.GenAt .load false 16 (journalled.lc.gen.jbase.setWidth 64 - BitVec.ofNat 64 (16 * (i + 1)))
        (here (16 - 16 * i)))
      ∧ journalled.readLoc (here 16) 16 / 2 ^ 96 = 1 ∧ journalled.readLoc (here 0) 16 / 2 ^ 96 = 0
      ∧ (journalled.getS 7).getLsbD (journalled.readLoc (here 16) 16 % 64) = true
      ∧ journalled.GenAt .store false 4 (journalled.lc.gen.jbase.setWidth 64 - 16 + 12) (here 28)
      ∧ journalled.GenAt .store true 4 (journalled.getS 6 + 0) (here 0x200)
      ∧ (here 28).apart (here 0x200) 4)
    ∧ (journalled.getS 5).toNat % 4 ≠ 0 := by
  refine ⟨⟨journalled_alone, journalled_memOk, (journalled_readable 5).1, by decide, ⟨?_, ?_, fun h => absurd h (by decide), ?_⟩⟩,
    ⟨by decide, placed_takes _⟩, ⟨by decide, (journalled_readable 7).1, (journalled_readable 6).1, by decide, ?_, by decide +kernel,
      by decide +kernel, by decide +kernel, ⟨?_, ?_, fun h => absurd h (by decide), ?_⟩, ⟨?_, ?_, fun _ => ⟨?_, ?_⟩, ?_⟩,
      .inr (.inl ?_)⟩, by decide⟩
  all_goals first
    | decide +kernel
    | (intro i hi
       have h : i = 0 ∨ i = 1 := by omega
       rcases h with rfl | rfl <;> exact ⟨by decide +kernel, by decide +kernel, fun _ => ⟨by decide +kernel, by decide +kernel⟩, by decide +kernel⟩)

/-- An unmasking header at 0x10040 of one sequence of 512 positions, its tokens at 0x11000, its dirty map behind it; no
window, levels from 15 up; k2 selects element 0. -/
def unmasking : State :=
  let s := vec 2
  { s with
    lc := { s.lc with gen := { s.lc.gen with umdirty := 0x10040, umcfg := 0x0F00_0001 } }
    part := { s.part with k := s.part.k.set 2 1 }
    dev := { s.dev with mem := Memory.write s.dev.mem 0x10040 16 (0x11000 + 512 * 2 ^ 64 + 2 ^ 96) } }

def unmaskHeader : UmHeader := ⟨0x11000, 512, 1⟩

theorem unmasking_alone : unmasking.Alone := by
  obtain ⟨_, _, _, _, _, _, _, _, _, _, _, _, _, _, _, _, _⟩ := vec_alone 2
  constructor <;> assumption
theorem unmasking_readable : ∀ r : SReg, unmasking.Readable r ∧ unmasking.Writable r := placed_readable

theorem unmasking_memOk : unmasking.MemOk := by refine ⟨?_, ?_, ?_, ?_⟩ <;> decide +kernel

theorem unmasking_header : unmasking.HeaderAt (here 0x40) unmaskHeader := by
  refine ⟨⟨?_, ?_, fun _ => ⟨?_, ?_⟩, ?_⟩, ?_, ?_, ?_, ?_⟩ <;> decide +kernel

theorem unmasking_marks {j : Nat} (h : ∃ i y l, (decide (i < 2) && (unmasking.kreg 2).getLsbD i) = true ∧ y < 512
    ∧ 0 + i ≤ y + 0 ∧ y ≤ 0 + i + 0 ∧ 15 ≤ l ∧ l < 16 ∧ j = dirtyBit unmaskHeader 0 l y) : j = 7680 := by
  obtain ⟨i, y, l, h1, _, h3, h4, h5, h6, rfl⟩ := h
  simp only [Bool.and_eq_true, decide_eq_true_eq] at h1
  obtain rfl : l = 15 := by omega
  obtain rfl : y = i := by omega
  rcases two_of h1.1 with rfl | rfl
  · rfl
  · exact absurd h1.2 (by decide +kernel)

theorem witness_Unmasking :
    (unmasking.Alone ∧ unmasking.MemOk ∧ unmasking.lc.contain = [] ∧ (2 : VReg).toNat < 8 ∧ unmasking.Readable 0
      ∧ unmasking.HeaderAt (here 0x40) unmaskHeader ∧ (∀ n : Fin 8, unmasking.part.kPoison[n] = 0))
    ∧ (unmasking.Readable 5 ∧ (unmasking.getS 5).toNat < 2 ^ 28 ∧ (unmasking.getS 5).toNat % 2 ^ 16 ≠ 0)
    ∧ ((unmasking.getS 0).toNat % 2 ^ 16 = 0 ∧ unmasking.SuperTakes .unmaskConfigInvalid)
    ∧ (0 < unmaskHeader.seqs ∧ 0 + unmasking.lc.vec.vl.toNat ≤ unmaskHeader.posn
      ∧ unmasking.GenAt .store true 8 (dirtyWord unmasking.lc.gen.umdirty 0) (here 0x80)
      ∧ unmasking.GenAt .store true 8 (dirtyWord unmasking.lc.gen.umdirty 1) (here 0x80))
    ∧ (unmasking.lc.gen.umcfg.toNat / 2 ^ 16 % 256 = 0 ∧ unmasking.lc.gen.umcfg.toNat / 2 ^ 24 % 16 = 15
      ∧ (unmasking.kreg 2).getLsbD 0 = true
      ∧ unmasking.GenAt .store false 4 (unmaskHeader.tokens + BitVec.ofNat 64 (4 * (0 * 512 + 0 + 0))) (here 0x1000)
      ∧ unmasking.GenAt .store true 8 (dirtyWord unmasking.lc.gen.umdirty 7680) (here 0x440)
      ∧ (here 0x1000).apart (here 0x440) 8 ∧ (here 0x440).apart (here 0x1000) 8) := by
  refine ⟨⟨unmasking_alone, unmasking_memOk, by decide, by decide, (unmasking_readable 0).1, unmasking_header, by decide⟩,
    ⟨(unmasking_readable 5).1, by decide, by decide⟩, ⟨by decide, placed_takes _⟩,
    ⟨by decide, by decide, ⟨?_, ?_, fun _ => ⟨?_, ?_⟩, ?_⟩, ⟨?_, ?_, fun _ => ⟨?_, ?_⟩, ?_⟩⟩,
    ⟨by decide, by decide, by decide +kernel, ⟨?_, ?_, fun h => absurd h (by decide), ?_⟩, ⟨?_, ?_, fun _ => ⟨?_, ?_⟩, ?_⟩, .inr (.inr ?_), .inr (.inl ?_)⟩⟩
  all_goals decide +kernel

/-! #### Stack contexts, copy channels, row lines and banks -/

/-- The page's entry in the TLB naming another frame. -/
def framed (leaf : Dword) (s : State) : State :=
  { s with core := { s.core with tlb := s.core.tlb.map (fun e => { e with leaves := [leaf] }) } }

/-- The placed machine with its home stack degraded, and with a granted bind. -/
def degradedStack : State := { placed with dev := { placed.dev with hbm := [{ Stack.reset 0 with degraded := true }] } }
def grantedBind : State := { ahead with dev := { ahead.dev with binds := [⟨ahead.lc.key, 0, 1, some 0⟩] } }

theorem witness_StackBinding :
    (placed.lc.loops = [] ∧ placed.Readable 4 ∧ placed.Writable 6 ∧ placed.rawLoad (placed.getS 4) = .ok (0x10000, placeLeaf)
      ∧ paKind 0x10000 = .hbm ∧ homeStack 0x10000 = 0 ∧ chanPair 0x10000 = 1 ∧ (placed.dev.stack 0).degraded = false
      ∧ placed.dev.binds = [] ∧ placed.lc.ctx = none ∧ placed.dev.ctxUses = [] ∧ placed.runAhead = false
      ∧ ahead.runAhead = true)
    ∧ (grantedBind.rawLoad (grantedBind.getS 4) = .ok (0x10000, placeLeaf) ∧ grantedBind.dev.member.toNat < 1024
      ∧ grantedBind.dev.binds.find? (fun b => b.who == grantedBind.lc.key && b.stack == 0 && b.svu == 1)
        = some ⟨ahead.lc.key, 0, 1, some 0⟩)
    ∧ (degradedStack.rawLoad (placed.getS 4) = .ok (0x10000, placeLeaf) ∧ (degradedStack.dev.stack 0).degraded = true
      ∧ degradedStack.SuperTakes .remoteStackUnreachable)
    ∧ ((framed 0x00C0_0000_001D placed).rawLoad (placed.getS 4) = .ok (0xC0_0000_0000, 0x00C0_0000_001D)
      ∧ paKind 0xC0_0000_0000 = .unassigned ∧ (framed 0x00C0_0000_001D placed).SuperTakes .loadAccess) := by
  refine ⟨⟨by decide, (placed_readable 4).1, (placed_readable 6).2, ?_, ?_, ?_, ?_, ?_, ?_, ?_, ?_, ?_, ?_⟩, ⟨?_, ?_, ?_⟩,
    ⟨?_, ?_, .inr (.inl rfl), ?_⟩, ⟨?_, ?_, .inr (.inl rfl), ?_⟩⟩ <;> decide

/-- A bound LC whose scalar unit runs ahead, in open loops, with a length in s5 and 97 in s6. -/
def bound0 (l : List SkLevel) : State :=
  { ahead with lc := { ahead.lc with saff := 1#64 <<< 63, loops := l, s := ahead.lc.s.set 6 97 } }

theorem bound0_readable (l : List SkLevel) : ∀ r : SReg, (bound0 l).Readable r ∧ (bound0 l).Writable r := placed_readable

theorem witness_StackLoops :
    ((bound0 []).runAhead = true ∧ (bound0 []).lc.saff.getLsbD 63 = true ∧ (bound0 []).Readable 4 ∧ (bound0 []).Readable 5
      ∧ (bound0 []).lc.kqueue.length < 32 ∧ (bound0 []).lc.loops = [] ∧ ((bound0 []).getS 5).toNat ≤ 96)
    ∧ (96 < ((bound0 []).getS 6).toNat ∧ (bound0 []).SuperTakes .stackBufferOverflow)
    ∧ ((bound0 [⟨11, 0⟩]).lc.loops = [⟨11, 0⟩] ∧ ((bound0 [⟨11, 0⟩]).getS 5).toNat + 2 + 0 ≤ (11 : Dword).toNat)
    ∧ (10 : Dword).toNat < ((bound0 [⟨10, 0⟩]).getS 5).toNat + 2 + 0
    ∧ (bound0 [⟨4, 0⟩, ⟨11, 0⟩]).lc.loops = ⟨4, 0⟩ :: ⟨11, 0⟩ :: []
    ∧ ((bound0 [⟨4, 4⟩]).lc.loops = ⟨4, 4⟩ :: [] ∧ (4 : Dword).toNat ≤ 4) ∧ ¬(4 : Dword).toNat ≤ 3
    ∧ ((bound0 []).deferredHandled = false ∧ (bound0 []).kDone = true ∧ (bound0 []).dev.scUpdates = [])
    ∧ ((3 : SReg).toNat < 4 ∧ 4 ≤ (4 : SReg).toNat ∧ placed.lc.saff.getLsbD 63 = false)
    ∧ (∀ l c, (bound0 l).SuperTakes c) ∧ ∀ c, placed.SuperTakes c :=
  ⟨⟨rfl, by decide, (bound0_readable _ 4).1, (bound0_readable _ 5).1, by decide, rfl, by decide⟩, ⟨by decide, placed_takes _⟩,
    ⟨rfl, by decide⟩, by decide, rfl, ⟨rfl, by decide⟩, by decide, ⟨by decide, by decide, by decide⟩,
    ⟨by decide, by decide, by decide⟩, fun _ c => placed_takes c, placed_takes⟩

/-- Copies of 64 bytes from s4 to s6, 128 bytes on; a channel that is full, one of which a transfer is done, one at its last
identifier. -/
def copying (c : Chan) : State :=
  { vecAhead 64 with lc := { (vecAhead 64).lc with s := (vecAhead 64).lc.s.set 6 0x10080, chans := placed.lc.chans.set 1 c } }
def copyCmd (id : BitVec 32) : XCmd := ⟨id, .cpy false, 0x10080, 0x10000, 64, 1, 0, false, placed.env⟩
def fullChan : Chan := { Chan.reset with next := 8, cmds := List.replicate 8 (copyCmd 0) }
def halfDone : Chan := { Chan.reset with next := 10, done := 9, cmds := [copyCmd 9] }

theorem copying_readable (c : Chan) : ∀ r : SReg, (copying c).Readable r ∧ (copying c).Writable r := placed_readable

theorem witness_CopyCommands :
    ((copying Chan.reset).runAhead = true ∧ (copying Chan.reset).Readable 4 ∧ (copying Chan.reset).Readable 6
      ∧ (copying Chan.reset).Writable 7 ∧ (copying Chan.reset).lc.chans[1].err = none
      ∧ (copying Chan.reset).lc.chans[1].next ≠ 0xFFFF_FFFF ∧ (copying Chan.reset).lc.chans[1].cmds.length < 8
      ∧ copyMeets 0x10080 0x10000 0 64 1 = false ∧ copyMeets 0x10020 0x10000 0 64 1 = true)
    ∧ 8 ≤ (copying fullChan).lc.chans[1].cmds.length
    ∧ ((30 : VReg).toNat + (0 : BitVec 3).toNat + 1 ≤ 31 ∧ (copying Chan.reset).owns = true
      ∧ ((copying Chan.reset).getS 4).toNat % 4 = 0 ∧ (copying Chan.reset).lc.vec.vl.toNat ≤ 1024
      ∧ (copying Chan.reset).unperformedV = [])
    ∧ (rangesMeet 0x10100 0x10000 256 256 = false
      ∧ ((copying Chan.reset).getS 6).toNat % (RedTy.f32).ty.bytes = 0)
    ∧ (copying { Chan.reset with next := 0xFFFF_FFFF }).lc.chans[1].next = 0xFFFF_FFFF
    ∧ (((copying halfDone).getS 5).toNat < (copying halfDone).lc.chans[1].next.toNat
      ∧ (copying halfDone).lc.chans[1].done.toNat ≤ ((copying halfDone).getS 5).toNat
      ∧ ((copying halfDone).getS 0).toNat < (copying halfDone).lc.chans[1].done.toNat)
    ∧ (copying Chan.reset).lc.chans[1].next.toNat ≤ ((copying Chan.reset).getS 5).toNat
    ∧ ∀ c e, (copying c).SuperTakes e :=
  ⟨⟨rfl, (copying_readable _ 4).1, (copying_readable _ 6).1, (copying_readable _ 7).2, by decide, by decide, by decide, by decide,
    by decide⟩, by decide, ⟨by decide, by decide, by decide, by decide, by decide⟩, ⟨by decide, by decide⟩, by decide,
    ⟨by decide, by decide, by decide⟩, by decide, fun _ e => placed_takes e⟩

/-- The line of the page's start, and one of its unit. -/
def line0 : Line := paLine 0x10000
def entry0 (ro granted : Bool) : HEntry := ⟨0x20, line0, ro, granted, false⟩

/-- An LC that runs ahead with a handle table; s7 holds the handle of its first entry. -/
def holding (l : List HEntry) : State :=
  { ahead with lc := { ahead.lc with handles := l, s := ahead.lc.s.set 7 0x20 } }
theorem holding_readable (l : List HEntry) : ∀ r : SReg, (holding l).Readable r ∧ (holding l).Writable r := placed_readable

/-- The line in the same bank and slot with another row. -/
def line1 : Line := { line0 with row := line0.row + 1 }

theorem witness_RowLines :
    ((holding []).runAhead = true ∧ (holding []).lc.bqueue = [] ∧ (holding []).dev.seqs = [] ∧ (holding []).lc.breport = none
      ∧ (holding []).lc.bankErr = [] ∧ (holding []).Readable 4 ∧ (holding []).Writable 6
      ∧ (holding []).rawLoad ((holding []).getS 4) = .ok (0x10000, placeLeaf) ∧ paKind 0x10000 = .hbm
      ∧ ((holding []).dev.stack (homeStack 0x10000)).degraded = false ∧ (holding []).lc.handles.length < 64)
    ∧ (holding [entry0 false true]).lc.handles.find? (fun e => !e.lost && e.line == line0) = some (entry0 false true)
    ∧ (∀ e ∈ (holding (List.replicate 64 ⟨0, { line0 with bank := line0.bank + 1 }, false, true, false⟩)).lc.handles,
      e.lost = false → e.line ≠ line0 ∧ e.line.sameSlot line0 = false)
    ∧ ((holding [⟨0x20, line1, false, true, false⟩]).lc.handles.find? (fun e => !e.lost && e.line == line0) = none
      ∧ (holding [⟨0x20, line1, false, true, false⟩]).lc.handles.find? (fun e => !e.lost && e.line.sameSlot line0)
        = some ⟨0x20, line1, false, true, false⟩)
    ∧ (holding [entry0 false true]).lc.handle ((holding [entry0 false true]).getS 7) = some (entry0 false true)
    ∧ (holding []).lc.handle ((holding []).getS 7) = none
    ∧ ∀ l c, (holding l).SuperTakes c :=
  ⟨⟨rfl, rfl, rfl, by decide, by decide, (holding_readable _ 4).1, (holding_readable _ 6).2, by decide, by decide, by decide,
    by decide⟩, by decide, by decide +kernel, ⟨by decide, by decide⟩, by decide, by decide, fun _ c => placed_takes c⟩

/-- The wave descriptor of ZERO on one row of one bank, in the page at 0x10040. -/
def waveBytes : Nat := 0x10000 + 1 * 2 ^ 192

/-- An LC that holds a handle, with a wave descriptor in the page named by s8. -/
def waving : State :=
  let s := holding [entry0 false true]
  { s with
    lc := { s.lc with s := s.lc.s.set 8 0x10040 }, dev := { s.dev with mem := Memory.write s.dev.mem 0x10040 64 waveBytes } }

/-- A BKOP of the LC still at its sequencer. -/
def busySeq : SeqCmd :=
  ⟨0, placed.lc.key, ⟨.op .zero false line0 none 0 0 0x20 0, 0x10000, 0, false, placed.env, 0⟩, false, [], false, [], [], [], false⟩
def commanding : State :=
  let s := holding [entry0 false true]
  { s with dev := { s.dev with seqs := [busySeq] } }

theorem witness_BankCommands :
    ((holding [entry0 false true]).runAhead = true ∧ (holding [entry0 false true]).lc.bqueue = []
      ∧ (holding [entry0 false true]).lc.breport = none ∧ (holding [entry0 false true]).lc.bankErr = []
      ∧ (holding [entry0 false true]).Readable 7 ∧ (holding [entry0 false true]).dev.seqs = []
      ∧ (holding [entry0 false true]).lc.handle ((holding [entry0 false true]).getS 7) = some (entry0 false true)
      ∧ (BkOp.zero).sourced = false ∧ (BkOp.copy).sourced = true ∧ (BkOp.fadd).sourced = false
      ∧ ((holding [entry0 false true]).getS 0).toNat % 4 = 0 ∧ ((holding [entry0 false true]).getS 0).toNat < 1024)
    ∧ ((holding [entry0 true true]).lc.handle ((holding [entry0 true true]).getS 7) = some (entry0 true true)
      ∧ (entry0 true true).ro = true)
    ∧ ((holding [entry0 false true, ⟨0x10000, { line0 with chan := line0.chan + 1 }, false, true, false⟩]).lc.handle
        ((holding []).getS 4) = some ⟨0x10000, { line0 with chan := line0.chan + 1 }, false, true, false⟩
      ∧ ({ line0 with chan := line0.chan + 1 } : Line).unit ≠ line0.unit)
    ∧ ((holding []).lc.handle ((holding []).getS 7) = none ∧ (holding []).lc.handles = [])
    ∧ (waving.Readable 8 ∧ waving.Reaches .load false true (waving.getS 8) 64 (here 0x40) ∧ waving.CleanAt (here 0x40)
      ∧ (waveOf (waving.getS 8) (waving.readLoc (here 0x40) 64) waving.lc.bnkwin).invalid
        (waving.readLoc (here 0x40) 64 / 2 ^ 480) = false
      ∧ ∀ k ∈ waving.dev.waveStacks (waveOf (waving.getS 8) (waving.readLoc (here 0x40) 64) waving.lc.bnkwin) waving.env
          waving.super, waving.dev.wavesAt k < 64)
    ∧ (waving.Reaches .load false true (waving.getS 4) 64 (here 0)
      ∧ (waveOf (waving.getS 4) (waving.readLoc (here 0) 64) waving.lc.bnkwin).invalid (waving.readLoc (here 0) 64 / 2 ^ 480)
        = true)
    ∧ ((holding []).getS 5).toNat % 64 ≠ 0
    ∧ (busySeq.who = commanding.lc.key ∧ busySeq.cmd.kind.computes = true ∧ busySeq.cmd.kind.namesHandle 0x20 = true
      ∧ commanding.lc.handle (commanding.getS 7) = some (entry0 false true))
    ∧ ∀ l c, (holding l).SuperTakes c := by
  refine ⟨⟨rfl, rfl, ?_, ?_, (holding_readable _ 7).1, rfl, ?_, ?_, ?_, ?_, ?_, ?_⟩, ⟨?_, ?_⟩, ⟨?_, ?_⟩, ⟨?_, rfl⟩,
    ⟨⟨?_, ?_⟩, reaches_of ?_, ⟨?_, ?_⟩, ?_, ?_⟩, ⟨reaches_of ?_, ?_⟩, ?_, ⟨?_, ?_, ?_, ?_⟩, fun _ c => placed_takes c⟩ <;> decide +kernel

/-! #### Events at the LC in turn -/

/-- The same with an LC of another task that has yielded. -/
def switching : State := { blocked with lcs := [{ Lc.reset with key := ⟨7, 0⟩, status := .yielded }] }

theorem witness_ControlEvents :
    ((∀ e ∈ (tiled .bf16 4).liveV, e.op.shapes = false) ∧ (tiled .bf16 4).part.tstate.getLsbD 0 = true
      ∧ ((0x3010_0004 : Dword).extractLsb' 16 9).toNat ≤ 256 ∧ ((0x3010_0004 : Dword).extractLsb' 0 8).toNat ≤ 128
      ∧ (4 : BitVec 8).toNat ≤ ((tiled .bf16 4).part.grant.cfg[0]).rows.toNat
      ∧ pitchOf ((0x3010_0004 : Dword).extractLsb' 16 9).toNat (TCfg.mk 3 0 0).type ≤ (tiled .bf16 4).part.grant.pitch 0)
    ∧ (∀ a, a < 16 → (tiled .bf16 4).part.accalloc.getLsbD a = true → (0x8001 : Dword).getLsbD a = true
      ∧ (((tiled .bf16 4).coreParts (tiled .bf16 4).core.no).any
        (fun p => p.no != (tiled .bf16 4).part.no && p.accalloc.getLsbD a)) = false)
    ∧ (placed.MemOk ∧ (∀ b, b < 32 → field (0xAAAA_5555_0000_0000 : Dword) (2 * b) 2 ≠ 3)
      ∧ (∀ p ∈ placed.coreParts placed.core.no, p.grant.segs = []) ∧ placed.part.grant.segs = []
      ∧ (∀ l ∈ placed.allLcs, placed.sccOf l = false) ∧ placed.roleBusy 0xAAAA_5555_0000_0000 = false)
    ∧ (placed.lc.chans[0].done = placed.lc.chans[0].next ∧ (copying halfDone).lc.chans[1].done ≠ (copying halfDone).lc.chans[1].next
      ∧ (copying halfDone).SuperTakes .badControlState)
    ∧ (∃ u, placed.dev.task placed.lc.key.task = some u ∧ u.ended = none)
    ∧ ((placed.lc.contain.map (·.granule)).Nodup ∧ placed.dev.combines = [])
    ∧ (placed.svxDone = true ∧ placed.lc.hostErr = none
      ∧ (BitVec.setWidth 32 (0 : Dword) - placed.pool.poolhead).toNat ≤ placed.pool.poolsize.toNat
      ∧ placed.pool.poolsize.toNat < (BitVec.setWidth 32 (1 : Dword) - placed.pool.poolhead).toNat
      ∧ placed.SuperTakes .badControlState) := by
  refine ⟨⟨?_, ?_, ?_, ?_, ?_, ?_⟩, ?_, ⟨placed_memOk, ?_, ?_, ?_, ?_, ?_⟩, ⟨?_, ?_, placed_takes _⟩, ⟨_, rfl, ?_⟩, ⟨?_, ?_⟩,
    ?_, ?_, ?_, ?_, placed_takes _⟩ <;> decide +kernel

theorem witness_InvalidationEvents :
    (placed.svxDone = true ∧ placed.lc.hostErr = none ∧ placed.translatedDone = true) ∧ outstanding.svxDone = false
    ∧ ∃ e ∈ placed.core.tlb, e.glob = false ∧ e.asid = placed.lc.asid := by
  refine ⟨⟨?_, ?_, ?_⟩, ?_, _, .head _, ?_, ?_⟩ <;> decide +kernel

theorem blocked_memOk : blocked.MemOk := placed_memOk

theorem witness_SaveEvents :
    (blocked.MemOk ∧ blocked.liveV = [] ∧ field (0x1004_0000 : Dword) 0 3 = blocked.part.no
      ∧ blocked.part.core = blocked.core.no
      ∧ (∀ o l, blocked.part.ownerKey = some o → blocked.findLc o = some l → l.deilRegs = [])
      ∧ blocked.AreaAt .store (0x1004_0000 &&& granuleMask)
        (2112 + 1024 * (blocked.part.grant.segs.length + (accNumbers blocked.part.accalloc).length))
        (fun i => 0x1004_0000 + 64 * i))
    ∧ (3 : Dword) &&& granuleMask = 0
    ∧ (∃ s : State, s = { blocked with lc := { blocked.lc with trap := { blocked.lc.trap with plevel := true } } }
      ∧ s.lc.trap.plevel = true ∧ s.SuperTakes .badControlState)
    ∧ (blocked.lc.trap.plevel = false ∧ blocked.bankWork = [] ∧ blocked.kstep = none
      ∧ blocked.pickStore [] blocked.lc.stores = none ∧ blocked.engineRoom = true
      ∧ blocked.AreaAt .store (blocked.lc.trap.savebase.setWidth 64) 256 (fun i => 0x1000_0000 + 64 * i)
      ∧ blocked.AreaAt .store (blocked.lc.trap.savebase.setWidth 64 + 0x4000) 1024 (fun i => 0x1000_4000 + 64 * i)
      ∧ blocked.sccOf blocked.lc = false
      ∧ ∀ i j, i < 256 → j < 1024 → 0x1000_0000 + 64 * i + 64 ≤ 0x1000_4000 + 64 * j)
    ∧ ((0x1002_0000 : Dword) &&& granuleMask ≠ 0
      ∧ switching.AreaAt .load (0x1002_0000 &&& granuleMask) 256 (fun i => 0x1002_0000 + 64 * i)
      ∧ switching.AreaAt .load ((0x1002_0000 &&& granuleMask) + 0x4000) 1024 (fun i => 0x1002_4000 + 64 * i)
      ∧ switching.dev.memError = [] ∧ switching.dev.l2Error = [] ∧ switching.lc.taskid ≠ 0
      ∧ (∀ i, i < 256 → Memory.read switching.dev.mem (0x1002_0000 + 64 * i) 64 = 0)
      ∧ (∀ i, i < 1024 → Memory.read switching.dev.mem (0x1002_4000 + 64 * i) 64 = 0)
      ∧ (∃ l, switching.lcs = [l] ∧ l.status = .yielded ∧ l.taskid = 0 ∧ l.key.lcid = 0 ∧ l.asid = 0
        ∧ switching.sccOf l = false)
      ∧ BitVec.ofNat 64 (Memory.read switching.dev.mem (0x1002_0000 + 0x1298) 8) = 0
      ∧ BitVec.ofNat 64 (Memory.read switching.dev.mem (0x1002_0000 + 0x12A0) 8) = 0
      ∧ BitVec.ofNat 64 (Memory.read switching.dev.mem (0x1002_0000 + 0x1D08) 8) = 0) := by
  have hv : 2112 + 1024 * (blocked.part.grant.segs.length + (accNumbers blocked.part.accalloc).length) = 2112 := by
    decide +kernel
  have hm : (0x1004_0000 : Dword) &&& granuleMask = 0x1004_0000 := by decide
  have hn : (0x1002_0000 : Dword) &&& granuleMask = 0x1002_0000 := by decide
  have hs : (0x1002_0000 : Dword) + 0x4000 = 0x1002_4000 := by decide
  have ha := area_in
  have hb := area_in_context
  refine ⟨⟨blocked_memOk, by decide, by decide, by decide, ?_, ?_⟩, by decide, ⟨_, rfl, rfl, .inr (.inr (.inr rfl)), by decide⟩,
    ⟨by decide, by decide, by decide, by decide, by decide +kernel, area_scalar, area_context, by decide, by omega⟩,
    ⟨by decide, ?_, ?_, by decide, by decide, by decide, by decide +kernel, by decide +kernel, ⟨_, rfl, rfl, rfl, rfl, rfl, by decide⟩, by decide +kernel, by decide +kernel,
      by decide +kernel⟩⟩
  · intro o l h1 h2
    have : blocked.findLc ⟨0, 0⟩ = some blocked.lc := by decide +kernel
    have ho : o = ⟨0, 0⟩ := by
      have : blocked.part.ownerKey = some ⟨0, 0⟩ := by decide
      rw [this] at h1; exact (Option.some.inj h1).symm
    subst ho
    rw [this] at h2
    rw [← Option.some.inj h2]
    decide
  · rw [hv, hm]; exact area_vector
  · rw [hn]; exact ⟨ha.links, ha.apart, ha.held⟩
  · rw [hn, hs]; exact ⟨hb.links, hb.apart, hb.held⟩

/-! #### Tasks, the host, management -/

/-- A device with port 5 of function 0 busy with a packet. -/
def portBusy (p : Nat) : State :=
  let port := { Port.reset 5 with st := .busy, packet := BitVec.ofNat 2048 p }
  { placed with dev := { placed.dev with funcs := [(Func.reset 0).setPort port] } }

/-- A device with a waiting SPAWN request. -/
def spawnWaits : State := { placed with dev := { placed.dev with spawns := [⟨placed.lc.key, 0, packet⟩] } }

/-- The task has ended, its completion record lying at bus address 0x40; and the task with an LC of its own to come. -/
def finished : State := withTask (fun t => { t with exited := 1, completion := 0x40 }) placed
def striping : State := { striped with lc := { striped.lc with nextsWait := true } }

theorem witness_TaskEvents :
    (placed.dev.boot = .ready ∧ State.reset.dev.boot ≠ .ready ∧ ((portBusy packet.toNat).dev.func 0).port 5 ≠ Port.reset 5)
    ∧ placed.dev.nextServed = none
    ∧ ((portBusy packet.toNat).dev.nextServed = some (0, 5)
      ∧ rejectReason (((portBusy packet.toNat).dev.func 0).port 5).packet false = none
      ∧ BitVec.ofNat 32 (pk (((portBusy packet.toNat).dev.func 0).port 5).packet 0x1C 0 32) = 0
      ∧ ((portBusy packet.toNat).dev.taskOf 0 0).isSome = false)
    ∧ ((portBusy 0).dev.nextServed = some (0, 5) ∧ rejectReason (((portBusy 0).dev.func 0).port 5).packet false = some 2)
    ∧ (spawnWaits.dev.nextServed = some (0, 64) ∧ spawnWaits.dev.tasks.length < 4096
      ∧ (spawnWaits.dev.spawns.find? (fun x => x.fn == 0)).isSome = true)
    ∧ (∃ u, placed.dev.task 0 = some u ∧ placed.taskDone u = false)
    ∧ (finished.MemOk ∧ ∃ u, finished.dev.task 0 = some u ∧ finished.taskDone u = true ∧ u.spawned = false
      ∧ u.completion ≠ 0 ∧ u.ended = none)
    ∧ (placed.dev.taskOf 0 7 = none ∧ ∃ u, placed.dev.taskOf 0 1 = some u ∧ placed.dev.task u.seq = some u ∧ u.ended = none)
    ∧ (placed.dev.tasks.map (·.seq)).Nodup
    ∧ placed.lc.nextsWait = false
    ∧ (striping.lc.nextsWait = true ∧ ∃ u, striping.task = some u ∧ u.nextStrip < u.strips ∧ u.ring = false)
    ∧ ∃ u, ({ placed with lc := { placed.lc with nextsWait := true } }).task = some u ∧ u.strips ≤ u.nextStrip := by
  refine ⟨⟨?_, ?_, ?_⟩, ?_, ⟨?_, ?_, ?_, ?_⟩, ⟨?_, ?_⟩, ⟨?_, ?_, ?_⟩, ⟨_, rfl, ?_⟩, ⟨placed_memOk, _, rfl, ?_, ?_, ?_, ?_⟩,
    ⟨?_, _, rfl, ?_, ?_⟩, ?_, ?_, ⟨?_, _, rfl, ?_, ?_⟩, _, rfl, ?_⟩ <;> decide +kernel

/-- A function whose window begins at the page, the translation held for the windows. -/
def windowed : State :=
  { placed with dev := { placed.dev with
      funcs := [{ Func.reset 0 with hwbase := 0x10000 }], ioTlb := placed.core.tlb } }

/-- A load, and a posted store, of the LC that the host has still to answer; and a completion record on its way. -/
def hostReq (st : Bool) : HostReq := ⟨placed.lc.key, 0x30000, st, hostBase + 0x40, 8, none, none⟩
def hosted (st : Bool) : State := { placed with dev := { placed.dev with hostReqs := [hostReq st] } }
def recording : State := { placed with dev := { placed.dev with hostReqs := [{ hostReq true with record := some 0 }] } }

theorem witness_HostEvents :
    (windowed.MemOk ∧ windowed.dev.combines = [])
    ∧ (0 < 4096 ∧ 4096 ≤ 4096 ∧ 0 + 4096 ≤ 2 ^ 40 ∧ ((windowed.dev.func 0).hwbase.toNat + 0) % 65536 + 4096 ≤ 65536
      ∧ inWindow (BitVec.ofNat 64 (windowed.dev.func 0).hwbase.toNat) = false
      ∧ windowed.dev.translate (windowed.dev.windowSpace (windowed.dev.func 0)) .load (BitVec.ofNat 64 (windowed.dev.func 0).hwbase.toNat) = .ok ⟨0x10000, placeLeaf⟩
      ∧ windowed.dev.translate (windowed.dev.windowSpace (windowed.dev.func 0)) .store (BitVec.ofNat 64 (windowed.dev.func 0).hwbase.toNat) = .ok ⟨0x10000, placeLeaf⟩
      ∧ paKind 0x10000 ≠ .host
      ∧ ∀ g ∈ granuleRange 0x10000 4096, windowed.dev.memPoison.contains g = false ∧ windowed.dev.memError.contains g = false
        ∧ windowed.dev.l2Error.contains g = false)
    ∧ (∃ c, placed.dev.translate (placed.dev.windowSpace (placed.dev.func 0)) .load (BitVec.ofNat 64 (placed.dev.func 0).hwbase.toNat) = .error (.cause c))
    ∧ ¬(0 < ([] : List Byte).length)
    ∧ (∀ st, (hosted st).dev.hostReqs.find? (fun x => x.answer.isNone) = some (hostReq st) ∧ (hosted st).dev.hostReqs.Nodup)
    ∧ (hostCause .success = none ∧ (∃ c, hostCause .abort = some c)
      ∧ (∃ l, (hosted true).findLc (hostReq true).who = some l ∧ l.hostErr = none)
      ∧ recording.dev.hostReqs.find? (fun x => x.answer.isNone) = some { hostReq true with record := some 0 })
    ∧ (∀ x ∈ placed.dev.hostReqs, x.answer ≠ none)
    ∧ (((placed.dev.func 0).port 3).st ≠ .busy ∧ (8 : Nat) ≤ 8)
    ∧ (64 ≤ 64 ∧ 256 ≤ 256 ∧ 0x10000 + 256 ≤ hbmSize ∧ (placed.dev.stack (homeStack 0x10000)).degraded = false
      ∧ ∀ g ∈ granuleRange 0x10000 256, placed.dev.memPoison.contains g = false ∧ placed.dev.memError.contains g = false
        ∧ placed.dev.l2Error.contains g = false)
    ∧ ((List.replicate 256 (0 : Byte)).length ≤ 256 ∧ 256 < (List.replicate 257 (0 : Byte)).length)
    ∧ (11 < 12 ∧ 15 < 16 ∧ ahead.runAhead = true ∧ ahead.MemOk ∧ ahead.dev.combines = []) := by
  refine ⟨⟨placed_memOk, ?_⟩, ⟨?_, ?_, ?_, ?_, ?_, ?_, ?_, ?_, ?_⟩, ⟨.loadPageFault, ?_⟩, ?_, ?_,
    ⟨?_, ⟨_, rfl⟩, ⟨placed.lc, ?_, ?_⟩, ?_⟩, ?_, ⟨?_, ?_⟩, ⟨?_, ?_, ?_, ?_, ?_⟩, ⟨?_, ?_⟩, ?_, ?_, ?_, placed_memOk, ?_⟩
    <;> decide +kernel

/-- The placed machine with its management block, or where the boot stands, changed. -/
def managed (f : Mgmt → Mgmt) : State := { placed with dev := { placed.dev with mgmt := f placed.dev.mgmt } }
def booting (b : BootState) : State := { placed with dev := { placed.dev with boot := b } }

/-- A boot that finds nothing wrong. -/
def goodBoot : BootFacts := ⟨.passed, .passed, .passed, .passed, .passed, 0, 0, 0, 0, 0, 0, 3, [4], []⟩

/-- Every core at FLOOR 12; every stack at the limit 16 that heat leaves it; steps that power control has to undo; a core
that heat has slowed. -/
def slowest : State :=
  { placed with
    core := { placed.core with floor := 12 }
    cores := (List.range 63).map (fun n => { Core.reset (n + 1) with floor := 12 }) }
def coolest : State :=
  { slowest with dev := { slowest.dev with hbm := (List.range 12).map (fun n => { Stack.reset n with thermal := 16 }) } }
def stepped (p : PowerStep) : State := managed ({ · with powerSteps := [p] })
def heated : State := { placed with core := { placed.core with heat := 1, floor := 1 } }

/-- An image in the recovery window that meets the header's conditions, its verification under way, with step 7 as it went
and the stacks that failed it. -/
def verifying (outcome : BitVec 14) (failed : BitVec 12) : State :=
  managed (fun m => { m with
    verifying := true, outcome := outcome, testFailed := failed
    recovery := Memory.write [] 0 16 (0x4E485466 + 0xFFFF_FFFF * 2 ^ 32 + 64 * 2 ^ 64) })

/-- A device whose port 3 is up, through which the LC's bound context lies in the peer member 4. -/
def linked : State :=
  { placed with
    dev := { placed.dev with portsUp := 8, reachable := [4], ctxUses := [⟨16 * 5, 1, 0, placed.lc.key⟩] }
    lc := { placed.lc with ctx := some (StackCtx.fresh 0x10000 0 0) } }

theorem witness_ManagementEvents_links :
    linked.lc.status = .resident ∧ linked.lc.ctx ≠ none
    ∧ (∃ u ∈ linked.dev.ctxUses, u.owner = linked.lc.key ∧ 16 ≤ u.stack ∧ u.stack / 16 - 1 ∈ linked.dev.reachable)
    ∧ ∃ t, exec (.linkDown 3 [4]) linked = .next t ∧ 4 ∉ t.dev.reachable := by
  refine ⟨rfl, by simp [linked], ⟨_, .head _, ?_, ?_, ?_⟩, _, rfl, ?_⟩ <;> decide +kernel

theorem witness_ManagementEvents_image (outcome : BitVec 14) (failed : BitVec 12) :
    let m := (verifying outcome failed).dev.mgmt
    m.verifying = true ∧ Memory.read m.recovery 0 4 = 0x4E485466 ∧ Config.minVersion.toNat ≤ Memory.read m.recovery 4 4
    ∧ Memory.read m.recovery 8 8 ≤ 16772736 := by
  have h : Memory.read (verifying 0 0).dev.mgmt.recovery 4 4 = 2 ^ 32 - 1 := by decide +kernel
  refine ⟨rfl, (by decide +kernel : Memory.read (verifying 0 0).dev.mgmt.recovery 0 4 = 0x4E485466),
    (by have := Config.minVersion.isLt; omega : Config.minVersion.toNat ≤ Memory.read (verifying 0 0).dev.mgmt.recovery 4 4),
    (by decide +kernel : Memory.read (verifying 0 0).dev.mgmt.recovery 8 8 ≤ 16772736)⟩

theorem witness_ManagementEvents :
    (placed.dev.mgmt.owner ≠ some .host ∧ placed.dev.mgmt.owner = none
      ∧ (managed ({ · with owner := some .board })).dev.mgmt.owner ≠ none
      ∧ (managed ({ · with owner := some .host })).dev.mgmt.owner = some .host)
    ∧ (((15 : Dword).extractLsb' 0 10).toNat < 16 ∧ 512 < ((513 : Dword).extractLsb' 0 10).toNat
      ∧ 16 ≤ ((16 : Dword).extractLsb' 0 10).toNat ∧ ((512 : Dword).extractLsb' 0 10).toNat ≤ 512)
    ∧ (12 < ((13 : Dword).extractLsb' 0 4).toNat ∧ ((12 : Dword).extractLsb' 0 4).toNat ≤ 12)
    ∧ (placed.dev.mgmt.pcap < 2401 ∧ (∃ n, n < 64 ∧ (placed.findCore n).floor.toNat < 12)
      ∧ (∀ n, n < 64 → 12 ≤ (slowest.findCore n).floor.toNat) ∧ (∃ n, n < 12 ∧ 16 < (slowest.dev.stack n).thermal)
      ∧ (∀ n, n < 64 → 12 ≤ (coolest.findCore n).floor.toNat) ∧ (∀ n, n < 12 → (coolest.dev.stack n).thermal ≤ 16)
      ∧ 2400 ≤ placed.dev.mgmt.pcap ∧ placed.dev.mgmt.pcap * 95 < 2400 * 100 ∧ 2280 * 100 ≤ placed.dev.mgmt.pcap * 95
      ∧ placed.dev.mgmt.powerSteps = [] ∧ (stepped (.limits [16])).dev.mgmt.powerSteps = .limits [16] :: []
      ∧ (stepped (.floors 1)).dev.mgmt.powerSteps = .floors 1 :: [])
    ∧ ((placed.findCore 0).heat = 0 ∧ (heated.findCore 0).heat ≠ 0 ∧ placed.dev.busyUnits 11 = [])
    ∧ (placed.dev.portsUp.getLsbD 3 = false
      ∧ ({ placed with dev := { placed.dev with portsUp := 8 } }).dev.portsUp.getLsbD 3 = true)
    ∧ (placed.dev.boot ≠ .off ∧ placed.dev.boot ≠ .offBus ∧ (booting .off).dev.boot = .off
      ∧ (booting .recovery).dev.boot = .recovery ∧ placed.dev.boot ≠ .recovery)
    ∧ (goodBoot.rails = .passed ∧ goodBoot.trainFailed = 0 ∧ goodBoot.portsDown = 0 ∧ goodBoot.testFailed = 0
      ∧ (∀ n, 1 ≤ n → n ≤ 7 → (booting .off).dev.mgmt.stepOutcome n < 2))
    ∧ (({ goodBoot with rails := .failed }).rails = .failed ∧ (booting .off).dev.mgmt.clearNext = false)
    ∧ (placed.dev.mgmt.verifying = false ∧ (verifying 0 0).dev.mgmt.stepOutcome 7 < 2 ∧ (verifying 0 0).dev.mgmt.testFailed = 0
      ∧ (verifying 0 1).dev.mgmt.testFailed ≠ 0 ∧ 2 ≤ (verifying 0x2000 1).dev.mgmt.stepOutcome 7)
    ∧ (managed ({ · with owner := some .host })).MemOk := by
  refine ⟨⟨?_, ?_, ?_, ?_⟩, ⟨?_, ?_, ?_, ?_⟩, ⟨?_, ?_⟩, ⟨?_, ⟨0, ?_, ?_⟩, ?_, ⟨0, ?_, ?_⟩, ?_, ?_, ?_, ?_, ?_, ?_, ?_, ?_⟩,
    ⟨?_, ?_, ?_⟩, ⟨?_, ?_⟩, ⟨?_, ?_, ?_, ?_, ?_⟩, ⟨?_, ?_, ?_, ?_, ?_⟩, ⟨?_, ?_⟩, ⟨?_, ?_, ?_, ?_, ?_⟩, placed_memOk⟩
  all_goals decide +kernel

/-! #### Memory, combining stores, copies, banks -/

/-- Page tables at 0x40000, under which VA 0x30000 is a page of its own and VA 0x40000 a compressed page, one encoded block of
zeros at 0x80000; an expansion pool at 0x90000 whose next frame lies at 0xA0000. -/
def tabled : State :=
  let w (m : List Host.Cell) (a x : Nat) : List Host.Cell := Memory.write m a 8 x
  let m := w (w (w placed.dev.mem 0x40000 0x50001) 0x50000 0x60001) 0x60000 0x70001
  let m := w (w (w m 0x70018 0x3001D) 0x70020 0x3D) 0x70048 (1 + 1 * 2 ^ 5 + 0xFFFE * 2 ^ 14)
  let m := w (w m 0x80000 (2 ^ 30 + 36)) 0x90000 0xA0000
  let st := { Stack.reset 0 with czbase := 0x80000, poolbase := 0x90000, poolsize := 8, pooltail := 1 }
  { placed with lc := { placed.lc with ptbase := 0x40000 }, dev := { placed.dev with mem := m, hbm := [st] } }

/-- The same with a bound context in an address space of the tables. -/
def tabledCtx : State :=
  { tabled with
    lc := { tabled.lc with ctx := some (StackCtx.fresh 0x10000 0x40000 0) }
    dev := { tabled.dev with ctxUses := [⟨0, 1, 0, tabled.lc.key⟩] } }

/-- An addition of 5 to the word at the page's start. -/
def adding : ScUpdate := ⟨0x10000, .add, .n32, [5], false, placed.lc.key, 0⟩

/-- An update on its way, and entries of a combining store for its granule. -/
def scattering (u : List ScUpdate) (c : List Combine) : State :=
  { placed with dev := { placed.dev with scUpdates := u, combines := c } }
def entryOf (chain : List ScUpdate) (v : Option (BitVec 512)) : Combine := ⟨0x400, chain, v⟩

/-- A contribution of rank `r` to the granule of the page's start, of two in all; and one already staged. -/
def contribution (r : Nat) : Contribution :=
  ⟨⟨0, 1, 0, 0x400, 2, .f32, []⟩, ⟨r, 0, 0xF, 0x3F80_0000, false, placed.lc.key, 1⟩⟩
def reducing (st : List Stage) : State :=
  { placed with dev := { placed.dev with contributions := [contribution 1], stages := st } }
def stagedBy (r : Nat) : Stage := { (contribution r).key with parts := [(contribution r).part] }

theorem witness_MemoryEvents :
    (tabled.MemOk ∧ tabled.bankHeld 0x400 = false ∧ 64 * 0x400 < hbmSize ∧ hbmSize ≤ 64 * (hbmSize / 64)
      ∧ uncorrectable.dev.memError.contains 0x400 = true ∧ tabled.dev.memError.contains 0x400 = false)
    ∧ ((∀ p ∈ tabled.dev.ptrs, p.next % 65536 = 0) ∧ tabled.lc.ctx = none
      ∧ (tabled.space tabled.super).holds 0x10000 = true ∧ (tabled.space tabled.super).holds 0x30000 = false
      ∧ inWindow 0x30000 = false ∧ tabled.dev.combines = [])
    ∧ (∃ l, tabled.dev.walk (tabled.space tabled.super) .load 0x30000 = .ok l ∧ leafC l.entry = false)
    ∧ (∃ l m, tabledCtx.dev.walk (tabledCtx.space tabledCtx.super) .load 0x30000 = .ok l
      ∧ tabledCtx.lc.ctx = some (StackCtx.fresh 0x10000 0x40000 0)
      ∧ tabledCtx.dev.walk (tabledCtx.ctxSpace tabledCtx.super) .load 0x30000 = .ok m ∧ leafC m.entry = false
      ∧ (tabledCtx.ctxSpace tabledCtx.super).holds 0x30000 = false)
    ∧ (∃ l, tabled.dev.walk (tabled.space tabled.super) .load 0x40000 = .ok l ∧ leafC l.entry = true
      ∧ (tabled.dev.stack (leafHstack l.entry)).frame = none
      ∧ (tabled.dev.stack (leafHstack l.entry)).poolhead ≠ (tabled.dev.stack (leafHstack l.entry)).pooltail
      ∧ (tabled.dev.entry 0x90000).toNat = 0xA0000 ∧ paKind 0xA0000 = .hbm ∧ homeStack 0xA0000 = 0
      ∧ l.addr / 128 * 128 + 0x48 + 8 * leafDslot l.entry = 0x70048
      ∧ (decodePage tabled.dev.mem 0x80000 (tabled.dev.entry 0x70048)).isSome = true)
    ∧ ((scattering [adding] [entryOf [] (some 7)]).dev.combines = [entryOf [] (some 7)]
      ∧ (entryOf [] (some 7)).granule = adding.pa / 64 ∧ ((scattering [adding] []).dev.combining adding.pa).length < 128)
    ∧ ((scattering [] [entryOf [adding] (some 7)]).dev.combines.find? (fun c => c.granule == 0x400)
        = some (entryOf [adding] (some 7))
      ∧ ((scattering [] [entryOf [adding] none]).dev.combines.map (·.granule)).Nodup ∧ (entryOf [] (some 7)).chain = []
      ∧ (entryOf [adding] none).value = none)
    ∧ ((copying { Chan.reset with next := 1, cmds := [copyCmd 0] }).lc.chans[1].cmds = copyCmd 0 :: []
      ∧ (copyCmd 0).kind = .cpy false ∧ (copyCmd 0).descends = false ∧ 0 < (copyCmd 0).total ∧ (copyCmd 0).total < 2 ^ 32
      ∧ ({ copyCmd 0 with len := 0 }).len = 0
      ∧ (let s := copying Chan.reset
        let x := s.spaceOf (copyCmd 0).env (copyCmd 0).super
        s.locateIn x .store 0x10080 = .ok (here 0x80) ∧ (here 0x80).isHost = false ∧ s.linkBad (here 0x80) = false
        ∧ ∀ j, j < 64 → s.locateIn x .load ((copyCmd 0).srcAt j) = .ok (here j) ∧ (here j).isHost = false
          ∧ s.badAt (here j) = false))
    ∧ ((reducing []).dev.contributions = [contribution 1] ∧ (reducing []).dev.combines = []
      ∧ (∃ l, (reducing []).findLc (contribution 1).part.who = some l ∧ (l.chans[1]).err = none) ∧ 1 < (contribution 1).key.count
      ∧ (stagedBy 0).count = (contribution 1).key.count
      ∧ (stagedBy 0).parts.all (fun p => p.rank != (contribution 1).part.rank) = true
      ∧ (stagedBy 0).parts.length + 1 = (stagedBy 0).count
      ∧ ∃ p ∈ (stagedBy 1).parts, p.rank = (contribution 1).part.rank) := by
  refine ⟨⟨⟨?_, ?_, ?_, ?_⟩, ?_, ?_, ?_, ?_, ?_⟩, ⟨?_, ?_, ?_, ?_, ?_, ?_⟩, ⟨⟨0x3001D, false, 0x70018⟩, ?_, ?_⟩,
    ⟨⟨0x3001D, false, 0x70018⟩, ⟨0x3001D, false, 0x70018⟩, ?_, ?_, ?_, ?_, ?_⟩, ⟨⟨0x3D, false, 0x70020⟩, ?_, ?_, ?_, ?_, ?_, ?_,
    ?_, ?_, ?_⟩, ⟨?_, ?_, ?_⟩, ⟨?_, ?_, ?_, ?_⟩, ⟨?_, ?_, ?_, ?_, ?_, ?_, ?_⟩, ⟨?_, ?_, ⟨placed.lc, ?_, ?_⟩, ?_, ?_, ?_, ?_,
    ⟨_, .head _, ?_⟩⟩⟩ <;> decide +kernel

/-! #### Units under memory, streams, scheduling -/

/-- The placed machine with commands at its sequencers, and row slots, admission points at every stack, and page tables at
0x40000 that give the page its place. -/
def sequencing (q : List SeqCmd) (sl : List Slot) : State :=
  let w (m : List Host.Cell) (a x : Nat) : List Host.Cell := Memory.write m a 8 x
  let m := w (w (w (w placed.dev.mem 0x40000 0x50001) 0x50000 0x60001) 0x60000 0x70001) 0x70008 0x1001D
  { placed with dev := { placed.dev with seqs := q, slots := sl, mem := m, admits := List.range 12 } }

/-- The wave of ZERO on one row of bank 0 of the page, probed or not, with its runs. -/
def waveDesc : WaveDesc := waveOf 0x10040 waveBytes 0
def waveSeq (p : Bool) (runs : List UnitRun) : SeqCmd :=
  { busySeq with
    cmd := { busySeq.cmd with kind := .wave waveDesc, env := { placed.env with ptbase := 0x40000 } }
    probed := p, frames := [1], alphas := [0], runs }
def waveUnit : Nat := (waveLine 1 0).unit
def opSeq : SeqCmd := { busySeq with runs := [UnitRun.start 0 0 line0.unit] }

/-- The wave in a space whose tables are empty. -/
def lostWave : SeqCmd := { waveSeq false [] with cmd := { (waveSeq false []).cmd with env := placed.env } }

/-- The space of a wave's pages at its sequencer. -/
def waveSpace (s : State) (c : SeqCmd) : Space :=
  s.dev.baseDie (((s.dev.waveStacks waveDesc c.cmd.env c.cmd.super).head?).getD 0) c.cmd.env.ptbase c.cmd.env.asid c.cmd.super
def openSeq : SeqCmd := { busySeq with cmd := { busySeq.cmd with kind := .open 6 line0 false } }
def releaseSeq : SeqCmd := { busySeq with cmd := { busySeq.cmd with kind := .release 0x20 line0 } }
def slotIn (st : SlotState) : Slot := ⟨line0.stack, line0.chan, line0.bank, rowSlot line0.row, st, line0.row, 3, none⟩

theorem sequencing_memOk (q : List SeqCmd) (sl : List Slot) : (sequencing q sl).MemOk := by
  obtain ⟨h1, h2, h3, h4⟩ : (sequencing [] []).MemOk := by refine ⟨?_, ?_, ?_, ?_⟩ <;> decide +kernel
  exact ⟨h1, h2, h3, h4⟩

theorem witness_BankEvents :
    ((∀ q sl, (sequencing q sl).MemOk) ∧ placed.dev.seqs = [] ∧ placed.dev.runOn 0 0 = none ∧ 0 ∈ (sequencing [] []).dev.admits
      ∧ 0 ∉ placed.dev.admits ∧ (sequencing [] []).dev.combines = [])
    ∧ ((sequencing [busySeq] []).dev.seqs = [busySeq] ∧ busySeq.runs = [] ∧ line0.stack = 0
      ∧ ((sequencing [busySeq] []).dev.slotOf line0).st ≠ .opening ∧ line0.unit ∉ (sequencing [busySeq] []).dev.busyUnits 0
      ∧ ((sequencing [busySeq] []).dev.busyUnits 0).length < ((sequencing [busySeq] []).dev.stack 0).unitLimit)
    ∧ ((sequencing [waveSeq false []] []).dev.seqs = [waveSeq false []] ∧ (waveSeq false []).probed = false
      ∧ (sequencing [waveSeq false []] []).findLc (waveSeq false []).who = some placed.lc ∧ placed.lc.breport = none
      ∧ waveDesc.scalars = 0 ∧ waveDesc.offends [some 1] = none
      ∧ (let s := sequencing [waveSeq false []] []
        s.dev.rowProbes (waveSpace s (waveSeq false [])) waveDesc.probes = (s.dev, .ok [some 1]))
      ∧ (let s := sequencing [lostWave] []
        ∃ k va, s.dev.rowProbes (waveSpace s lostWave) waveDesc.probes = (s.dev, .error (k, va))))
    ∧ ((sequencing [waveSeq true [UnitRun.start 0 0 waveUnit]] []).dev.runOn 0 waveUnit
        = some (waveSeq true [UnitRun.start 0 0 waveUnit], UnitRun.start 0 0 waveUnit)
      ∧ ((waveSeq true []).unitBanks waveDesc 0 waveUnit)[0]? = some (0, 0)
      ∧ ((waveSeq true []).unitBanks waveDesc 0 waveUnit).length ≤ ({ UnitRun.start 0 0 waveUnit with bank := 1 }).bank
      ∧ (UnitRun.start 0 0 waveUnit).yielded = false ∧ waveDesc.acc = false ∧ (waveSeq true []).todo = [])
    ∧ ((sequencing [opSeq] []).dev.runOn 0 line0.unit = some (opSeq, UnitRun.start 0 0 line0.unit)
      ∧ opSeq.cmd.kind = .op .zero false line0 none 0 0 0x20 0 ∧ BkOp.zero ≠ .fadd)
    ∧ ((sequencing [openSeq] []).dev.seqs = [openSeq] ∧ ((sequencing [openSeq] []).dev.slotOf line0).st = .free
      ∧ openSeq.who = (sequencing [openSeq] []).lc.key ∧ (sequencing [openSeq] []).lc.status ≠ .absent)
    ∧ (line0.row / 8192 < 4 ∧ ((sequencing [] [slotIn .opening]).dev.slotOf line0).st = .opening
      ∧ ((sequencing [] [slotIn .released]).dev.slotOf line0).st = .released
      ∧ (sequencing [releaseSeq] [slotIn .pinned]).dev.seqs = [releaseSeq]) := by
  refine ⟨⟨sequencing_memOk, ?_, ?_, ?_, ?_, ?_⟩, ⟨?_, ?_, ?_, ?_, ?_, ?_⟩, ⟨?_, ?_, ?_, ?_, ?_, ?_, ?_, ⟨.storePageFault, 0x10000, ?_⟩⟩, ⟨?_, ?_, ?_, ?_, ?_, ?_⟩, ⟨?_, ?_, ?_⟩,
    ⟨?_, ?_, ?_, ?_⟩, ?_, ?_, ?_, ?_⟩ <;> decide +kernel

theorem witness_LaneSlots : ∃ l : List Contender, 2 ≤ l.length ∧ (l.map (·.part)).Nodup ∧ l.length ≤ 8 ∧ ∀ c ∈ l, 0 < c.rem :=
  ⟨[⟨0, 5, 1, 0, 1, 0⟩, ⟨3, 7, 2, 0, 1, 0⟩], by decide⟩

/-- A broadcast to two elements, a load from a page that nothing maps, and their likes of a K stream, at the head. -/
def bcastEntry : VEntry := { (vec 2).capture (.bcast 1 .f32) false 0x10000 0 5 false with ctl := { VecCtl.reset with vl := 2 } }
def faultEntry : VEntry := { (vec 2).capture (.load 1 .unit false false .f32) false 0x30000 0 0 false with
  ctl := { VecCtl.reset with vl := 2 } }
def queueing (q : List VEntry) : State := { vecAhead 2 with part := { (vecAhead 2).part with vqueue := q } }
def longEntry : VEntry := { bcastEntry with ctl := { VecCtl.reset with vl := 1024 } }

/-- The same, an entry at the head having taken effect with its first slot. -/
def begun (e : VEntry) : State := { queueing [e] with part := { (queueing [e]).part with done := true } }

/-- A product in the pending slot, its first band begun. -/
def mmaEntry : VEntry := { (tiled .bf16 4).capture (.mma 0 0 2 .bf16 .bf16 false false false false) false 0 0 0 false with
  tcfg := grantCfg .bf16 8 8 32 }
def banding (started : Bool) : State :=
  { tiled .bf16 4 with runAhead := true, part := { (tiled .bf16 4).part with mslot := some ⟨mmaEntry, 0, started⟩ } }

/-- A bound LC with its context, a K stream and address stream 0. -/
def ctx0 (l : List (Option AStream)) : StackCtx :=
  { w := Vector.replicate 24 0, wPoison := Vector.replicate 24 0, wError := Vector.replicate 24 0, sq := Vector.replicate 4 []
    streams := Vector.ofFn (fun i => (l[i.val]?).getD none), buf := [], pos := 0, levels := [], bindAddr := 0x10000
    ptbase := placed.lc.ptbase, asid := placed.lc.asid, stalled := none }
def contexted (q : List VEntry) (l : List (Option AStream)) : State :=
  { bound 2 with lc := { (bound 2).lc with ctx := some (ctx0 l), kqueue := q }
                 dev := { (bound 2).dev with ctxUses := [⟨0, 1, 0, placed.lc.key⟩] } }
def kEntry (o : VOp) (x : Dword) : VEntry := { (bound 2).capture o true x 0 5 false with ctl := { VecCtl.reset with vl := 2 } }
def stepping (n : Nat) : AStream := ⟨0x10000, 4, 0, 8, 2, 0, false, n, false, 0⟩

/-- Whether an execution faults in a state with the property. -/
def faultsIn (p : State → Bool) : VRun → Bool
  | .error (.fault u _) => p u
  | _ => false
theorem fault_of {p : State → Bool} {x : VRun} (h : faultsIn p x = true) : ∃ u q, x = .error (.fault u q) ∧ p u = true := by
  obtain e | _ := x
  · obtain _ | ⟨u, q⟩ := e
    · exact absurd h (by simp [faultsIn])
    · exact ⟨u, q, rfl, h⟩
  · exact absurd h (by simp [faultsIn])
def runsIn (p : State → Bool) : VRun → Bool
  | .ok u => p u
  | _ => false
theorem run_of {p : State → Bool} {x : VRun} (h : runsIn p x = true) : ∃ u, x = .ok u ∧ p u = true := by
  obtain e | u := x
  · exact absurd h (by simp [runsIn])
  · exact ⟨u, rfl, h⟩

/-- A K stream at whose head an instruction runs, or faults. -/
def kRuns : State := contexted [kEntry (.bcast 1 .f32) 0] []
def kFaults : State := contexted [kEntry (.load 1 .unit false false .f32) 0x30000] []

/-- The same with a context of another LC of the SVU, whose turn it is. -/
def kWaits : State :=
  { kRuns with
    lcs := [{ kRuns.lc with key := ⟨7, 0⟩, status := .preempted }]
    dev := { kRuns.dev with ctxUses := [⟨0, 1, 0, placed.lc.key⟩, ⟨0, 1, 1, ⟨7, 0⟩⟩], served := [⟨0, 1, 0⟩] } }

theorem focused_of {s : State} (h1 : s.lc.status = .resident) (h2 : s.lc.core = s.part.core ∧ s.lc.partNo = s.part.no ∧ s.part.no < 8)
    (h3 : s.core.no = s.part.core) (h4 : s.lcs = []) : s.Focused := ⟨h1, h2, h3, by simp [h4]⟩

theorem contexted_focused (q : List VEntry) (l : List (Option AStream)) : (contexted q l).Focused :=
  have h : placed.Focused := focused_of rfl (by decide) rfl (by decide)
  ⟨h.resident, h.onPart, h.onCore, h.others⟩

theorem witness_StreamEvents_lanes :
    (queueing []).Focused ∧ (queueing []).part.vqueue = []
    ∧ (∀ n, n < 8 → n ≠ (queueing []).part.no → ((queueing []).findPart (queueing []).core.no n).vqueue = []
      ∧ ((queueing []).findPart (queueing []).core.no n).mslot = none)
    ∧ (queueing []).part.mslot = none
    ∧ ((begun longEntry).headReady = some longEntry ∧ (begun longEntry).part.done = true ∧ 8 < (begun longEntry).remOf longEntry)
    ∧ ((begun bcastEntry).headReady = some bcastEntry ∧ (begun bcastEntry).part.done = true
      ∧ 0 < (begun bcastEntry).remOf bcastEntry ∧ (begun bcastEntry).remOf bcastEntry ≤ 8)
    ∧ (banding true).part.mslot = some ⟨mmaEntry, 0, true⟩
    ∧ ∃ o, mmaEntry.mat = some o ∧ 0 < mmaEntry.bands o ∧ ∃ u, (banding true).runBand mmaEntry o 0 = .ok u := by
  refine ⟨focused_of rfl (by decide) rfl (by decide), ?_, ?_, ?_, ⟨?_, rfl, ?_⟩, ⟨?_, rfl, ?_, ?_⟩, rfl, _, rfl, ?_, ok_of ?_⟩
    <;> decide +kernel

theorem witness_StreamEvents_faults :
    (queueing [faultEntry]).Focused ∧ (queueing [faultEntry]).vStopped = false
    ∧ (queueing [faultEntry]).headWaits faultEntry = false ∧ faultEntry.mat = none ∧ (queueing [faultEntry]).owns = true
    ∧ (queueing [faultEntry]).part.done = false ∧ faultEntry.restart = none ∧ (queueing [faultEntry]).remOf faultEntry ≤ 1
    ∧ bcastEntry.stepwise = false
    ∧ (∃ u q, (queueing [faultEntry]).runEntry faultEntry = .error (.fault u q)
      ∧ (u.super == (queueing [faultEntry]).super && u.part.vqueue == [faultEntry]) = true)
    ∧ ∃ u, (queueing [bcastEntry]).runEntry bcastEntry = .ok u := by
  refine ⟨focused_of rfl (by decide) rfl (by decide), ?_, ?_, rfl, ?_, rfl, rfl, ?_, rfl, fault_of ?_, ok_of ?_⟩ <;> decide +kernel

theorem witness_StreamEvents_context :
    kRuns.Focused ∧ kFaults.Focused ∧ (ctx0 []).stalled = none ∧ kRuns.lc.ctx = some (ctx0 []) ∧ kRuns.lc.kreport = none
    ∧ ((kEntry .skloop 4).barrier = none ∧ (kEntry .skloop 4).abandons = false
      ∧ (kEntry (.bcast 1 .f32) 0).barrier = none ∧ (kEntry (.bcast 1 .f32) 0).abandons = false)
    ∧ (∃ u, kRuns.runEntry (kEntry (.bcast 1 .f32) 0) = .ok u ∧ (u.lc.kreport == none) = true)
    ∧ (∃ u q, kFaults.runEntry (kEntry (.load 1 .unit false false .f32) 0x30000) = .error (.fault u q)
      ∧ u.lc.ctx.isSome = true)
    ∧ (kRuns.dev.ctxUses.find? (fun x => x.owner == kRuns.lc.key) = some ⟨0, 1, 0, placed.lc.key⟩
      ∧ kRuns.ctxTurn ⟨0, 1, 0, placed.lc.key⟩ = true ∧ kFaults.ctxTurn ⟨0, 1, 0, placed.lc.key⟩ = true)
    ∧ (kWaits.Focused ∧ kWaits.dev.ctxUses.find? (fun x => x.owner == kWaits.lc.key) = some ⟨0, 1, 0, placed.lc.key⟩
      ∧ kWaits.ctxTurn ⟨0, 1, 0, placed.lc.key⟩ = false ∧ kWaits.kstep.isSome = true)
    ∧ ((ctx0 [some (stepping 3)]).streams[0] = some (stepping 3) ∧ (stepping 3).next < (stepping 3).count
      ∧ (stepping 3).indexed = false ∧ (stepping 8).count ≤ (stepping 8).next
      ∧ ((ctx0 [some (stepping 3)]).sq[0]).length < 64)
    ∧ (∀ u ∈ kRuns.dev.ctxUses, u.stack = 0 → u.svu = 1 → u.owner = kRuns.lc.key)
    ∧ (⟨0, 1, 0, placed.lc.key⟩ : CtxUse) ∈ kRuns.dev.ctxUses
    ∧ [(⟨ahead.lc.key, 0, 1, none⟩ : Bind)].find? (fun x => x.stack == 0 && x.svu == 1 && x.granted.isNone)
      = some ⟨ahead.lc.key, 0, 1, none⟩ := by
  have h : kWaits.Focused := ⟨rfl, by decide, rfl, by decide⟩
  refine ⟨contexted_focused _ _, contexted_focused _ _, rfl, rfl, ?_, ⟨?_, ?_, ?_, ?_⟩, run_of ?_, fault_of ?_,
    ⟨?_, ?_, ?_⟩, ⟨h, ?_, ?_, ?_⟩, ⟨?_, ?_, ?_, ?_, ?_⟩, ?_, ?_, ?_⟩ <;> decide +kernel

/-! #### Scheduling -/

/-- The placed machine with a preemption control, an LC changed, and another task of a higher priority for core 0. -/
def slicing (n : Nat) : State :=
  { placed with core := { placed.core with preempt := BitVec.ofNat 64 (1 + 2 ^ 40) }, lc := { placed.lc with slice := n, wdog := 64 * n } }
def urgentTask : Task := { placedTask with seq := 9, id := 9, prio := 15, lcn := 1, started := 0, lcsave := 0x10000, coremask := 1 }
def urgent (s : State) : State := { s with dev := { s.dev with tasks := s.dev.tasks ++ [urgentTask] } }
def fullCore : State :=
  let o (n : Nat) : Lc := { Lc.reset with key := ⟨100 + n, 0⟩, status := .resident, core := 0, partNo := n }
  urgent { placed with core := { placed.core with preempt := 1#64 <<< 63 }, lcs := [1, 2, 3, 4, 5, 6, 7].map o }
def counting (n : BitVec 48) : State :=
  { placed with lc := { placed.lc with pcsel := placed.lc.pcsel.set 2 0x30000, pcval := placed.lc.pcval.set 2 n } }
def due (c : Cause) : State := { placed with lc := { placed.lc with async := [(c, 7)] } }
def reporting : State := { placed with lc := { placed.lc with vreport := some (placed.report .loadPageFault 0x30000) } }

/-- An LC that has waited long at WAITI, its task with a save area and an LC to come. -/
def waitedLong : State :=
  let w := Memory.write placed.dev.mem placePa 4 (encode (.waiti 5)).toNat
  { placed with
    core := { placed.core with tlb := blocked.core.tlb }
    lc := { placed.lc with waited := 1000000000 }
    dev := { placed.dev with mem := w, tasks := [twoTask] } }

/-- The machine with MWAIT at the PC, its monitor reached; and one whose core 1 is free for a task's next LC. -/
def wakable : State := { woken ⟨7, false, false⟩ with dev := { (woken ⟨7, false, false⟩).dev with mem := Memory.write placed.dev.mem placePa 4 (encode (.mwait 6 4 0)).toNat } }
def wakeFetched : State := { wakable with ir := encode (.mwait 6 4 0) }
def offering : State := urgent { placed with lc := placed.lc }

theorem some_of {α : Type} {p : α → Bool} {x : Option α} (h : x.any p = true) : ∃ u, x = some u ∧ p u = true := by
  cases x with
  | some u => exact ⟨u, rfl, h⟩
  | none => simp at h
def okWith {ε α : Type} (p : α → Bool) : Except ε α → Bool
  | .ok u => p u
  | .error _ => false
theorem okWith_of {ε α : Type} {p : α → Bool} {x : Except ε α} (h : okWith p x = true) : ∃ u, x = .ok u ∧ p u = true := by
  cases x with
  | ok u => exact ⟨u, rfl, h⟩
  | error e => simp [okWith] at h

theorem witness_SchedulingEvents_counts :
    placed.Focused ∧ (slicing 0).lc.slice < 1024
    ∧ field (slicing 2000).core.preempt 0 24 ≠ 0 ∧ field (slicing 2000).core.preempt 0 24 * 1024 ≤ (slicing 2000).lc.slice
    ∧ (slicing 2000).firstTask (slicing 2000).core.no = none ∧ (urgent (slicing 2000)).firstTask (slicing 2000).core.no ≠ none
    ∧ field (slicing 0).core.preempt 40 16 ≠ 0 ∧ (slicing 0).lc.wdog < 65536
    ∧ field (slicing 2000).core.preempt 40 16 * 65536 ≤ (slicing 2000).lc.wdog
    ∧ placed.core.preempt.getLsbD 63 = false ∧ placed.core.preReq = none
    ∧ ((counting 5).lc.pcsel[2]).getLsbD 16 = true ∧ (counting 5).lc.pcval[2] ≠ BitVec.allOnes 48
    ∧ ((counting (BitVec.allOnes 48)).lc.pcsel[2]).getLsbD 17 = true
    ∧ (counting (BitVec.allOnes 48)).lc.pcval[2] = BitVec.allOnes 48 := by
  refine ⟨focused_of rfl (by decide) rfl (by decide), ?_, ?_, ?_, ?_, ?_, ?_, ?_, ?_, ?_, ?_, ?_, ?_, ?_, ?_⟩ <;> decide +kernel

theorem witness_SchedulingEvents_preempt :
    fullCore.Focused ∧ fullCore.core.preempt.getLsbD 63 = true ∧ fullCore.core.preReq = none
    ∧ (∀ n, n < 8 → fullCore.residentOn fullCore.core.no n ≠ none)
    ∧ fullCore.firstTask fullCore.core.no = some (urgentTask, .start)
    ∧ ∃ l, fullCore.lowest fullCore.core.no = some l ∧ decide (fullCore.prioOf l < urgentTask.prio) = true := by
  refine ⟨⟨rfl, by decide, rfl, by decide⟩, ?_, ?_, ?_, ?_, some_of ?_⟩ <;> decide +kernel

theorem witness_SchedulingEvents_traps :
    (due .counterOverflow).Focused ∧ (due .counterOverflow).lc.vreport = none ∧ (due .counterOverflow).lc.kreport = none
    ∧ (due .counterOverflow).super = false ∧ (due .counterOverflow).lc.async = [(.counterOverflow, 7)]
    ∧ Cause.counterOverflow ∈ asyncOrder ∧ (due .sliceExpired).lc.trap.smode = 0
    ∧ (due .counterOverflow).lc.nextsAnswer = none ∧ (due .counterOverflow).spawning = false
    ∧ (∀ c, (due .counterOverflow).SuperTakes c) ∧ (∃ r, reporting.lc.vreport = some r ∧ r.deferred = false
      ∧ reporting.SuperTakes r.cause) ∧ reporting.Focused ∧ reporting.lc.kreport = none ∧ reporting.spawning = false := by
  refine ⟨⟨rfl, by decide, rfl, by decide⟩, ?_, ?_, ?_, ?_, ?_, ?_, ?_, ?_, fun c => placed_takes c,
    ⟨_, rfl, ?_, placed_takes _⟩, ⟨rfl, by decide, rfl, by decide⟩, ?_, ?_⟩ <;> decide +kernel

theorem area_yield : waitedLong.AreaAt .store 0x1000_0000 256 (fun i => 0x1000_0000 + 64 * i) :=
  area_of (e := 0x1000_001F) rfl (by decide +kernel)

theorem witness_SchedulingEvents_yield :
    waitedLong.Focused ∧ waitedLong.MemOk ∧ placed.lc.waited = 0 ∧ waitedLong.lc.waited ≠ 0 ∧ waitedLong.othersRunnable = true
    ∧ waitedLong.core.yieldAfter < waitedLong.lc.waited
    ∧ (∃ f, waitedLong.fetch = .ok f ∧ (f.ir == encode (.waiti 5)) = true)
    ∧ decode (encode (.waiti 5)) = .ok (.waiti 5)
    ∧ ∃ u, waitedLong.task = some u ∧ u.scc = false ∧ u.saveArea waitedLong.lc.key.lcid = 0x1000_0000
      ∧ waitedLong.AreaAt .store 0x1000_0000 256 (fun i => 0x1000_0000 + 64 * i) := by
  refine ⟨⟨rfl, by decide, rfl, by decide⟩, ⟨?_, ?_, ?_, ?_⟩, ?_, ?_, ?_, ?_, okWith_of ?_, ?_,
    ⟨_, rfl, ?_, ?_, area_yield⟩⟩ <;> decide +kernel

theorem witness_SchedulingEvents_offers :
    offering.Focused ∧ offering.residentOn 0 0 ≠ none ∧ offering.residentOn 0 1 = none
    ∧ (∀ n, n < 1 → offering.residentOn 0 n ≠ none) ∧ offering.firstTask 0 = some (urgentTask, .start)
    ∧ urgentTask.gangWaits = false ∧ offering.spread urgentTask .start = some (0, 1) := by
  refine ⟨⟨rfl, by decide, rfl, by decide⟩, ?_, ?_, ?_, ?_, ?_, ?_⟩ <;> decide +kernel

theorem witness_SchedulingEvents_monitor :
    wakable.Focused ∧ (∀ m ∈ placed.dev.monitors, m.who = placed.lc.key → m.got = none)
    ∧ (∃ f, wakable.fetch = .ok f ∧ (f == wakeFetched) = true) ∧ decode wakeFetched.ir = .ok (.mwait 6 4 0)
    ∧ let f := wakeFetched
      f.Readable 4 ∧ f.Readable 0 ∧ f.Writable 6
      ∧ inWindow (f.getS 4) = false ∧ f.Reaches .load false true (f.getS 4) 8 (here 0) ∧ (here 0).monitored = some 0x10000
      ∧ f.CleanAt (here 0) ∧ f.dev.monitors.find? (fun x => x.who == wakable.lc.key) = some ⟨placed.lc.key, 0x10000, some ⟨7, false, false⟩⟩ := by
  refine ⟨⟨rfl, by decide, rfl, by decide⟩, by decide, okWith_of ?_, ?_, ⟨?_, ?_⟩, ⟨?_, ?_⟩,
    (by decide : wakeFetched.freeS 6 = true), ?_,
    reaches_of ?_, ?_, ⟨?_, ?_⟩, ?_⟩ <;> decide +kernel

end Sys2Proof.Tests
end

section
/-! Proofs, 02: the machine right after reset. -/

namespace Sys2Proof.Machine

/-- Every scalar register reads 0 and is clean right after reset (R35). -/
theorem State.reset_getS (r : SReg) : State.reset.getS r = 0 ∧ State.reset.poisonedS r = false := by
  constructor
  · unfold State.getS
    split
    · rfl
    · exact Vector.getElem_replicate _
  · simp [State.poisonedS, State.reset, Lc.reset]

theorem State.reset_tcfg (t : Fin 8) : State.reset.lc.tcfg[t] = TCfg.zero := Vector.getElem_replicate _

/-- No segment is held and every tile configuration is zero right after reset. -/
theorem State.reset_tilesOk : State.reset.TilesOk where
  segs := List.nodup_nil
  room := by decide
  rows := by decide
  cols := by decide

/-- Nothing is listed in memory right after reset. -/
theorem State.reset_memOk : State.reset.MemOk := ⟨rfl, rfl, by simp [State.reset], rfl, rfl⟩

/-- Settles O4: each register's reset value, read off the state. -/
theorem resetState : Obligations.ResetState := by
  unfold Obligations.ResetState
  refine ⟨rfl, rfl, rfl, rfl, State.reset_getS, rfl, rfl, rfl, rfl, rfl, rfl, rfl, rfl, rfl, rfl, rfl, rfl, by decide, rfl,
    rfl, rfl, rfl, rfl, rfl, State.reset_tcfg, rfl, rfl, State.reset_tilesOk, State.reset_memOk⟩

end Sys2Proof.Machine
end

section
/-! Proofs, 02: tasks, the iteration ring and the strip that an LC leaves: what each operation leaves of the state. -/

namespace Sys2Proof.Machine

/-! ### The task of the LC in focus -/

/-- A task changed without its number is found changed. -/
theorem Device.task_updTask {d : Device} {k : Nat} {u : Task} {f : Task → Task} (h : d.task k = some u)
    (hf : (f u).seq = u.seq) : (d.updTask k f).task k = some (f u) := by
  simp only [Device.task, Device.updTask] at h ⊢
  generalize d.tasks = l at h ⊢
  induction l with
  | nil => simp at h
  | cons t r ih =>
    by_cases e : t.seq = k
    · simp only [List.find?_cons, e, beq_self_eq_true, Option.some.injEq] at h
      subst h
      simp [hf, e]
    · have hb : (t.seq == k) = false := by simpa using e
      simp only [List.find?_cons, hb] at h
      simp only [List.map_cons, e, if_false, List.find?_cons, hb]
      exact ih h

/-- Another task is found as it was. -/
theorem Device.task_updTask_ne {d : Device} {k n : Nat} {f : Task → Task} (hn : n ≠ k) (hf : ∀ t, (f t).seq = t.seq) :
    (d.updTask k f).task n = d.task n := by
  simp only [Device.task, Device.updTask]
  induction d.tasks with
  | nil => rfl
  | cons t r ih =>
    simp only [List.map_cons, List.find?_cons, ih]
    by_cases e : t.seq = k
    · have h1 : ((f t).seq == n) = false := by simpa [hf, e] using hn.symm
      have h2 : (k == n) = false := by simpa using hn.symm
      simp [e, h1, h2]
    · simp [e]

/-- A task found has the number asked for. -/
theorem Device.task_seq {d : Device} {k : Nat} {u : Task} (h : d.task k = some u) : u.seq = k := by
  simpa using List.find?_some h

theorem State.task_updTask {s : State} {u : Task} {f : Task → Task} (h : s.task = some u) (hf : (f u).seq = u.seq) :
    (s.updTask f).task = some (f u) := Device.task_updTask h hf

/-! ### The iteration ring (R43) -/

/-- The ring's frontier advances over posted iterations only. -/
theorem advanceRing_posted (f : Nat) (l : List Nat) (i : Nat) :
    (i < (advanceRing f l).1 ∨ i ∈ (advanceRing f l).2) ↔ (i < f ∨ i ∈ l) := by
  induction l generalizing f with
  | nil => rfl
  | cons x r ih =>
    unfold advanceRing
    split
    · rename_i h
      subst h
      rw [ih, List.mem_cons, ← or_assoc, Nat.lt_succ_iff_lt_or_eq]
    · rfl

/-- PostRange posts exactly its range (R39). -/
theorem Task.isPosted_postRange (t : Task) (a b i : Nat) :
    (t.postRange a b).isPosted i = (t.isPosted i || (decide (a ≤ i) && decide (i < b))) := by
  have key := advanceRing_posted t.frontier (t.posted.filter (· < max a t.frontier)
    ++ (List.range (b - max a t.frontier)).map (max a t.frontier + ·)
    ++ t.posted.filter (fun i => max a t.frontier ≤ i && b ≤ i)) i
  have hr : (∃ x, x < b - max a t.frontier ∧ max a t.frontier + x = i) ↔ (max a t.frontier ≤ i ∧ i < b) :=
    ⟨by rintro ⟨x, h, rfl⟩; omega, fun h => ⟨i - max a t.frontier, by omega, by omega⟩⟩
  simp only [List.mem_append, List.mem_filter, List.mem_map, List.mem_range, hr, Bool.and_eq_true,
    decide_eq_true_eq] at key
  rw [Bool.eq_iff_iff]
  simp only [Task.isPosted, Bool.or_eq_true, decide_eq_true_eq, List.contains_iff_mem, Bool.and_eq_true]
  refine Iff.trans key ?_
  by_cases hp : i ∈ t.posted <;> simp only [hp, true_and, false_and, or_true, or_false, false_or, true_or, iff_true] <;>
    omega

@[simp] theorem Task.postRange_seq (t : Task) (a b : Nat) : (t.postRange a b).seq = t.seq := rfl

/-! ### Containment's commit (R281) -/

/-- What an open combining entry given back leaves (R203). -/
theorem Device.giveBack_rest (d : Device) (g : Nat) :
    { d.giveBack g with
      mem := d.mem, memPoison := d.memPoison, memError := d.memError, l2Error := d.l2Error, scrubs := d.scrubs
      monitors := d.monitors, combines := d.combines } = d := by
  unfold Device.giveBack
  split
  · rfl
  · rename_i c _
    have := Device.writeP_rest { d with combines := d.combines.filter (·.granule != g) } (64 * g) 64 (c.settled d)
      (d.memPoison.contains g || d.memError.contains g || d.l2Error.contains g)
    exact congrArg (fun x : Device => { x with combines := d.combines }) this

/-- What a write of some bytes of a granule leaves. -/
theorem Device.writeMasked_rest (d : Device) (g : Nat) (m : BitVec 64) (x : BitVec 512) (p : Bool) :
    { d.writeMasked g m x p with
      mem := d.mem, memPoison := d.memPoison, memError := d.memError, l2Error := d.l2Error, scrubs := d.scrubs
      monitors := d.monitors } = d := by
  simp only [Device.writeMasked, Device.wake]

/-- What it writes does not depend on the tasks. -/
theorem Device.writeMasked_tasks (d : Device) (ts : List Task) (g : Nat) (m : BitVec 64) (x : BitVec 512) (p : Bool) :
    ({ d with tasks := ts }).writeMasked g m x p = { d.writeMasked g m x p with tasks := ts } := by
  simp only [Device.writeMasked, Device.wake]
  rfl

/-- Nor does a write. -/
theorem Device.writeP_tasks (d : Device) (ts : List Task) (pa n x : Nat) (p : Bool) :
    ({ d with tasks := ts }).writeP pa n x p = { d.writeP pa n x p with tasks := ts } := by
  by_cases h : n = 0
  · simp only [Device.writeP, h, if_true]
  · simp only [Device.writeP, h, if_false, Device.wake]
    rfl

/-- Nor does what an open combining entry gives back. -/
theorem Device.giveBack_tasks (d : Device) (ts : List Task) (g : Nat) :
    ({ d with tasks := ts }).giveBack g = { d.giveBack g with tasks := ts } := by
  simp only [Device.giveBack]
  cases d.combines.find? (·.granule == g) with
  | none => rfl
  | some c =>
    exact Device.writeP_tasks { d with combines := d.combines.filter (·.granule != g) } ts (64 * g) 64 (c.settled d)
      (d.memPoison.contains g || d.memError.contains g || d.l2Error.contains g)

/-- What a held granule written leaves. -/
theorem Device.writeHeld_rest (d : Device) (h : Held) :
    { d.writeHeld h with
      mem := d.mem, memPoison := d.memPoison, memError := d.memError, l2Error := d.l2Error, scrubs := d.scrubs
      monitors := d.monitors, combines := d.combines } = d := by
  have h1 := (d.giveBack h.granule).writeMasked_rest h.granule h.mask h.data h.poison
  have h2 := d.giveBack_rest h.granule
  rw [← h1] at h2
  exact h2

/-- What a held granule writes does not depend on the tasks. -/
theorem Device.writeHeld_tasks (d : Device) (ts : List Task) (h : Held) :
    ({ d with tasks := ts }).writeHeld h = { d.writeHeld h with tasks := ts } := by
  rw [Device.writeHeld, Device.giveBack_tasks, Device.writeMasked_tasks]
  rfl

/-- The same for all that containment holds. -/
theorem Device.writeHelds_tasks (d : Device) (ts : List Task) (l : List Held) :
    l.foldl Device.writeHeld { d with tasks := ts } = { l.foldl Device.writeHeld d with tasks := ts } := by
  induction l generalizing d with
  | nil => rfl
  | cons h r ih => rw [List.foldl_cons, List.foldl_cons, Device.writeHeld_tasks, ih]

/-- What all that containment holds leaves when it is written. -/
theorem Device.writeHelds_rest (d : Device) (l : List Held) :
    { l.foldl Device.writeHeld d with
      mem := d.mem, memPoison := d.memPoison, memError := d.memError, l2Error := d.l2Error, scrubs := d.scrubs
      monitors := d.monitors, combines := d.combines } = d := by
  induction l generalizing d with
  | nil => rfl
  | cons h r ih =>
    rw [List.foldl_cons]
    have h1 := ih (d.writeHeld h)
    have h2 := d.writeHeld_rest h
    rw [← h1] at h2
    exact h2

/-! ### The strip that an LC leaves (R38, R39) -/

/-- The state with the strip that the LC holds posted, in a task with RING. -/
def State.posts (s : State) : State :=
  if s.heldLen ≠ 0 ∧ s.ringed then s.updTask (·.postRange s.lc.ebase.toNat (s.lc.ebase.toNat + s.heldLen)) else s

/-- Posting the strip changes the tasks alone. -/
theorem State.posts_eq (s : State) : ∃ ts, s.posts = { s with dev := { s.dev with tasks := ts } } := by
  unfold State.posts
  split
  · exact ⟨_, rfl⟩
  · exact ⟨_, rfl⟩

/-- The task after its strip is posted: nothing but its posted iterations has changed. -/
theorem State.posts_task {s : State} {u : Task} (h : s.task = some u) : ∃ v, s.posts.task = some v ∧ u.postsHeld s v
    ∧ { v with posted := u.posted, frontier := u.frontier } = u := by
  have hring : s.ringed = u.ring := by simp [State.ringed, h]
  unfold State.posts
  split
  · rename_i hc
    refine ⟨_, State.task_updTask h rfl, fun j => ?_, rfl⟩
    rw [Task.isPosted_postRange, ← hring, hc.2]
    simp
  · rename_i hc
    refine ⟨u, h, fun j => ?_, rfl⟩
    rw [← hring]
    have : (s.ringed && decide (s.lc.ebase.toNat ≤ j) && decide (j < s.lc.ebase.toNat + s.heldLen)) = false := by
      rw [Bool.and_assoc, Bool.and_eq_false_iff, Bool.and_eq_false_iff, decide_eq_false_iff_not,
        decide_eq_false_iff_not]
      by_cases hr : s.ringed = true
      · have : s.heldLen = 0 := by by_contra hn; exact hc ⟨hn, hr⟩
        omega
      · exact .inl (by simpa using hr)
    rw [this, Bool.or_false]

/-- A release waits for nothing once everything before it is performed and no host store has failed (R174, R308). -/
theorem State.releaseWait_ok {s : State} (h : s.svxDone = true) (he : s.lc.hostErr = none) :
    s.releaseWait = .ok () := by
  simp [State.releaseWait, State.hostFault, h, he]

/-- A release waits for earlier accesses (R174). -/
theorem State.releaseWait_wait {s : State} (h : s.svxDone = false) : s.releaseWait = .error .wait := by
  simp [State.releaseWait, h]

/-- The post of the strip goes on when the release it makes has nothing to wait for. -/
theorem State.postStrip_ok {s : State} (h : s.heldLen ≠ 0 → s.ringed = true → s.svxDone = true ∧ s.lc.hostErr = none) :
    s.postStrip = .ok s.posts := by
  unfold State.postStrip State.posts
  split
  · rename_i hc
    obtain ⟨hd, he⟩ := h hc.1 hc.2
    rw [State.releaseWait_ok hd he]
    rfl
  · rfl

/-- The post of the strip waits for earlier accesses. -/
theorem State.postStrip_wait {s : State} (hl : s.heldLen ≠ 0) (hr : s.ringed = true) (h : s.svxDone = false) :
    s.postStrip = .error .wait := by
  unfold State.postStrip
  rw [if_pos ⟨hl, hr⟩, State.releaseWait_wait h]
  rfl

/-- The state with what containment holds committed, in a task under SCC. -/
def State.commits (s : State) : State := if s.sccOf s.lc then s.commitHeld else s

/-- The commit goes on once earlier S- and V-stream work is performed (R281). -/
theorem State.commitStrip_ok {s : State} (h : s.sccOf s.lc = true → s.svDone = true) :
    s.commitStrip = .ok s.commits := by
  unfold State.commitStrip State.commits
  cases hc : s.sccOf s.lc
  · rfl
  · simp [h hc]

/-- The strip held does not depend on what is posted. -/
theorem State.posts_heldLen {s : State} {u : Task} (h : s.task = some u) : s.posts.heldLen = s.heldLen := by
  obtain ⟨v, hv, -, hk⟩ := State.posts_task h
  obtain ⟨ts, e⟩ := s.posts_eq
  have hm : v.mvl = u.mvl := by rw [← hk]; rfl
  have hlc : s.posts.lc = s.lc := by rw [e]
  simp only [State.heldLen, hv, h, Option.map_some, hm, hlc]

/-- Nor does SCC. -/
theorem State.posts_scc {s : State} {u : Task} (h : s.task = some u) : s.posts.sccOf s.posts.lc = u.scc := by
  obtain ⟨v, hv, -, hk⟩ := State.posts_task h
  have hm : v.scc = u.scc := by rw [← hk]
  have : s.posts.dev.task s.posts.lc.key.task = some v := hv
  simp [State.sccOf, this, hm]

/-- Of the state with the strip posted and committed: containment is empty under SCC, memory holds what it held, and
only units that a write reaches have changed besides. -/
structure State.LeftStrip (s t : State) (u : Task) (commit : Bool) : Prop where
  task : ∃ v, t.task = some v ∧ u.postsHeld s v ∧ { v with posted := u.posted, frontier := u.frontier } = u
  lc : { s.lc with contain := if commit then [] else s.lc.contain } = t.lc
  mem : t.dev.mem = if commit then s.commitHeld.dev.mem else s.dev.mem
  dev : { t.dev with
    mem := s.dev.mem, memPoison := s.dev.memPoison, memError := s.dev.memError, l2Error := s.dev.l2Error
    scrubs := s.dev.scrubs, monitors := s.dev.monitors, combines := s.dev.combines, tasks := s.dev.tasks } = s.dev
  rest : { t with lc := s.lc, dev := s.dev } = s

theorem State.leftStrip_posts {s : State} {u : Task} (h : s.task = some u) : s.LeftStrip s.posts u false := by
  obtain ⟨v, hv⟩ := State.posts_task h
  obtain ⟨ts, e⟩ := s.posts_eq
  refine ⟨⟨v, hv⟩, ?_, ?_, ?_, ?_⟩ <;> rw [e] <;> rfl

theorem State.leftStrip_commit {s : State} {u : Task} (h : s.task = some u) : s.LeftStrip s.posts.commitHeld u true := by
  obtain ⟨v, hv, hp, hk⟩ := State.posts_task h
  obtain ⟨ts, e⟩ := s.posts_eq
  have hd : s.posts.commitHeld.dev = { s.commitHeld.dev with tasks := ts } := by
    rw [e]
    exact Device.writeHelds_tasks s.dev ts s.lc.contain
  refine ⟨⟨v, ?_, hp, hk⟩, ?_, ?_, ?_, ?_⟩
  · rw [e] at hv
    rw [State.task, hd, ← hv, e]
    rfl
  · rw [e]
    rfl
  · rw [hd]
    rfl
  · rw [hd]
    exact congrArg (fun d : Device => { d with tasks := s.dev.tasks }) (s.dev.writeHelds_rest s.lc.contain)
  · rw [e]
    rfl

/-- The strip posted, and committed under SCC. -/
theorem State.leftStrip_commits {s : State} {u : Task} (h : s.task = some u) : s.LeftStrip s.posts.commits u u.scc := by
  have hs := State.posts_scc h
  unfold State.commits
  rw [hs]
  cases u.scc
  · exact State.leftStrip_posts h
  · exact State.leftStrip_commit h

end Sys2Proof.Machine
end

section
/-! Proofs, 02: strips, the iteration ring and barrier groups (R39, R41, R43). -/

namespace Sys2Proof.Machine

/-! ### NEXTS (R39, R367) -/

/-- A word offset from the PC, at the PC's width (R89). -/
theorem wordOffset_pc (o : BitVec 18) : (wordOffset o).setWidth 57 = o.signExtend 57 * 4 := by
  have h : o.signExtend 57 * (4 : BitVec 57) = o.signExtend 57 <<< 2 := by
    rw [BitVec.shiftLeft_eq_mul_twoPow]
    rfl
  rw [h, wordOffset]
  apply BitVec.eq_of_getLsbD_eq
  intro i hi
  by_cases h2 : i < 2
  · simp [hi, h2]
  · simp [hi, h2, BitVec.getElem_signExtend, show i - 2 < 64 by omega]

/-- The strip's registers as NEXTS sets them when it is dealt strip `k` (R39). -/
def State.TookStrip (s t : State) (u : Task) (o : BitVec 18) (k : Nat) : Prop :=
  t.lc.strip = BitVec.ofNat 64 k ∧ t.lc.ebase = BitVec.ofNat 64 (k * u.mvl)
    ∧ t.lc.erem = BitVec.ofNat 64 (u.elements - k * u.mvl)
    ∧ t.lc.vec.vl = BitVec.ofNat 13 (min u.mvl (u.elements - k * u.mvl))
    ∧ t.lc.pc = s.lc.pc + o.signExtend 57 * 4 ∧ t.lc.s = s.lc.s ∧ t.lc.nextsAnswer = none ∧ t.part = s.part
    ∧ t.core = s.core ∧ t.dev.mem = s.dev.mem

theorem State.takeStrip_some {s : State} {u : Task} (h : s.task = some u) (o : BitVec 18) (k : Nat) :
    s.TookStrip (s.takeStrip (some k) (s.lc.pc + (wordOffset o).setWidth 57)) u o k := by
  simp [State.TookStrip, State.takeStrip, h, wordOffset_pc, State.retireAt]

theorem State.takeStrip_none {s : State} {u : Task} (h : s.task = some u) (pc : BitVec 57) :
    let t := s.takeStrip none pc
    t.lc.strip = BitVec.allOnes 64 ∧ t.lc.ebase = BitVec.ofNat 64 u.elements ∧ t.lc.erem = 0 ∧ t.lc.vec.vl = 0
      ∧ t.lc.pc = s.lc.pc + 4 ∧ t.lc.s = s.lc.s ∧ t.part = s.part ∧ t.dev = s.dev := by
  simp [State.takeStrip, h]

/-- An answered NEXTS takes its strip (R39). -/
theorem exec_nexts_answered {s : State} {a : Option Nat} (o : BitVec 18) (h : s.lc.nextsAnswer = some a) :
    exec (.nexts o) s = .next (s.takeStrip a (s.lc.pc + (wordOffset o).setWidth 57)) := by
  show execNexts o s = _
  simp [execNexts, h]

/-- What NEXTS does with the strip it leaves (R39). -/
theorem State.leaveStrip_ok {s : State} {u : Task} (hu : s.task = some u)
    (h : s.heldLen ≠ 0 → (u.ring = true → s.svxDone = true ∧ s.lc.hostErr = none) ∧ (u.scc = true → s.svDone = true)) :
    ∃ t, s.leaveStrip = .ok t ∧ s.LeftStrip t u (decide (s.heldLen ≠ 0) && u.scc) := by
  have hr : s.ringed = u.ring := by simp [State.ringed, hu]
  have hp : s.postStrip = .ok s.posts := State.postStrip_ok fun hl hg => (h hl).1 (hr ▸ hg)
  have hl := State.posts_heldLen hu
  obtain ⟨ts, e⟩ := s.posts_eq
  by_cases h0 : s.heldLen = 0
  · refine ⟨s.posts, ?_, by simpa [h0] using State.leftStrip_posts hu⟩
    simp [State.leaveStrip, hp, bind, Except.bind, hl, h0]
  · have hc : s.posts.commitStrip = .ok s.posts.commits := State.commitStrip_ok fun hs => by
      rw [State.posts_scc hu] at hs
      rw [e]
      exact (h h0).2 hs
    refine ⟨s.posts.commits, ?_, by simpa [h0] using State.leftStrip_commits hu⟩
    simp [State.leaveStrip, hp, bind, Except.bind, hl, h0, hc]

/-- NEXTS before its answer, when the scalar unit runs ahead: it asks for a strip and stays (R39). -/
theorem exec_nexts_asks {s t : State} (o : BitVec 18) (h : s.lc.nextsAnswer = none) (hl : s.leaveStrip = .ok t)
    (hr : t.runAhead = true) : exec (.nexts o) s = .next { t with lc := { t.lc with nextsWait := true } } := by
  show execNexts o s = _
  simp [execNexts, h, hl, bind, Except.bind, hr]

/-- NEXTS waits for the accesses before the post of its strip (R39). -/
theorem exec_nexts_waits {s : State} (o : BitVec 18) (h : s.lc.nextsAnswer = none) (hl : s.heldLen ≠ 0)
    (hr : s.ringed = true) (hd : s.svxDone = false) : exec (.nexts o) s = .next s := by
  show execNexts o s = _
  simp [execNexts, h, State.leaveStrip, State.postStrip_wait hl hr hd, bind, Except.bind]

/-- NEXTS with no strip held is dealt the next one at once when the streams are followed in order (R39). -/
theorem exec_nexts_dealt {s : State} {u : Task} (o : BitVec 18) (hu : s.task = some u) (h : s.lc.nextsAnswer = none)
    (hl : s.heldLen = 0) (hr : s.runAhead = false) (hg : u.ring = false) (hn : u.nextStrip < u.strips) :
    ∃ t, exec (.nexts o) s = .next t ∧ s.TookStrip t u o u.nextStrip := by
  have hd : u.dispense = some ({ u with nextStrip := u.nextStrip + 1 }, some u.nextStrip) := by
    simp [Task.dispense, Nat.not_le.mpr hn, hg]
  have ht : (s.updTask fun _ => { u with nextStrip := u.nextStrip + 1 }).task
      = some { u with nextStrip := u.nextStrip + 1 } := State.task_updTask hu rfl
  have hp : s.leaveStrip = .ok s := by
    simp [State.leaveStrip, State.postStrip, hl, bind, Except.bind]
  refine ⟨_, ?_, State.takeStrip_some ht o u.nextStrip⟩
  show execNexts o s = _
  simp [execNexts, h, hp, bind, Except.bind, hr, State.dispense, hu, hd]

/-- NEXTS (R39, R43, R367). -/
theorem nextStrip_holds : nextStrip := by
  intro o u s hu
  have hring : s.ringed = u.ring := by simp [State.ringed, hu]
  refine ⟨fun k hk => ?_, fun hk => ?_, fun hk hr hc => ?_, fun hk hl hg hd => ?_, fun hk hl hr hg hn => ?_⟩
  · exact ⟨_, exec_nexts_answered o hk, State.takeStrip_some hu o k, rfl⟩
  · exact ⟨_, exec_nexts_answered o hk, State.takeStrip_none hu _⟩
  · obtain ⟨t, ht, ⟨v, hv, hp, -⟩, hlc, hmem, -, hrest⟩ := State.leaveStrip_ok hu hc
    have hra : t.runAhead = true := by rw [← hr, ← hrest]
    refine ⟨_, v, exec_nexts_asks o hk ht hra, hv, hp, ?_, ?_, ?_, ?_⟩
    · rw [← hlc]
      simp
    · simpa using hmem
    · rw [← hrest]
    · rw [← hrest]
  · exact exec_nexts_waits o hk hl (hring.trans hg) hd
  · exact exec_nexts_dealt o hu hk hl hr hg hn

/-! ### POST and WAITI (R43, R368, R425) -/

/-- The iteration that POST and WAITI name, in a task with RING. -/
theorem exec_post {s : State} {u : Task} {a : SReg} (hu : s.task = some u) (hg : u.ring = true) (ha : s.Readable a) :
    exec (.post a) s = s.finish (
      let i := (s.getS a).toNat
      if i < s.lc.ebase.toNat ∨ s.lc.ebase.toNat + s.heldLen ≤ i then s.raise .iterationOrder (s.getS a)
      else do
        s.releaseWait
        .ok (s.updTask (·.postRange i (i + 1))).retire) := by
  have hr : s.ringed = true := by simp [State.ringed, hu, hg]
  show execPost a s = _
  simp only [execPost, State.useS_ok ha, bind, Except.bind, hr]
  simp

theorem exec_waiti {s : State} {u : Task} {a : SReg} (hu : s.task = some u) (hg : u.ring = true) (ha : s.Readable a) :
    exec (.waiti a) s = s.finish (
      let i := (s.getS a).toNat
      if s.lc.ebase.toNat ≤ i ∨ u.elements ≤ i then s.raise .iterationOrder (s.getS a)
      else if u.isPosted i then .ok s.retire else .error .wait) := by
  have hr : s.ringed = true := by simp [State.ringed, hu, hg]
  show execWaiti a s = _
  simp only [execWaiti, State.useS_ok ha, bind, Except.bind, hr, hu]
  simp

/-- A cause that a scalar instruction raises and the supervisor takes. -/
theorem State.finish_raise {s : State} {c : Cause} (v : Dword) (h : s.SuperTakes c) :
    ∃ t, s.finish (s.raise c v) = .next t ∧ s.TrappedSuper t c v :=
  ⟨_, rfl, s.takeTrap_super c v h⟩

/-- POST and WAITI (R43, R368, R425). -/
theorem iterationRing_holds : iterationRing := by
  intro a u s hu hg ha
  simp only [exec_post hu hg ha, exec_waiti hu hg ha]
  refine ⟨fun hh hd he => ?_, fun hh hd => ?_, fun hh ht => ?_, fun hh hp => ?_, fun hh hp => ?_, fun hh ht => ?_⟩
  · rw [if_neg (by omega), State.releaseWait_ok hd he]
    refine ⟨_, _, rfl, State.task_updTask hu rfl, fun j => ?_, rfl, rfl, rfl, rfl, fun k hk => ?_⟩
    · rw [Task.isPosted_postRange]
      congr 1
      rw [Bool.eq_iff_iff]
      simp only [Bool.and_eq_true, decide_eq_true_eq]
      omega
    · exact Device.task_updTask_ne hk fun t => rfl
  · rw [if_neg (by omega), State.releaseWait_wait hd]
    rfl
  · rw [if_pos (by omega)]
    exact State.finish_raise _ ht
  · rw [if_neg (by omega), hp]
    exact ⟨_, rfl, rfl⟩
  · rw [if_neg (by omega), hp]
    rfl
  · rw [if_pos (by omega)]
    exact State.finish_raise _ ht

/-! ### Barrier groups (R41, R350, R351) -/

/-- A group of a task changed, and no other. -/
theorem Task.updGroup_groups (u : Task) {n : Nat} (h : n < 16) (f : Group → Group) :
    (u.updGroup n f).groups[n] = f u.groups[n]
      ∧ ∀ m (k : m < 16), m ≠ n → (u.updGroup n f).groups[m] = u.groups[m] := by
  have e : u.updGroup n f = { u with groups := u.groups.setIfInBounds n (f u.groups[n]) } := by
    simp [Task.updGroup, h]
  rw [e]
  refine ⟨by simp, fun m k hm => ?_⟩
  simp [hm.symm]

theorem Task.updGroup_seq (u : Task) (n : Nat) (f : Group → Group) : (u.updGroup n f).seq = u.seq := by
  unfold Task.updGroup
  split <;> rfl

/-- A group of the task of the LC in focus changed. -/
theorem State.group_changed {s : State} {u : Task} (hu : s.task = some u) {n : Nat} (h : n < 16) (f : Group → Group) :
    ∃ v : Task, (s.updTask (·.updGroup n f)).task = some v ∧ v.groups[n] = f u.groups[n]
      ∧ ∀ m (k : m < 16), m ≠ n → v.groups[m] = u.groups[m] :=
  ⟨_, State.task_updTask hu (u.updGroup_seq n f), u.updGroup_groups h f⟩

/-- A group number out of range is reported (R41). -/
theorem State.groupOf_invalid {s : State} {a : SReg} (ha : s.Readable a) (h : 16 ≤ (s.getS a).toNat) :
    s.groupOf a = s.raise .groupInvalid (s.getS a) := by
  simp [State.groupOf, State.useS_ok ha, bind, Except.bind, h]

theorem State.groupOf_ok {s : State} {a : SReg} (ha : s.Readable a) (h : (s.getS a).toNat < 16) :
    s.groupOf a = .ok ((s.getS a).toNat, s.lc.gmask.getLsbD (s.getS a).toNat) := by
  simp [State.groupOf, State.useS_ok ha, bind, Except.bind, Nat.not_le.mpr h]

/-- The generation of a group. -/
theorem State.generation_eq {s : State} {u : Task} (hu : s.task = some u) {n : Nat} (h : n < 16) :
    s.generation n = u.groups[n].generation := by
  simp [State.generation, hu, h]

/-- The last member that arrives starts the next generation, another is counted (R41). -/
theorem Group.arrive_eq (g : Group) : g.arrive
    = if g.arrived + 1 = g.members then { g with arrived := 0, generation := g.generation + 1 }
      else { g with arrived := g.arrived + 1 } := by
  simp [Group.arrive, Group.settle]

/-- Leaving a group (R41). -/
theorem Group.leave_eq (g : Group) : g.leave = groupLeft g := rfl

/-- GJOIN, GLEAVE and GBAR of a group out of range (R41). -/
theorem exec_group_invalid {s : State} {a : SReg} (ha : s.Readable a) (h : 16 ≤ (s.getS a).toNat) :
    exec (.gjoin a) s = s.finish (s.raise .groupInvalid (s.getS a))
      ∧ exec (.gleave a) s = s.finish (s.raise .groupInvalid (s.getS a))
      ∧ exec (.gbar a) s = s.finish (s.raise .groupInvalid (s.getS a)) := by
  have hg := State.groupOf_invalid ha h
  refine ⟨?_, ?_, ?_⟩
  · show execGjoin a s = _
    simp [execGjoin, hg, bind, Except.bind, State.raise]
  · show execGleave a s = _
    simp [execGleave, hg, bind, Except.bind, State.raise]
  · show execGbar a s = _
    simp [execGbar, hg, bind, Except.bind, State.raise]

/-- GJOIN of a group in range. -/
theorem exec_gjoin {s : State} {a : SReg} (ha : s.Readable a) (h : (s.getS a).toNat < 16) :
    exec (.gjoin a) s =
      let n := (s.getS a).toNat
      if s.lc.gmask.getLsbD n then .next s.retire
      else .next ({ s.updTask (·.updGroup n (fun x => { x with members := x.members + 1 })) with
        lc := { s.lc with gmask := s.lc.gmask ||| (1#16 <<< n) } }).retire := by
  show execGjoin a s = _
  simp only [execGjoin, State.groupOf_ok ha h, bind, Except.bind]
  split <;> rfl

/-- GLEAVE of a group in range. -/
theorem exec_gleave {s : State} {a : SReg} (ha : s.Readable a) (h : (s.getS a).toNat < 16) :
    exec (.gleave a) s =
      let n := (s.getS a).toNat
      if s.lc.gmask.getLsbD n then .next ({ s.updTask (·.updGroup n Group.leave) with
        lc := { s.lc with gmask := s.lc.gmask &&& ~~~(1#16 <<< n) } }).retire
      else s.finish (s.raise .groupNotMember (s.getS a)) := by
  show execGleave a s = _
  simp only [execGleave, State.groupOf_ok ha h, bind, Except.bind]
  cases s.lc.gmask.getLsbD (s.getS a).toNat <;> simp

/-- GBAR of a group that the LC is no member of. -/
theorem exec_gbar_stranger {s : State} {a : SReg} (ha : s.Readable a) (h : (s.getS a).toNat < 16)
    (hm : s.lc.gmask.getLsbD (s.getS a).toNat = false) :
    exec (.gbar a) s = s.finish (s.raise .groupNotMember (s.getS a)) := by
  show execGbar a s = _
  simp [execGbar, State.groupOf_ok ha h, bind, Except.bind, hm]

/-- GBAR of an arrival already recorded (R68): it goes on once its generation is over. -/
theorem exec_gbar_arrived {s : State} {u : Task} {a : SReg} {x : Nat × Nat} (hu : s.task = some u) (ha : s.Readable a)
    (h : (s.getS a).toNat < 16) (hm : s.lc.gmask.getLsbD (s.getS a).toNat = true)
    (hx : s.lc.bars.find? (·.1 == (s.getS a).toNat) = some x) :
    let n := (s.getS a).toNat
    exec (.gbar a) s = .next (if x.2 = u.groups[n].generation then s
      else ({ s with lc := { s.lc with bars := s.lc.bars.filter (·.1 != n) } }).retire) := by
  intro n
  show execGbar a s = _
  simp only [execGbar, State.groupOf_ok ha h, bind, Except.bind, hm, hx, State.generation_eq hu h, n]
  by_cases hg : x.2 = u.groups[(s.getS a).toNat].generation <;> simp [hg]

/-- GBAR that arrives (R41): the last member starts the next generation and goes on, another waits as arrived. -/
theorem exec_gbar_arrives {s : State} {u : Task} {a : SReg} (hu : s.task = some u) (ha : s.Readable a)
    (h : (s.getS a).toNat < 16) (hm : s.lc.gmask.getLsbD (s.getS a).toNat = true)
    (hb : s.lc.bars.find? (·.1 == (s.getS a).toNat) = none) (hd : s.svxDone = true) (he : s.lc.hostErr = none) :
    let n := (s.getS a).toNat
    let g := u.groups[n]
    let t := s.updTask (·.updGroup n Group.arrive)
    exec (.gbar a) s = .next (if g.arrived + 1 = g.members then t.retire
      else { t with lc := { t.lc with bars := t.lc.bars ++ [(n, g.generation)] } }) := by
  intro n g t
  obtain ⟨v, hv, hvn, -⟩ := State.group_changed hu h Group.arrive
  have hg : s.generation n = g.generation := State.generation_eq hu h
  have ht : t.generation n = g.arrive.generation := by rw [State.generation_eq hv h, hvn]
  have harr : g.arrive.generation = if g.arrived + 1 = g.members then g.generation + 1 else g.generation := by
    rw [Group.arrive_eq]
    split <;> rfl
  show execGbar a s = _
  simp only [execGbar, State.groupOf_ok ha h, bind, Except.bind, hm, hb, State.releaseWait_ok hd he]
  rw [ht, hg, harr]
  by_cases hl : g.arrived + 1 = g.members <;> simp [hl, n, t]

/-- GJOIN, GLEAVE and GBAR (R41, R350, R351). -/
theorem groupOperations_holds : groupOperations := by
  intro a u s hu ha
  refine ⟨fun h ht => ?_, fun h => ⟨fun hm => ⟨?_, fun ht => ?_⟩, fun hm => ⟨?_, ?_, fun hb hd he => ⟨fun hl => ?_,
    fun hl => ?_⟩, fun x hx => ⟨fun hg => ?_, fun hg => ?_⟩⟩⟩⟩
  · obtain ⟨hj, hl, hb⟩ := exec_group_invalid ha h
    rw [hj, hl, hb]
    exact ⟨State.finish_raise _ ht, State.finish_raise _ ht, State.finish_raise _ ht⟩
  · rw [exec_gjoin ha h]
    simp only [hm]
    exact ⟨_, rfl, State.group_changed hu h _, rfl, rfl⟩
  · rw [exec_gleave ha h, exec_gbar_stranger ha h hm]
    simp only [hm]
    exact ⟨State.finish_raise _ ht, State.finish_raise _ ht⟩
  · rw [exec_gjoin ha h]
    simp only [hm]
    exact ⟨_, rfl, rfl⟩
  · rw [exec_gleave ha h]
    simp only [hm]
    exact ⟨_, rfl, State.group_changed hu h Group.leave, rfl, rfl⟩
  · rw [exec_gbar_arrives hu ha h hm hb hd he, if_pos hl]
    refine ⟨_, rfl, ?_, rfl, rfl⟩
    have := State.group_changed hu h Group.arrive
    rwa [Group.arrive_eq, if_pos hl] at this
  · rw [exec_gbar_arrives hu ha h hm hb hd he, if_neg hl]
    refine ⟨_, rfl, ?_, rfl, rfl⟩
    have := State.group_changed hu h Group.arrive
    rwa [Group.arrive_eq, if_neg hl] at this
  · rw [exec_gbar_arrived hu ha h hm hx, if_pos hg]
  · rw [exec_gbar_arrived hu ha h hm hx, if_neg hg]
    exact ⟨_, rfl, rfl⟩

/-- Settles O20: strips, the iteration ring and groups, each from what its instructions do. -/
theorem stripsAndGroups : Obligations.StripsAndGroups := by
  unfold Obligations.StripsAndGroups
  exact ⟨nextStrip_holds, iterationRing_holds, groupOperations_holds⟩

end Sys2Proof.Machine
end

section
/-! Proofs, 02: the hand-off of a vector instruction and the checks made before it (R40, R103, R191, R192). -/

namespace Sys2Proof.Machine

/-! ### What a form hands off -/

/-- The state from which a form is handed off: the scalar result of an unplaced one is claimed (R192). -/
def VForm.from (f : VForm) (s : State) : State := if f.placed then s else s.claimed f

/-- A form that is ready hands its operation off, with its scalar operand captured (R40, R191). -/
theorem VForm.exec_handOff {f : VForm} {s : State} {i : Instr} (hf : vform i = some f) (h : f.Ready s) :
    ∃ (x : Dword) (xp : Bool), (∀ r, f.read = some r → x = s.getS r)
      ∧ (∀ r, f.carry = some r → x = s.getS r ∧ xp = s.poisonedS r)
      ∧ ∀ t, (f.from s).handOff f.placed f.op x 0 0 xp f.heads = .ok t → exec i s = .next t.retire := by
  obtain ⟨g, m⟩ := vform_means i f hf
  have hg := h.guard m
  rcases m.shape with ⟨hr, hw, hc, he⟩ | ⟨r, hr, hw, hc, hh, he⟩ | ⟨r, hw, hr, hc, hh, he⟩ | ⟨r, hc, hr, hw, hh, he⟩
  · have e : f.from s = s := by simp [VForm.from, State.claimed, hw]
    refine ⟨0, false, by simp [hr], by simp [hc], fun t ht => ?_⟩
    rw [e] at ht
    rw [he, State.vop, hg]
    simp only [bind, Except.bind, ht, State.finish_ok]
  · have e : f.from s = s := by simp [VForm.from, State.claimed, hw]
    refine ⟨s.getS r, false, by simp [hr], by simp [hc], fun t ht => ?_⟩
    rw [e, hh] at ht
    rw [he, State.vopS, hg, State.useS_ok (h.read r hr)]
    simp only [bind, Except.bind, ht, State.finish_ok]
  · have e : f.from s = if f.placed then s else s.claim r := by simp [VForm.from, State.claimed, hw]
    refine ⟨0, false, by simp [hr], by simp [hc], fun t ht => ?_⟩
    rw [e, hh] at ht
    rw [he, State.vopD, hg, State.claimS_ok (h.write r hw)]
    simp only [bind, Except.bind, ht, State.finish_ok]
  · have e : f.from s = s := by simp [VForm.from, State.claimed, hw]
    refine ⟨s.getS r, s.poisonedS r, by simp [hr], by simp [hc], fun t ht => ?_⟩
    rw [e, hh] at ht
    rw [he, hg, State.moveS_ok (h.carry r hc)]
    simp only [bind, Except.bind, ht, State.finish_ok]

/-- The accesses of two dimensions are those whose operation says so (R156). -/
theorem vform_twoD {i : Instr} {f : VForm} (h : vform i = some f) : f.op.twoD = f.twoD := by
  cases i <;> simp only [vform, reduceCtorEq, Option.some.injEq] at h <;> subst h <;> first
  | rfl
  | (rename_i m _ _ _; cases m <;> rfl)

/-- A placed form that writes a scalar register returns it from its element (R192). -/
theorem vform_placed_write {i : Instr} {f : VForm} {r : SReg} (h : vform i = some f) (hw : f.write = some r)
    (hp : f.placed = true) : ∃ a t, f.op = .extract r a t := by
  cases i <;> simp only [vform, reduceCtorEq, Option.some.injEq] at h <;> subst h <;>
    simp only [reduceCtorEq, Option.some.injEq] at hw hp
  subst hw
  exact ⟨_, _, rfl⟩

/-! ### What is captured -/

/-- The low bits of a mask register. -/
theorem lowMask_getLsbD (n : Nat) (k : KBits) (j : Nat) : (lowMask n k).getLsbD j = (decide (j < n) && k.getLsbD j) := by
  simp only [lowMask, BitVec.getLsbD_and, BitVec.getLsbD_ofNat, Nat.testBit_two_pow_sub_one]
  by_cases hj : j < 1024
  · simp [hj, Bool.and_comm]
  · simp [BitVec.getLsbD_of_ge _ _ (Nat.le_of_not_lt hj)]

/-- The k registers that a ready placed form captures are clean and written by no earlier instruction (R191). -/
theorem VForm.Ready.captured {f : VForm} {s : State} (h : f.Ready s) (hp : f.placed = true) :
    ∀ k ∈ s.capturedK f.heads, s.kBusy k = false ∧ s.kpois k = 0 := by
  intro k hk
  refine h.masks hp k ?_
  simp only [State.capturedK, List.mem_append] at hk
  rcases hk with hk | hk
  · left
    by_cases hv : s.lc.vec.vmsel = 8
    · simp [hv] at hk
    · simpa [hv] using hk
  · right
    obtain ⟨b, hb, rfl⟩ : ∃ b, f.heads = some b ∧ b.toNat = k := by simpa using hk
    exact ⟨b, hb, rfl⟩

/-! ### The state after the hand-off -/

/-- The claim of a scalar result adds to the registers that another stream will write (R192). -/
theorem State.claimed_eq (s : State) (f : VForm) :
    s.claimed f = { s with lc := { s.lc with pending := s.lc.pending ++ f.write.toList.filter (· ≠ 0) } } := by
  unfold State.claimed
  cases f.write with
  | none => simp
  | some d =>
    unfold State.claim
    by_cases hd : d = 0#6 <;> simp [hd]

/-- An unplaced form enters the V stream, its scalar result claimed (R40, R192). -/
theorem VForm.exec_v {f : VForm} {s : State} {i : Instr} (hf : vform i = some f) (h : f.Ready s) (hp : f.placed = false)
    (hr : s.runAhead = true) : ∃ (x : Dword) (xp : Bool), (∀ r, f.read = some r → x = s.getS r)
      ∧ (∀ r, f.carry = some r → x = s.getS r ∧ xp = s.poisonedS r)
      ∧ exec i s = .next ({ s with
        part := { s.part with vqueue := s.part.vqueue ++ [s.capture f.op false x 0 0 xp] }
        lc := { s.lc with
          passed := s.lc.passed + 1, pending := s.lc.pending ++ f.write.toList.filter (· ≠ 0) } }).retire := by
  obtain ⟨x, xp, hx, hc, he⟩ := VForm.exec_handOff hf h
  have hroom : s.part.vqueue.length < 32 := by simpa [hp] using h.room
  refine ⟨x, xp, hx, hc, ?_⟩
  have ht := (s.claimed f).handOff_v f.op x 0 0 xp f.heads (by rw [State.claimed_eq]; exact hr)
    (by rw [State.claimed_eq]; exact hroom)
  rw [hp, VForm.from, if_neg (by simp [hp])] at he
  rw [he _ ht, State.claimed_eq]
  rfl

/-- A placed form enters the K stream (R191). -/
theorem VForm.exec_k {f : VForm} {s : State} {i : Instr} (hf : vform i = some f) (h : f.Ready s) (hp : f.placed = true)
    (hr : s.runAhead = true) : ∃ (x : Dword) (xp : Bool), (∀ r, f.read = some r → x = s.getS r)
      ∧ (∀ r, f.carry = some r → x = s.getS r ∧ xp = s.poisonedS r)
      ∧ exec i s = .next ({ s with lc := { s.lc with
        kqueue := s.lc.kqueue ++ [s.capture f.op true x 0 0 xp f.heads], passed := s.lc.passed + 1 } }.count 7 1).retire := by
  obtain ⟨x, xp, hx, hc, he⟩ := VForm.exec_handOff hf h
  have hroom : s.lc.kqueue.length < 32 := by simpa [hp] using h.room
  refine ⟨x, xp, hx, hc, ?_⟩
  rw [hp, VForm.from, if_pos hp] at he
  exact he _ (s.handOff_k f.op x 0 0 xp f.heads hr hroom (h.loops hp) (h.captured hp))

/-- A register that another stream will write is not free (R192). -/
theorem State.freeS_pending {s : State} {r : SReg} (h : r ∈ s.lc.pending) (h0 : r ≠ 0) : s.freeS r = false := by
  have hc : s.lc.pending.contains r = true := by simpa using h
  have h0' : (r == 0) = false := by simpa using h0
  unfold State.freeS
  rw [hc, h0']
  rfl

/-- Nor is the register that an entry of the K stream returns a value to (R192). -/
theorem State.freeS_returns {s : State} {r : SReg} {e : VEntry} (h : e ∈ s.lc.kqueue) (he : e.returns = some r)
    (h0 : r ≠ 0) : s.freeS r = false := by
  have h0' : (r == 0) = false := by simpa using h0
  have ho : e ∈ s.lc.kOutstanding := List.mem_append_right _ h
  have hall : s.lc.kOutstanding.all (fun e => e.returns != some r) = false := by
    rw [List.all_eq_false]
    exact ⟨e, ho, by simp [he]⟩
  unfold State.freeS
  rw [hall, h0']
  simp

/-- The governing mask that a placed instruction captures (R191). -/
theorem State.capture_kmask {i : Instr} {f : VForm} (hf : vform i = some f) (s : State) (x : Dword) (xp : Bool)
    (hv : s.lc.vec.vmsel ≠ 8) (j : Nat) : (s.capture f.op true x 0 0 xp f.heads).kmask.getLsbD j
      = (decide (j < if f.twoD then s.lc.vec.vl.toNat * s.lc.vec.rowcnt.toNat else s.lc.vec.vl.toNat)
        && (s.kreg s.lc.vec.vmsel.toNat).getLsbD j) := by
  have hb : (s.lc.vec.vmsel != 8) = true := by simpa using hv
  have hk : (s.capture f.op true x 0 0 xp f.heads).kmask
      = lowMask (if f.op.twoD then s.lc.vec.vl.toNat * s.lc.vec.rowcnt.toNat else s.lc.vec.vl.toNat)
        (s.kreg s.lc.vec.vmsel.toNat) := by
    simp only [State.capture, State.kreg, hb, Bool.true_and, if_true]
  rw [hk, lowMask_getLsbD, vform_twoD hf]

/-- Every form of MAJ 20 to 2B enters its stream (R40, R55, R191, R192). -/
theorem vectorEnters_holds : vectorEnters := by
  intro i f s hf h hr
  cases hp : f.placed
  case false =>
    obtain ⟨x, xp, hx, hc, he⟩ := VForm.exec_v hf h hp hr
    refine ⟨_, s.capture f.op false x 0 0 xp, he, rfl, rfl, rfl, rfl, rfl, rfl, rfl, rfl, rfl, hx, hc, by simp, rfl, ?_,
      fun r hw h0 => State.freeS_pending ?_ h0, rfl, rfl, rfl, rfl, fun _ => ⟨rfl, rfl⟩, rfl, rfl, rfl⟩
    · simp
    · simp [hw, show ¬r = 0#6 from h0]
  case true =>
    obtain ⟨x, xp, hx, hc, he⟩ := VForm.exec_k hf h hp hr
    refine ⟨_, s.capture f.op true x 0 0 xp f.heads, he, rfl, rfl, rfl, rfl, rfl, rfl, rfl, rfl, rfl, hx, hc,
      fun _ hv j => s.capture_kmask hf x xp hv j, ?_, rfl, fun r hw h0 => ?_, ?_, rfl, rfl, rfl, by simp, rfl, rfl, rfl⟩
    · simp
    · obtain ⟨a, t, ho⟩ := vform_placed_write hf hw hp
      refine State.freeS_returns (e := s.capture f.op true x 0 0 xp f.heads) (by simp) ?_ h0
      simp [VEntry.returns, State.capture, ho]
    · simp

/-! ### The checks before the hand-off -/

/-- VIOTA's checks and its hand-off. -/
theorem exec_viota (p : Bool) (d : VReg) (t : Ty) (s : State) : exec (.viota p d t) s
    = s.finish (s.vop p (vguard p [(20, d)] [] t (tyI t)) (.iota d t)) := rfl

/-- A check that fails is what the instruction raises (R103). -/
theorem State.vop_guard_error {s : State} {p : Bool} {g : Guard} {op : VOp} {c : Cause} {v : Dword}
    (h : s.guard g = s.raise c v) : s.vop p g op = s.raise c v := by
  rw [State.vop, h]
  rfl

/-- The widest element of an integer type is the element itself, and MVL counts it (R71, R86). -/
theorem viota_mvl {t : Ty} (p : Bool) (h : t.cls = .I) : mvlOf p t.regBits = (if p then 8192 else 32768) / t.bits
    ∧ t.regBits ≠ 0 := by
  rw [mvlOf_eq]
  cases t <;> simp_all [Ty.regBits, Ty.cls, Ty.bits]

/-- The checks before the hand-off, in their order (R103, R445). -/
theorem handOffChecks_holds : handOffChecks := by
  intro p d t s
  simp only [exec_viota]
  refine ⟨fun hp hd ht => ?_, fun hd => ⟨fun hc ht => ?_, fun hc => ⟨fun ho ht => ?_, fun ho => ⟨fun hp hb ht => ?_,
    fun hb hv ht => ?_⟩⟩⟩⟩
  · rw [State.vop_guard_error (c := .badRegister) (v := 20)]
    · exact State.finish_raise _ ht
    · simp [State.guard, vguard, vecOk, hp, Nat.not_lt.mpr hd]
  all_goals have hreg : vecOk p d = true := by cases p <;> simp_all [vecOk]
  · rw [State.vop_guard_error (c := .badType) (v := BitVec.ofNat 64 t.ctorIdx)]
    · exact State.finish_raise _ ht
    · have hty : tyI t = false := by simpa [tyI] using hc
      simp [State.guard, vguard, hreg, hty, tyCode]
  all_goals have hty : tyI t = true := by simp [tyI, hc]
  · rw [State.vop_guard_error (c := .vectorStateNotOwned) (v := 0)]
    · exact State.finish_raise _ ht
    · simp [State.guard, vguard, hreg, hty, ho]
  · rw [State.vop_guard_error (c := .stackContextUnbound) (v := 0)]
    · exact State.finish_raise _ ht
    · subst hp
      have hb' : s.lc.saff[63] = false := by simpa using hb
      simp [State.guard, vguard, hreg, hty, ho, hb']
  · rw [State.vop_guard_error (c := .badControlState) (v := 0)]
    · exact State.finish_raise _ ht
    · obtain ⟨hm, hz⟩ := viota_mvl p hc
      have hb' : p = true → s.lc.saff[63] = true := by simpa using hb
      rw [← hm] at hv
      simp +contextual [State.guard, vguard, hreg, hty, ho, hb', State.checkVl, hz, hv]

/-- Settles O24: a ready form enters its stream as captured, and the first check that fails is raised. -/
theorem vectorHandOff : Obligations.VectorHandOff := by
  unfold Obligations.VectorHandOff
  exact ⟨vectorEnters_holds, handOffChecks_holds⟩

end Sys2Proof.Machine
end

section
/-! Proofs, 02: the elements that a vector instruction writes, the segments of a reduction and its flags (R45, R104,
R405, R419). -/

namespace Sys2Proof.Machine

/-! ### Elements written to a register -/

/-- An element below a register's end does not depend on what lies above it. -/
theorem getE_mod {x n w i : Nat} (h : w * (i + 1) ≤ n) : getE (x % 2 ^ n) w i = getE x w i := by
  unfold getE
  rw [Nat.shiftRight_eq_div_pow, Nat.shiftRight_eq_div_pow]
  have e : 2 ^ (w * (i + 1)) = 2 ^ (w * i) * 2 ^ w := by rw [← pow_add]; ring_nf
  rw [← Nat.mod_mul_right_div_self, ← Nat.mod_mul_right_div_self, ← e, Nat.mod_mod_of_dvd _ (pow_dvd_pow 2 h)]

/-- Elements written to a v register, none of them twice: each reads as written, every other one as before. -/
theorem State.wroteElems_writeElems (s : State) (d : VReg) (w : Nat) (ws : List EltW) (hn : (ws.map (·.1)).Nodup) :
    s.WroteElems (s.writeElems false d w ws) d w (fun j => (ws.find? (·.1 == j)).map (·.2.1)) where
  elems j hj := by
    have hw : w * (j + 1) ≤ 32768 :=
      (Nat.mul_le_mul_left w hj).trans (Nat.mul_div_le 32768 w)
    have hv : (s.writeElems false d w ws).part.v[d.toNat]
        = BitVec.ofNat 32768 (ws.foldl (fun x e => putE x w e.1 e.2.1) s.part.v[d.toNat].toNat) :=
      Vector.getElem_set_self _
    have := getE_fold (w := w) (j := j) ws hn s.part.v[d.toNat].toNat
    rw [hv]
    change getE _ w j = _
    rw [BitVec.toNat_ofNat, getE_mod hw, this]
    cases ws.find? (fun e => e.1 == j) <;> rfl
  others r hr := by
    have hne : d.toNat ≠ r.toNat := fun h => hr (BitVec.eq_of_toNat_eq h).symm
    exact ⟨Vector.getElem_set_ne d.isLt r.isLt hne, Vector.getElem_set_ne d.isLt r.isLt hne⟩
  masks := ⟨rfl, rfl⟩

/-- Writing elements of a v register changes nothing else. -/
theorem State.writeElems_rest (s : State) (d : VReg) (w : Nat) (ws : List EltW) :
    (s.writeElems false d w ws).lc = s.lc
      ∧ { (s.writeElems false d w ws).part with v := s.part.v, vPoison := s.part.vPoison } = s.part
      ∧ { s.writeElems false d w ws with part := s.part } = s := ⟨rfl, rfl, rfl⟩

/-! ### The segments of a reduction (R45) -/

/-- The segments that begin at ascending heads, the last of which ends at `n`. -/
def segmentsFrom (n : Nat) : List Nat → List (Nat × List Nat)
  | [] => []
  | h :: r => (h, (List.range (r.headD n - h)).map (· + h)) :: segmentsFrom n r

/-- The heads of the segments (R45). -/
def segmentHeads (heads : Nat → Bool) (n : Nat) : List Nat := (List.range n).filter (fun i => i == 0 || heads i)

theorem segmentsFrom_zipIdx (n : Nat) (pre r : List Nat) :
    (r.zipIdx pre.length).map (fun h => (h.1, (List.range (((pre ++ r)[h.2 + 1]?.getD n) - h.1)).map (· + h.1)))
      = segmentsFrom n r := by
  induction r generalizing pre with
  | nil => rfl
  | cons h r ih =>
    have ih' := ih (pre ++ [h])
    simp only [List.length_append, List.length_singleton, List.append_assoc, List.singleton_append] at ih'
    rw [List.zipIdx_cons, List.map_cons, ih', segmentsFrom]
    congr 4
    cases r <;> simp

/-- The segments go from head to head. -/
theorem segments_eq (heads : Nat → Bool) (n : Nat) : segments heads n = segmentsFrom n (segmentHeads heads n) :=
  segmentsFrom_zipIdx n [] (segmentHeads heads n)

/-- The elements of segments with ascending heads ascend, from the first head to below `n`. -/
theorem segmentsFrom_ascend {n : Nat} {hs : List Nat} (hp : hs.Pairwise (· < ·)) (hn : ∀ h ∈ hs, h < n) :
    ((segmentsFrom n hs).flatMap (·.2)).Pairwise (· < ·)
      ∧ ∀ i ∈ (segmentsFrom n hs).flatMap (·.2), hs.headD n ≤ i ∧ i < n := by
  induction hs with
  | nil => simp [segmentsFrom]
  | cons h r ih =>
    obtain ⟨hlt, hr⟩ := List.pairwise_cons.mp hp
    obtain ⟨hasc, hin⟩ := ih hr fun x hx => hn x (List.mem_cons_of_mem h hx)
    have hnext : h < r.headD n ∧ r.headD n ≤ n := by
      cases r with
      | nil => exact ⟨hn h (by simp), le_refl n⟩
      | cons k r => exact ⟨hlt k (by simp), (hn k (by simp)).le⟩
    have hseg : ∀ i ∈ (List.range (r.headD n - h)).map (· + h), h ≤ i ∧ i < r.headD n := by
      simp only [List.mem_map, List.mem_range]
      rintro i ⟨k, hk, rfl⟩
      omega
    simp only [segmentsFrom, List.flatMap_cons, List.headD_cons]
    refine ⟨List.pairwise_append.mpr ⟨?_, hasc, fun a ha b hb => ?_⟩, fun i hi => ?_⟩
    · refine List.pairwise_map.mpr (List.pairwise_lt_range.imp ?_)
      intro a b hab
      exact Nat.add_lt_add_right hab h
    · exact (hseg a ha).2.trans_le (hin b hb).1
    · rcases List.mem_append.mp hi with hi | hi
      · have := hseg i hi
        omega
      · have := hin i hi
        omega

theorem segmentHeads_ascend (heads : Nat → Bool) (n : Nat) :
    (segmentHeads heads n).Pairwise (· < ·) ∧ ∀ h ∈ segmentHeads heads n, h < n :=
  ⟨List.pairwise_lt_range.filter _, fun _ hh => List.mem_range.mp (List.mem_filter.mp hh).1⟩

/-- The elements of all segments ascend. -/
theorem segments_ascend (heads : Nat → Bool) (n : Nat) : ((segments heads n).flatMap (·.2)).Pairwise (· < ·) := by
  rw [segments_eq]
  exact (segmentsFrom_ascend (segmentHeads_ascend heads n).1 (segmentHeads_ascend heads n).2).1

/-- A segment's elements lie below `n`. -/
theorem segments_lt {heads : Nat → Bool} {n : Nat} {g : Nat × List Nat} (hg : g ∈ segments heads n) {i : Nat} (hi : i ∈ g.2) :
    i < n := by
  rw [segments_eq] at hg
  exact ((segmentsFrom_ascend (segmentHeads_ascend heads n).1 (segmentHeads_ascend heads n).2).2 i
    (List.mem_flatMap.mpr ⟨g, hg, hi⟩)).2

/-- A scan gives each element of its segment its running sum, in order. -/
theorem scanSegment_map (t : Ty) (mode acc : Nat) (l : List (Nat × Nat)) :
    (scanSegment t mode acc l).map (·.1) = l.map (·.1) := by
  induction l generalizing acc with
  | nil => rfl
  | cons x r ih =>
    rw [scanSegment, List.map_cons, List.map_cons]
    exact congrArg _ (ih _)

/-! ### What a reduction or scan writes -/

/-- The active elements of each segment with their values (R45). -/
def State.redParts (s : State) (a kb : VReg) (t : Ty) (seg : Bool) : List (Nat × List (Nat × Nat)) :=
  (segments (fun j => seg && (s.kreg kb.toNat).getLsbD j) s.lc.vec.vl.toNat).map (fun g =>
    (g.1, (g.2.filter s.activeAt).map (fun j => (j, elem s.part.v[a.toNat] t.bits j))))

/-- The result of each segment, with its flags. -/
def State.redResults (s : State) (o : VRed) (a kb : VReg) (t : Ty) (seg : Bool) : List (Nat × Flags) :=
  (s.redParts a kb t seg).map (fun g => redSegment o t s.lc.vec.frm.toNat g.1 g.2)

/-- The running sums of all segments, each with its element and its flags. -/
def State.scanResults (s : State) (a kb : VReg) (t : Ty) (seg : Bool) : List (Nat × Nat × Flags) :=
  (s.redParts a kb t seg).flatMap (fun g => scanSegment t s.lc.vec.frm.toNat (redZero t) g.2)

/-- What a reduction or scan writes: element, value and flags. -/
def State.redWrites (s : State) (o : VRed) (a kb : VReg) (t : Ty) (seg : Bool) : List (Nat × Nat × Flags) :=
  if o = .scan then s.scanResults a kb t seg
  else (s.redResults o a kb t seg).zipIdx.map (fun r => (r.2, r.1.1, r.1.2))

/-- No element is written twice. -/
theorem State.redWrites_nodup (s : State) (o : VRed) (a kb : VReg) (t : Ty) (seg : Bool) :
    ((s.redWrites o a kb t seg).map (·.1)).Nodup := by
  unfold State.redWrites
  split
  · have hsub : ((s.scanResults a kb t seg).map (·.1)).Sublist ((segments (fun j => seg && (s.kreg kb.toNat).getLsbD j)
        s.lc.vec.vl.toNat).flatMap (·.2)) := by
      simp only [State.scanResults, State.redParts, List.map_flatMap, List.flatMap_map, scanSegment_map, List.map_map]
      generalize segments _ _ = l
      induction l with
      | nil => exact .slnil
      | cons g r ih =>
        rw [List.flatMap_cons, List.flatMap_cons]
        refine List.Sublist.append ?_ ih
        simp [Function.comp_def]
    exact ((segments_ascend _ _).imp Nat.ne_of_lt).sublist hsub
  · rw [List.map_map]
    exact List.nodup_zipIdx_map_snd _

/-- The entry of a numbered list with a number. -/
theorem find?_zipIdx {α : Type} (l : List α) (n j : Nat) :
    (l.zipIdx n).find? (fun r => r.2 == n + j) = l[j]?.map (fun x => (x, n + j)) := by
  induction l generalizing n j with
  | nil => rfl
  | cons x r ih =>
    cases j with
    | zero => simp
    | succ j =>
      have := ih (n + 1) j
      rw [show n + 1 + j = n + (j + 1) by omega] at this
      simpa using this

/-- A reduction's or scan's new value of an element. -/
theorem State.redWrites_find (s : State) (o : VRed) (a kb : VReg) (t : Ty) (seg : Bool) (j : Nat) :
    (((s.redWrites o a kb t seg).map (fun r => (r.1, r.2.1, false))).find? (·.1 == j)).map (·.2.1)
      = if o = .scan then ((s.scanResults a kb t seg).find? (·.1 == j)).map (·.2.1)
        else ((s.redResults o a kb t seg)[j]?).map (·.1) := by
  rw [List.find?_map, Option.map_map]
  unfold State.redWrites
  split
  · rfl
  · rw [List.find?_map, Option.map_map]
    have h := find?_zipIdx (s.redResults o a kb t seg) 0 j
    rw [Nat.zero_add] at h
    exact (congrArg (Option.map (·.1.1)) h).trans (Option.map_map ..)

/-- The flags that a reduction or scan raises. -/
theorem State.redWrites_flags (s : State) (o : VRed) (a kb : VReg) (t : Ty) (seg : Bool) (b : Nat) :
    (s.redWrites o a kb t seg).any (fun r => r.2.2.getLsbD b)
      = if o = .scan then (s.scanResults a kb t seg).any (fun r => r.2.2.getLsbD b)
        else (s.redResults o a kb t seg).any (fun r => r.2.getLsbD b) := by
  unfold State.redWrites
  split
  · rfl
  · have h : s.redResults o a kb t seg = ((s.redResults o a kb t seg).zipIdx).map (·.1) := by simp
    rw [List.any_map, h, List.any_map, ← h]
    rfl

/-! ### A reduction or scan on its own -/

/-- The state that a reduction's or scan's flags and elements leave. -/
def State.reduced (s : State) (o : VRed) (d a kb : VReg) (t : Ty) (seg : Bool) (r : State) : State :=
  let ws := r.redWrites o a kb t seg
  (({ s with lc := { s.lc with
    fflags := s.lc.fflags ||| (ws.map (fun r => (r.1, r.2.2))).foldl (fun f r => f ||| r.2) 0 } } : State).writeElems
      false d (redBits o t) (ws.map (fun r => (r.1, r.2.1, false)))).vdone

/-- The parts that a reduction on its own works on. -/
theorem State.redParts_alone (s : State) (op : VOp) (x : Dword) (xp : Bool) (a kb : VReg) (t : Ty) (seg : Bool) :
    (segments (fun i => seg && (s.kreg kb.toNat).getLsbD i) s.lc.vec.vl.toNat).map (fun g =>
      (g.1, (g.2.filter (fun i => (s.alone (s.capture op false x 0 0 xp)).governs (s.capture op false x 0 0 xp) i
        && (s.capture op false x 0 0 xp).allows i)).map (fun i =>
          (i, (s.alone (s.capture op false x 0 0 xp)).velem (s.capture op false x 0 0 xp) a t.bits i))))
      = s.redParts a kb t seg := by
  refine List.map_congr_left fun g hg => ?_
  have : g.2.filter (fun i => (s.alone (s.capture op false x 0 0 xp)).governs (s.capture op false x 0 0 xp) i
      && (s.capture op false x 0 0 xp).allows i) = g.2.filter s.activeAt := by
    refine List.filter_congr fun i hi => ?_
    have := segments_lt hg hi
    simp [State.governs, VEntry.allows, State.activeAt, State.capture, State.alone, State.kreg, this]
  rw [this]
  rfl

/-- A reduction or scan on its own executes to the end: nothing stops it (R45, R405, R419). -/
theorem State.runRed_alone {s : State} {o : VRed} {d a kb : VReg} {t : Ty} {seg : Bool} (h : s.Alone)
    (hc : s.CleanRegs [a]) (hf : s.lc.ftrapen = 0)
    (hk : seg = true → s.kpois kb.toNat = 0 ∧ s.lc.vec.vmsel.toNat ≠ kb.toNat) (hv : 0 < s.lc.vec.vl.toNat) (x : Dword)
    (xp : Bool) :
    let e := s.capture (.red o d a kb t seg) false x 0 0 xp
    (s.alone e).runEntry e = .ok ((s.alone e).reduced o d a kb t seg s) := by
  intro e
  have hstart : (s.alone e).start e = 0 := by
    have : s.lc.vstart.toNat = 0 := by simp [h.start]
    exact this
  have hvl : ¬ e.vl ≤ (s.alone e).start e := by
    rw [hstart]
    exact Nat.not_le.mpr hv
  have hrun : (s.alone e).runEntry e = (s.alone e).runRed e o d a kb t seg := if_neg hvl
  have hseg : (seg && e.ctl.vmsel.toNat == kb.toNat) = false := by
    cases seg
    · rfl
    · have : (s.lc.vec.vmsel.toNat == kb.toNat) = false := by simpa using (hk rfl).2
      exact this
  have hmask : (s.alone e).maskClean e = .ok () := State.maskClean_alone _ x xp hc.2
  have hclean : (s.alone e).clean e ((s.alone e).actives e) [(a, t.bits)] = .ok () :=
    State.clean_alone _ x xp _ [a] t.bits hc.1
  have hheads : (seg && !e.placed && !((List.range e.vl).filter
      (fun i => ((s.alone e).kpois kb.toNat).getLsbD (i / 512))).isEmpty) = false := by
    cases seg
    · rfl
    · have h0 : (s.alone e).kpois kb.toNat = 0 := (hk rfl).1
      simp [h0]
  have hflags (fl : List (Nat × Flags)) (all : Option (List Nat)) := (s.alone e).commitFlags_ok (e := e) fl all
    (fun r _ => by rw [show e.ftrapen = 0 from hf]; simp)
  have hparts : (segments (fun i => seg && (if e.placed then e.khead.getLsbD i else ((s.alone e).kreg kb.toNat).getLsbD i))
      e.vl).map (fun g => (g.1, (g.2.filter (fun i => (s.alone e).governs e i && e.allows i)).map
        (fun i => (i, (s.alone e).velem e a t.bits i)))) = s.redParts a kb t seg :=
    s.redParts_alone (.red o d a kb t seg) x xp a kb t seg
  have hmode : e.mode = s.lc.vec.frm.toNat := rfl
  have hplaced : e.placed = false := rfl
  rw [hrun]
  clear_value e
  unfold State.runRed
  rw [if_neg (by simp [hstart]), hseg, hmask]
  dsimp only
  rw [hheads, hclean, hparts, hmode, hplaced]
  by_cases ho : o = .scan
  · subst ho
    simp only [Bool.false_eq_true, if_false, bind, Except.bind, hflags, beq_self_eq_true, if_true, State.reduced,
      State.redWrites, State.scanResults, redBits]
  · have ho' : (o == .scan) = false := by simpa using ho
    simp only [Bool.false_eq_true, if_false, bind, Except.bind, hflags, ho', State.reduced, State.redWrites, ho,
      State.redResults, List.map_map]
    rfl

/-- A reduction or scan writes no scalar register. -/
theorem vform_red_write {i : Instr} {f : VForm} {o : VRed} {d a kb : VReg} {t : Ty} {seg : Bool} (h : vform i = some f)
    (ho : f.op = .red o d a kb t seg) : f.write = none := by
  cases i <;> simp only [vform, reduceCtorEq, Option.some.injEq] at h <;> subst h <;> simp only [reduceCtorEq] at ho ⊢

/-- What a reduction or scan on its own leaves of the state. -/
theorem State.reduced_rest (s : State) (o : VRed) (d a kb : VReg) (t : Ty) (seg : Bool) (r : State) :
    let u := s.reduced o d a kb t seg r
    { u.lc with fflags := s.lc.fflags, vstart := s.lc.vstart } = s.lc ∧ u.lc.vstart = 0
      ∧ { u.part with v := s.part.v, vPoison := s.part.vPoison } = s.part
      ∧ { u with lc := s.lc, part := s.part } = s := ⟨rfl, rfl, rfl, rfl⟩

/-- The elements that a reduction or scan on its own writes. -/
theorem State.reduced_elems (s : State) (o : VRed) (d a kb : VReg) (t : Ty) (seg : Bool) (r : State) :
    s.WroteElems (s.reduced o d a kb t seg r) d (redBits o t) (fun j =>
      if o = .scan then ((r.scanResults a kb t seg).find? (·.1 == j)).map (·.2.1)
      else ((r.redResults o a kb t seg)[j]?).map (·.1)) := by
  have h := State.wroteElems_writeElems s d (redBits o t) ((r.redWrites o a kb t seg).map (fun r => (r.1, r.2.1, false)))
    (by rw [List.map_map]; exact r.redWrites_nodup o a kb t seg)
  simp only [State.redWrites_find] at h
  exact ⟨h.elems, h.others, h.masks⟩

/-- The flags that a reduction or scan on its own leaves. -/
theorem State.reduced_flags (s : State) (o : VRed) (d a kb : VReg) (t : Ty) (seg : Bool) (r : State) (b : Nat) :
    (s.reduced o d a kb t seg r).lc.fflags.getLsbD b = (s.lc.fflags.getLsbD b
      || if o = .scan then (r.scanResults a kb t seg).any (fun r => r.2.2.getLsbD b)
        else (r.redResults o a kb t seg).any (fun r => r.2.getLsbD b)) := by
  have hu : (s.reduced o d a kb t seg r).lc.fflags = s.lc.fflags
      ||| ((r.redWrites o a kb t seg).map (fun r => (r.1, r.2.2))).foldl (fun f r => f ||| r.2) 0 := rfl
  rw [hu, BitVec.getLsbD_or, flags_fold, List.any_map, ← r.redWrites_flags]
  simp [Function.comp_def]

/-- A reduction or scan on its own, from its hand-off to its end. -/
theorem exec_red {i : Instr} {f : VForm} {o : VRed} {d a kb : VReg} {t : Ty} {seg : Bool} {s : State}
    (hi : vform i = some f) (ho : f.op = .red o d a kb t seg) (hp : f.placed = false) (hr : f.Ready s) (h : s.Alone)
    (hc : s.CleanRegs [a]) (hf : s.lc.ftrapen = 0)
    (hk : seg = true → s.kpois kb.toNat = 0 ∧ s.lc.vec.vmsel.toNat ≠ kb.toNat) (hv : 0 < s.lc.vec.vl.toNat) :
    ∃ (e : VEntry) (n : Nat),
      exec i s = .next ((((s.alone e).reduced o d a kb t seg s).vpop.count 2 n).retire) := by
  obtain ⟨x, xp, -, -, -, hpass⟩ := VForm.exec_pass hi hp hr
  have hcl : s.claimed f = s := by simp [State.claimed, vform_red_write hi ho]
  rw [hcl, ho] at hpass
  have hq : s.part.vqueue = [] := h.queue
  exact ⟨_, _, hpass _ (State.pass_alone h rfl rfl (State.runRed_alone h hc hf hk hv x xp)
    ⟨h.inOrder, h.matrix, h.stalled, h.stores, h.kqueue, h.context, h.copies, h.bqueue, h.sequencers, h.slots⟩
    (congrArg (· ++ [_]) hq))⟩

/-- A stream instruction on its own has executed when its meaning left nothing but vector registers, flags, queues and
VSTART changed (R55, R83). -/
theorem State.vectorDone_of {s t : State} {e : VEntry} {n : Nat} (h : s.Alone) (hs : t.lc.vstart = 0)
    (hl : { t.lc with fflags := s.lc.fflags, vstart := s.lc.vstart, q := s.lc.q } = (s.alone e).lc)
    (hp : { t.part with v := s.part.v, vPoison := s.part.vPoison, k := s.part.k, kPoison := s.part.kPoison }
      = (s.alone e).part)
    (hr : { t with lc := s.lc, part := s.part } = s) : s.VectorDone (t.vpop.count 2 n).retire := by
  have hpc : t.lc.pc = s.lc.pc := (congrArg Lc.pc hl :)
  have hq : s.part.vqueue = [] := h.queue
  have hd : s.part.done = false := h.begun
  have hv : t.part.vqueue = [e] := (congrArg Part.vqueue hp :).trans (congrArg (· ++ [e]) hq)
  refine ⟨congrArg (· + 4) hpc, hs, ?_, ?_, ?_⟩
  · exact congrArg (fun l : Lc => { l with
      pc := s.lc.pc, passed := s.lc.passed, pcval := s.lc.pcval, async := s.lc.async }) hl
  · calc { t.part with
          v := s.part.v, vPoison := s.part.vPoison, k := s.part.k, kPoison := s.part.kPoison, rem := s.part.rem
          vqueue := t.part.vqueue.tail, done := false }
        = { (s.alone e).part with rem := s.part.rem, vqueue := t.part.vqueue.tail, done := false } := by rw [← hp]
      _ = { s.part with vqueue := [], done := false } := by rw [hv]; rfl
      _ = s.part := by rw [← hq, ← hd]
  · exact congrArg (fun u : State => { u with retired := s.retired }) hr

/-- Settles O29: a reduction or scan on its own executes in the step that hands it off, and writes what its segments
give. -/
theorem vectorReductions : Obligations.VectorReductions := by
  unfold Obligations.VectorReductions
  intro i f o d a kb t seg s hi ho hp hr h hc hf hk hv
  obtain ⟨e, n, he⟩ := exec_red hi ho hp hr h hc hf hk hv
  obtain ⟨hlc, hstart, hpart, hrest⟩ := (s.alone e).reduced_rest o d a kb t seg s
  obtain ⟨helems, hothers, hmasks⟩ := (s.alone e).reduced_elems o d a kb t seg s
  have hflags := (s.alone e).reduced_flags o d a kb t seg s
  generalize (s.alone e).reduced o d a kb t seg s = r at *
  have hq : r.lc.q = s.lc.q := (congrArg Lc.q hlc :)
  have hk : r.part.k = s.part.k := (congrArg Part.k hpart :)
  have hkp : r.part.kPoison = s.part.kPoison := (congrArg Part.kPoison hpart :)
  refine ⟨_, he, State.vectorDone_of (e := e) h hstart ?_ ?_ ?_, hq,
    fun hs => ⟨⟨?_, hothers, hmasks⟩, fun b => (hflags b).trans ?_⟩,
    fun hs => ⟨⟨?_, hothers, hmasks⟩, fun b => (hflags b).trans ?_⟩⟩
  · rw [← hq]
    exact hlc
  · rw [← hk, ← hkp]
    exact hpart
  · exact congrArg (fun u : State => { u with lc := s.lc, part := s.part }) hrest
  · simp only [if_neg hs] at helems
    exact helems
  · rw [if_neg hs]
    rfl
  · subst hs
    exact helems
  · rw [if_pos hs]
    rfl

end Sys2Proof.Machine
end

section
/-! Proofs, 02: EXIT (R38, R39, R344). -/

namespace Sys2Proof.Machine

/-! ### A trap that the scalar unit takes in a changed state -/

theorem State.finish_raise_in {s t : State} {c : Cause} (v : Dword) (h : t.SuperTakes c) :
    ∃ u, s.finish (.error (.trapIn t (t.report c v))) = .next u ∧ t.TrappedSuper u c v :=
  ⟨_, rfl, State.takeTrap_super t c v h⟩

/-- Abandoning the open loop levels changes the loops and the K-stream queue alone (R195). -/
theorem State.abandonLoops_eq (s : State) :
    ∃ q, s.abandonLoops = { s with lc := { s.lc with loops := [], kqueue := q } } := by
  unfold State.abandonLoops
  split
  · rename_i h
    refine ⟨s.lc.kqueue, ?_⟩
    rw [← List.isEmpty_iff.mp h]
  · exact ⟨_, rfl⟩

/-! ### The steps of EXIT -/

/-- No fault is pending that EXIT raises before its steps (R344). -/
theorem State.exitFaults_ok {s : State} (hl : s.lc.loops = []) (hr : s.lc.breport = none) (hb : s.lc.bankErr = [])
    (hc : ∀ h : Fin 4, (s.lc.chans[h]).err = none) (hd : s.exitDeadlock = false) : s.exitFaults = .ok () := by
  have chan (h : BitVec 2) : s.chanFault h = .ok () := by
    have : (s.lc.chans[h.toNat]).err = none := hc ⟨h.toNat, h.isLt⟩
    simp [State.chanFault, this]
  have bank : s.bankFault = .ok () := by simp [State.bankFault, hr, hb]
  simp only [State.exitFaults, hl, chan, bank, hd]
  rfl

/-- Leaving its groups changes the tasks, GMASK and the arrivals of the LC alone. -/
theorem State.leaveGroups_eq (s : State) : ∃ ts, s.leaveGroups
    = { s with lc := { s.lc with gmask := 0, bars := [] }, dev := { s.dev with tasks := ts } } := ⟨_, rfl⟩

/-- The task of an LC that has left its groups (R38, R41). -/
theorem State.leaveGroups_task {s : State} {v : Task} (h : s.task = some v) : ∃ w, s.leaveGroups.task = some w
    ∧ (∀ n (hn : n < 16), w.groups[n] = if s.lc.gmask.getLsbD n then groupLeft v.groups[n] else v.groups[n])
    ∧ { w with groups := v.groups } = v := by
  refine ⟨_, State.task_updTask (f := fun t => { t with groups := t.groups.mapIdx (fun i g =>
    if s.lc.gmask.getLsbD i then g.leave else g) }) h rfl, fun n hn => ?_, rfl⟩
  simp [Group.leave_eq]

/-- What an LC that leaves by EXIT has done before it waits for its streams: the strip posted and committed, its groups
left (R38, R39). -/
def State.exiting (s : State) : State := s.posts.commits.leaveGroups

/-- From `s` to `t` the LC has done the first steps of EXIT: its task has the strip posted and the groups left, and beyond
what those steps change the state is as it was. -/
structure State.Exiting (s t : State) (u : Task) : Prop where
  task : ∃ v, t.task = some v ∧ u.postsHeld s v
    ∧ (∀ n (h : n < 16), v.groups[n] = if s.lc.gmask.getLsbD n then groupLeft u.groups[n] else u.groups[n])
    ∧ v.exited = u.exited
  lc : { s.lc with gmask := 0, bars := [], contain := if u.scc then [] else s.lc.contain } = t.lc
  mem : t.dev.mem = if u.scc then s.commitHeld.dev.mem else s.dev.mem
  dev : { t.dev with
    mem := s.dev.mem, memPoison := s.dev.memPoison, memError := s.dev.memError, l2Error := s.dev.l2Error
    scrubs := s.dev.scrubs, monitors := s.dev.monitors, combines := s.dev.combines, tasks := s.dev.tasks } = s.dev
  rest : { t with lc := s.lc, dev := s.dev } = s

theorem State.exiting_of {s : State} {u : Task} (h : s.task = some u) : s.Exiting s.exiting u := by
  obtain ⟨⟨v, hv, hp, hk⟩, hlc, hmem, hdev, hrest⟩ := State.leftStrip_commits h
  obtain ⟨w, hw, hg, hkeep⟩ := State.leaveGroups_task hv
  obtain ⟨ts, e⟩ := State.leaveGroups_eq s.posts.commits
  have hgm : s.posts.commits.lc.gmask = s.lc.gmask := by rw [← hlc]
  have hvg : v.groups = u.groups := by rw [← hk]
  refine ⟨⟨w, hw, fun j => ?_, fun n hn => ?_, ?_⟩, ?_, ?_, ?_, ?_⟩
  · have : w.isPosted j = v.isPosted j := by rw [← hkeep]; rfl
    rw [this, hp j]
  · rw [hg n hn, hgm]
    simp only [hvg]
  · rw [← hk, ← hkeep]
  · rw [State.exiting, e, ← hlc]
  · rw [State.exiting, e, ← hmem]
  · rw [State.exiting, e]
    exact hdev
  · rw [State.exiting, e]
    exact hrest

/-- The first steps of EXIT change nothing that its wait asks for (R38). -/
theorem State.Exiting.allDone {s t : State} {u : Task} (h : s.Exiting t u) : t.allDone = s.allDone := by
  have hlc := h.lc.symm
  have hpart : t.part = s.part := (congrArg State.part h.rest :)
  have hseqs : t.dev.seqs = s.dev.seqs := (congrArg Device.seqs h.dev :)
  have hreqs : t.dev.hostReqs = s.dev.hostReqs := (congrArg Device.hostReqs h.dev :)
  have hupd : t.dev.scUpdates = s.dev.scUpdates := (congrArg Device.scUpdates h.dev :)
  simp only [State.allDone, State.unperformedV, State.queuedV, State.kDone, State.bankWork, State.svxDone, State.svDone,
    State.vDone, State.storesDone, State.xDone, hlc, hpart, hseqs, hreqs, hupd]

/-- EXIT with its first steps done: it ends the LC or waits for its streams (R38, R344). -/
theorem exec_exit {s : State} {u : Task} (hu : s.task = some u) (hf : s.exitFaults = .ok ())
    (hp : s.heldLen ≠ 0 → u.ring = true → s.svxDone = true ∧ s.lc.hostErr = none)
    (hc : u.scc = true → s.svDone = true) (he : s.allDone = true → s.lc.hostErr = none) :
    exec .exit s = .next (if s.allDone then s.exiting.endLc.retire else s.exiting) := by
  have hring : s.ringed = u.ring := by simp [State.ringed, hu]
  have hpost : s.postStrip = .ok s.posts := State.postStrip_ok (fun hl hr => hp hl (hring ▸ hr))
  have hx := State.exiting_of hu
  obtain ⟨ts, hts⟩ := s.posts_eq
  have hsv : s.posts.svDone = s.svDone := by rw [hts]; rfl
  have hcom : s.posts.commitStrip = .ok s.posts.commits := State.commitStrip_ok (fun h => by
    rw [State.posts_scc hu] at h
    rw [hsv, hc h])
  have hd : s.posts.commits.leaveGroups.allDone = s.allDone := hx.allDone
  show s.finish _ = _
  simp only [hf, hpost, hcom, bind, Except.bind, hd]
  cases h : s.allDone
  · rfl
  · have hh : s.exiting.lc.hostErr = none := by rw [← hx.lc]; exact he h
    have hh' : s.posts.commits.leaveGroups.hostFault = .ok () := by
      have : s.posts.commits.leaveGroups.lc.hostErr = none := hh
      simp only [State.hostFault, this]
    simp only [hh', Bool.not_true, Bool.false_eq_true, if_false]
    rfl

/-- EXIT waits for earlier accesses before it posts the strip (R38, R174). -/
theorem exec_exit_waits {s : State} {u : Task} (hu : s.task = some u) (hf : s.exitFaults = .ok ()) (hl : s.heldLen ≠ 0)
    (hr : u.ring = true) (h : s.svxDone = false) : exec .exit s = .next s := by
  have hring : s.ringed = true := by simp [State.ringed, hu, hr]
  show s.finish _ = _
  simp only [hf, State.postStrip_wait hl hring h]
  rfl

/-- EXIT in an open loop raises STACK_LOOP_NESTING, and the levels are abandoned (R195, R344). -/
theorem exec_exit_nested {s : State} (hl : s.lc.loops ≠ []) (hst : s.SuperTakes .stackLoopNesting) :
    ∃ t, exec .exit s = .next t ∧ t.lc.trap.scause = BitVec.ofNat 8 Cause.stackLoopNesting.code ∧ t.lc.loops = []
      ∧ t.lc.pc = s.core.stvec := by
  obtain ⟨q, e⟩ := s.abandonLoops_eq
  have hls : s.lc.loops.isEmpty = false := by simpa using hl
  have hex : exec .exit s
      = s.finish (.error (.trapIn s.abandonLoops (s.abandonLoops.report .stackLoopNesting 0))) := by
    have hrep : s.report .stackLoopNesting 0 = s.abandonLoops.report .stackLoopNesting 0 := by rw [e]; rfl
    show s.finish _ = _
    rw [← hrep]
    simp only [State.exitFaults, hls]
    rfl
  have htake : s.abandonLoops.SuperTakes .stackLoopNesting := by rw [e]; exact hst
  obtain ⟨t, ht, htrap⟩ := State.finish_raise_in (s := s) 0 htake
  have hloops : t.lc.loops = s.abandonLoops.lc.loops := (congrArg Lc.loops htrap.lc :)
  have hvec : t.lc.pc = s.abandonLoops.core.stvec := htrap.target
  rw [e] at hloops hvec
  exact ⟨t, hex.trans ht, htrap.cause, hloops, hvec⟩

/-! ### The LC has ended -/

/-- Pins given up are held by none of the LCs that gave theirs up (R215). -/
theorem Device.releasePins_holder (d : Device) (who : LcKey → Bool) :
    ∀ x ∈ (d.releasePins who).slots, ∀ k, x.holder = some k → who k = false := by
  simp only [Device.releasePins, List.mem_map]
  rintro x ⟨y, -, rfl⟩ k hk
  have dropped : y.dropped.holder = none := by
    unfold Slot.dropped
    split <;> rfl
  cases hy : y.holder with
  | none => simp [hy] at hk
  | some m =>
    cases hw : who m with
    | true => simp [hy, hw, dropped] at hk
    | false =>
      simp only [hy, hw, Bool.false_eq_true, if_false, Option.some.injEq] at hk
      exact hk ▸ hw

/-- A partition's vector state freed belongs to no LC (R287). -/
@[simp] theorem Part.clear_ownerKey (p : Part) : p.clear.ownerKey = none := rfl

/-- What the end of an LC leaves of its task, of memory and of what the LC held (R38, R287). -/
theorem State.endLc_freed (s : State) :
    (∀ c ∈ s.endLc.dev.ctxUses, c.owner ≠ s.lc.key) ∧ (∀ x ∈ s.endLc.dev.slots, x.holder ≠ some s.lc.key)
      ∧ (∀ p ∈ s.endLc.part :: s.endLc.parts, p.ownerKey ≠ some s.lc.key)
      ∧ (s.owns = true → s.endLc.part.accalloc = 0 ∧ s.endLc.part.tstate = 0) := by
  have clear (p : Part) : (if p.ownerKey == some s.lc.key then p.clear else p).ownerKey ≠ some s.lc.key := by
    split
    · simp
    · rename_i h
      simpa using h
  refine ⟨fun c hc => ?_, fun x hx hk => ?_, fun p hp => ?_, fun h => ?_⟩
  · have : c ∈ s.dev.ctxUses.filter (fun c => !(c.owner == s.lc.key)) := hc
    simpa using (List.mem_filter.mp this).2
  · simpa using s.dev.releasePins_holder _ x hx _ hk
  · rcases List.mem_cons.mp hp with rfl | hp
    · exact clear s.part
    · obtain ⟨q, -, rfl⟩ := List.mem_map.mp (show p ∈ s.parts.map _ from hp)
      exact clear q
  · have hp : s.endLc.part = if s.owns then s.part.clear else s.part := rfl
    rw [hp, if_pos h]
    exact ⟨rfl, rfl⟩

/-- The task counts an LC that has ended (R38). -/
theorem State.endLc_task {s : State} {v : Task} (h : s.task = some v) :
    s.endLc.task = some { v with exited := v.exited + 1 } :=
  Device.task_updTask (d := (s.dev.releasePins (fun k => k == s.lc.key)).dropLcs (fun k => k == s.lc.key)) h rfl

/-- Of the LC that has ended its place is left; memory, the scratchpad and the other LCs are as they were (R38). -/
theorem State.endLc_kept (s : State) : s.endLc.lc = s.lc.ended ∧ s.endLc.dev.mem = s.dev.mem ∧ s.endLc.core = s.core
    ∧ s.endLc.lcs = s.lcs := ⟨rfl, rfl, rfl, rfl⟩

theorem exitLc_holds : exitLc := by
  intro u s hu
  refine ⟨fun hl hr hb hc hd => ?_, fun hl hst => ?_⟩
  · have hf := State.exitFaults_ok hl hr hb hc hd
    obtain ⟨⟨v, hv, hp, hg, hx⟩, hlc, hmem, hdev, hrest⟩ := State.exiting_of hu
    have hallD := (State.exiting_of hu).allDone
    have hkey : s.exiting.lc.key = s.lc.key := by rw [← hlc]
    have hpart : s.exiting.part = s.part := (congrArg State.part hrest :)
    have hcore : s.exiting.core = s.core := (congrArg State.core hrest :)
    have hlcs : s.exiting.lcs = s.lcs := (congrArg State.lcs hrest :)
    refine ⟨fun hall he => ?_, fun hall hst hring hscc => ?_, fun hsvx hlen hring => exec_exit_waits hu hf hlen hring hsvx⟩
    · have hsvx : s.svxDone = true := by
        simp only [State.allDone, Bool.and_eq_true] at hall
        exact hall.1.2
      have hsv : s.svDone = true := by
        simp only [State.svxDone, Bool.and_eq_true] at hsvx
        exact hsvx.1.1
      have hex := exec_exit hu hf (fun _ _ => ⟨hsvx, he⟩) (fun _ => hsv) (fun _ => he)
      rw [hall, if_pos rfl] at hex
      obtain ⟨hctx, hslots, hparts, howns⟩ := s.exiting.endLc_freed
      have howned : s.exiting.owns = s.owns := by rw [State.owns, hpart, hkey]; rfl
      have htask := State.endLc_task hv
      obtain ⟨kl, km, kc, kls⟩ := s.exiting.endLc_kept
      rw [hkey] at hctx hslots hparts
      rw [howned] at howns
      generalize s.exiting.endLc = e at *
      have hend : e.retire.lc = { s.exiting.lc.ended with pc := s.exiting.lc.ended.pc + 4 } := by
        rw [State.retire_lc, kl]
      refine ⟨e.retire, hex, ⟨_, htask, hp, hg, km.trans hmem, kc.trans hcore, ?_⟩, ?_, ?_, ?_, ?_, ?_, ?_, ?_,
        hctx, hslots, hparts, howns, kls.trans hlcs⟩
      · simp only [hend, Lc.ended, if_true, hx]
      all_goals simp only [hend, Lc.ended, Lc.reset, hkey]
    · have hex := exec_exit hu hf hring hscc (fun h => by simp [hall] at h)
      rw [hall, if_neg Bool.false_ne_true] at hex
      have hst' : s.exiting.lc.status ≠ .exited := by rw [← hlc]; exact hst
      exact ⟨_, hex, ⟨v, hv, hp, hg, hmem, hcore, by rw [hx, if_neg hst']; rfl⟩, hlc, hpart⟩
  · exact exec_exit_nested hl hst

end Sys2Proof.Machine
end

section
/-! Proofs, 02: SPAWN and the intake that serves it (R34, R50, R384). -/

namespace Sys2Proof.Machine

/-! ### A load that raises nothing and waits for nothing -/

/-- Reading the host is left out when the location is not there or the streams are followed in order (R308). -/
theorem State.hostRead_none {s : State} {l : Loc} (va : Dword) (n : Nat) (h : ¬(s.runAhead = true ∧ l.isHost = true)) :
    s.hostRead l va n = .ok s := by
  unfold State.hostRead
  cases hr : s.runAhead <;> cases hh : l.isHost <;> simp_all

/-- A load that reaches its location at once gives the bytes there (R357, R358). -/
theorem State.loadAt_ok {s : State} {va : Dword} {n : Nat} {l : Loc} (h : s.Reaches .load false true va n l)
    (hc : s.CleanAt l) : s.loadAt l va n = .ok (s, s.readLoc l n, false) := by
  have own : s.lc.stores.filter (fun x => x.meets l n) = [] :=
    List.filter_eq_nil_iff.mpr (fun y hy => by simp [(h.stores y hy).1])
  simp only [State.loadAt, h.unwatched, h.streams, h.bank, State.hostRead_none va n h.local_, hc.1, hc.2, own, bind,
    Except.bind]
  rfl

theorem State.locS_ok {s : State} {k : Acc} {va : Dword} {l : Loc} (h : s.locate s.super k va = .ok l) :
    s.locS k va = .ok l := by
  simp only [State.locS, h]

/-! ### The packet of a SPAWN -/

/-- The bytes at a location read as one value, when they are bytes of a longer value. -/
theorem State.readLoc_bytes {s : State} {l : Loc} {w : Nat} {x : BitVec w} {o n : Nat}
    (h : ∀ i, i < n → x.extractLsb' (8 * (o + i)) 8 = s.readByte l i) :
    s.readLoc l n = x.toNat / 2 ^ (8 * o) % 2 ^ (8 * n) := by
  induction n with
  | zero => simp [State.readLoc, Nat.mod_one]
  | succ n ih =>
    have hb : (s.readByte l n).toNat = x.toNat / 2 ^ (8 * o) / 2 ^ (8 * n) % 2 ^ 8 := by
      rw [← h n (by omega), BitVec.extractLsb'_toNat, Nat.shiftRight_eq_div_pow, Nat.div_div_eq_div_mul, ← pow_add,
        Nat.mul_add]
    rw [State.readLoc, ih (fun i hi => h i (by omega)), hb, Nat.mul_succ, pow_add, Nat.mod_mul,
      Nat.mul_comm (2 ^ (8 * n))]

/-- Four digits of a number put together are the number. -/
theorem digits4 {x b : Nat} (h : x < b ^ (1 + (1 + (1 + 1)))) :
    x / b ^ 0 % b + (x / b ^ 1 % b + (x / b ^ 2 % b + x / b ^ 3 % b * b) * b) * b = x := by
  rw [pow_add, pow_add, pow_add, pow_one] at h
  conv_rhs => rw [← Nat.mod_eq_of_lt h, Nat.mod_mul, Nat.mod_mul, Nat.mod_mul]
  simp only [Nat.div_div_eq_div_mul, Nat.mul_comm b, pow_succ, pow_zero, Nat.one_mul, Nat.div_one]

/-- The same digits put together one after the other. -/
theorem foldr_digits4 (a b c d n : Nat) :
    [a, b, c, d].foldr (fun v x => v + x * n) 0 = a + (b + (c + d * n) * n) * n := by
  simp only [List.foldr_cons, List.foldr_nil, Nat.zero_mul, Nat.add_zero]

/-- No request to the host goes out for accesses that do not go there (R308). -/
theorem State.hostAsk_none {s : State} (n : Nat) {l : List Probed}
    (h : ∀ p ∈ l, ∀ x, p.loc? = some x → ¬(s.runAhead = true ∧ x.isHost = true)) : s.hostAsk n l = (s, false) := by
  unfold State.hostAsk
  cases hr : s.runAhead
  · rfl
  · simp only [Bool.not_true, Bool.false_eq_true, if_false]
    induction l with
    | nil => rfl
    | cons p r ih =>
      have hp := h p List.mem_cons_self
      rw [List.foldl_cons]
      have ih' := ih (fun q hq => h q (List.mem_cons_of_mem p hq))
      split
      · rename_i pa f hl
        have := hp _ hl
        simp only [hr, true_and, Bool.not_eq_true] at this
        simpa [this] using ih'
      · exact ih'

/-- A packet whose four granules are reached at once is read (R384). -/
theorem State.readPacket_ok {s : State} {va : Dword} {loc : Nat → Loc} {p : BitVec 2048}
    (h : ∀ i, i < 4 → s.Reaches .load false true (va + BitVec.ofNat 64 (64 * i)) 64 (loc i) ∧ s.CleanAt (loc i))
    (hp : ∀ k, k < 256 → p.extractLsb' (8 * k) 8 = s.readByte (loc (k / 64)) (k % 64)) :
    s.readPacket va = .ok (s, p) := by
  have hs (i : Nat) (hi : i < 4) : s.locS .load (va + BitVec.ofNat 64 (64 * i)) = .ok (loc i) :=
    State.locS_ok (h i hi).1.located
  have hl (i : Nat) (hi : i < 4) : s.loadAt (loc i) (va + BitVec.ofNat 64 (64 * i)) 64
      = .ok (s, p.toNat / (2 ^ 512) ^ i % 2 ^ 512, false) := by
    rw [State.loadAt_ok (h i hi).1 (h i hi).2, State.readLoc_bytes (x := p) (o := 64 * i) (fun j hj => by
      rw [hp _ (by omega)]
      congr 2 <;> omega)]
    rw [← Nat.mul_assoc, ← pow_mul]
  have hv : va + BitVec.ofNat 64 (64 * 0) = va := by simp
  have e0 := hs 0 (by omega)
  have l0 := hl 0 (by omega)
  rw [hv] at e0 l0
  have e1 : s.locS .load (va + 64) = .ok (loc 1) := hs 1 (by omega)
  have e2 : s.locS .load (va + 128) = .ok (loc 2) := hs 2 (by omega)
  have e3 : s.locS .load (va + 192) = .ok (loc 3) := hs 3 (by omega)
  have l1 : s.loadAt (loc 1) (va + 64) 64 = _ := hl 1 (by omega)
  have l2 : s.loadAt (loc 2) (va + 128) 64 = _ := hl 2 (by omega)
  have l3 : s.loadAt (loc 3) (va + 192) 64 = _ := hl 3 (by omega)
  have ask := State.hostAsk_none (s := s) 64 (l := [⟨⟨0, va, 0⟩, .ok (loc 0)⟩, ⟨⟨0, va + 64, 0⟩, .ok (loc 1)⟩,
    ⟨⟨0, va + 128, 0⟩, .ok (loc 2)⟩, ⟨⟨0, va + 192, 0⟩, .ok (loc 3)⟩]) (by
      simp only [List.forall_mem_cons, Probed.loc?, Option.some.injEq, forall_eq', List.not_mem_nil, false_imp_iff,
        implies_true, and_true]
      exact ⟨(h 0 (by omega)).1.local_, (h 1 (by omega)).1.local_, (h 2 (by omega)).1.local_, (h 3 (by omega)).1.local_⟩)
  have hp4 : p.toNat < (2 ^ 512) ^ (1 + (1 + (1 + 1))) := by
    rw [← pow_mul]
    exact p.isLt
  have hval := digits4 hp4
  generalize p.toNat / (2 ^ 512) ^ 0 % 2 ^ 512 = q0 at l0 hval
  generalize p.toNat / (2 ^ 512) ^ 1 % 2 ^ 512 = q1 at l1 hval
  generalize p.toNat / (2 ^ 512) ^ 2 % 2 ^ 512 = q2 at l2 hval
  generalize p.toNat / (2 ^ 512) ^ 3 % 2 ^ 512 = q3 at l3 hval
  simp only [State.readPacket, List.mapM_cons, List.mapM_nil, e0, e1, e2, e3, bind, Except.bind, pure, Except.pure, ask,
    List.foldlM_cons, List.foldlM_nil, Probed.loc?, l0, l1, l2, l3]
  simp only [Bool.false_eq_true, if_false, List.nil_append, List.cons_append]
  rw [foldr_digits4, hval, BitVec.ofNat_toNat, BitVec.setWidth_eq]

/-! ### The identifier of a spawned task (R30, R34) -/

/-- Whether an identifier's counter cannot be given: it is 0, or a live task holds the identifier. -/
def idTaken (used : List (BitVec 32)) (c : BitVec 31) : Prop := c = 0 ∨ 1#1 ++ c ∈ used

/-- The counter found is free unless every one that was tried is taken. -/
theorem spawnId_free (used : List (BitVec 32)) (n : Nat) (c : BitVec 31) :
    ¬idTaken used (spawnId used n c) ∨ ∀ i, i < n → idTaken used (c + 1 + BitVec.ofNat 31 i) := by
  induction n generalizing c with
  | zero => exact .inr (fun i hi => absurd hi (Nat.not_lt_zero i))
  | succ n ih =>
    by_cases hc : idTaken used (c + 1)
    · have hs : spawnId used (n + 1) c = spawnId used n (c + 1) := by
        rw [spawnId, if_pos]
        simpa [idTaken] using hc
      rw [hs]
      refine (ih (c + 1)).imp_right (fun h i hi => ?_)
      cases i with
      | zero => simpa using hc
      | succ i =>
        have e : c + 1 + BitVec.ofNat 31 (i + 1) = c + 1 + 1 + BitVec.ofNat 31 i := by
          rw [Nat.add_comm i 1, BitVec.ofNat_add, ← BitVec.add_assoc]
          rfl
        exact e ▸ h i (by omega)
    · have hs : spawnId used (n + 1) c = c + 1 := by
        rw [spawnId, if_neg]
        simpa [idTaken] using hc
      exact .inl (hs ▸ hc)

/-- With more tries than identifiers held, the counter found is free (R30). -/
theorem spawnId_fresh {used : List (BitVec 32)} {n : Nat} (c : BitVec 31) (h : used.length + 1 < n) (hn : n ≤ 2 ^ 31) :
    1#1 ++ spawnId used n c ∉ used := by
  rcases spawnId_free used n c with hf | hall
  · exact fun hm => hf (.inr hm)
  · let ids := (List.range n).map (fun i => 1#1 ++ (c + 1 + BitVec.ofNat 31 i))
    have hsub : ids ⊆ (1#1 ++ 0#31) :: used := by
      intro x hx
      obtain ⟨i, hi, rfl⟩ := List.mem_map.mp hx
      rcases hall i (List.mem_range.mp hi) with h0 | hm
      · rw [h0]
        exact List.mem_cons_self
      · exact List.mem_cons_of_mem _ hm
    have hnd : ids.Nodup := by
      refine List.Nodup.map_on (fun i hi j hj hij => ?_) List.nodup_range
      have hi : i < 2147483648 := (List.mem_range.mp hi).trans_le hn
      have hj : j < 2147483648 := (List.mem_range.mp hj).trans_le hn
      have hij : (1#1 ++ (c + 1 + BitVec.ofNat 31 i)).setWidth 31 = (1#1 ++ (c + 1 + BitVec.ofNat 31 j)).setWidth 31 := by
        rw [hij]
      simp only [BitVec.setWidth_append_eq_right] at hij
      have := congrArg BitVec.toNat (add_left_cancel hij)
      simpa [Nat.mod_eq_of_lt hi, Nat.mod_eq_of_lt hj] using this
    have := (hnd.subperm hsub).length_le
    simp [ids] at this
    omega

/-! ### The intake serves one SPAWN that waits alone (R50) -/

/-- Searching round, the only number with a property is found. -/
theorem roundFrom_only {n x : Nat} (start : Nat) {p : Nat → Bool} (hx : x < n) (hp : ∀ i, i < n → (p i = true ↔ i = x)) :
    roundFrom n start p = some x := by
  have hmem : ∀ y ∈ (List.range n).map (fun i => (start + i) % n), y < n := by
    intro y hy
    obtain ⟨i, -, rfl⟩ := List.mem_map.mp hy
    exact Nat.mod_lt _ (by omega)
  have hin : x ∈ (List.range n).map (fun i => (start + i) % n) := by
    refine List.mem_map.mpr ⟨(x + (n - start % n)) % n, List.mem_range.mpr (Nat.mod_lt _ (by omega)), ?_⟩
    have hs : start % n < n := Nat.mod_lt _ (by omega)
    show (start + (x + (n - start % n)) % n) % n = x
    rw [Nat.add_mod_mod, ← Nat.mod_add_mod, show start % n + (x + (n - start % n)) = x + n by omega, Nat.add_mod_right,
      Nat.mod_eq_of_lt hx]
  cases hf : roundFrom n start p with
  | none => exact absurd ((hp x hx).mpr rfl) (List.find?_eq_none.mp hf x hin)
  | some y =>
    have hy := List.mem_of_find?_eq_some hf
    exact congrArg some ((hp y (hmem y hy)).mp (List.find?_some hf))

/-- A function whose ports hold no packet has none to serve. -/
theorem Device.func_busy {d : Device} (h : ∀ f ∈ d.funcs, f.busy = []) (fn : Nat) : (d.func fn).busy = [] := by
  unfold Device.func
  cases hf : d.funcs.find? (·.no == fn) with
  | none => rfl
  | some f => exact h f (List.mem_of_find?_eq_some hf)

/-- The one SPAWN that waits is served next. -/
theorem Device.nextServed_spawn {d : Device} {r : SpawnReq} (hs : d.spawns = [r]) (hb : ∀ f ∈ d.funcs, f.busy = [])
    (hf : r.fn < 32) : d.nextServed = some (r.fn, spawnPort) := by
  have hw (fn : Nat) : d.waiting fn = if r.fn = fn then [spawnPort] else [] := by
    simp [Device.waiting, Device.func_busy hb, hs]
  have h1 : roundFrom 32 d.nextFn (fun f => !(d.waiting f).isEmpty) = some r.fn := by
    refine roundFrom_only d.nextFn hf (fun i _ => ?_)
    rw [hw]
    by_cases e : r.fn = i
    · simp [e]
    · simp [e, Ne.symm e]
  have h2 : roundFrom 65 (d.func r.fn).nextPort (d.waiting r.fn).contains = some spawnPort := by
    refine roundFrom_only _ (by decide) (fun i _ => ?_)
    simp [hw]
  simp only [Device.nextServed, h1, h2, Option.map_some]

/-- A task as it was accepted, but for its abnormal end and its ring state (R33, R43). -/
def Task.AsAccepted (w t : Task) : Prop := { w with ended := t.ended, hasRing := t.hasRing } = t

theorem Task.AsAccepted.field {w t : Task} (h : w.AsAccepted t) {α : Type} (f : Task → α)
    (hf : f { w with ended := t.ended, hasRing := t.hasRing } = f w) : f w = f t := hf.symm.trans (congrArg f h)

/-- A task accepted is live (R30, R31). -/
theorem Device.accept_mem (d : Device) (t : Task) : ∃ w ∈ (d.accept t).tasks, w.AsAccepted t := by
  have h1 : ∃ w ∈ endDependants (d.tasks ++ [t]), { w with ended := t.ended } = t := by
    refine ⟨_, List.mem_map.mpr ⟨t, by simp, rfl⟩, ?_⟩
    split
    · rfl
    · split <;> rfl
  obtain ⟨w, hw, e⟩ := h1
  refine ⟨_, List.mem_map.mpr ⟨w, hw, rfl⟩, ?_⟩
  unfold Task.AsAccepted
  rw [← e]
  split <;> rfl

/-! ### A SPAWN served (R34) -/

/-- From `s` to `t` the intake has answered the SPAWN of the LC in focus with `id`, and no request waits; of the rest only
what acceptance changes may have changed. -/
structure State.Served (s t : State) (id : BitVec 32) : Prop where
  lc : t.lc = s.lc
  spawns : t.dev.spawns = []
  answers : t.dev.spawnAnswers = s.dev.spawnAnswers ++ [(s.lc.key, id)]
  mem : t.dev.mem = s.dev.mem

/-- Nothing is accepted while as many tasks are live as can be (R34). -/
theorem State.acceptSpawn_full {s : State} (who : LcKey) (fn : Nat) (p : BitVec 2048) (h : taskCap ≤ s.dev.tasks.length) :
    s.acceptSpawn who fn p = (s, 0) := by
  unfold State.acceptSpawn
  rw [if_pos h]

/-- A SPAWN is accepted under an identifier that no live task of the function holds (R30, R34). -/
theorem State.acceptSpawn_room {s : State} (who : LcKey) (fn : Nat) (p : BitVec 2048) (h : s.dev.tasks.length < taskCap) :
    ∃ id pt asid, (s.acceptSpawn who fn p).2 = id ∧ id.getLsbD 31 = true ∧ (∀ u ∈ s.dev.tasks, u.fn = fn → u.id ≠ id)
      ∧ (∀ u, s.dev.task who.task = some u → pt = u.ptbase ∧ asid = u.asid)
      ∧ ∃ w ∈ (s.acceptSpawn who fn p).1.dev.tasks, w.AsAccepted (taskOfPacket s.dev p fn id true pt asid) := by
  have hlen : ((s.dev.tasks.filter (·.fn == fn)).map (·.id)).length ≤ s.dev.tasks.length := by
    rw [List.length_map]
    exact List.length_filter_le _ _
  have hcap : taskCap = 4096 := rfl
  have hfree := spawnId_fresh (n := taskCap + 2) (s.dev.func fn).spawnCount (used := (s.dev.tasks.filter (·.fn == fn)).map (·.id))
    (by omega) (by omega)
  generalize hc : spawnId ((s.dev.tasks.filter (·.fn == fn)).map (·.id)) (taskCap + 2) (s.dev.func fn).spawnCount = c at hfree
  have hid : ∀ u ∈ s.dev.tasks, u.fn = fn → u.id ≠ 1#1 ++ c := fun u hu hf he =>
    hfree (List.mem_map.mpr ⟨u, List.mem_filter.mpr ⟨hu, by simpa using hf⟩, he⟩)
  have hbit : (1#1 ++ c).getLsbD 31 = true := by
    rw [BitVec.getLsbD_append, if_neg (Nat.lt_irrefl 31)]
    rfl
  unfold State.acceptSpawn
  simp only [if_neg (show ¬taskCap ≤ s.dev.tasks.length by omega), hc]
  cases s.dev.task who.task with
  | some u => exact ⟨_, u.ptbase, u.asid, rfl, hbit, hid, (fun v hv => by cases hv; exact ⟨rfl, rfl⟩), Device.accept_mem _ _⟩
  | none => exact ⟨_, s.lc.ptbase, s.lc.asid, rfl, hbit, hid, (fun _ hv => nomatch hv), Device.accept_mem _ _⟩

/-- What accepting a SPAWN leaves. -/
theorem State.acceptSpawn_rest (s : State) (who : LcKey) (fn : Nat) (p : BitVec 2048) :
    (s.acceptSpawn who fn p).1.lc = s.lc ∧ (s.acceptSpawn who fn p).1.dev.spawns = s.dev.spawns
      ∧ (s.acceptSpawn who fn p).1.dev.spawnAnswers = s.dev.spawnAnswers
      ∧ (s.acceptSpawn who fn p).1.dev.mem = s.dev.mem := by
  by_cases h : taskCap ≤ s.dev.tasks.length
  · rw [State.acceptSpawn_full who fn p h]
    exact ⟨rfl, rfl, rfl, rfl⟩
  · unfold State.acceptSpawn
    rw [if_neg h]
    cases s.dev.task who.task <;> exact ⟨rfl, rfl, rfl, rfl⟩

/-- The oldest SPAWN of a function is answered (R34). -/
theorem State.serveSpawn_found {s : State} {fn : Nat} {r : SpawnReq} (h : s.dev.spawns.find? (·.fn == fn) = some r) :
    (s.serveSpawn fn).lc = s.lc ∧ (s.serveSpawn fn).dev.spawns = s.dev.spawns.filter (· != r)
      ∧ (s.serveSpawn fn).dev.spawnAnswers = s.dev.spawnAnswers ++ [(r.who, (s.acceptSpawn r.who fn r.packet).2)]
      ∧ (s.serveSpawn fn).dev.mem = s.dev.mem
      ∧ (s.serveSpawn fn).dev.tasks = (s.acceptSpawn r.who fn r.packet).1.dev.tasks := by
  obtain ⟨hlc, hsp, han, hmem⟩ := s.acceptSpawn_rest r.who fn r.packet
  unfold State.serveSpawn
  rw [h]
  exact ⟨hlc, congrArg (List.filter (· != r)) hsp, congrArg (· ++ _) han, hmem, rfl⟩

/-! ### The intake (R50) -/

/-- A function found has its number. -/
theorem Device.func_no (d : Device) (fn : Nat) : (d.func fn).no = fn := by
  unfold Device.func
  cases h : d.funcs.find? (·.no == fn) with
  | none => rfl
  | some f => simpa using List.find?_some h

/-- A port found has its number. -/
theorem Func.port_no (f : Func) (n : BitVec 6) : (f.port n).no = n := by
  unfold Func.port
  cases h : f.ports.find? (·.no == n) with
  | none => rfl
  | some p => simpa using List.find?_some h

/-- An entry replaced in a list leaves those of other keys to be found. -/
theorem find?_replaced {α κ : Type} [DecidableEq κ] (key : α → κ) (a : α) (l : List α) {n : κ} (h : n ≠ key a) :
    (a :: l.filter (fun x => key x != key a)).find? (fun x => key x == n) = l.find? (fun x => key x == n) := by
  have hp : (fun x => decide ((key x != key a) = true ∧ (key x == n) = true)) = (fun x => key x == n) := by
    funext x
    by_cases e : key x = n
    · simp [e, h]
    · simp [e]
  rw [List.find?_cons_of_neg (by simpa using Ne.symm h), List.find?_filter, hp]

/-- A function replaced is found as replaced, every other as it was. -/
theorem Device.func_setFunc (d : Device) (f : Func) (g : Nat) :
    (d.setFunc f).func g = if g = f.no then f else d.func g := by
  unfold Device.func Device.setFunc
  by_cases h : g = f.no
  · simp [h]
  · rw [if_neg h, find?_replaced Func.no f d.funcs h]

/-- A port replaced is found as replaced, every other as it was. -/
theorem Func.port_setPort (f : Func) (p : Port) (n : BitVec 6) : (f.setPort p).port n = if n = p.no then p else f.port n := by
  unfold Func.port Func.setPort
  by_cases h : n = p.no
  · simp [h]
  · rw [if_neg h, find?_replaced Port.no p f.ports h]

/-- What serving the port or the SPAWN next in turn leaves. -/
def State.servedNext (s : State) (f p : Nat) : State :=
  if p = spawnPort then s.serveSpawn f else s.servePort f (BitVec.ofNat 6 p)

/-- The intake serves what is next in turn, and remembers whose turn it was (R50). -/
theorem State.intake_served {s : State} {f p : Nat} (h : s.dev.nextServed = some (f, p)) : ∃ t, s.intake = some t
    ∧ { t with dev := (s.servedNext f p).dev } = s.servedNext f p
    ∧ { t.dev with funcs := (s.servedNext f p).dev.funcs, nextFn := (s.servedNext f p).dev.nextFn } = (s.servedNext f p).dev
    ∧ (t.dev.func f).ports = ((s.servedNext f p).dev.func f).ports
    ∧ ∀ g, g ≠ f → t.dev.func g = (s.servedNext f p).dev.func g := by
  unfold State.intake
  rw [h]
  refine ⟨_, rfl, rfl, rfl, ?_, fun g hg => ?_⟩
  · refine (congrArg Func.ports (Device.func_setFunc _ _ f)).trans ?_
    rw [if_pos (Device.func_no _ _).symm]
    rfl
  · refine (Device.func_setFunc _ _ g).trans (if_neg ?_)
    rw [Device.func_no]
    exact hg

/-- The intake serves the one SPAWN that waits. -/
theorem State.intake_spawn {s : State} {r : SpawnReq} (hs : s.dev.spawns = [r]) (hk : r.who = s.lc.key)
    (hb : ∀ f ∈ s.dev.funcs, f.busy = []) (hf : r.fn < 32) :
    ∃ t, s.intake = some t ∧ s.Served t (s.acceptSpawn r.who r.fn r.packet).2
      ∧ t.dev.tasks = (s.acceptSpawn r.who r.fn r.packet).1.dev.tasks := by
  obtain ⟨t, ht, hrest, hdev, -, -⟩ := State.intake_served (Device.nextServed_spawn hs hb hf)
  obtain ⟨hlc, hsp, han, hmem, htasks⟩ := State.serveSpawn_found (s := s) (fn := r.fn) (r := r) (by simp [hs])
  have hv : s.servedNext r.fn spawnPort = s.serveSpawn r.fn := if_pos rfl
  rw [hv] at hrest hdev
  rw [hs] at hsp
  rw [hk] at han
  refine ⟨t, ht, ⟨(congrArg State.lc hrest :).trans hlc, (congrArg Device.spawns hdev :).trans ?_,
    (congrArg Device.spawnAnswers hdev :).trans (hk ▸ han), (congrArg Device.mem hdev :).trans hmem⟩,
    (congrArg Device.tasks hdev :).trans htasks⟩
  rw [hsp]
  simp

/-- No answer waits for an LC that has no SPAWN under way. -/
theorem State.spawnAnswer_none {s : State} (h : s.spawning = false) : s.spawnAnswer = none := by
  simp only [State.spawning, Bool.or_eq_false_iff, List.any_eq_false] at h
  simp only [State.spawnAnswer, Option.map_eq_none_iff, List.find?_eq_none]
  exact h.2

theorem State.Served.answer {s t : State} {id : BitVec 32} (h : s.Served t id) (hs : s.spawnAnswer = none) :
    t.spawnAnswer = some id := by
  simp only [State.spawnAnswer, Option.map_eq_none_iff] at hs
  rw [State.spawnAnswer, h.answers, h.lc, List.find?_append, hs]
  simp

/-- The state with the packet of the LC's SPAWN at an intake where nothing else waits. -/
def State.offering (s : State) (u : Task) (p : BitVec 2048) : State :=
  { s with dev := { s.dev with spawns := [⟨s.lc.key, u.fn, p⟩] } }

/-- Offered when nothing waits at the intake, and followed in order, a packet is served at once (log 3). -/
theorem State.offerSpawn_served {s : State} {u : Task} (p : BitVec 2048) (hu : s.task = some u) (hr : s.runAhead = false)
    (hs : s.dev.spawns = []) (hb : ∀ f ∈ s.dev.funcs, f.busy = []) (hf : u.fn < 32) (hn : s.spawnAnswer = none) :
    s.Served (s.offerSpawn p) ((s.offering u p).acceptSpawn s.lc.key u.fn p).2
      ∧ (s.offerSpawn p).dev.tasks = ((s.offering u p).acceptSpawn s.lc.key u.fn p).1.dev.tasks := by
  have hfn : s.fnOf = u.fn := by simp [State.fnOf, hu]
  have hsum : (s.dev.funcs.map (fun f => f.busy.length)).sum = 0 := by
    rw [List.sum_eq_zero]
    intro x hx
    obtain ⟨f, hf, rfl⟩ := List.mem_map.mp hx
    simp [hb f hf]
  obtain ⟨v, hv, hserved, htasks⟩ := State.intake_spawn (s := s.offering u p) (r := ⟨s.lc.key, u.fn, p⟩) rfl rfl hb hf
  have ho : s.offerSpawn p = v := by
    have hta : (s.offering u p).spawnAnswer = none := hn
    have h1 : s.offerSpawn p = State.serveOwn 1 (s.offering u p) := by
      simp only [State.offerSpawn, State.offering, hr, hs, hfn, List.nil_append, List.length_singleton, hsum, Nat.add_zero,
        Bool.false_eq_true, if_false]
    rw [h1, State.serveOwn, hta, hv]
    rfl
  rw [ho]
  exact ⟨⟨hserved.lc, hserved.spawns, hserved.answers, hserved.mem⟩, htasks⟩

/-- The answer taken: SPAWN has written its register and is no longer under way (R384). -/
theorem State.Served.spawned {s t : State} {id : BitVec 32} (h : s.Served t id) (d : SReg) :
    (t.spawned d id).Holds d (id.setWidth 64) ∧ s.SameRegsBut (t.spawned d id) d ∧ (t.spawned d id).lc.pc = s.lc.pc + 4
      ∧ (t.spawned d id).dev.mem = s.dev.mem ∧ (t.spawned d id).dev.spawns = [] ∧ (t.spawned d id).spawning = false
      ∧ (t.spawned d id).dev.tasks = t.dev.tasks := by
  let v : State := { t with dev := { t.dev with spawnAnswers := t.dev.spawnAnswers.filter (·.1 != t.lc.key) } }
  obtain ⟨hh, hr, hpc, -, hrest⟩ := State.wrote_setS v d (id.setWidth 64)
  have hdev : (t.spawned d id).dev = v.dev := rfl
  have hvlc : v.lc = s.lc := h.lc
  refine ⟨hh, ?_, ?_, h.mem, h.spawns, ?_, rfl⟩
  · intro r hne
    obtain ⟨h1, h2⟩ := hr r hne
    refine ⟨h1.trans ?_, h2.trans ?_⟩
    · simp only [State.getS, hvlc]
    · simp only [State.poisonedS, hvlc]
  · rw [← hvlc]
    exact hpc
  · have hkey : (t.spawned d id).lc.key = t.lc.key := (congrArg (fun x : State => x.lc.key) hrest :)
    have hans : ∀ x ∈ v.dev.spawnAnswers, ¬(x.1 == t.lc.key) = true := by
      intro x hx
      simpa using (List.mem_filter.mp hx).2
    rw [State.spawning, hdev, hkey, Bool.or_eq_false_iff, List.any_eq_false, List.any_eq_false]
    exact ⟨fun x hx => absurd hx (by rw [show v.dev.spawns = [] from h.spawns]; exact List.not_mem_nil), hans⟩

/-! ### The steps of SPAWN (R384) -/

section
variable {s : State} {d a : SReg}

theorem exec_spawn_answered {r : LcKey × BitVec 32} (h : s.dev.spawnAnswers.find? (·.1 == s.lc.key) = some r) :
    exec (.spawn d a) s = .next (s.spawned d r.2) := by
  show s.finish _ = _
  simp only [State.spawnAnswer, h, Option.map_some]
  rfl

theorem exec_spawn_waits (h : s.spawnAnswer = none) (hs : s.spawning = true) : exec (.spawn d a) s = .next s := by
  show s.finish _ = _
  simp only [h, hs, if_true]
  rfl

theorem exec_spawn_misaligned (hs : s.spawning = false) (ha : s.Readable a) (hd : s.Writable d)
    (hx : (s.getS a).toNat % 64 ≠ 0) :
    exec (.spawn d a) s = s.finish (s.raise .spawnInvalid (s.getS a)) := by
  have hf : field (s.getS a) 0 6 ≠ 0 := by simpa [field] using hx
  show s.finish _ = _
  simp only [State.spawnAnswer_none hs, hs, State.useS_ok ha, State.claimS_ok hd, bind, Except.bind, Bool.false_eq_true,
    if_false, if_pos hf]

theorem exec_spawn_releases (hs : s.spawning = false) (ha : s.Readable a) (hd : s.Writable d)
    (hx : (s.getS a).toNat % 64 = 0) (hv : s.svxDone = false) : exec (.spawn d a) s = .next s := by
  have hf : ¬field (s.getS a) 0 6 ≠ 0 := by simpa [field] using hx
  show s.finish _ = _
  simp only [State.spawnAnswer_none hs, hs, State.useS_ok ha, State.claimS_ok hd, State.releaseWait_wait hv, bind,
    Except.bind, Bool.false_eq_true, if_false, if_neg hf]
  rfl

/-- What SPAWN does with its packet: it is refused, answered at once, or waits at the intake. -/
def State.spawnRead (s : State) (d a : SReg) (p : BitVec 2048) : Except Halt State :=
  if (rejectReason p false).isSome then s.raise .spawnInvalid (s.getS a)
  else ((s.offerSpawn p).spawnAnswer.map (fun id => (s.offerSpawn p).spawned d id)).elim (.error (.waitIn (s.offerSpawn p))) .ok

/-- SPAWN with its packet read. -/
theorem exec_spawn_read {p : BitVec 2048} (hs : s.spawning = false) (ha : s.Readable a) (hd : s.Writable d)
    (hx : (s.getS a).toNat % 64 = 0) (hv : s.svxDone = true) (he : s.lc.hostErr = none)
    (hp : s.readPacket (s.getS a) = .ok (s, p)) : exec (.spawn d a) s = s.finish (s.spawnRead d a p) := by
  have hf : ¬field (s.getS a) 0 6 ≠ 0 := by simpa [field] using hx
  show s.finish _ = _
  simp only [State.spawnAnswer_none hs, hs, State.useS_ok ha, State.claimS_ok hd, State.releaseWait_ok hv he, hp, bind,
    Except.bind, Bool.false_eq_true, if_false, if_neg hf]
  unfold State.spawnRead
  split
  · rfl
  · cases (s.offerSpawn p).spawnAnswer <;> rfl

end

/-- A refused packet raises SPAWN_INVALID (R29, R384). -/
theorem State.spawnRead_refused {s : State} {p : BitVec 2048} (d a : SReg) (h : rejectReason p false ≠ none) :
    s.spawnRead d a p = s.raise .spawnInvalid (s.getS a) := by
  unfold State.spawnRead
  rw [if_pos (Option.isSome_iff_ne_none.mpr h)]

/-- A packet that waits at the intake holds its SPAWN. -/
theorem State.spawnRead_offered {s : State} {u : Task} {p : BitVec 2048} (d a : SReg) (h : rejectReason p false = none)
    (hu : s.task = some u) (hr : s.runAhead = true) (hn : s.spawnAnswer = none) : s.spawnRead d a p
      = .error (.waitIn { s with dev := { s.dev with spawns := s.dev.spawns ++ [⟨s.lc.key, u.fn, p⟩] } }) := by
  have hfn : s.fnOf = u.fn := by simp [State.fnOf, hu]
  have ho : s.offerSpawn p = { s with dev := { s.dev with spawns := s.dev.spawns ++ [⟨s.lc.key, u.fn, p⟩] } } := by
    simp only [State.offerSpawn, hfn, hr, if_true]
  have ha : (s.offerSpawn p).spawnAnswer = none := by rw [ho]; exact hn
  unfold State.spawnRead
  rw [h, ha, ho]
  rfl

/-- A packet that is answered at once completes its SPAWN. -/
theorem State.spawnRead_served {s : State} {p : BitVec 2048} {id : BitVec 32} (d a : SReg) (h : rejectReason p false = none)
    (ha : (s.offerSpawn p).spawnAnswer = some id) : s.spawnRead d a p = .ok ((s.offerSpawn p).spawned d id) := by
  unfold State.spawnRead
  rw [h, ha]
  rfl

theorem spawnTask_holds : spawnTask := by
  intro d a s
  refine ⟨fun r hr => ⟨_, exec_spawn_answered hr, State.wrote_setS _ d _⟩, fun hn hs => ?_, fun hs ha hd => ⟨fun hx htake => ?_,
    fun hx hv => exec_spawn_releases hs ha hd hx hv, fun u loc p hu hv he hreach hbytes => ?_⟩⟩
  · exact exec_spawn_waits (by rw [State.spawnAnswer, hn]; rfl) hs
  · rw [exec_spawn_misaligned hs ha hd hx]
    exact State.finish_raise _ htake
  · have hx : (s.getS a).toNat % 64 = 0 := by
      simpa using (hreach 0 (by omega)).1.aligned
    have hn := State.spawnAnswer_none hs
    have hex := exec_spawn_read hs ha hd hx hv he (State.readPacket_ok hreach hbytes)
    refine ⟨fun hrej htake => ?_, fun hrej => ⟨fun hr => ?_, fun hr hsp hb hf => ?_⟩⟩
    · rw [hex, State.spawnRead_refused d a hrej]
      exact State.finish_raise _ htake
    · rw [hex, State.spawnRead_offered d a hrej hu hr hn]
      rfl
    · obtain ⟨hserved, htasks⟩ := State.offerSpawn_served p hu hr hsp hb hf hn
      have hdone := hserved.spawned d
      rw [State.spawnRead_served d a hrej (hserved.answer hn)] at hex
      refine ⟨fun hfull => ?_, fun hroom => ?_⟩
      · have hfull' : taskCap ≤ (s.offering u p).dev.tasks.length := hfull
        rw [State.acceptSpawn_full _ _ _ hfull'] at hex htasks hdone
        obtain ⟨hh, hregs, hpc, hmem, hspawns, hsp, hts⟩ := hdone
        exact ⟨_, ⟨hex, hh, hregs, hpc, hmem, hspawns, hsp⟩, hts.trans htasks⟩
      · obtain ⟨id, pt, asid, hid, hbit, hfree, hspace, w, hw, has⟩ :=
          State.acceptSpawn_room (s := s.offering u p) s.lc.key u.fn p hroom
        obtain ⟨rfl, rfl⟩ := hspace u hu
        rw [hid] at hex hdone
        obtain ⟨hh, hregs, hpc, hmem, hspawns, hsp, hts⟩ := hdone
        exact ⟨_, id, ⟨hex, hh, hregs, hpc, hmem, hspawns, hsp⟩, hbit, hfree, w, (hts.trans htasks) ▸ hw, has.field Task.seq rfl,
          has.field Task.fn rfl, has.field Task.id rfl, has.field Task.spawned rfl, has.field Task.ptbase rfl,
          has.field Task.asid rfl, has.field Task.lcn rfl, has.field Task.elements rfl, has.field Task.entry rfl,
          has.field Task.coremask rfl⟩

end Sys2Proof.Machine
end

section
/-! Proofs, 02: a frame stored at a save area (R289, R290), and YIELD (R63, R432). -/

namespace Sys2Proof.Machine

/-! ### Reaching a granule of a save area -/

/-- An access of no combining entry's granule recalls none (R204). -/
theorem Device.settle_none {d : Device} {pa : Nat} (h : d.combines.any (·.granule == pa / 64) = false) : d.settle pa 1 = d := by
  have : d.combines.filter (fun c => decide (pa / 64 ≤ c.granule) && decide (c.granule * 64 < pa + 1)) = [] := by
    refine List.filter_eq_nil_iff.mpr (fun c hc => ?_)
    have hne : ¬c.granule = pa / 64 := by simpa using List.any_eq_false.mp h c hc
    simp only [Bool.and_eq_true, decide_eq_true_eq]
    omega
  rw [Device.settle, this]
  rfl

/-- What translates at once is reached with nothing before the access (R153, R204). -/
theorem Device.fetchXl_of_translate {d : Device} {x : Space} {k : Acc} {va : Dword} {p : Xl}
    (h : d.translate x k va = .ok p) : d.fetchXl x k va = (d, .ok p) := by
  unfold Device.translate at h
  unfold Device.fetchXl
  split at h
  · cases h
  · cases h
  · rename_i q hq
    rw [hq]
    split at h
    · cases h
    · rename_i hc
      cases h
      show (d.settle p.pa 1, Except.ok p) = (d, .ok p)
      rw [Device.settle_none (by simpa using hc)]

/-- A location found at once is reached with nothing before the access. -/
theorem State.reachIn_of_locate {s : State} {super : Bool} {k : Acc} {va : Dword} {l : Loc}
    (h : s.locate super k va = .ok l) : s.reachIn (s.space super) k va = (s, .ok l) := by
  unfold State.locate State.locateIn at h
  unfold State.reachIn
  split
  · rename_i hw
    rw [if_pos hw] at h
    split at h
    · rename_i m hm
      cases h
      rw [hm]
    · cases h
  · rename_i hw
    rw [if_neg hw] at h
    split at h
    · rename_i x hx
      cases h
      rw [Device.fetchXl_of_translate hx]
    · cases h

/-- An access that meets a cause meets it in every way of reaching its address. -/
theorem State.reachIn_of_cause {s : State} {super : Bool} {k : Acc} {va : Dword} {c : Cause}
    (h : s.locate super k va = .error (.cause c)) : s.reachIn (s.space super) k va = (s, .error c) := by
  unfold State.locate State.locateIn at h
  unfold State.reachIn
  split
  · rename_i hw
    rw [if_pos hw] at h
    split at h
    · cases h
    · rename_i m hm
      cases h
      rw [hm]
  · rename_i hw
    rw [if_neg hw] at h
    split at h
    · cases h
    · rename_i e he
      cases h
      unfold Device.translate at he
      unfold Device.fetchXl
      split at he
      · rename_i c' hc
        cases he
        rw [hc]
      · cases he
      · split at he <;> cases he

/-! ### A frame stored -/

/-- Two states that reach a save area alike: what the translation of an address asks is the same. -/
structure State.ReachAlike (s u : State) : Prop where
  space : u.space true = s.space true
  combines : u.dev.combines = s.dev.combines
  hbm : u.dev.hbm = s.dev.hbm
  member : u.dev.member = s.dev.member
  reachable : u.dev.reachable = s.dev.reachable
  link : u.dev.linkError = s.dev.linkError

/-- From `s` to `t` the granules `g` have been stored at consecutive granules of an area from the `i`-th on; memory is
else as it was, and of the rest only poison, errors, scrubs and monitors may have changed. -/
structure State.StoredFrame (s t : State) (loc : Nat → Nat) (i : Nat) (g : List Granule) : Prop where
  bytes : ∀ j b, (h : j < g.length) → b < 64 → Memory.get t.dev.mem (loc (i + j) + b) = BitVec.ofNat 8 (g[j].1 / 256 ^ b)
  kept : ∀ a, (∀ j, j < g.length → a < loc (i + j) ∨ loc (i + j) + 64 ≤ a) →
    Memory.get t.dev.mem a = Memory.get s.dev.mem a
  wf : Memory.wf t.dev.mem = true
  dev : { t.dev with
    mem := s.dev.mem, memPoison := s.dev.memPoison, memError := s.dev.memError, l2Error := s.dev.l2Error
    scrubs := s.dev.scrubs, monitors := s.dev.monitors } = s.dev
  rest : { t with dev := s.dev } = s

/-- A frame stored changes nothing that reaching an area asks. -/
theorem State.StoredFrame.reachAlike {s t : State} {loc : Nat → Nat} {i : Nat} {g : List Granule}
    (h : s.StoredFrame t loc i g) : s.ReachAlike t := by
  have hp : t.dev.ptrs = s.dev.ptrs := (congrArg Device.ptrs h.dev :)
  have hl : t.lc = s.lc := (congrArg State.lc h.rest :)
  have hc : t.core = s.core := (congrArg State.core h.rest :)
  refine ⟨?_, (congrArg Device.combines h.dev :), (congrArg Device.hbm h.dev :), (congrArg Device.member h.dev :),
    (congrArg Device.reachable h.dev :), (congrArg Device.linkError h.dev :)⟩
  simp only [State.space, Device.pool, hp, hl, hc]

theorem State.ReachAlike.refl (s : State) : s.ReachAlike s := ⟨rfl, rfl, rfl, rfl, rfl, rfl⟩

theorem State.ReachAlike.trans {s t u : State} (h : s.ReachAlike t) (k : t.ReachAlike u) : s.ReachAlike u :=
  ⟨k.space.trans h.space, k.combines.trans h.combines, k.hbm.trans h.hbm, k.member.trans h.member,
    k.reachable.trans h.reachable, k.link.trans h.link⟩

/-- One granule stored at its place. -/
theorem State.storedFrame_one {u : State} (p : Nat) (e : Dword) (g : Granule) (h : Memory.wf u.dev.mem = true) :
    u.StoredFrame (u.writeLoc (.phys p e) 64 g.1 g.2) (fun _ => p) 0 [g] := by
  have hwr : u.writeLoc (.phys p e) 64 g.1 g.2 = { u with dev := u.dev.writeP p 64 g.1 g.2 } := rfl
  have hm := Device.writeP_mem u.dev p 64 g.1 g.2
  have hd := Device.writeP_rest u.dev p 64 g.1 g.2
  rw [hwr]
  generalize u.dev.writeP p 64 g.1 g.2 = d at *
  refine ⟨fun j b hj hb => ?_, fun a ha => ?_, ?_, hd, rfl⟩
  · have hj0 : j = 0 := by simpa using hj
    subst hj0
    rw [hm, Memory.get_write h, if_pos (by omega), Nat.add_sub_cancel_left]
    rfl
  · rw [hm]
    exact Memory.get_write_other h p 64 g.1 a (ha 0 (by simp))
  · rw [hm]
    exact Memory.wf_write h p 64 g.1

/-- A frame that fits its area is stored there (R289). -/
theorem State.storeFrame_area {s u : State} {va : Dword} {n : Nat} {loc : Nat → Nat} (ha : s.AreaAt .store va n loc)
    (hr : s.ReachAlike u) (hw : Memory.wf u.dev.mem = true) (i : Nat) (g : List Granule) (hn : i + g.length ≤ n) :
    ∃ t, u.storeFrame (va + BitVec.ofNat 64 (64 * i)) g = .ok t ∧ u.StoredFrame t loc i g := by
  induction g generalizing u i with
  | nil => exact ⟨u, rfl, fun j b hj => absurd hj (Nat.not_lt_zero j), fun _ _ => rfl, hw, rfl, rfl⟩
  | cons x r ih =>
    simp only [List.length_cons] at hn
    obtain ⟨e, he⟩ := ha.held i u (by omega) hr.space hr.combines hr.hbm hr.member hr.reachable
    have h1 := State.storedFrame_one (u := u) (loc i) e x hw
    have hlink : u.linkBad (.phys (loc i) e) = false := by
      simp only [State.linkBad, hr.link]
      simpa using ha.links i (by omega)
    obtain ⟨t, ht, h2⟩ := ih (hr.trans h1.reachAlike) h1.wf (i + 1) (by omega)
    have hva : va + BitVec.ofNat 64 (64 * i) + 64 = va + BitVec.ofNat 64 (64 * (i + 1)) := by
      rw [Nat.mul_succ, BitVec.ofNat_add, ← BitVec.add_assoc]
      rfl
    refine ⟨t, ?_, fun j b hj hb => ?_, fun a hk => ?_, h2.wf, ?_, ?_⟩
    · rw [State.storeFrame, State.reachIn_of_locate he]
      simp only [hlink, Bool.false_eq_true, if_false]
      rw [hva]
      exact ht
    · cases j with
      | zero =>
        have hout : ∀ j, j < r.length → loc (i + 0) + b < loc (i + 1 + j) ∨ loc (i + 1 + j) + 64 ≤ loc (i + 0) + b := by
          intro j hj
          have := ha.apart i (i + 1 + j) (by omega) (by omega)
          simp only [Nat.add_zero]
          omega
        rw [h2.kept _ hout]
        exact h1.bytes 0 b (by simp) hb
      | succ j =>
        simp only [List.length_cons] at hj
        rw [show i + (j + 1) = i + 1 + j by omega, h2.bytes j b (by omega) hb, List.getElem_cons_succ]
    · have hhere := hk 0 (by simp)
      rw [h2.kept a (fun j hj => by
        have := hk (j + 1) (by simpa using hj)
        rwa [Nat.add_comm j 1, ← Nat.add_assoc] at this)]
      exact h1.kept a (fun _ _ => hhere)
    · have hd1 := h1.dev
      have hd2 := h2.dev
      rw [← hd2] at hd1
      exact hd1
    · have hr1 := h1.rest
      have hr2 := h2.rest
      rw [← hr2] at hr1
      exact hr1

end Sys2Proof.Machine
end

section
/-! Proofs, 02: the frame of an LC that yields (R290), and YIELD (R63, R289, R432). -/

namespace Sys2Proof.Machine

/-! ### Granules of a frame -/

@[simp] theorem granulesOf_length (n x p : Nat) : (granulesOf n x p).length = n := by
  simp only [granulesOf, List.length_map, List.length_range]

/-- What a scalar frame holds before its control block: the registers, the CSRs and the queues. -/
def State.frameHead (s : State) : List Granule :=
  (List.range 64).map (fun n => ((s.lc.s[n]?.getD 0).toNat, s.lc.sPoison.getLsbD n))
    ++ (granulesOf 16 (packWords ((List.range 128).map (fun n => if csrOfLc n then ((s.csr n).getD 0).toNat else 0))) 0
    ++ granulesOf 16 (packWords (s.lc.q.toList.flatMap (fun q => (List.range 16).map (fun i => (q.getD i 0).toNat)))) 0)

/-- What it holds behind its control block: handles, channels, further CSRs and stopped entries. -/
def State.frameTail (s : State) : List Granule :=
  granulesOf 8 (packWords (s.lc.handles.map HEntry.word)) 0
    ++ (s.lc.chans.toList.flatMap (fun c => granulesOf 1 (packWords (c.next.toNat :: c.errWords)) 0)
    ++ (granulesOf 8 (packWords ((List.range 64).map (fun n =>
        if csrOfLc (0x100 + n) then ((s.csr (0x100 + n)).getD 0).toNat else 0))) 0
    ++ (granulesOf 4 0 0
    ++ ((s.frameEntries.take 32).flatMap (fun e => e.1.granules e.2)
      ++ granulesOf (4 * (32 - s.frameEntries.length)) 0 0))))

theorem State.scalarFrame_eq (s : State) (pc : Dword) : s.scalarFrame pc
    = s.frameHead ++ (granulesOf 8 (packWords (s.ctlWords pc)) 0 ++ s.frameTail) := by
  simp only [State.scalarFrame, State.frameHead, State.frameTail, List.append_assoc]

/-- Lists of one length put together. -/
theorem length_flatMap_const {α β : Type} {f : α → List β} {n : Nat} (h : ∀ x, (f x).length = n) (l : List α) :
    (l.flatMap f).length = n * l.length := by
  induction l with
  | nil => rfl
  | cons x r ih => rw [List.flatMap_cons, List.length_append, ih, h, List.length_cons, Nat.mul_succ, Nat.add_comm]

@[simp] theorem State.frameHead_length (s : State) : s.frameHead.length = 96 := by
  simp only [State.frameHead, List.length_append, List.length_map, List.length_range, granulesOf_length]

@[simp] theorem State.frameTail_length (s : State) : s.frameTail.length = 152 := by
  have hchan : (s.lc.chans.toList.flatMap (fun c => granulesOf 1 (packWords (c.next.toNat :: c.errWords)) 0)).length = 4 := by
    rw [length_flatMap_const (fun _ => granulesOf_length 1 _ 0), Vector.length_toList]
  have hent : ((s.frameEntries.take 32).flatMap (fun e => e.1.granules e.2)).length = 4 * min 32 s.frameEntries.length := by
    rw [length_flatMap_const (f := fun e : VEntry × Bool => e.1.granules e.2) (fun _ => granulesOf_length 4 _ 0),
      List.length_take]
  simp only [State.frameTail, List.length_append, granulesOf_length, hchan, hent]
  omega

/-- The scalar part of a frame is 256 granules (R290). -/
@[simp] theorem State.scalarFrame_length (s : State) (pc : Dword) : (s.scalarFrame pc).length = 256 := by
  rw [State.scalarFrame_eq, List.length_append, List.length_append, State.frameHead_length, granulesOf_length,
    State.frameTail_length]

/-- The containment image is 1,024 granules (R281). -/
@[simp] theorem State.containFrame_length (s : State) : s.containFrame.length = 1024 := by
  have h : (s.lc.contain.take containCap).length ≤ containCap := List.length_take_le _ _
  have hc : containCap = 819 := rfl
  simp only [State.containFrame, List.length_append, List.length_map, granulesOf_length]
  omega

/-- Register n stands in granule n (R290). -/
theorem State.scalarFrame_reg (s : State) (pc : Dword) {r : Nat} (h : r < 64) :
    ∃ p, (s.scalarFrame pc)[r]? = some ((s.lc.s[r]?.getD 0).toNat, p) := by
  refine ⟨s.lc.sPoison.getLsbD r, ?_⟩
  rw [State.scalarFrame_eq, List.getElem?_append_left (by rw [State.frameHead_length]; omega), State.frameHead,
    List.getElem?_append_left (by simpa using h), List.getElem?_map, List.getElem?_range h]
  rfl

/-- The PC stands in the first word of granule 96 (R290). -/
theorem State.scalarFrame_pc (s : State) (pc : Dword) :
    ∃ x p, (s.scalarFrame pc)[96]? = some (x, p) ∧ x % 2 ^ 64 = pc.toNat := by
  have hx : packWords (s.ctlWords pc) % 2 ^ 64 = pc.toNat := by
    simp only [State.ctlWords, packWords, List.cons_append, List.map_cons, packFields]
    rw [Nat.add_mul_mod_self_left, Nat.mod_mod, Nat.mod_eq_of_lt pc.isLt]
  refine ⟨packWords (s.ctlWords pc) >>> (512 * 0) % 2 ^ 512, (0 : Nat).testBit 0, ?_, ?_⟩
  · rw [State.scalarFrame_eq, List.getElem?_append_right (by rw [State.frameHead_length]), State.frameHead_length,
      List.getElem?_append_left (by rw [granulesOf_length]; omega)]
    generalize packWords (s.ctlWords pc) = y
    rw [granulesOf, List.getElem?_map, List.getElem?_range (by omega)]
    rfl
  · rw [Nat.mul_zero, Nat.shiftRight_zero, Nat.mod_mod_of_dvd _ (pow_dvd_pow 2 (show 64 ≤ 512 by omega)), hx]

/-! ### Bytes of a word -/

/-- The low bytes of a granule whose first word is known. -/
theorem byte_of_low {x : Nat} {v : Dword} (h : x % 2 ^ 64 = v.toNat) {b : Nat} (hb : b < 8) :
    BitVec.ofNat 8 (x / 256 ^ b) = v.extractLsb' (8 * b) 8 := by
  have hp : (256 : Nat) ^ b = 2 ^ (8 * b) := by rw [pow_mul]; rfl
  apply BitVec.eq_of_getLsbD_eq
  intro i hi
  have hbit : v.getLsbD (8 * b + i) = x.testBit (8 * b + i) := by
    rw [BitVec.getLsbD, ← h, Nat.testBit_mod_two_pow, decide_eq_true (show 8 * b + i < 64 by omega), Bool.true_and]
  rw [BitVec.getLsbD_ofNat, BitVec.getLsbD_extractLsb', hbit, hp, Nat.testBit_div_two_pow, Nat.add_comm i]

/-- The bytes of a granule that holds one word. -/
theorem byte_of_word (v : Dword) (b : Nat) :
    BitVec.ofNat 8 (v.toNat / 256 ^ b) = if b < 8 then v.extractLsb' (8 * b) 8 else 0 := by
  split
  · rename_i hb
    exact byte_of_low (Nat.mod_eq_of_lt v.isLt) hb
  · rename_i hb
    have hlt : v.toNat < 256 ^ b := calc
      v.toNat < 256 ^ 8 := v.isLt
      _ ≤ 256 ^ b := Nat.pow_le_pow_right (by omega) (by omega)
    rw [Nat.div_eq_of_lt hlt]
    rfl

/-! ### An LC yields (R63, R289) -/

/-- What reaching an area asks is not changed when the V stream is held aside. -/
theorem State.holdV_reachAlike (s : State) : s.ReachAlike s.holdV := ⟨rfl, rfl, rfl, rfl, rfl, rfl⟩

/-- An area lies where it lay in every state that reaches it alike. -/
theorem State.AreaAt.of_alike {s u : State} {k : Acc} {va : Dword} {n : Nat} {loc : Nat → Nat} (h : s.AreaAt k va n loc)
    (hr : s.ReachAlike u) : u.AreaAt k va n loc :=
  ⟨fun i hi => hr.link ▸ h.links i hi, h.apart, fun i t hi h1 h2 h3 h4 h5 => h.held i t hi (h1.trans hr.space)
    (h2.trans hr.combines) (h3.trans hr.hbm) (h4.trans hr.member) (h5.trans hr.reachable)⟩

/-- From `s` to `t` the frames of an LC have been stored: the scalar part, and under SCC what containment holds. -/
structure State.SavedFrames (s t : State) (pc : Dword) (scc : Bool) (loc held : Nat → Nat) : Prop where
  regs : s.SavedRegs t loc
  pc : ∀ b, b < 8 → t.areaByte loc 96 b = pc.extractLsb' (8 * b) 8
  kept : ∀ a, (∀ i, i < 256 → a < loc i ∨ loc i + 64 ≤ a) →
    (scc = true → ∀ i, i < 1024 → a < held i ∨ held i + 64 ≤ a) → Memory.get t.dev.mem a = Memory.get s.dev.mem a

/-- The scalar part of a frame stored. -/
theorem State.savedFrames_scalar {s t : State} {pc : Dword} {loc : Nat → Nat}
    (h : s.StoredFrame t loc 0 (s.scalarFrame pc)) (held : Nat → Nat) : s.SavedFrames t pc false loc held := by
  have hl := s.scalarFrame_length pc
  refine ⟨fun r b hr hb => ?_, fun b hb => ?_, fun a ha _ => h.kept a (fun j hj => ?_)⟩
  · obtain ⟨p, hp⟩ := s.scalarFrame_reg pc hr
    have := h.bytes r b (by omega) hb
    rw [Nat.zero_add, List.getElem_of_getElem? hp |>.2] at this
    exact this.trans (byte_of_word _ b)
  · obtain ⟨x, p, hp, hx⟩ := s.scalarFrame_pc pc
    have := h.bytes 96 b (by omega) (by omega)
    rw [Nat.zero_add, List.getElem_of_getElem? hp |>.2] at this
    exact this.trans (byte_of_low hx hb)
  · rw [Nat.zero_add]
    exact ha j (by omega)

/-- What is stored apart from the scalar part leaves it as it is. -/
theorem State.SavedFrames.and_held {s t v : State} {pc : Dword} {loc held : Nat → Nat} {g : List Granule}
    (h : s.SavedFrames t pc false loc held) (k : t.StoredFrame v held 0 g) (hg : g.length = 1024)
    (ha : ∀ i j, i < 256 → j < 1024 → loc i + 64 ≤ held j ∨ held j + 64 ≤ loc i) : s.SavedFrames v pc true loc held := by
  have same (i b : Nat) (hi : i < 256) (hb : b < 64) : v.areaByte loc i b = t.areaByte loc i b := by
    refine k.kept _ (fun j hj => ?_)
    have := ha i j hi (by omega)
    rw [Nat.zero_add]
    omega
  refine ⟨fun r b hr hb => (same r b (by omega) hb).trans (h.regs r b hr hb),
    fun b hb => (same 96 b (by omega) (by omega)).trans (h.pc b hb), fun a h1 h2 => ?_⟩
  rw [k.kept a (fun j hj => by rw [Nat.zero_add]; exact h2 rfl j (by omega))]
  exact h.kept a h1 (fun hf => absurd hf Bool.false_ne_true)

/-- The frames of an LC that yields, stored at its save area (R289). -/
def State.storeFrames (s : State) (u : Task) (pc : Dword) : Except Halt State := do
  let t ← s.storeFrame (u.saveArea s.lc.key.lcid) (s.scalarFrame pc)
  if u.scc then t.storeFrame (u.saveArea s.lc.key.lcid + containOffset) t.containFrame else .ok t

theorem State.storeFrames_ok {s : State} {u : Task} {loc held : Nat → Nat} (pc : Dword) (hw : Memory.wf s.dev.mem = true)
    (ha : s.AreaAt .store (u.saveArea s.lc.key.lcid) 256 loc)
    (hs : u.scc = true → s.AreaAt .store (u.saveArea s.lc.key.lcid + 0x1_4000) 1024 held
      ∧ ∀ i j, i < 256 → j < 1024 → loc i + 64 ≤ held j ∨ held j + 64 ≤ loc i) :
    ∃ t, s.storeFrames u pc = .ok t ∧ s.SavedFrames t pc u.scc loc held ∧ { t with dev := s.dev } = s := by
  obtain ⟨t, ht, h1⟩ := State.storeFrame_area ha (State.ReachAlike.refl s) hw 0 (s.scalarFrame pc) (by simp)
  rw [Nat.mul_zero, BitVec.add_zero] at ht
  have hf := State.savedFrames_scalar h1 held
  cases hc : u.scc
  · refine ⟨t, ?_, hf, h1.rest⟩
    simp only [State.storeFrames, ht, hc, bind, Except.bind, Bool.false_eq_true, if_false]
  · obtain ⟨hheld, hapart⟩ := hs hc
    obtain ⟨v, hv, h2⟩ := State.storeFrame_area hheld h1.reachAlike h1.wf 0 t.containFrame (by simp)
    rw [Nat.mul_zero, BitVec.add_zero] at hv
    refine ⟨v, ?_, hf.and_held h2 t.containFrame_length hapart, ?_⟩
    · simp only [State.storeFrames, ht, hc, bind, Except.bind, if_true]
      exact hv
    · have hr1 := h1.rest
      rw [← h2.rest] at hr1
      exact hr1

/-- The state with the partition of the LC in focus given up in a wait (R63). -/
def State.leftAs (t : State) (w : Wait) : State := ({ t with lc := { t.lc with wait := w } }).vacate .yielded

/-- YIELD and a long wait (R63): the V stream is held aside, the frames stored, the partition given up. -/
theorem State.yieldOut_eq {s : State} {u : Task} (hu : s.task = some u) (w : Wait) (pc : Dword) : s.yieldOut w pc
    = (s.holdV.storeFrames u pc).map (fun t => t.leftAs w) := by
  unfold State.yieldOut State.storeFrames
  rw [hu]
  have hkey : s.holdV.lc.key = s.lc.key := rfl
  simp only [hkey, bind, Except.bind]
  cases s.holdV.storeFrame (u.saveArea s.lc.key.lcid) (s.holdV.scalarFrame pc) with
  | error e => rfl
  | ok t =>
    cases u.scc
    · rfl
    · simp only [if_true]
      cases t.storeFrame (u.saveArea s.lc.key.lcid + containOffset) t.containFrame <;> rfl

/-- From `s` to `t` the LC in focus has given up its partition in a wait `w`, to go on at `pc` (R63, R69, R289). -/
structure State.Yielded (s t : State) (w : Wait) (pc : Dword) (scc : Bool) (loc held : Nat → Nat) : Prop where
  saved : s.SavedFrames t pc scc loc held
  status : t.lc.status = .yielded
  key : t.lc.key = s.lc.key
  wait : t.lc.wait = w
  vheld : t.lc.vheld = s.holdV.lc.vheld
  contain : t.lc.contain = []
  queue : t.part.vqueue = [] ∧ t.part.mslot = none
  part : t.part.v = s.part.v ∧ t.part.k = s.part.k ∧ t.part.ownerKey = s.part.ownerKey
  lcs : t.lcs = s.lcs
  core : t.core = s.core

/-- An LC whose save area is there yields (R63). -/
theorem State.yieldOut_ok {s : State} {u : Task} {loc held : Nat → Nat} (hu : s.task = some u) (w : Wait) (pc : Dword)
    (hw : Memory.wf s.dev.mem = true) (ha : s.AreaAt .store (u.saveArea s.lc.key.lcid) 256 loc)
    (hs : u.scc = true → s.AreaAt .store (u.saveArea s.lc.key.lcid + 0x1_4000) 1024 held
      ∧ ∀ i j, i < 256 → j < 1024 → loc i + 64 ≤ held j ∨ held j + 64 ≤ loc i) :
    ∃ t, s.yieldOut w pc = .ok t ∧ s.Yielded t w pc u.scc loc held := by
  have hr := s.holdV_reachAlike
  obtain ⟨t, ht, ⟨hregs, hpc, hkept⟩, hrest⟩ := State.storeFrames_ok (s := s.holdV) (u := u) (held := held) pc hw
    (ha.of_alike hr) (fun h => ⟨(hs h).1.of_alike hr, (hs h).2⟩)
  have hlc : t.lc = s.holdV.lc := (congrArg State.lc hrest :)
  have hpart : t.part = s.holdV.part := (congrArg State.part hrest :)
  have hlcs : t.lcs = s.lcs := (congrArg State.lcs hrest :)
  have hcore : t.core = s.core := (congrArg State.core hrest :)
  refine ⟨t.leftAs w, by rw [State.yieldOut_eq hu, ht]; rfl, ⟨hregs, hpc, hkept⟩, rfl, ?_, rfl, ?_, rfl, ⟨rfl, rfl⟩, ?_, hlcs, hcore⟩
  · show t.lc.key = s.lc.key
    rw [hlc]
    rfl
  · show t.lc.vheld = s.holdV.lc.vheld
    rw [hlc]
  · show t.part.v = s.part.v ∧ t.part.k = s.part.k ∧ t.part.ownerKey = s.part.ownerKey
    rw [hpart]
    exact ⟨rfl, rfl, rfl⟩

/-- The first granule of a frame meets a cause (R289). -/
theorem State.storeFrame_fault {s : State} {va : Dword} {c : Cause} {f : List Granule} (hf : f ≠ [])
    (h : s.locate true .store va = .error (.cause c)) : s.storeFrame va f = s.raise .saveAreaFault va := by
  cases f with
  | nil => exact absurd rfl hf
  | cons g r =>
    rw [State.storeFrame, State.reachIn_of_cause h]

/-- Holding the V stream aside changes neither where an address lies nor what the scalar unit reports. -/
theorem State.holdV_locate (s : State) (super : Bool) (k : Acc) (va : Dword) :
    s.holdV.locate super k va = s.locate super k va := rfl

theorem State.holdV_raise (s : State) (c : Cause) (v : Dword) : s.holdV.raise (α := State) c v = s.raise c v := rfl

/-- A save area that meets a cause at its first granule is not written (R289). -/
theorem State.yieldOut_fault {s : State} {u : Task} {c : Cause} (hu : s.task = some u) (w : Wait) (pc : Dword)
    (h : s.locate true .store (u.saveArea s.lc.key.lcid) = .error (.cause c)) :
    s.yieldOut w pc = s.raise .saveAreaFault (u.saveArea s.lc.key.lcid) := by
  have hne : s.holdV.scalarFrame pc ≠ [] := by
    intro h0
    have hl := s.holdV.scalarFrame_length pc
    rw [h0] at hl
    exact absurd hl (by decide)
  have hst := State.storeFrame_fault hne ((s.holdV_locate true .store (u.saveArea s.lc.key.lcid)).trans h)
  have hkey : s.holdV.lc.key = s.lc.key := rfl
  rw [State.holdV_raise] at hst
  rw [State.yieldOut_eq hu, State.storeFrames, hkey, hst]
  rfl

/-! ### YIELD (R432) -/

theorem yieldLc_holds : yieldLc := by
  intro s
  refine ⟨fun h => ⟨_, ?_, rfl⟩, fun u loc held h hw hu => ⟨fun ha hs => ?_, fun c hc htake => ?_⟩⟩
  · show s.finish _ = _
    rw [h]
    rfl
  · obtain ⟨t, ht, hy⟩ := State.yieldOut_ok hu .none ((s.lc.pc + 4).setWidth 64) hw.1 ha hs
    have hex : exec .yieldLc s = .next { t with retired := true } := by
      show s.finish _ = _
      simp only [h, if_true, ht, bind, Except.bind]
      rfl
    refine ⟨_, hex, hy.status, hy.key, hy.wait, hy.saved.regs, fun b hb => (hy.saved.pc b hb).trans ?_, hy.saved.kept, hy.vheld,
      hy.contain, hy.queue.1, hy.queue.2, hy.part.1, hy.part.2.1, hy.part.2.2, hy.lcs, hy.core⟩
    apply BitVec.eq_of_getLsbD_eq
    intro i hi
    simp only [BitVec.getLsbD_extractLsb', BitVec.getLsbD_setWidth]
    have : decide (8 * b + i < 64) = true := by simp; omega
    simp [this]
  · have hex : exec .yieldLc s = s.finish (s.raise .saveAreaFault (u.saveArea s.lc.key.lcid)) := by
      show s.finish _ = _
      simp only [h, if_true, State.yieldOut_fault hu _ _ hc]
      rfl
    rw [hex]
    exact State.finish_raise _ htake

/-- Settles O21: EXIT ends the LC once its streams are done, YIELD stores the LC's frames at its save area, and a SPAWN is
served by the intake. -/
theorem lcLifecycle : Obligations.LcLifecycle := ⟨exitLc_holds, yieldLc_holds, spawnTask_holds⟩

end Sys2Proof.Machine
end

section
/-! Proofs, 02: counts, pre-emption and what is taken at a boundary (R65 to R67, R83, R268 to R271). -/

namespace Sys2Proof.Machine

/-! ### Asynchronous causes that fall due (R270) -/

/-- A cause that falls due is due besides those that were. -/
theorem Lc.mem_raiseAsync (l : Lc) (c : Cause) (v : Dword) (x : Cause × Dword) :
    x ∈ (l.raiseAsync c v).async ↔ x ∈ l.async ∨ x = (c, v) := by
  unfold Lc.raiseAsync
  split
  · rename_i h
    have hm : (c, v) ∈ l.async := by simpa using h
    exact ⟨.inl, fun h => h.elim id (fun e => e ▸ hm)⟩
  · simp

/-- Nothing else of the LC is changed. -/
theorem Lc.raiseAsync_rest (l : Lc) (c : Cause) (v : Dword) : { l.raiseAsync c v with async := l.async } = l := by
  unfold Lc.raiseAsync
  split <;> rfl

/-! ### The slice and the watchdog (R65, R67) -/

section
variable {s : State}

theorem State.isResident (hs : s.lc.status = .resident) : (s.lc.status == .resident) = true := by
  rw [hs]
  rfl

theorem exec_sliceExpired_early
    (h : field s.core.preempt 0 24 = 0 ∨ s.lc.slice < field s.core.preempt 0 24 * 1024) :
    exec .sliceExpired s = .next s := by
  show Host.Outcome.next (if s.lc.status == .resident then s.sliceCheck else s) = _
  have : s.sliceCheck = s := by
    simp only [State.sliceCheck]
    rw [if_pos (by simpa using h)]
  rw [this, ite_self]

theorem exec_sliceExpired_late (hs : s.lc.status = .resident) (h0 : field s.core.preempt 0 24 ≠ 0)
    (h : field s.core.preempt 0 24 * 1024 ≤ s.lc.slice) : exec .sliceExpired s = .next { s with lc :=
      { (if s.firstTask s.core.no = none then s.lc else s.lc.raiseAsync .sliceExpired 0) with slice := 0 } } := by
  show Host.Outcome.next (if s.lc.status == .resident then s.sliceCheck else s) = _
  rw [if_pos (State.isResident hs)]
  simp only [State.sliceCheck]
  rw [if_neg (by simp [h0]; omega)]
  cases hf : s.firstTask s.core.no <;> simp [State.wanted, hf]

theorem exec_progressWatchdog_early (h : field s.core.preempt 40 16 = 0 ∨ s.lc.wdog < field s.core.preempt 40 16 * 65536) :
    exec .progressWatchdog s = .next s := by
  show Host.Outcome.next (if s.lc.status == .resident then s.watchdogCheck else s) = _
  have : s.watchdogCheck = s := by
    simp only [State.watchdogCheck]
    rw [if_pos (by simpa using h)]
  rw [this, ite_self]

theorem exec_progressWatchdog_late (hs : s.lc.status = .resident) (h0 : field s.core.preempt 40 16 ≠ 0)
    (h : field s.core.preempt 40 16 * 65536 ≤ s.lc.wdog) : exec .progressWatchdog s
      = .next { s with lc := { s.lc.raiseAsync .progressWatchdog 0 with wdog := 0 } } := by
  show Host.Outcome.next (if s.lc.status == .resident then s.watchdogCheck else s) = _
  rw [if_pos (State.isResident hs)]
  simp only [State.watchdogCheck]
  rw [if_neg (by simp [h0]; omega)]

/-! ### PREEMPT_REQUEST (R66) -/

theorem exec_preemptRequest_off (h : s.core.preempt.getLsbD 63 = false) (hr : s.core.preReq = none) :
    exec .preemptRequest s = .next s := by
  show Host.Outcome.next s.preemptCheck = _
  simp only [State.preemptCheck, h, hr, Option.isNone_none, Bool.not_false, Bool.and_self, if_true]

/-- The least of a list is one of it. -/
theorem leastBy_mem {f : Lc → Nat} {l : List Lc} {m : Lc} (h : leastBy f l = some m) : m ∈ l := by
  induction l generalizing m with
  | nil => cases h
  | cons x r ih =>
    unfold leastBy at h
    split at h
    · rename_i y hy
      split at h
      · cases h
        exact List.mem_cons_of_mem x (ih hy)
      · cases h
        exact List.mem_cons_self
    · cases h
      exact List.mem_cons_self

/-- The resident LC of lowest priority is one of the machine's. -/
theorem State.lowest_mem {core : Nat} {l : Lc} (h : s.lowest core = some l) : l ∈ s.allLcs :=
  (List.mem_filter.mp (leastBy_mem h)).1

/-- An LC changed under its key is there as changed. -/
theorem State.updLc_mem {l : Lc} (f : Lc → Lc) (hs : s.lc.status ≠ .absent) (h : l ∈ s.allLcs) :
    f l ∈ (s.updLc l.key f).allLcs := by
  rcases List.mem_cons.mp h with rfl | h
  · refine List.mem_cons.mpr (.inl ?_)
    have hb : (s.lc.status != .absent) = true := by simpa using hs
    simp [State.updLc, hb]
  · refine List.mem_cons.mpr (.inr (List.mem_map.mpr ⟨l, h, ?_⟩))
    rw [if_pos rfl]

theorem exec_preemptRequest_due {u : Task} {p : Pick} {l : Lc} (h : s.core.preempt.getLsbD 63 = true)
    (hr : s.core.preReq = none) (hfull : ∀ n, n < 8 → s.residentOn s.core.no n ≠ none)
    (ht : s.firstTask s.core.no = some (u, p)) (hl : s.lowest s.core.no = some l) (hp : s.prioOf l < u.prio) :
    exec .preemptRequest s = .next
      (({ s with core := { s.core with preReq := some l.key } }).updLc l.key (·.raiseAsync .preemptRequest 0)) := by
  have hfree : s.freeParts s.core.no = [] := by
    refine List.filter_eq_nil_iff.mpr (fun n hn => ?_)
    simpa using hfull n (List.mem_range.mp hn)
  have htarget : s.preemptTarget = some l := by
    simp only [State.preemptTarget, h, hfree, ht, hl, hp, List.isEmpty_nil, Bool.and_self, if_true]
  show Host.Outcome.next s.preemptCheck = _
  simp only [State.preemptCheck, h, hr, htarget, Bool.not_true, Bool.false_and, Bool.false_eq_true, if_false]

/-! ### COUNTER_OVERFLOW (R83) -/

theorem exec_counterOverflow_early {n : BitVec 3} (h : (s.lc.pcsel[n.toNat]).getLsbD 16 = false
    ∨ s.lc.pcval[n.toNat] ≠ BitVec.allOnes 48) : exec (.counterOverflow n) s = .next s := by
  show Host.Outcome.next (s.counterWrap n.toNat) = _
  have hn : n.toNat < 8 := n.isLt
  simp only [State.counterWrap, Vector.getElem?_eq_getElem hn, Option.getD_some]
  rcases h with h | h
  · rw [h, Bool.false_and, if_neg Bool.false_ne_true]
  · rw [beq_eq_false_iff_ne.mpr h, Bool.and_false, if_neg Bool.false_ne_true]

theorem exec_counterOverflow_end {n : BitVec 3} (h : (s.lc.pcsel[n.toNat]).getLsbD 16 = true)
    (hv : s.lc.pcval[n.toNat] = BitVec.allOnes 48) : exec (.counterOverflow n) s
      = .next { s with lc := { (if (s.lc.pcsel[n.toNat]).getLsbD 17 then s.lc.raiseAsync .counterOverflow (n.setWidth 64)
          else s.lc) with pcval := s.lc.pcval.setIfInBounds n.toNat 0 } } := by
  show Host.Outcome.next (s.counterWrap n.toNat) = _
  have hn : n.toNat < 8 := n.isLt
  have he : BitVec.ofNat 64 n.toNat = n.setWidth 64 := BitVec.ofNat_toNat 64 n
  simp only [State.counterWrap, Vector.getElem?_eq_getElem hn, Option.getD_some, h, hv, beq_self_eq_true, Bool.and_self,
    if_true, he]
  cases (s.lc.pcsel[n.toNat]).getLsbD 17
  · rfl
  · simp only [if_true, Lc.raiseAsync]
    cases s.lc.async.contains (Cause.counterOverflow, n.setWidth 64) <;> rfl

end

/-! ### A trap that the supervisor takes, from whichever unit (R268, R271) -/

/-- From `s` to `t` the supervisor has taken a trap with a record: its registers hold the record, execution is at STVEC,
and of the LC nothing else has changed but what holding its V stream aside changes. -/
structure State.TookSuper (s t : State) (r : TrapRec) (stream : Bool) : Prop where
  cause : t.lc.trap.scause = BitVec.ofNat 8 (r.cause.code + (if r.deferred then 128 else 0))
  value : t.lc.trap.stval = r.tval
  pc : t.lc.trap.sepc = r.pc.setWidth 57 &&& ~~~3#57
  insn : t.lc.trap.sinsn = r.insn
  source : t.lc.trap.sdrpcV = stream
  boundary : stream = true → t.lc.trap.sdrpcPc = s.lc.pc &&& ~~~3#57
  level : t.lc.trap.level = true
  target : t.lc.pc = s.core.stvec
  lc : { t.lc with
    pc := s.lc.pc, trap := s.lc.trap, vheld := s.lc.vheld, vstalled := s.lc.vstalled, vstart := s.lc.vstart } = s.lc

/-- A report that goes to the supervisor. -/
theorem State.takeTrap_tookSuper {s : State} {r : TrapRec} (stream : Bool) (h : s.SuperTakes r.cause) :
    s.TookSuper (s.takeTrap r stream) r stream := by
  obtain ⟨h1, h2⟩ := h
  have hu : s.goesToUser r.cause = false := by
    unfold State.goesToUser
    rcases h1 with h | h | h | h <;> simp [h]
  obtain ⟨hlc, -, -, hcore, -⟩ := s.onlyRecord_writeRecord r
  unfold State.takeTrap
  simp only [hu, h2, Bool.false_eq_true, if_false]
  generalize s.writeRecord r = t at *
  have hv : t.core.stvec = s.core.stvec := (congrArg Core.stvec hcore :)
  refine ⟨rfl, rfl, rfl, rfl, rfl, fun hs => ?_, rfl, hv, ?_⟩
  · show (if stream then s.lc.pc &&& ~~~3#57 else _) = _
    rw [hs, if_pos rfl]
  · exact congrArg (fun l : Lc => { l with
      pc := s.lc.pc, trap := s.lc.trap, vheld := s.lc.vheld, vstalled := s.lc.vstalled, vstart := s.lc.vstart }) hlc

/-! ### What is taken at a boundary (R270) -/

/-- A SPAWN under way, a NEXTS with its answer: what the boundary asks first is not changed by what is abandoned. -/
theorem exec_trapDelivery {s : State} (hs : s.lc.status = .resident) : exec .trapDelivery s = .next (s.boundary.getD s) := by
  show Host.Outcome.next (if s.lc.status == .resident then s.boundary.getD s else s) = _
  rw [if_pos (State.isResident hs)]

/-- At supervisor level, or with no cause due and no report pending, nothing is taken. -/
theorem State.boundary_none {s : State} (hv : s.lc.vreport = none) (hk : s.lc.kreport = none)
    (h : s.super = true ∨ s.lc.async = []) : s.boundary = none := by
  have hdue : s.super = false → s.lc.due = none := by
    intro hs
    have ha := h.resolve_left (by simp [hs])
    simp [Lc.due, ha, asyncOrder]
  unfold State.boundary
  rw [hv, hk]
  cases hs : s.super
  · simp [hdue hs]
  · simp

/-- The only cause that is due is taken first. -/
theorem Lc.due_single {l : Lc} {c : Cause} {v : Dword} (h : l.async = [(c, v)]) (hc : c ∈ asyncOrder) :
    l.due = some (c, v) := by
  unfold Lc.due
  rw [h]
  generalize asyncOrder = order at hc
  induction order with
  | nil => cases hc
  | cons x r ih =>
    rw [List.findSome?_cons]
    by_cases e : c = x
    · subst e
      simp
    · have hf : ([(c, v)] : List (Cause × Dword)).find? (·.1 == x) = none := by simpa using e
      rw [hf]
      exact ih ((List.mem_cons.mp hc).resolve_left e)

/-- The state in which the only cause that is due is taken. -/
def State.taking (s : State) : State := { s.abandon with ir := 0, lc := { s.abandon.lc with async := [] } }

/-- A cause that is due is taken at user level (R270). -/
theorem State.boundary_due {s : State} {c : Cause} {v : Dword} (hv : s.lc.vreport = none) (hk : s.lc.kreport = none)
    (hs : s.super = false) (ha : s.lc.async = [(c, v)]) (hc : c ∈ asyncOrder) (hn : s.lc.nextsAnswer = none)
    (hsp : s.spawning = false) (hd : c = .counterOverflow ∨ s.lc.trap.smode = 0) :
    s.boundary = some (s.taking.takeTrap (s.taking.report c v) false) := by
  have htake : s.abandon.takeAsync (c, v) = s.taking.takeTrap (s.taking.report c v) false := by
    have ha' : s.abandon.lc.async = [(c, v)] := ha
    have hm : s.abandon.lc.trap.smode = s.lc.trap.smode := rfl
    unfold State.takeAsync
    simp only [ha', List.erase_cons_head, hm]
    rw [if_neg]
    · rfl
    · rcases hd with rfl | hd
      · simp [Cause.preempts]
      · simp [hd]
  unfold State.boundary
  rw [hv, hk, hn, hsp, hs, Lc.due_single ha hc]
  simp only [Option.isSome_none, Bool.or_self, Bool.false_eq_true, if_false, Option.map_some, htake]

/-- A V-stream report that is pending is taken before any cause (R270). -/
theorem State.boundary_report {s : State} {r : TrapRec} (hv : s.lc.vreport = some r) (hk : s.lc.kreport = none)
    (hn : s.lc.nextsAnswer = none) (hsp : s.spawning = false) :
    s.boundary = some (({ s.abandon with lc := { s.abandon.lc with vreport := none } }).takeTrap r true) := by
  have hv' : s.abandon.lc.vreport = some r := hv
  have hk' : s.abandon.lc.kreport = none := hk
  unfold State.boundary
  rw [hv, hk, hn, hsp]
  simp only [State.takeReport, hv', hk']
  rfl

end Sys2Proof.Machine
end

section
/-! Proofs, 02: long waits, offers of partitions and monitors (R52, R53, R63, R185). -/

namespace Sys2Proof.Machine

/-! ### The word at the PC -/

/-- A read of the host that is answered changes only the requests that wait there (R308). -/
theorem State.hostRead_rest {s t : State} {l : Loc} {va : Dword} {n : Nat} (h : s.hostRead l va n = .ok t) :
    { t with dev := { t.dev with hostReqs := s.dev.hostReqs } } = s := by
  unfold State.hostRead at h
  split at h
  · cases h
    rfl
  · simp only at h
    split at h
    · cases h
    · split at h
      · cases h
      · split at h
        · cases h
          rfl
        · cases h

/-- Fetching a word changes only the word and the requests that wait at the host (R103, R308). -/
theorem State.fetch_rest {s f : State} (h : s.fetch = .ok f) :
    { f with ir := s.ir, dev := { f.dev with hostReqs := s.dev.hostReqs } } = s := by
  unfold State.fetch at h
  simp only at h
  split at h
  · cases h
  · cases hl : ({ s with ir := 0 } : State).locS .fetch (s.lc.pc.setWidth 64) with
    | error e =>
      rw [hl] at h
      cases h
    | ok l =>
      cases hr : ({ s with ir := 0 } : State).hostRead l (s.lc.pc.setWidth 64) 4 with
      | error e =>
        simp only [hl, hr, bind, Except.bind, reduceCtorEq] at h
      | ok t =>
        simp only [hl, hr, bind, Except.bind] at h
        have ht := State.hostRead_rest hr
        split at h
        · cases h
        · cases h
          exact congrArg (fun x : State => { x with ir := s.ir }) ht

/-- A word fetched leaves the LC, its partition, memory and what reaching an area asks as they were. -/
theorem State.fetch_kept {s f : State} (h : s.fetch = .ok f) :
    f.lc = s.lc ∧ f.part = s.part ∧ f.dev.mem = s.dev.mem ∧ f.dev.tasks = s.dev.tasks ∧ f.dev.monitors = s.dev.monitors
      ∧ s.ReachAlike f := by
  have hk := State.fetch_rest h
  have hlc : f.lc = s.lc := (congrArg State.lc hk :)
  have hcore : f.core = s.core := (congrArg State.core hk :)
  have hd : { f.dev with hostReqs := s.dev.hostReqs } = s.dev := (congrArg State.dev hk :)
  have hptrs : f.dev.ptrs = s.dev.ptrs := (congrArg Device.ptrs hd :)
  refine ⟨hlc, (congrArg State.part hk :), (congrArg Device.mem hd :), (congrArg Device.tasks hd :),
    (congrArg Device.monitors hd :), ?_, (congrArg Device.combines hd :), (congrArg Device.hbm hd :),
    (congrArg Device.member hd :), (congrArg Device.reachable hd :), (congrArg Device.linkError hd :)⟩
  simp only [State.space, Device.pool, hptrs, hlc, hcore]

/-! ### An LC that has waited long (R63) -/

section
variable {s : State}

theorem exec_lcYield_stays (h : s.lc.waited = 0 ∨ s.othersRunnable = false ∨ s.lc.waited ≤ s.core.yieldAfter) :
    exec .lcYield s = .next s := by
  have hn : s.lcYield = none := by
    unfold State.lcYield
    rw [if_neg]
    rcases h with h | h | h
    · simp [h]
    · simp [h]
    · have : ¬s.core.yieldAfter < s.lc.waited := by omega
      simp [this]
  show s.finish (s.lcYield.getD (.ok s)) = _
  rw [hn]
  rfl

theorem exec_lcYield_yields {f : State} {w : Wait} (hs : s.lc.status = .resident) (hw : s.lc.waited ≠ 0)
    (ho : s.othersRunnable = true) (hy : s.core.yieldAfter < s.lc.waited) (hf : s.fetch = .ok f) (hl : f.longWait = some w) :
    exec .lcYield s = s.finish (f.yieldOut w (f.lc.pc.setWidth 64)) := by
  have hn : s.lcYield = some (f.yieldOut w (f.lc.pc.setWidth 64)) := by
    unfold State.lcYield
    rw [if_pos (by simp [hs, hw, ho, hy]), hf]
    simp only [hl, Option.map_some]
  show s.finish (s.lcYield.getD (.ok s)) = _
  rw [hn]
  rfl

/-! ### An offer of a free partition (R52, R53) -/

theorem exec_partitionOffer_none {core part : Nat} (h : 64 ≤ core ∨ 8 ≤ part ∨ s.residentOn core part ≠ none) :
    exec (.partitionOffer core part) s = .next s := by
  show Host.Outcome.next (if core < 64 && part < 8 && (s.residentOn core part).isNone then (s.offerCore core).getD s else s) = _
  rw [if_neg]
  rcases h with h | h | h
  · simp; omega
  · simp; omega
  · simp [h]

/-- The first LC of a task that has none to come back starts where R53 places it. -/
theorem exec_partitionOffer_start {core part : Nat} {u : Task} (hc : core < 64) (hp : part < 8)
    (hn : s.residentOn core part = none) (ht : s.firstTask core = some (u, .start)) (hg : u.gangWaits = false)
    (hs : s.spread u .start = some (core, part)) :
    exec (.partitionOffer core part) s = .next (s.startAt u core part) := by
  have ho : s.offerCore core = some (s.startAt u core part) := by
    simp only [State.offerCore, ht, hg, hs, bne_self_eq_false, Bool.false_eq_true, if_false]
  show Host.Outcome.next (if core < 64 && part < 8 && (s.residentOn core part).isNone then (s.offerCore core).getD s else s) = _
  rw [if_pos (by simp [hc, hp, hn]), ho]
  rfl

/-- The partition of a core and number is the one of that core and number. -/
theorem State.findPart_place (core no : Nat) : (s.findPart core no).core = core ∧ (s.findPart core no).no = no := by
  unfold State.findPart
  split
  · rename_i h
    simpa using h
  · cases hf : s.parts.find? (fun p => p.core == core && p.no == no) with
    | none => exact ⟨rfl, rfl⟩
    | some p => simpa using List.find?_some hf

/-- The turn moves to a free partition: no LC is lost, and memory and tasks are as they were. -/
theorem State.turnTo_free {core no : Nat} (hf : s.Focused) (h : s.residentOn core no = none) :
    (s.turnTo core no).part.core = core ∧ (s.turnTo core no).part.no = no ∧ (s.turnTo core no).lcs = s.allLcs
      ∧ (s.turnTo core no).dev = s.dev := by
  have hnone := List.find?_eq_none.mp h
  have hself : ¬(s.part.core = core && s.part.no = no && s.lc.status == .resident) = true := by
    have := hnone s.lc List.mem_cons_self
    rw [hf.onPart.1, hf.onPart.2.1] at this
    simp only [hf.resident] at this ⊢
    simpa using this
  have hne : (s.lc.status == .absent) = false := by rw [hf.resident]; rfl
  unfold State.turnTo
  rw [if_neg hself]
  refine ⟨(s.findPart_place core no).1, (s.findPart_place core no).2, ?_, rfl⟩
  simp only [hne, Bool.false_eq_true, if_false]
  refine List.filter_eq_self.mpr (fun l hl => ?_)
  rw [Bool.not_eq_true', ← Bool.not_eq_true]
  exact hnone l hl

/-- The zero state of a partition that holds none is not of the LC nor of the device (R287). -/
theorem State.takeEmpty_rest : { s.takeEmpty with part := s.part } = s := by
  unfold State.takeEmpty
  split <;> rfl

end

/-- Arguments put into registers from the `k + 1`-th on (R35). -/
theorem argRegs_from (args : List Dword) (k : Nat) (v : Vector Dword 64) (r : Nat) (h : r < 64) :
    ((args.zipIdx k).foldl (fun v a => v.setIfInBounds (a.2 + 1) a.1) v)[r]
      = if k + 1 ≤ r then args[r - (k + 1)]?.getD v[r] else v[r] := by
  induction args generalizing k v with
  | nil => simp
  | cons a l ih =>
    rw [List.zipIdx_cons, List.foldl_cons, ih, Vector.getElem_setIfInBounds]
    by_cases e : k + 1 = r
    · simp [e]
    · by_cases hk : k + 1 ≤ r
      · have : r - (k + 1) = (r - (k + 1 + 1)) + 1 := by omega
        rw [if_pos hk, if_pos (by omega), if_neg e, this, List.getElem?_cons_succ]
      · rw [if_neg hk, if_neg (by omega), if_neg e]

/-- The scalar registers at the start of an LC: its arguments from s1 on, 0 elsewhere (R35). -/
theorem argRegs_get (args : List Dword) (r : Nat) (h : r < 64) :
    (argRegs args)[r] = if 1 ≤ r then args[r - 1]?.getD 0 else 0 := by
  rw [argRegs, argRegs_from args 0 _ r h, Vector.getElem_replicate]

/-- The next LC of a task at its start (R35, R52). -/
theorem State.startAt_started {s : State} {core no : Nat} (u : Task) (hf : s.Focused) (h : s.residentOn core no = none) :
    (∃ c, (s.startAt u core no).lc = u.startLc u.started (s.turnTo core no).part c)
      ∧ (s.turnTo core no).part.core = core ∧ (s.turnTo core no).part.no = no
      ∧ (s.startAt u core no).lcs = s.allLcs
      ∧ (s.startAt u core no).dev = s.dev.updTask u.seq (fun x => { x with started := x.started + 1 }) := by
  obtain ⟨hcore, hno, hlcs, hdev⟩ := State.turnTo_free hf h
  unfold State.startAt State.startHere
  simp only
  have hrest (t : State) : t.takeEmpty.lc = t.lc ∧ t.takeEmpty.lcs = t.lcs ∧ t.takeEmpty.dev = t.dev :=
    ⟨(congrArg State.lc t.takeEmpty_rest :), (congrArg State.lcs t.takeEmpty_rest :), (congrArg State.dev t.takeEmpty_rest :)⟩
  obtain ⟨h1, h2, h3⟩ := hrest { s.turnTo core no with
    lc := u.startLc u.started (s.turnTo core no).part ((s.turnTo core no).cycleOf (s.turnTo core no).part.core)
    dev := (s.turnTo core no).dev.updTask u.seq (fun x => { x with started := x.started + 1 }) }
  refine ⟨⟨_, h1⟩, hcore, hno, h2.trans hlcs, h3.trans ?_⟩
  rw [hdev]

/-! ### A monitor that a write has reached (R185, R365) -/

theorem exec_monitorWake_none {s : State} (h : ∀ m ∈ s.dev.monitors, m.who = s.lc.key → m.got = none) :
    exec .monitorWake s = .next s := by
  have hn : s.dev.monitors.any (fun m => m.who == s.lc.key && m.got.isSome) = false := by
    refine List.any_eq_false.mpr (fun m hm => ?_)
    by_cases e : m.who = s.lc.key
    · simp [h m hm e]
    · simp [e]
  show execMonitorWake s = _
  unfold execMonitorWake
  rw [hn, Bool.and_false, if_neg Bool.false_ne_true]

/-- An MWAIT whose monitor has been reached gives what was read with the write. -/
theorem State.mwait_reached {f : State} {d a b : SReg} {l : Loc} {m : Monitor} {v : Woken} (ha : f.Readable a)
    (hb : f.Readable b) (hd : f.Writable d) (hw : inWindow (f.getS a) = false)
    (hr : f.Reaches .load false true (f.getS a) 8 l) (hl : l.monitored = some m.pa)
    (hm : f.dev.monitors.find? (fun x => x.who == f.lc.key) = some m) (hg : m.got = some v) (hbad : v.bad = false)
    (hp : v.poison = false) : f.mwait d a b = .ok (f.disarm.setS d v.value).retire := by
  have hal : aligned (f.getS a) 8 = true := by simpa [aligned] using hr.aligned
  have hst : f.lc.stores.any (fun y => y.meets l 8) = false :=
    List.any_eq_false.mpr (fun y hy => by simp [(hr.stores y hy).1])
  have hread : f.mwaitRead d l (f.getS a) v = .ok (f.disarm.setS d v.value).retire := by
    simp only [State.mwaitRead, hbad, hp, Bool.false_and, Bool.false_eq_true, if_false]
    rfl
  have hloc := hr.located
  simp only [State.mwait, State.useS_ok ha, State.useS_ok hb, State.claimS_ok hd, bind, Except.bind, hal, hw, hloc, hl,
    hr.unwatched, hr.streams, hr.bank, hst, hm, hg, hread, Bool.not_true, Bool.or_self, Bool.false_eq_true, if_false, if_true]

theorem exec_monitorWake_reached {s f : State} {d a b : SReg} {m : Monitor} (hs : s.lc.status = .resident)
    (hm : m ∈ s.dev.monitors) (hk : m.who = s.lc.key) (hg : m.got ≠ none) (hf : s.fetch = .ok f)
    (hd : decode f.ir = .ok (.mwait d a b)) : exec .monitorWake s = f.finish (f.mwait d a b) := by
  have hany : s.dev.monitors.any (fun m => m.who == s.lc.key && m.got.isSome) = true :=
    List.any_eq_true.mpr ⟨m, hm, by simp [hk, Option.isSome_iff_ne_none, hg]⟩
  show execMonitorWake s = _
  unfold execMonitorWake
  rw [if_pos (by rw [State.isResident hs, hany]; rfl), hf]
  simp only [hd]

end Sys2Proof.Machine
end

section
/-! Proofs, 02: scheduling events (R35, R52, R53, R63 to R67, R83, R185, R268, R270, R271). -/

namespace Sys2Proof.Machine

/-! ### The clauses, one by one -/

section
variable {s : State}

/-- A slice that has run out (R65). -/
theorem State.Focused.sliceExpired (hf : s.Focused) (h0 : field s.core.preempt 0 24 ≠ 0)
    (h : field s.core.preempt 0 24 * 1024 ≤ s.lc.slice) : ∃ t, exec .sliceExpired s = .next t ∧ t.lc.slice = 0
      ∧ (s.firstTask s.core.no = none → t.lc.async = s.lc.async)
      ∧ (s.firstTask s.core.no ≠ none → (Cause.sliceExpired, (0 : Dword)) ∈ t.lc.async
        ∧ ∀ x, x ∈ t.lc.async ↔ x ∈ s.lc.async ∨ x = (.sliceExpired, 0))
      ∧ { t with lc := { t.lc with slice := s.lc.slice, async := s.lc.async } } = s := by
  refine ⟨_, exec_sliceExpired_late hf.resident h0 h, rfl, fun hn => ?_, fun hn => ?_, ?_⟩
  · simp only [if_pos hn]
  · simp only [if_neg hn]
    exact ⟨(s.lc.mem_raiseAsync _ _ _).mpr (.inr rfl), s.lc.mem_raiseAsync _ _⟩
  · split
    · rfl
    · exact congrArg (fun l : Lc => { s with lc := { l with slice := s.lc.slice } }) (s.lc.raiseAsync_rest .sliceExpired 0)

/-- A watchdog that has run out (R67). -/
theorem State.Focused.progressWatchdog (hf : s.Focused) (h0 : field s.core.preempt 40 16 ≠ 0)
    (h : field s.core.preempt 40 16 * 65536 ≤ s.lc.wdog) : ∃ t, exec .progressWatchdog s = .next t ∧ t.lc.wdog = 0
      ∧ (∀ x, x ∈ t.lc.async ↔ x ∈ s.lc.async ∨ x = (.progressWatchdog, 0))
      ∧ { t with lc := { t.lc with wdog := s.lc.wdog, async := s.lc.async } } = s :=
  ⟨_, exec_progressWatchdog_late hf.resident h0 h, rfl, s.lc.mem_raiseAsync _ _,
    congrArg (fun l : Lc => { s with lc := { l with wdog := s.lc.wdog } }) (s.lc.raiseAsync_rest .progressWatchdog 0)⟩

/-- PREEMPT_REQUEST falls due at the resident LC of lowest priority (R66). -/
theorem State.Focused.preemptRequest {u : Task} {p : Pick} {l : Lc} (hf : s.Focused) (h : s.core.preempt.getLsbD 63 = true)
    (hr : s.core.preReq = none) (hfull : ∀ n, n < 8 → s.residentOn s.core.no n ≠ none)
    (ht : s.firstTask s.core.no = some (u, p)) (hl : s.lowest s.core.no = some l) (hp : s.prioOf l < u.prio) :
    ∃ t, exec .preemptRequest s = .next t ∧ t.core.preReq = some l.key
      ∧ (∃ m ∈ t.allLcs, m.key = l.key ∧ (Cause.preemptRequest, (0 : Dword)) ∈ m.async)
      ∧ t.dev = s.dev ∧ t.part = s.part ∧ t.lc.s = s.lc.s ∧ t.lc.pc = s.lc.pc := by
  have hmem := State.lowest_mem hl
  have hkey (x : Lc) : (x.raiseAsync .preemptRequest 0).key = x.key :=
    (congrArg Lc.key (x.raiseAsync_rest .preemptRequest 0) :)
  have hregs (x : Lc) : (x.raiseAsync .preemptRequest 0).s = x.s := (congrArg Lc.s (x.raiseAsync_rest .preemptRequest 0) :)
  have hpc (x : Lc) : (x.raiseAsync .preemptRequest 0).pc = x.pc := (congrArg Lc.pc (x.raiseAsync_rest .preemptRequest 0) :)
  refine ⟨_, exec_preemptRequest_due h hr hfull ht hl hp, rfl, ⟨_, State.updLc_mem _ ?_ hmem, hkey l,
    (l.mem_raiseAsync _ _ _).mpr (.inr rfl)⟩, rfl, rfl, ?_, ?_⟩
  · rw [hf.resident]
    decide
  · simp only [State.updLc]
    split
    · exact hregs s.lc
    · rfl
  · simp only [State.updLc]
    split
    · exact hpc s.lc
    · rfl

/-- A counter at its end starts over (R83). -/
theorem exec_counterOverflow_wraps {n : BitVec 3} (h : (s.lc.pcsel[n.toNat]).getLsbD 16 = true)
    (hv : s.lc.pcval[n.toNat] = BitVec.allOnes 48) : ∃ t, exec (.counterOverflow n) s = .next t ∧ t.lc.pcval[n.toNat] = 0
      ∧ (∀ k : Fin 8, k.val ≠ n.toNat → t.lc.pcval[k] = s.lc.pcval[k])
      ∧ ((s.lc.pcsel[n.toNat]).getLsbD 17 = false → t.lc.async = s.lc.async)
      ∧ ((s.lc.pcsel[n.toNat]).getLsbD 17 = true → ∀ x, x ∈ t.lc.async ↔ x ∈ s.lc.async ∨ x = (.counterOverflow, n.setWidth 64))
      ∧ { t with lc := { t.lc with pcval := s.lc.pcval, async := s.lc.async } } = s := by
  refine ⟨_, exec_counterOverflow_end h hv, ?_, fun k hk => ?_, fun hc => ?_, fun hc x => ?_, ?_⟩
  · simp
  · simp [Ne.symm hk]
  · simp only [hc, Bool.false_eq_true, if_false]
  · simp only [hc, if_true]
    exact s.lc.mem_raiseAsync _ _ x
  · split
    · exact congrArg (fun l : Lc => { s with lc := { l with pcval := s.lc.pcval } })
        (s.lc.raiseAsync_rest .counterOverflow (n.setWidth 64))
    · rfl

/-- A cause that is due is taken at the boundary (R270, R271). -/
theorem State.Focused.takesCause {c : Cause} {v : Dword} (hf : s.Focused) (hv : s.lc.vreport = none)
    (hk : s.lc.kreport = none) (hs : s.super = false) (ha : s.lc.async = [(c, v)]) (hc : c ∈ asyncOrder)
    (hn : s.lc.nextsAnswer = none) (hsp : s.spawning = false) (hd : c = .counterOverflow ∨ s.lc.trap.smode = 0)
    (ht : s.SuperTakes c) : ∃ t, exec .trapDelivery s = .next t
      ∧ t.lc.async = [] ∧ t.lc.trap.scause = BitVec.ofNat 8 c.code ∧ t.lc.trap.stval = v
      ∧ t.lc.trap.sepc = s.lc.pc &&& ~~~3#57 ∧ t.lc.trap.sinsn = 0 ∧ t.lc.trap.level = true
      ∧ t.lc.pc = s.core.stvec ∧ t.lc.s = s.lc.s := by
  have htake : s.taking.SuperTakes c := ht
  have hsup := s.taking.takeTrap_super c v htake
  refine ⟨_, by rw [exec_trapDelivery hf.resident, State.boundary_due hv hk hs ha hc hn hsp hd]; rfl, ?_, hsup.cause, hsup.value,
    hsup.pc, hsup.insn, hsup.level.2, hsup.target, ?_⟩
  · exact (congrArg Lc.async hsup.lc :)
  · exact (congrArg Lc.s hsup.lc :)

/-- A V-stream report that is pending is taken at the boundary (R270, R271). -/
theorem State.Focused.takesReport {r : TrapRec} (hf : s.Focused) (hv : s.lc.vreport = some r) (hk : s.lc.kreport = none)
    (hn : s.lc.nextsAnswer = none) (hsp : s.spawning = false) (ht : s.SuperTakes r.cause) (hd : r.deferred = false) :
    ∃ t, exec .trapDelivery s = .next t ∧ t.lc.vreport = none
      ∧ t.lc.trap.scause = BitVec.ofNat 8 r.cause.code ∧ t.lc.trap.stval = r.tval
      ∧ t.lc.trap.sepc = r.pc.setWidth 57 &&& ~~~3#57 ∧ t.lc.trap.sinsn = r.insn ∧ t.lc.trap.sdrpcV = true
      ∧ t.lc.trap.sdrpcPc = s.lc.pc &&& ~~~3#57 ∧ t.lc.pc = s.core.stvec
      ∧ t.lc.async = s.lc.async ∧ t.lc.s = s.lc.s := by
  have hsup := State.takeTrap_tookSuper (s := { s.abandon with lc := { s.abandon.lc with vreport := none } }) true ht
  have hcause := hsup.cause
  rw [hd] at hcause
  refine ⟨_, by rw [exec_trapDelivery hf.resident, State.boundary_report hv hk hn hsp]; rfl, ?_, hcause, hsup.value,
    hsup.pc, hsup.insn, hsup.source, hsup.boundary rfl, hsup.target, ?_, ?_⟩
  · exact (congrArg Lc.vreport hsup.lc :)
  · exact (congrArg Lc.async hsup.lc :)
  · exact (congrArg Lc.s hsup.lc :)

/-- An LC that has waited long at WAITI yields its partition (R63). -/
theorem State.Focused.yields {f : State} {u : Task} {a : SReg} {loc : Nat → Nat} (hfo : s.Focused) (hm : s.MemOk)
    (hw : s.lc.waited ≠ 0) (ho : s.othersRunnable = true) (hy : s.core.yieldAfter < s.lc.waited) (hf : s.fetch = .ok f)
    (hd : decode f.ir = .ok (.waiti a)) (hu : s.task = some u) (hc : u.scc = false)
    (ha : s.AreaAt .store (u.saveArea s.lc.key.lcid) 256 loc) : ∃ t, exec .lcYield s = .next t
        ∧ t.lc.status = .yielded ∧ t.lc.key = s.lc.key ∧ t.lc.wait = .iteration (s.getS a).toNat ∧ t.part.vqueue = []
        ∧ t.lc.vheld = s.holdV.lc.vheld ∧ s.SavedRegs t loc ∧ s.KeptButArea t 256 loc := by
  obtain ⟨hlc, hpart, hmem, htasks, -, hreach⟩ := State.fetch_kept hf
  have hfu : f.task = some u := by
    rw [← hu]
    simp only [State.task, Device.task, hlc, htasks]
  have hget : f.getS a = s.getS a := by simp only [State.getS, hlc]
  have hwait : f.longWait = some (.iteration (s.getS a).toNat) := by
    rw [← hget]
    simp only [State.longWait, hd]
  have hkey : f.lc.key = s.lc.key := by rw [hlc]
  have hheld : f.holdV.lc.vheld = s.holdV.lc.vheld := by simp only [State.holdV, hlc, hpart]
  obtain ⟨t, ht, hyl⟩ := State.yieldOut_ok (held := loc) hfu (.iteration (s.getS a).toNat) (f.lc.pc.setWidth 64)
    (hmem ▸ hm.1) (hkey.symm ▸ ha.of_alike hreach) (fun h => by simp [hc] at h)
  have hex := exec_lcYield_yields hfo.resident hw ho hy hf hwait
  rw [ht] at hex
  refine ⟨t, hex, hyl.status, hyl.key.trans hkey, hyl.wait, hyl.queue.1, hyl.vheld.trans hheld, fun r b hr hb => ?_,
    fun x hx => ?_⟩
  · rw [hyl.saved.regs r b hr hb, hlc]
  · rw [hyl.saved.kept x hx (fun h => by simp [hc] at h), hmem]

/-- A free partition takes the next LC of the first task (R35, R52, R53). -/
theorem State.Focused.starts {core part : Nat} {u : Task} (hf : s.Focused) (hc : core < 64) (hn : s.residentOn core part = none)
    (hp : part < 8) (ht : s.firstTask core = some (u, .start)) (hg : u.gangWaits = false)
    (hs : s.spread u .start = some (core, part)) : ∃ t, exec (.partitionOffer core part) s = .next t
      ∧ t.lc.key = ⟨u.seq, u.started⟩ ∧ t.lc.status = .resident ∧ t.lc.core = core ∧ t.lc.partNo = part
      ∧ t.lc.pc = u.entry.setWidth 57 ∧ t.lc.erem = BitVec.ofNat 64 u.elements ∧ t.lc.strip = BitVec.allOnes 64
      ∧ t.lc.taskid = u.id ∧ t.lc.ptbase = u.ptbase ∧ t.lc.asid = u.asid ∧ t.getS 0 = 0
      ∧ (∀ (r : SReg) (x : Dword), 1 ≤ r.toNat → u.args[r.toNat - 1]? = some x → t.getS r = x)
      ∧ (∀ r : SReg, u.args.length < r.toNat → t.getS r = 0)
      ∧ (∀ l ∈ s.allLcs, l ∈ t.allLcs) ∧ t.dev.mem = s.dev.mem
      ∧ ∀ w, t.dev.task u.seq = some w → s.dev.task u.seq = some u → w = { u with started := u.started + 1 } := by
  obtain ⟨⟨c, hlc⟩, hcore, hno, hlcs, hdev⟩ := State.startAt_started u hf hn
  have hregs : (s.startAt u core part).lc.s = argRegs u.args := by rw [hlc]; rfl
  have hget (r : SReg) (h : 1 ≤ r.toNat) : (s.startAt u core part).getS r = u.args[r.toNat - 1]?.getD 0 := by
    have hr0 : ¬r = 0 := by rintro rfl; simp at h
    simp only [State.getS, if_neg hr0, hregs]
    rw [argRegs_get u.args r.toNat r.isLt, if_pos h]
  refine ⟨_, exec_partitionOffer_start hc hp hn ht hg hs, ?_⟩
  generalize s.startAt u core part = t at *
  rw [hlc]
  refine ⟨rfl, rfl, hcore, hno, rfl, rfl, rfl, rfl, rfl, rfl, rfl, fun r x h hx => ?_, fun r h => ?_, fun l hl => ?_, ?_,
    fun w hw hsu => ?_⟩
  · rw [hget r h, hx]
    rfl
  · rw [hget r (by omega), List.getElem?_eq_none (by omega)]
    rfl
  · exact List.mem_cons_of_mem _ (hlcs ▸ hl)
  · rw [hdev]
    rfl
  · rw [hdev, Device.task_updTask hsu rfl] at hw
    exact (Option.some.inj hw).symm

/-- MWAIT goes on when its monitor has been reached (R185). -/
theorem State.Focused.wakes {f : State} {d a b : SReg} {l : Loc} {m : Monitor} {v : Woken} (hfo : s.Focused)
    (hf : s.fetch = .ok f) (hd : decode f.ir = .ok (.mwait d a b)) (ha : f.Readable a) (hb : f.Readable b)
    (hwr : f.Writable d) (hwin : inWindow (f.getS a) = false) (hr : f.Reaches .load false true (f.getS a) 8 l)
    (hl : l.monitored = some m.pa) (hbad : v.bad = false) (hp : v.poison = false)
    (hm : f.dev.monitors.find? (fun x => x.who == s.lc.key) = some m) (hg : m.got = some v) :
    ∃ t, exec .monitorWake s = .next t
      ∧ State.Wrote { f with dev := { f.dev with monitors := f.dev.monitors.filter (fun x => x.who != s.lc.key) } } t d v.value := by
  obtain ⟨hlc, -, -, -, hmon, -⟩ := State.fetch_kept hf
  have hkey : f.lc.key = s.lc.key := by rw [hlc]
  have hin : m ∈ s.dev.monitors := hmon ▸ List.mem_of_find?_eq_some hm
  have hwho : m.who = s.lc.key := by simpa using List.find?_some hm
  have hmw := State.mwait_reached ha hb hwr hwin hr hl (hkey.symm ▸ hm) hg hbad hp
  refine ⟨_, by rw [exec_monitorWake_reached hfo.resident hin hwho (by simp [hg]) hf hd, hmw]; rfl, ?_⟩
  have hdis : f.disarm
      = { f with dev := { f.dev with monitors := f.dev.monitors.filter (fun x => x.who != s.lc.key) } } := by
    rw [← hkey]
    rfl
  rw [← hdis]
  exact f.disarm.wrote_setS d v.value

end

/-- Settles O60: each event of scheduling by the rule of its own operation. -/
theorem schedulingEvents : Obligations.SchedulingEvents := by
  intro s hf
  refine ⟨exec_sliceExpired_early, hf.sliceExpired, exec_progressWatchdog_early, hf.progressWatchdog,
    exec_preemptRequest_off, fun u p l => hf.preemptRequest, fun n => ⟨exec_counterOverflow_early, exec_counterOverflow_wraps⟩,
    fun hv hk => ⟨fun h => ?_, fun c v hs ha hc hn hsp hd ht => hf.takesCause hv hk hs ha hc hn hsp hd ht⟩,
    fun r hv hk hn hsp ht hd => hf.takesReport hv hk hn hsp ht hd, exec_lcYield_stays,
    fun f u a loc => hf.yields, fun core part => exec_partitionOffer_none, fun core part u hc hn hp _ => hf.starts hc hn hp,
    exec_monitorWake_none, fun f d a b l m v h1 h2 h3 h4 h5 h6 h7 h8 h9 h10 => hf.wakes h1 h2 h3 h4 h5 h6 h7 h8 h9 h10⟩
  rw [exec_trapDelivery hf.resident, State.boundary_none hv hk h]
  rfl

end Sys2Proof.Machine
end

section
/-! Proofs, 02: launch ports, the intake and completion of tasks (R28 to R34, R50, R311 to R313). -/

namespace Sys2Proof.Machine

section
variable {s : State}

/-! ### A commit of a launch port (R312) -/

theorem Port.commit_no (p : Port) (ready : Bool) : (p.commit ready).no = p.no := by
  unfold Port.commit
  split
  · rfl
  · split <;> rfl

theorem Port.commit_eq (p : Port) (b : BootState) : p.commit (b == .ready) = (if p.st = .busy then p
    else if b = .ready then { p with st := .busy, reason := 0, taskid := 0, packet := p.bytes.setWidth 2048 }
    else { p with st := .rejected, reason := 11, taskid := 0 }) := by
  unfold Port.commit
  by_cases h : p.st = .busy
  · simp [h]
  · by_cases hb : b = .ready <;> simp [h, hb]

theorem exec_launchPortCommit_out {fn : Nat} {p : BitVec 6} (h : 32 ≤ fn) : exec (.launchPortCommit fn p) s = .next s :=
  congrArg Host.Outcome.next (if_pos h)

/-- The state with a port of a function replaced. -/
def State.setPortOf (s : State) (fn : Nat) (p : Port) : State :=
  { s with dev := s.dev.setFunc ((s.dev.func fn).setPort p) }

/-- A port replaced is found as replaced, and no other port or function is changed. -/
theorem State.setPortOf_ports (fn : Nat) (p : Port) :
    ((s.setPortOf fn p).dev.func fn).port p.no = p
      ∧ (∀ q, q ≠ p.no → ((s.setPortOf fn p).dev.func fn).port q = (s.dev.func fn).port q)
      ∧ ∀ g, g ≠ fn → (s.setPortOf fn p).dev.func g = s.dev.func g := by
  have hfunc (g : Nat) : (s.setPortOf fn p).dev.func g = if g = fn then (s.dev.func fn).setPort p else s.dev.func g := by
    refine (Device.func_setFunc s.dev ((s.dev.func fn).setPort p) g).trans ?_
    rw [show ((s.dev.func fn).setPort p).no = fn from s.dev.func_no fn]
  refine ⟨?_, fun q hq => ?_, fun g hg => (hfunc g).trans (if_neg hg)⟩
  · rw [hfunc fn, if_pos rfl, Func.port_setPort, if_pos rfl]
  · rw [hfunc fn, if_pos rfl, Func.port_setPort, if_neg hq]

theorem exec_launchPortCommit {fn : Nat} (p : BitVec 6) (h : fn < 32) : exec (.launchPortCommit fn p) s
    = .next (s.setPortOf fn (((s.dev.func fn).port p).commit (s.dev.boot == .ready))) := by
  show Host.Outcome.next (if 32 ≤ fn then s else _) = _
  rw [if_neg (by omega)]
  rfl

/-! ### The intake (R29, R50, R311, R312) -/

theorem exec_launchIntake_none (h : s.dev.nextServed = none) : exec .launchIntake s = .next s := by
  show Host.Outcome.next (s.intake.getD s) = _
  unfold State.intake
  rw [h]
  rfl

theorem exec_launchIntake {t : State} (h : s.intake = some t) : exec .launchIntake s = .next t := by
  show Host.Outcome.next (s.intake.getD s) = _
  rw [h]
  rfl

/-- Whether the identifier that a port's packet names cannot be given (R29). -/
def Device.idBad (d : Device) (fn : Nat) (p : BitVec 2048) : Bool :=
  (BitVec.ofNat 32 (pk p 0x1C 0 32)).getLsbD 31 || (d.taskOf fn (BitVec.ofNat 32 (pk p 0x1C 0 32))).isSome

theorem State.servePort_rejected {fn : Nat} {n : BitVec 6} {r : Nat}
    (h : rejectReason ((s.dev.func fn).port n).packet (s.dev.idBad fn ((s.dev.func fn).port n).packet) = some r) :
    s.servePort fn n = s.setPortOf fn { (s.dev.func fn).port n with st := .rejected, reason := r, taskid := 0 } := by
  unfold Device.idBad at h
  unfold State.servePort
  simp only [h]
  rfl

/-- The port of a packet that has been accepted. -/
def State.acceptedPort (s : State) (x : Port) : Port :=
  { x with st := .accepted, reason := 0, taskid := BitVec.ofNat 32 (pk x.packet 0x1C 0 32), stamp := s.cycleOf 0 }

/-- The task of a port's packet. -/
def State.portTask (s : State) (fn : Nat) (x : Port) : Task :=
  taskOfPacket s.dev x.packet fn (BitVec.ofNat 32 (pk x.packet 0x1C 0 32)) false (s.dev.func fn).launchpt
    (s.dev.func fn).launchasid

/-- The state with a port's packet accepted (R30, R311). -/
def State.acceptPort (s : State) (fn : Nat) (x : Port) : State :=
  let t := s.setPortOf fn (s.acceptedPort x)
  { t with dev := t.dev.accept (s.portTask fn x) }

theorem State.servePort_accepted {fn : Nat} {n : BitVec 6}
    (h : rejectReason ((s.dev.func fn).port n).packet (s.dev.idBad fn ((s.dev.func fn).port n).packet) = none) :
    s.servePort fn n = s.acceptPort fn ((s.dev.func fn).port n) := by
  unfold Device.idBad at h
  unfold State.servePort
  simp only [h]
  rfl

/-- Acceptance adds one task and leaves everything else but the tasks (R30, R31, R33, R43). -/
theorem Device.accept_rest (d : Device) (t : Task) :
    { d.accept t with tasks := d.tasks, nextSeq := d.nextSeq } = d ∧ (d.accept t).nextSeq = d.nextSeq + 1
      ∧ (d.accept t).tasks.length = d.tasks.length + 1 := by
  refine ⟨rfl, rfl, ?_⟩
  simp only [Device.accept, Device.grantRings, endDependants, List.length_map, List.length_append, List.length_singleton]

/-- The intake rejects a packet that fails a condition (R29, R311). -/
theorem exec_launchIntake_rejects {fn n r : Nat} (hn : n < 64) (h : s.dev.nextServed = some (fn, n))
    (hr : rejectReason ((s.dev.func fn).port (BitVec.ofNat 6 n)).packet
      (s.dev.idBad fn ((s.dev.func fn).port (BitVec.ofNat 6 n)).packet) = some r) : ∃ t, exec .launchIntake s = .next t
      ∧ ((t.dev.func fn).port ((s.dev.func fn).port (BitVec.ofNat 6 n)).no)
        = { (s.dev.func fn).port (BitVec.ofNat 6 n) with st := .rejected, reason := r, taskid := 0 }
      ∧ (∀ g, g ≠ fn → t.dev.func g = s.dev.func g) ∧ t.dev.tasks = s.dev.tasks ∧ t.dev.mem = s.dev.mem ∧ t.lc = s.lc := by
  obtain ⟨t, ht, hrest, hdev, hports, hothers⟩ := State.intake_served h
  have hne : n ≠ spawnPort := by unfold spawnPort; omega
  have hv : s.servedNext fn n = s.setPortOf fn { (s.dev.func fn).port (BitVec.ofNat 6 n) with
    st := .rejected, reason := r, taskid := 0 } := (if_neg hne).trans (State.servePort_rejected hr)
  rw [hv] at hrest hdev hports hothers
  obtain ⟨hport, -, hg⟩ := s.setPortOf_ports fn { (s.dev.func fn).port (BitVec.ofNat 6 n) with
    st := .rejected, reason := r, taskid := 0 }
  refine ⟨t, exec_launchIntake ht, ?_, fun g hgn => (hothers g hgn).trans (hg g hgn), (congrArg Device.tasks hdev :),
    (congrArg Device.mem hdev :), (congrArg State.lc hrest :)⟩
  unfold Func.port at hport ⊢
  rw [hports]
  exact hport

/-- The intake accepts a packet as the next task (R30, R311). -/
theorem exec_launchIntake_accepts {fn n : Nat} (hn : n < 64) (h : s.dev.nextServed = some (fn, n))
    (hr : rejectReason ((s.dev.func fn).port (BitVec.ofNat 6 n)).packet
      (s.dev.idBad fn ((s.dev.func fn).port (BitVec.ofNat 6 n)).packet) = none) : ∃ t, exec .launchIntake s = .next t
      ∧ (t.dev.func fn).port ((s.dev.func fn).port (BitVec.ofNat 6 n)).no
        = s.acceptedPort ((s.dev.func fn).port (BitVec.ofNat 6 n))
      ∧ t.dev.tasks.length = s.dev.tasks.length + 1 ∧ t.dev.nextSeq = s.dev.nextSeq + 1
      ∧ (∃ u ∈ t.dev.tasks, u.AsAccepted (s.portTask fn ((s.dev.func fn).port (BitVec.ofNat 6 n))))
      ∧ t.dev.mem = s.dev.mem ∧ t.lc = s.lc ∧ t.lcs = s.lcs := by
  obtain ⟨t, ht, hrest, hdev, hports, -⟩ := State.intake_served h
  have hne : n ≠ spawnPort := by unfold spawnPort; omega
  have hv : s.servedNext fn n = s.acceptPort fn ((s.dev.func fn).port (BitVec.ofNat 6 n)) :=
    (if_neg hne).trans (State.servePort_accepted hr)
  rw [hv] at hrest hdev hports
  generalize hx : (s.dev.func fn).port (BitVec.ofNat 6 n) = x at *
  obtain ⟨hport, -, -⟩ := s.setPortOf_ports fn (s.acceptedPort x)
  obtain ⟨-, -, hlen⟩ := (s.setPortOf fn (s.acceptedPort x)).dev.accept_rest (s.portTask fn x)
  obtain ⟨u, hu, has⟩ := (s.setPortOf fn (s.acceptedPort x)).dev.accept_mem (s.portTask fn x)
  have htasks : t.dev.tasks = (s.acceptPort fn x).dev.tasks := (congrArg Device.tasks hdev :)
  refine ⟨t, exec_launchIntake ht, ?_, (congrArg List.length htasks).trans hlen, (congrArg Device.nextSeq hdev :),
    ⟨u, htasks ▸ hu, has⟩, (congrArg Device.mem hdev :), (congrArg State.lc hrest :), (congrArg State.lcs hrest :)⟩
  unfold Func.port at hport ⊢
  rw [hports]
  exact hport

/-- The intake answers a SPAWN (R34). -/
theorem exec_launchIntake_spawns {fn : Nat} {r : SpawnReq} (h : s.dev.nextServed = some (fn, spawnPort))
    (hr : s.dev.spawns.find? (·.fn == fn) = some r) : ∃ t, exec .launchIntake s = .next t
      ∧ t.dev.tasks = (s.acceptSpawn r.who fn r.packet).1.dev.tasks
      ∧ t.dev.spawnAnswers = s.dev.spawnAnswers ++ [(r.who, (s.acceptSpawn r.who fn r.packet).2)]
      ∧ r ∉ t.dev.spawns ∧ t.lc = s.lc := by
  obtain ⟨t, ht, hrest, hdev, -, -⟩ := State.intake_served h
  obtain ⟨hlc, hsp, han, -, htasks⟩ := State.serveSpawn_found hr
  have hv : s.servedNext fn spawnPort = s.serveSpawn fn := if_pos rfl
  rw [hv] at hrest hdev
  refine ⟨t, exec_launchIntake ht, (congrArg Device.tasks hdev :).trans htasks, (congrArg Device.spawnAnswers hdev :).trans han,
    ?_, (congrArg State.lc hrest :).trans hlc⟩
  rw [(congrArg Device.spawns hdev :).trans hsp]
  simp

/-! ### A task completes (R32, R313) -/

theorem exec_taskCompletion {seq : Nat} {u : Task} (hu : s.dev.task seq = some u) : exec (.taskCompletion seq) s
    = .next (if s.taskDone u then (s.writeCompletion u).retireTask u else s) := by
  show Host.Outcome.next (s.completeTask seq) = _
  unfold State.completeTask
  rw [hu]

/-- Handing out ring state changes no task but that (R43). -/
theorem Device.grantRings_tasks (d : Device) : ∃ f : Task → Task, (∀ t, { f t with hasRing := t.hasRing } = t)
    ∧ d.grantRings.tasks = d.tasks.map f := by
  refine ⟨_, fun t => ?_, rfl⟩
  simp only
  split <;> rfl

/-- A task that waits for another no more (R31). -/
def Task.freed (seq : Nat) (t : Task) : Task := { t with deps := t.deps.filter (· != seq) }

/-- A task that is no longer live: it is gone, no task depends on it, and its LCs are gone (R30, R31). -/
theorem State.retireTask_gone (u : Task) : (s.retireTask u).dev.task u.seq = none
    ∧ (∀ w ∈ (s.retireTask u).dev.tasks, u.seq ∉ w.deps)
    ∧ (∀ l ∈ (s.retireTask u).allLcs, l.key.task = u.seq → l.status = .absent)
    ∧ ∀ l ∈ s.allLcs, l.key.task ≠ u.seq → l ∈ (s.retireTask u).allLcs := by
  obtain ⟨f, hf, hts⟩ := Device.grantRings_tasks
    { s.dev with tasks := (s.dev.tasks.filter (fun x => x.seq != u.seq)).map (Task.freed u.seq) }
  have htasks : (s.retireTask u).dev.tasks = ((s.dev.tasks.filter (fun x => x.seq != u.seq)).map
    (Task.freed u.seq)).map f := hts
  have hseq (t : Task) : (f t).seq = t.seq := (congrArg Task.seq (hf t) :)
  have hdeps (t : Task) : (f t).deps = t.deps := (congrArg Task.deps (hf t) :)
  refine ⟨?_, fun w hw => ?_, fun l hl hk => ?_, fun l hl hk => ?_⟩
  · unfold Device.task
    rw [htasks, List.find?_eq_none]
    intro w hw
    obtain ⟨x, hx, rfl⟩ := List.mem_map.mp hw
    obtain ⟨y, hy, rfl⟩ := List.mem_map.mp hx
    rw [hseq]
    simpa [Task.freed] using (List.mem_filter.mp hy).2
  · rw [htasks] at hw
    obtain ⟨x, hx, rfl⟩ := List.mem_map.mp hw
    obtain ⟨y, hy, rfl⟩ := List.mem_map.mp hx
    rw [hdeps]
    simp [Task.freed]
  · rcases List.mem_cons.mp hl with rfl | hl
    · simp only [State.retireTask] at hk ⊢
      split
      · rfl
      · rename_i h
        rw [if_neg h] at hk
        simpa [hk] using h
    · have := (List.mem_filter.mp (show l ∈ s.lcs.filter _ from hl)).2
      simpa [hk] using this
  · have hgone : (l.key.task == u.seq && l.status != .absent) = false := by simp [hk]
    rcases List.mem_cons.mp hl with rfl | hl
    · refine List.mem_cons.mpr (.inl ?_)
      simp only [State.retireTask, hgone, Bool.false_eq_true, if_false]
    · refine List.mem_cons.mpr (.inr (List.mem_filter.mpr ⟨hl, ?_⟩))
      simp only [hgone, Bool.not_false]

/-- What is left of the rest when a task retires. -/
theorem State.retireTask_rest (u : Task) : (s.retireTask u).dev.mem = s.dev.mem ∧ (s.retireTask u).dev.funcs = s.dev.funcs
    ∧ (s.retireTask u).core = s.core ∧ (s.retireTask u).part = s.part := ⟨rfl, rfl, rfl, rfl⟩

/-- Where the record of a task that the host launched lies (R309, R313). -/
def Task.recordPlace (u : Task) : Nat := hostBase + (u.completion &&& ~~~15#64).toNat

/-- The completion record of such a task, its stamp before its word, when the task has one (R313). -/
theorem State.writeCompletion_host {u : Task} (hs : u.spawned = false) (hc : s.dev.combines = []) (h0 : u.completion ≠ 0) :
    ∃ q, s.writeCompletion u = { s with dev := { ((s.dev.writeP (u.recordPlace + 8) 8 (s.cycleOf 0).toNat false).writeP
      u.recordPlace 8 u.completionWord false) with hostReqs := q } } := by
  have settle (d : Device) (pa n : Nat) (h : d.combines = []) : d.settle pa n = d := by
    simp [Device.settle, h]
  have hrest := Device.writeP_rest s.dev (u.recordPlace + 8) 8 (s.cycleOf 0).toNat false
  have hcomb : (s.dev.writeP (u.recordPlace + 8) 8 (s.cycleOf 0).toNat false).combines = [] :=
    (congrArg Device.combines hrest :).trans hc
  have hrec : s.dev.recordAt u = (s.dev, some u.recordPlace) := by
    simp only [Device.recordAt, hs, Bool.not_false, if_true]
    rfl
  have hb : (u.completion == 0) = false := by simpa using h0
  unfold State.writeCompletion
  rw [hb, hrec]
  simp only [Bool.false_eq_true, if_false, Device.writeAt, settle _ _ _ hc, settle _ _ _ hcomb]
  split
  · exact ⟨_, rfl⟩
  · exact ⟨_, rfl⟩

/-- Two words written one after the other: the bytes of both, and no other byte is changed. -/
theorem Memory.get_write_pair {m : List Host.Cell} (h : Memory.wf m = true) (p x y a : Nat) :
    Memory.get (Memory.write (Memory.write m (p + 8) 8 y) p 8 x) a = if p ≤ a ∧ a < p + 8 then BitVec.ofNat 8 (x / 256 ^ (a - p))
      else if p + 8 ≤ a ∧ a < p + 16 then BitVec.ofNat 8 (y / 256 ^ (a - (p + 8))) else Memory.get m a := by
  rw [Memory.get_write (Memory.wf_write h (p + 8) 8 y), Memory.get_write h]

/-- A task's record in memory, once it is written (R313). -/
theorem State.writeCompletion_mem {u : Task} (hm : Memory.wf s.dev.mem = true) (hs : u.spawned = false)
    (hc : s.dev.combines = []) (h0 : u.completion ≠ 0) :
    (∀ i, i < 8 → Memory.get (s.writeCompletion u).dev.mem (u.recordPlace + i) = BitVec.ofNat 8 (u.completionWord / 2 ^ (8 * i)))
    ∧ (∀ i, i < 8 → Memory.get (s.writeCompletion u).dev.mem (u.recordPlace + 8 + i) = (s.cycleOf 0).extractLsb' (8 * i) 8)
    ∧ ∀ a, (a < u.recordPlace ∨ u.recordPlace + 16 ≤ a) →
      Memory.get (s.writeCompletion u).dev.mem a = Memory.get s.dev.mem a := by
  obtain ⟨q, e⟩ := State.writeCompletion_host hs hc h0
  have hmem : (s.writeCompletion u).dev.mem
      = Memory.write (Memory.write s.dev.mem (u.recordPlace + 8) 8 (s.cycleOf 0).toNat) u.recordPlace 8 u.completionWord := by
    rw [e]
    exact (Device.writeP_mem _ _ _ _ _).trans (congrArg (fun m => Memory.write m _ 8 _) (Device.writeP_mem _ _ _ _ _))
  generalize u.recordPlace = p at *
  rw [hmem]
  refine ⟨fun i hi => ?_, fun i hi => ?_, fun a ha => ?_⟩
  · rw [Memory.get_write_pair hm, if_pos (by omega), Nat.add_sub_cancel_left, pow_mul]
    rfl
  · rw [Memory.get_write_pair hm, if_neg (by omega), if_pos (by omega), Nat.add_sub_cancel_left]
    exact byte_of_low (Nat.mod_eq_of_lt (s.cycleOf 0).isLt) hi
  · rw [Memory.get_write_pair hm, if_neg (by omega), if_neg (by omega)]

/-- What is left of the rest when the record of a task that the host launched is written. -/
theorem State.writeCompletion_rest {u : Task} (hs : u.spawned = false) (hc : s.dev.combines = []) :
    { s.writeCompletion u with dev := s.dev } = s ∧ (s.writeCompletion u).dev.funcs = s.dev.funcs
      ∧ (u.completion = 0 → (s.writeCompletion u).dev.mem = s.dev.mem) := by
  by_cases h0 : u.completion = 0
  · have hw : s.writeCompletion u = s := by
      unfold State.writeCompletion
      rw [if_pos (by simpa using h0)]
    rw [hw]
    exact ⟨rfl, rfl, fun _ => rfl⟩
  · obtain ⟨q, e⟩ := State.writeCompletion_host hs hc h0
    have h1 := Device.writeP_rest s.dev (u.recordPlace + 8) 8 (s.cycleOf 0).toNat false
    have h2 := Device.writeP_rest (s.dev.writeP (u.recordPlace + 8) 8 (s.cycleOf 0).toNat false) u.recordPlace 8
      u.completionWord false
    rw [e]
    exact ⟨rfl, (congrArg Device.funcs h2 :).trans (congrArg Device.funcs h1 :), fun h => absurd h h0⟩

/-- A task that the host launched completes (R30 to R32, R313). -/
theorem exec_taskCompletion_host {seq : Nat} {u : Task} (hu : s.dev.task seq = some u) (hd : s.taskDone u = true)
    (hm : s.MemOk) (hc : s.dev.combines = []) (hs : u.spawned = false) :
    ∃ t, exec (.taskCompletion seq) s = .next t ∧ t.dev.task seq = none
      ∧ (∀ w ∈ t.dev.tasks, seq ∉ w.deps) ∧ (∀ l ∈ t.allLcs, l.key.task = seq → l.status = .absent)
      ∧ (∀ l ∈ s.allLcs, l.key.task ≠ seq → l ∈ t.allLcs)
      ∧ (u.completion = 0 → t.dev.mem = s.dev.mem)
      ∧ (u.completion ≠ 0 →
        (∀ i, i < 8 → Memory.get t.dev.mem (u.recordPlace + i) = BitVec.ofNat 8 (u.completionWord / 2 ^ (8 * i)))
        ∧ (∀ i, i < 8 → Memory.get t.dev.mem (u.recordPlace + 8 + i) = (s.cycleOf 0).extractLsb' (8 * i) 8)
        ∧ ∀ a, (a < u.recordPlace ∨ u.recordPlace + 16 ≤ a) → Memory.get t.dev.mem a = Memory.get s.dev.mem a)
      ∧ (u.ended = none → u.completionWord = 2 ^ 62)
      ∧ t.core = s.core ∧ t.part = s.part ∧ t.dev.funcs = s.dev.funcs := by
  have hseq := Device.task_seq hu
  obtain ⟨hrest, hfuncs, hmem0⟩ := State.writeCompletion_rest hs hc
  have hall : (s.writeCompletion u).allLcs = s.allLcs :=
    congrArg₂ List.cons (congrArg State.lc hrest :) (congrArg State.lcs hrest :)
  obtain ⟨hnone, hdeps, habs, hkept⟩ := (s.writeCompletion u).retireTask_gone u
  obtain ⟨rmem, rfuncs, rcore, rpart⟩ := (s.writeCompletion u).retireTask_rest u
  rw [hseq] at hnone hdeps habs hkept
  refine ⟨_, (exec_taskCompletion hu).trans (congrArg Host.Outcome.next (if_pos hd)), hnone, hdeps, habs,
    fun l hl hk => hkept l (hall ▸ hl) hk, fun h0 => rmem.trans (hmem0 h0), fun h0 => ?_, fun he => ?_,
    rcore.trans (congrArg State.core hrest :), rpart.trans (congrArg State.part hrest :), rfuncs.trans hfuncs⟩
  · rw [rmem]
    exact State.writeCompletion_mem hm.1 hs hc h0
  · unfold Task.completionWord
    rw [he]

end

end Sys2Proof.Machine
end

section
/-! Proofs, 02: tasks that end (R33, R309, R314), the dispenser (R39), and the events of tasks. -/

namespace Sys2Proof.Machine

/-! ### Dependants of tasks that have ended (R33) -/

/-- A change of a task that can only end it. -/
structure EndsOnly (g : Task → Task) : Prop where
  rest : ∀ u, { g u with ended := u.ended } = u
  kept : ∀ u, u.ended ≠ none → g u = u

theorem EndsOnly.id : EndsOnly id := ⟨fun _ => rfl, fun _ _ => rfl⟩

theorem EndsOnly.comp {f g : Task → Task} (hf : EndsOnly f) (hg : EndsOnly g) : EndsOnly (f ∘ g) := by
  refine ⟨fun u => ?_, fun u hu => ?_⟩
  · have h1 := congrArg (fun t : Task => { t with ended := u.ended }) (hf.rest (g u))
    exact h1.trans (hg.rest u)
  · rw [Function.comp_apply, hg.kept u hu, hf.kept u hu]

theorem EndsOnly.seq {g : Task → Task} (h : EndsOnly g) (u : Task) : (g u).seq = u.seq := (congrArg Task.seq (h.rest u) :)
theorem EndsOnly.fn {g : Task → Task} (h : EndsOnly g) (u : Task) : (g u).fn = u.fn := (congrArg Task.fn (h.rest u) :)
theorem EndsOnly.completion {g : Task → Task} (h : EndsOnly g) (u : Task) : (g u).completion = u.completion :=
  (congrArg Task.completion (h.rest u) :)

/-- What one round does with a task: it ends when it waits for one that has ended. -/
def endDependant (ts : List Task) (t : Task) : Task :=
  if t.ended.isSome then t
  else ((ts.find? (fun u => u.ended.isSome && t.deps.contains u.seq)).map
    (fun u => { t with ended := some (stateDependence, 0, u.id.toNat, none) })).getD t

theorem endDependants_eq (ts : List Task) : endDependants ts = ts.map (endDependant ts) := by
  refine List.map_congr_left (fun t _ => ?_)
  unfold endDependant
  split
  · rfl
  · cases ts.find? (fun u => u.ended.isSome && t.deps.contains u.seq) <;> rfl

theorem endDependant_endsOnly (ts : List Task) : EndsOnly (endDependant ts) := by
  refine ⟨fun u => ?_, fun u hu => ?_⟩
  · unfold endDependant
    split
    · rfl
    · cases ts.find? (fun x => x.ended.isSome && u.deps.contains x.seq) <;> rfl
  · unfold endDependant
    rw [if_pos (Option.isSome_iff_ne_none.mpr hu)]

/-- Rounds of it can only end tasks. -/
theorem endDependantsN_map (n : Nat) (ts : List Task) : ∃ g, EndsOnly g ∧ endDependantsN n ts = ts.map g := by
  induction n generalizing ts with
  | zero => exact ⟨id, EndsOnly.id, (List.map_id ts).symm⟩
  | succ n ih =>
    obtain ⟨g, hg, e⟩ := ih (endDependants ts)
    refine ⟨g ∘ endDependant ts, hg.comp (endDependant_endsOnly ts), ?_⟩
    rw [endDependantsN, e, endDependants_eq, List.map_map]

/-- A task that has ended stays as it is. -/
theorem mem_endDependantsN {n : Nat} {ts : List Task} {u : Task} (h : u ∈ ts) (he : u.ended ≠ none) :
    u ∈ endDependantsN n ts := by
  obtain ⟨g, hg, e⟩ := endDependantsN_map n ts
  rw [e]
  exact List.mem_map.mpr ⟨u, h, hg.kept u he⟩

/-- A task that waits for none of the tasks stays as it is. -/
theorem mem_endDependantsN_free {n : Nat} {ts : List Task} {w : Task} (h : w ∈ ts) (hd : ∀ x ∈ ts, x.seq ∉ w.deps) :
    w ∈ endDependantsN n ts := by
  induction n generalizing ts with
  | zero => exact h
  | succ n ih =>
    rw [endDependantsN, endDependants_eq]
    refine ih (List.mem_map.mpr ⟨w, h, ?_⟩) (fun x hx => ?_)
    · have hnone : ts.find? (fun u => u.ended.isSome && w.deps.contains u.seq) = none :=
        List.find?_eq_none.mpr (fun x hx => by simp [hd x hx])
      unfold endDependant
      rw [hnone]
      exact ite_self w
    · obtain ⟨y, hy, rfl⟩ := List.mem_map.mp hx
      rw [(endDependant_endsOnly ts).seq]
      exact hd y hy

/-- A task that waits for one that has ended ends (R33). -/
theorem mem_endDependantsN_dependant {n : Nat} {ts : List Task} {w x : Task} (hn : 0 < n) (h : w ∈ ts) (hx : x ∈ ts)
    (he : x.ended ≠ none) (hd : x.seq ∈ w.deps) (hw : w.ended = none) :
    ∃ v ∈ endDependantsN n ts, v.seq = w.seq ∧ ∃ dep, v.ended = some (stateDependence, 0, dep, none) := by
  obtain ⟨n, rfl⟩ := Nat.exists_eq_succ_of_ne_zero hn.ne'
  have hfind : ∃ u, ts.find? (fun u => u.ended.isSome && w.deps.contains u.seq) = some u := by
    refine Option.isSome_iff_exists.mp (List.find?_isSome.mpr ⟨x, hx, ?_⟩)
    simp [Option.isSome_iff_ne_none, he, hd]
  obtain ⟨u, hu⟩ := hfind
  have hend : endDependant ts w = { w with ended := some (stateDependence, 0, u.id.toNat, none) } := by
    unfold endDependant
    rw [hw, hu]
    rfl
  refine ⟨endDependant ts w, ?_, (endDependant_endsOnly ts).seq w, u.id.toNat, by rw [hend]⟩
  rw [endDependantsN, endDependants_eq]
  exact mem_endDependantsN (List.mem_map.mpr ⟨w, h, rfl⟩) (by rw [hend]; simp)

/-- The task found under a number, when tasks can only have ended. -/
theorem find?_map_endsOnly {g : Task → Task} (hg : EndsOnly g) (ts : List Task) (k : Nat) :
    (ts.map g).find? (fun t => t.seq == k) = (ts.find? (fun t => t.seq == k)).map g := by
  have hkey : (fun t : Task => t.seq == k) ∘ g = fun t => t.seq == k :=
    funext (fun t => congrArg (fun n => n == k) (hg.seq t))
  rw [List.find?_map, hkey]

/-! ### The abnormal end of a task (R33) -/

section
variable {s : State}

/-- The tasks with those of a number ended abnormally. -/
def endedTasks (ts : List Task) (seq code : Nat) (t : Task) (strip : Option Nat) : List Task :=
  ts.map (fun u => if u.seq = seq then { t with ended := some (stateAbnormal, code, 0, strip) } else u)

theorem State.endTask_tasks {seq code : Nat} {t : Task} (ht : s.dev.task seq = some t) (he : t.ended = none) :
    ∃ strip, (s.endTask seq code).dev.tasks
      = endDependantsN s.dev.tasks.length (endedTasks s.dev.tasks seq code t strip) := by
  unfold State.endTask
  simp only [ht, he, Option.isSome_none, Bool.false_eq_true, if_false, List.length_map]
  exact ⟨_, rfl⟩

/-- The end of a task leaves memory, functions and the management unit as they are. -/
theorem State.endTask_rest (s : State) (seq code : Nat) : (s.endTask seq code).dev.mem = s.dev.mem
    ∧ (s.endTask seq code).dev.funcs = s.dev.funcs ∧ (s.endTask seq code).dev.mgmt = s.dev.mgmt := by
  unfold State.endTask
  cases s.dev.task seq with
  | none => exact ⟨rfl, rfl, rfl⟩
  | some t =>
    by_cases he : t.ended.isSome = true
    · simp only [he, if_true, and_self]
    · simp only [he]
      exact ⟨rfl, rfl, rfl⟩

/-- An LC after the end of its task: it has stopped. -/
def Lc.stopped (seq : Nat) (l : Lc) : Lc :=
  if l.key.task == seq && l.status != .absent then
    { Lc.reset with key := l.key, status := .exited, core := l.core, partNo := l.partNo, pc := l.pc, trap := l.trap }
  else l

theorem Lc.stopped_key (seq : Nat) (l : Lc) : (l.stopped seq).key = l.key := by
  unfold Lc.stopped
  split <;> rfl

theorem Lc.stopped_status {seq : Nat} {l : Lc} (h : (l.stopped seq).key.task = seq) :
    (l.stopped seq).status = .exited ∨ (l.stopped seq).status = .absent := by
  rw [Lc.stopped_key] at h
  unfold Lc.stopped
  by_cases ha : l.status = .absent
  · simp [ha]
  · simp [h, ha]

theorem Lc.stopped_other {seq : Nat} {l : Lc} (h : l.key.task ≠ seq) : l.stopped seq = l := by
  simp [Lc.stopped, h]

/-- A partition after the end of a task: what the task's LC held is released. -/
def Part.freed (seq : Nat) (p : Part) : Part := if (p.ownerKey.map (fun k => k.task == seq)).getD false then p.clear else p

theorem Part.freed_owner {seq : Nat} {p : Part} {k : LcKey} (h : (p.freed seq).ownerKey = some k) : k.task ≠ seq := by
  intro hk
  unfold Part.freed at h
  split at h
  · cases h
  · rename_i hn
    simp [h, hk] at hn

/-- What the end of a live task makes of the LCs and the partitions, and what it leaves. -/
theorem State.endTask_lcs {seq : Nat} (code : Nat) {t : Task} (ht : s.dev.task seq = some t) (he : t.ended = none) :
    (s.endTask seq code).allLcs = s.allLcs.map (Lc.stopped seq)
      ∧ (s.endTask seq code).part :: (s.endTask seq code).parts = (s.part :: s.parts).map (Part.freed seq)
      ∧ (s.endTask seq code).core = s.core ∧ (s.endTask seq code).cores = s.cores
      ∧ (s.endTask seq code).agenda = s.agenda
      ∧ (s.endTask seq code).dev.slots = (s.dev.releasePins (fun k => k.task == seq)).slots
      ∧ (s.endTask seq code).dev.ctxUses = (s.dev.dropLcs (fun k => k.task == seq)).ctxUses := by
  unfold State.endTask
  simp only [ht, he, Option.isSome_none, Bool.false_eq_true, if_false]
  exact ⟨rfl, rfl, trivial, trivial, trivial, rfl, rfl⟩

/-- The task of a number has ended abnormally. -/
theorem State.endTask_task {seq : Nat} (code : Nat) {t : Task} (ht : s.dev.task seq = some t) (he : t.ended = none) :
    ∃ w, (s.endTask seq code).dev.task seq = some w ∧ ∃ strip, w.ended = some (stateAbnormal, code, 0, strip) := by
  obtain ⟨strip, hts⟩ := State.endTask_tasks (code := code) ht he
  obtain ⟨g, hg, e⟩ := endDependantsN_map s.dev.tasks.length (endedTasks s.dev.tasks seq code t strip)
  have hfind : (endedTasks s.dev.tasks seq code t strip).find? (fun u => u.seq == seq)
      = some { t with ended := some (stateAbnormal, code, 0, strip) } :=
    Device.task_updTask (f := fun _ => { t with ended := some (stateAbnormal, code, 0, strip) }) ht rfl
  refine ⟨{ t with ended := some (stateAbnormal, code, 0, strip) }, ?_, strip, rfl⟩
  unfold Device.task
  rw [hts, e, find?_map_endsOnly hg, hfind, Option.map_some, hg.kept _ (by simp)]

/-- A live task ends abnormally, with its dependants, and no other task is touched (R33). -/
theorem State.endTask_ended {seq : Nat} (code : Nat) {t : Task} (ht : s.dev.task seq = some t) (he : t.ended = none) :
    s.EndedTask (s.endTask seq code) seq code := by
  obtain ⟨strip, hts⟩ := State.endTask_tasks (code := code) ht he
  obtain ⟨hlcs, hparts, hcore, hcores, hagenda, hslots, huses⟩ := State.endTask_lcs code ht he
  obtain ⟨hdm, hdf, hdg⟩ := s.endTask_rest seq code
  have hmem := List.mem_of_find?_eq_some ht
  have hin : { t with ended := some (stateAbnormal, code, 0, strip) } ∈ endedTasks s.dev.tasks seq code t strip :=
    List.mem_map.mpr ⟨t, hmem, if_pos (Device.task_seq ht)⟩
  refine ⟨State.endTask_task code ht he, fun w hw hne hd hwe => ?_, fun w hw hd hne => ?_, fun l hl hk => ?_,
    fun l hl hk => ?_, fun x hx k hk => ?_, fun c hc => ?_, fun p hp k hk => ?_, hcore, hcores, hdm, hdf, hdg, hagenda⟩
  · rw [hts]
    exact mem_endDependantsN_dependant (List.length_pos_of_mem hmem) (List.mem_map.mpr ⟨w, hw, if_neg hne⟩) hin (by simp)
      (by rwa [← Device.task_seq ht] at hd) hwe
  · rw [hts]
    refine mem_endDependantsN_free (List.mem_map.mpr ⟨w, hw, if_neg hne⟩) (fun x hx => ?_)
    obtain ⟨y, hy, rfl⟩ := List.mem_map.mp hx
    split
    · exact hd t hmem
    · exact hd y hy
  · rw [hlcs] at hl
    obtain ⟨m, -, rfl⟩ := List.mem_map.mp hl
    exact Lc.stopped_status hk
  · rw [hlcs]
    exact List.mem_map.mpr ⟨l, hl, Lc.stopped_other hk⟩
  · rw [hslots] at hx
    exact beq_eq_false_iff_ne.mp (s.dev.releasePins_holder _ x hx k hk)
  · rw [huses] at hc
    simpa using (List.mem_filter.mp hc).2
  · rw [hparts] at hp
    obtain ⟨r, -, rfl⟩ := List.mem_map.mp hp
    exact Part.freed_owner hk

/-! ### KILL (R309) -/

theorem exec_killWrite_none {fn : Nat} {id : BitVec 32} (h : s.dev.taskOf fn id = none) :
    exec (.killWrite fn id) s = .next s := by
  show execKillWrite fn id s = _
  unfold execKillWrite
  rw [h]

theorem exec_killWrite {fn : Nat} {id : BitVec 32} {u : Task} (h : s.dev.taskOf fn id = some u) :
    exec (.killWrite fn id) s = .next (s.endTask u.seq 0) := by
  show execKillWrite fn id s = _
  unfold execKillWrite
  rw [h]

/-! ### A function-level reset (R314) -/

/-- A task that has ended and writes no record. -/
def Task.silenced (u : Task) : Prop := u.ended ≠ none ∧ u.completion = 0

/-- A task of a function being reset ends and writes no record (R314). -/
def State.silence (s : State) (q : Nat) : State :=
  ({ s with dev := s.dev.updTask q ({ · with completion := 0 }) }).endTask q 0

/-- Tasks found under one number are one task, when numbers are given once. -/
theorem Device.task_unique {d : Device} {k : Nat} {t u : Task} (hn : (d.tasks.map (·.seq)).Nodup) (ht : d.task k = some t)
    (hu : u ∈ d.tasks) (hk : u.seq = k) : u = t :=
  List.inj_on_of_nodup_map hn hu (List.mem_of_find?_eq_some ht) (hk.trans (Device.task_seq ht).symm)

/-- A change of tasks under which each keeps its number and its function, and one that is silenced stays so. -/
structure Silences (g : Task → Task) : Prop where
  seq : ∀ u, (g u).seq = u.seq
  fn : ∀ u, (g u).fn = u.fn
  kept : ∀ u, u.silenced → (g u).silenced

theorem Silences.id : Silences id := ⟨fun _ => rfl, fun _ => rfl, fun _ h => h⟩

theorem Silences.comp {f g : Task → Task} (hf : Silences f) (hg : Silences g) : Silences (f ∘ g) :=
  ⟨fun u => (hf.seq (g u)).trans (hg.seq u), fun u => (hf.fn (g u)).trans (hg.fn u), fun u h => hf.kept _ (hg.kept u h)⟩

theorem EndsOnly.silences {g : Task → Task} (h : EndsOnly g) : Silences g :=
  ⟨h.seq, h.fn, fun u hu => by rwa [h.kept u hu.1]⟩

/-- The task of a number ended abnormally, when it is live. -/
def endNumbered (seq code : Nat) (strip : Option Nat) (u : Task) : Task :=
  if u.seq = seq ∧ u.ended = none then { u with ended := some (stateAbnormal, code, 0, strip) } else u

theorem endNumbered_endsOnly (seq code : Nat) (strip : Option Nat) : EndsOnly (endNumbered seq code strip) := by
  refine ⟨fun u => ?_, fun u hu => if_neg (fun h => hu h.2)⟩
  unfold endNumbered
  split <;> rfl

/-- The end of a task, when numbers are given once: tasks can only end, and the one of that number has ended. -/
theorem State.endTask_map (q code : Nat) (hn : (s.dev.tasks.map (·.seq)).Nodup) : ∃ g, EndsOnly g
    ∧ (s.endTask q code).dev.tasks = s.dev.tasks.map g ∧ ∀ u ∈ s.dev.tasks, u.seq = q → (g u).ended ≠ none := by
  cases ht : s.dev.task q with
  | none =>
    have hsame : s.endTask q code = s := by simp only [State.endTask, ht]
    refine ⟨id, EndsOnly.id, ?_, fun u hu hq => ?_⟩
    · rw [hsame, List.map_id]
    · exact absurd (beq_iff_eq.mpr hq) (List.find?_eq_none.mp ht u hu)
  | some t =>
    by_cases he : t.ended = none
    · obtain ⟨strip, hts⟩ := State.endTask_tasks (code := code) ht he
      obtain ⟨g, hg, e⟩ := endDependantsN_map s.dev.tasks.length (endedTasks s.dev.tasks q code t strip)
      have hmap : endedTasks s.dev.tasks q code t strip = s.dev.tasks.map (endNumbered q code strip) := by
        refine List.map_congr_left (fun u hu => ?_)
        unfold endNumbered
        by_cases hq : u.seq = q
        · rw [Device.task_unique hn ht hu hq, if_pos (Device.task_seq ht), if_pos ⟨Device.task_seq ht, he⟩]
        · rw [if_neg hq, if_neg (fun h => hq h.1)]
      refine ⟨g ∘ endNumbered q code strip, hg.comp (endNumbered_endsOnly q code strip), ?_, fun u hu hq => ?_⟩
      · rw [hts, e, hmap, List.map_map]
      · have hu0 : u.ended = none := Device.task_unique hn ht hu hq ▸ he
        have hend : endNumbered q code strip u = { u with ended := some (stateAbnormal, code, 0, strip) } := if_pos ⟨hq, hu0⟩
        rw [Function.comp_apply, hend, hg.kept _ (by simp)]
        simp
    · have hsame : s.endTask q code = s := by
        simp only [State.endTask, ht, Option.isSome_iff_ne_none.mpr he, if_true]
      refine ⟨id, EndsOnly.id, ?_, fun u hu hq => ?_⟩
      · rw [hsame, List.map_id]
      · rw [Device.task_unique hn ht hu hq]
        exact he

/-- The task of a number without a record. -/
def dropRecord (q : Nat) (u : Task) : Task := if u.seq = q then { u with completion := 0 } else u

theorem dropRecord_silences (q : Nat) : Silences (dropRecord q) := by
  refine ⟨fun u => ?_, fun u => ?_, fun u hu => ?_⟩ <;> unfold dropRecord <;> split
  · rfl
  · rfl
  · rfl
  · rfl
  · exact ⟨hu.1, rfl⟩
  · exact hu

/-- Numbers stay given once under such a change. -/
theorem Silences.nodup {g : Task → Task} (h : Silences g) {ts : List Task} (hn : (ts.map (·.seq)).Nodup) :
    ((ts.map g).map (·.seq)).Nodup := by
  have hkey : (fun t : Task => t.seq) ∘ g = (·.seq) := funext h.seq
  rwa [List.map_map, hkey]

/-- The tasks after that of one number has been silenced. -/
theorem State.silence_tasks (q : Nat) (hn : (s.dev.tasks.map (·.seq)).Nodup) : ∃ g, Silences g
    ∧ (s.silence q).dev.tasks = s.dev.tasks.map g ∧ ∀ u ∈ s.dev.tasks, u.seq = q → (g u).silenced := by
  obtain ⟨g, hg, e, hend⟩ := State.endTask_map (s := { s with dev := s.dev.updTask q ({ · with completion := 0 }) }) q 0
    ((dropRecord_silences q).nodup hn)
  refine ⟨g ∘ dropRecord q, hg.silences.comp (dropRecord_silences q), ?_, fun u hu hq => ⟨?_, ?_⟩⟩
  · exact e.trans List.map_map
  · exact hend (dropRecord q u) (List.mem_map.mpr ⟨u, hu, rfl⟩) (((dropRecord_silences q).seq u).trans hq)
  · rw [Function.comp_apply, hg.completion, dropRecord, if_pos hq]

/-- The tasks after those of a list of numbers have been silenced. -/
theorem State.silence_all (qs : List Nat) (hn : (s.dev.tasks.map (·.seq)).Nodup) : ∃ g, Silences g
    ∧ (qs.foldl State.silence s).dev.tasks = s.dev.tasks.map g ∧ ∀ u ∈ s.dev.tasks, u.seq ∈ qs → (g u).silenced := by
  induction qs generalizing s with
  | nil => exact ⟨id, Silences.id, (List.map_id _).symm, fun u _ h => absurd h (List.not_mem_nil)⟩
  | cons q qs ih =>
    obtain ⟨f, hf, ef, hq⟩ := State.silence_tasks q hn
    obtain ⟨g, hg, eg, hqs⟩ := ih (s := s.silence q) (ef ▸ hf.nodup hn)
    refine ⟨g ∘ f, hg.comp hf, ?_, fun u hu hk => ?_⟩
    · rw [List.foldl_cons, eg, ef, List.map_map]
    · rcases List.mem_cons.mp hk with rfl | hk
      · exact hg.kept _ (hq u hu rfl)
      · exact hqs (f u) (ef ▸ List.mem_map.mpr ⟨u, hu, rfl⟩) (by rwa [hf.seq])

/-- Silencing tasks leaves memory, functions and the management unit as they are. -/
theorem State.silence_all_rest (qs : List Nat) : (qs.foldl State.silence s).dev.mem = s.dev.mem
    ∧ (qs.foldl State.silence s).dev.funcs = s.dev.funcs ∧ (qs.foldl State.silence s).dev.mgmt = s.dev.mgmt := by
  induction qs generalizing s with
  | nil => exact ⟨rfl, rfl, rfl⟩
  | cons q qs ih =>
    obtain ⟨hm, hf, hg⟩ := State.endTask_rest { s with dev := s.dev.updTask q ({ · with completion := 0 }) } q 0
    obtain ⟨ihm, ihf, ihg⟩ := ih (s := s.silence q)
    exact ⟨ihm.trans hm, ihf.trans hf, ihg.trans hg⟩

/-- The numbers of a function's tasks. -/
def Device.numbersOf (d : Device) (fn : Nat) : List Nat := (d.tasks.filter (·.fn == fn)).map (·.seq)

theorem Device.mem_numbersOf {d : Device} {fn : Nat} {u : Task} (hu : u ∈ d.tasks) (hf : u.fn = fn) :
    u.seq ∈ d.numbersOf fn :=
  List.mem_map.mpr ⟨u, List.mem_filter.mpr ⟨hu, beq_iff_eq.mpr hf⟩, rfl⟩

/-- What a function-level reset makes of the state (R314). -/
theorem State.resetFunction_holds (fn : Nat) (hn : (s.dev.tasks.map (·.seq)).Nodup) :
    (∀ p, ((s.resetFunction fn).dev.func fn).port p = Port.reset p)
      ∧ (∀ g, g ≠ fn → (s.resetFunction fn).dev.func g = s.dev.func g)
      ∧ (∀ u ∈ (s.resetFunction fn).dev.tasks, u.fn = fn → u.silenced)
      ∧ (s.resetFunction fn).dev.mgmt.owner
        = (if fn = 0 ∧ s.dev.mgmt.owner = some .host then none else s.dev.mgmt.owner)
      ∧ (s.resetFunction fn).dev.mem = s.dev.mem := by
  obtain ⟨g, hg, etasks, hnamed⟩ := State.silence_all (s.dev.numbersOf fn) hn
  obtain ⟨emem, efuncs, emgmt⟩ := State.silence_all_rest (s := s) (s.dev.numbersOf fn)
  have efunc (k : Nat) : ((s.dev.numbersOf fn).foldl State.silence s).dev.func k = s.dev.func k := by
    unfold Device.func
    rw [efuncs]
  have hfunc (k : Nat) : (s.resetFunction fn).dev.func k
      = if k = fn then { s.dev.func fn with ports := [] } else s.dev.func k := by
    have h := Device.func_setFunc ((s.dev.numbersOf fn).foldl State.silence s).dev { s.dev.func fn with ports := [] } k
    rw [efunc, show ({ s.dev.func fn with ports := [] } : Func).no = fn from s.dev.func_no fn] at h
    rw [← h, ← efunc fn]
    rfl
  refine ⟨fun p => ?_, fun k hk => (hfunc k).trans (if_neg hk), fun u hu hf => ?_, ?_, emem⟩
  · rw [hfunc fn, if_pos rfl]
    rfl
  · have hu : u ∈ ((s.dev.numbersOf fn).foldl State.silence s).dev.tasks := hu
    rw [etasks] at hu
    obtain ⟨w, hw, rfl⟩ := List.mem_map.mp hu
    exact hnamed w hw (Device.mem_numbersOf hw ((hg.fn w).symm.trans hf))
  · have howner : (s.resetFunction fn).dev.mgmt.owner
        = (if fn = 0 && s.dev.mgmt.owner == some .host then none else s.dev.mgmt.owner) := by
      rw [← emgmt]
      rfl
    simpa using howner

theorem exec_functionLevelReset_out {fn : Nat} (h : 32 ≤ fn) : exec (.functionLevelReset fn) s = .next s :=
  congrArg Host.Outcome.next (if_pos h)

theorem exec_functionLevelReset {fn : Nat} (h : fn < 32) : exec (.functionLevelReset fn) s = .next (s.resetFunction fn) :=
  congrArg Host.Outcome.next (if_neg (by omega))

/-! ### The dispenser (R39) -/

theorem exec_stripDispense_idle (h : s.lc.nextsWait = false) : exec .stripDispense s = .next s := by
  show Host.Outcome.next s.stripDispense = _
  unfold State.stripDispense
  rw [h]
  rfl

/-- The state with an answer of the dispenser for the NEXTS that waits. -/
def State.nextsAnswered (s : State) (a : Option Nat) : State :=
  { s with lc := { s.lc with nextsWait := false, nextsAnswer := some a } }

theorem exec_stripDispense {t : State} {a : Option Nat} (h : s.lc.nextsWait = true) (hd : s.dispense = some (t, a)) :
    exec .stripDispense s = .next (t.nextsAnswered a) := by
  show Host.Outcome.next s.stripDispense = _
  unfold State.stripDispense
  rw [h, hd]
  rfl

/-- With every strip handed out, a NEXTS that waits is answered with none (R39). -/
theorem exec_stripDispense_none {u : Task} (h : s.lc.nextsWait = true) (hu : s.task = some u) (hn : u.strips ≤ u.nextStrip) :
    ∃ t, exec .stripDispense s = .next t ∧ t.lc.nextsAnswer = some none ∧ t.lc.nextsWait = false ∧ t.task = some u := by
  have hd : s.dispense = some (s.updTask (fun _ => u), none) := by
    simp only [State.dispense, hu, Task.dispense, if_pos hn, Option.map_some]
  refine ⟨_, exec_stripDispense h hd, rfl, rfl, ?_⟩
  exact State.task_updTask (f := fun _ => u) hu rfl

/-- The next strip answers a NEXTS that waits (R39). -/
theorem exec_stripDispense_next {u : Task} (h : s.lc.nextsWait = true) (hu : s.task = some u) (hn : u.nextStrip < u.strips)
    (hr : u.ring = false) : ∃ t, exec .stripDispense s = .next t ∧ t.lc.nextsAnswer = some (some u.nextStrip)
      ∧ t.lc.nextsWait = false ∧ t.task = some { u with nextStrip := u.nextStrip + 1 }
      ∧ { t with
          lc := { t.lc with nextsAnswer := s.lc.nextsAnswer, nextsWait := true }
          dev := { t.dev with tasks := s.dev.tasks } } = s := by
  have hd : s.dispense = some (s.updTask (fun _ => { u with nextStrip := u.nextStrip + 1 }), some u.nextStrip) := by
    simp [State.dispense, hu, Task.dispense, Nat.not_le.mpr hn, hr]
  refine ⟨_, exec_stripDispense h hd, rfl, rfl, ?_, ?_⟩
  · exact State.task_updTask (f := fun _ => { u with nextStrip := u.nextStrip + 1 }) hu rfl
  · rw [← h]
    rfl

/-! ### The events of tasks -/

/-- A commit of a launch port changes that port alone (R312). -/
theorem exec_launchPortCommit_holds {fn : Nat} (p : BitVec 6) (h : fn < 32) :
    ∃ t, exec (.launchPortCommit fn p) s = .next t
      ∧ ((∀ g, g ≠ fn → t.dev.func g = s.dev.func g) ∧ { t with dev := { t.dev with funcs := s.dev.funcs } } = s)
      ∧ (∀ q, q ≠ p → (t.dev.func fn).port q = (s.dev.func fn).port q)
      ∧ (t.dev.func fn).port p = ((s.dev.func fn).port p).commit (s.dev.boot == .ready) := by
  have hno : (((s.dev.func fn).port p).commit (s.dev.boot == .ready)).no = p := (Port.commit_no _ _).trans (Func.port_no _ p)
  obtain ⟨hport, hports, hfuncs⟩ := s.setPortOf_ports fn (((s.dev.func fn).port p).commit (s.dev.boot == .ready))
  rw [hno] at hport hports
  exact ⟨_, exec_launchPortCommit p h, ⟨hfuncs, rfl⟩, hports, hport⟩

end

/-- Settles O53: each event by the lemma of its own; the end of a task by induction on the rounds of dependants, a reset by
induction on the function's tasks. -/
theorem taskEvents : Obligations.TaskEvents := by
  unfold Obligations.TaskEvents
  intro fn s
  refine ⟨fun p => ⟨exec_launchPortCommit_out, fun h => ?_⟩, exec_launchIntake_none, fun n hn h => ⟨fun r hr => ?_, fun hr => ?_⟩,
    fun r h hr => ⟨fun hl => ?_, fun hl => ?_⟩, fun seq u hu => ⟨fun hd => ?_, fun hd hm hc hs => ?_⟩,
    fun id => ⟨exec_killWrite_none, fun u hid hu he => ?_⟩, exec_functionLevelReset_out, fun h hn => ?_,
    exec_stripDispense_idle, fun u h hu => ⟨exec_stripDispense_none h hu, exec_stripDispense_next h hu⟩⟩
  · obtain ⟨t, ht, honly, hports, hport⟩ := exec_launchPortCommit_holds p h
    exact ⟨t, ht, honly, hports, hport.trans (Port.commit_eq _ _)⟩
  · exact exec_launchIntake_rejects hn h hr
  · obtain ⟨t, ht, hport, hlen, hseq, ⟨u, hu, has⟩, hrest⟩ := exec_launchIntake_accepts hn h hr
    exact ⟨t, ht, hport, hlen, hseq, ⟨u, hu, has.field Task.seq rfl, has.field Task.fn rfl, has.field Task.id rfl,
      has.field Task.spawned rfl, has.field Task.entry rfl, has.field Task.elements rfl, has.field Task.coremask rfl,
      has.field Task.lcn rfl, has.field Task.prio rfl, has.field Task.completion rfl, has.field Task.ptbase rfl,
      has.field Task.asid rfl, has.field Task.started rfl, has.field Task.nextStrip rfl⟩, hrest⟩
  · obtain ⟨t, ht, htasks, han, -, hlc⟩ := exec_launchIntake_spawns h hr
    rw [State.acceptSpawn_full r.who fn r.packet hl] at htasks han
    exact ⟨t, ht, htasks, han, hlc⟩
  · obtain ⟨t, ht, htasks, han, hgone, hlc⟩ := exec_launchIntake_spawns h hr
    obtain ⟨id, pt, asid, hid, hbit, hfree, -, w, hw, has⟩ := State.acceptSpawn_room r.who fn r.packet hl
    rw [hid] at han
    exact ⟨t, id, ht, han, hbit, hfree, ⟨w, htasks ▸ hw, has.field Task.seq rfl, has.field Task.fn rfl,
      has.field Task.id rfl, has.field Task.spawned rfl, has.field Task.lcn rfl⟩, hgone, hlc⟩
  · exact (exec_taskCompletion hu).trans (congrArg Host.Outcome.next (if_neg (by rw [hd]; exact Bool.false_ne_true)))
  · exact exec_taskCompletion_host hu hd hm hc hs
  · exact ⟨_, exec_killWrite hid, State.endTask_ended 0 hu he⟩
  · obtain ⟨hports, hfuncs, hend, howner, hmem⟩ := s.resetFunction_holds fn hn
    exact ⟨_, exec_functionLevelReset h, hports, hfuncs, hend, howner, hmem⟩

end Sys2Proof.Machine
end

section
/-! Proofs, 03: the slots that the arbiter of the lane groups deals (R55, R56). -/

namespace Sys2Proof.Machine

/-! ### One slot -/

/-- What slots leave of a contender: its partition, weight and age, and what it had to issue. -/
def Contender.source (c : Contender) : Contender := { c with rem := c.rem + c.got, credit := 0, got := 0 }

/-- The contenders of a list are those of another with slots dealt to them, `n` in all. -/
structure SlotsDealt (l r : List Contender) (n : Nat) : Prop where
  source : r.map Contender.source = l.map Contender.source
  total : (r.map (·.got)).sum = (l.map (·.got)).sum + n

theorem SlotsDealt.refl (l : List Contender) : SlotsDealt l l 0 := ⟨rfl, rfl⟩

theorem SlotsDealt.trans {l m r : List Contender} {a b : Nat} (h : SlotsDealt l m a) (k : SlotsDealt m r b) :
    SlotsDealt l r (a + b) := ⟨k.source.trans h.source, by rw [k.total, h.total, Nat.add_assoc]⟩

theorem map_source_part (l : List Contender) : (l.map Contender.source).map (·.part) = l.map (·.part) := by
  rw [List.map_map]
  rfl

theorem SlotsDealt.part {l r : List Contender} {n : Nat} (h : SlotsDealt l r n) : r.map (·.part) = l.map (·.part) := by
  rw [← map_source_part r, h.source, map_source_part]

/-- What is left to issue is less by the slots dealt. -/
theorem SlotsDealt.left {l r : List Contender} {n : Nat} (h : SlotsDealt l r n) :
    (r.map (·.rem)).sum + n = (l.map (·.rem)).sum := by
  have key (m : List Contender) : ((m.map Contender.source).map (·.rem)).sum = (m.map (·.rem)).sum + (m.map (·.got)).sum := by
    rw [← List.sum_map_add, List.map_map]
    rfl
  have hr := key r
  rw [h.source, key l, h.total] at hr
  omega

theorem sum_got_giveSlot (l : List Contender) (p charge : Nat) :
    ((giveSlot l p charge).map (·.got)).sum = (l.map (·.got)).sum + (l.map (·.part)).count p := by
  induction l with
  | nil => rfl
  | cons c l ih =>
    have hcons : giveSlot (c :: l) p charge = (if c.part = p then c.issue charge else c) :: giveSlot l p charge := rfl
    rw [hcons, List.map_cons, List.sum_cons, ih, List.map_cons, List.sum_cons, List.map_cons, List.count_cons]
    by_cases h : c.part = p
    · simp only [h, if_true, Contender.issue, beq_self_eq_true]
      omega
    · simp only [h, if_false, beq_iff_eq]
      omega

/-- A slot to a contender that has an element group left. -/
theorem giveSlot_dealt {l : List Contender} {c : Contender} (charge : Nat) (hn : (l.map (·.part)).Nodup) (hc : c ∈ l)
    (hr : 0 < c.rem) : SlotsDealt l (giveSlot l c.part charge) 1 := by
  refine ⟨?_, ?_⟩
  · rw [giveSlot, List.map_map]
    refine List.map_congr_left (fun x hx => ?_)
    by_cases h : x.part = c.part
    · have : x = c := List.inj_on_of_nodup_map hn hx hc h
      subst this
      have : x.rem - 1 + (x.got + 1) = x.rem + x.got := by omega
      simp [Contender.source, Contender.issue, this]
    · simp [h]
  · rw [sum_got_giveSlot, List.count_eq_one_of_mem hn (List.mem_map_of_mem hc)]

/-! ### Slots to aged heads (R56, step 1) -/

theorem foldl_giveSlot_dealt {charge : Nat} {ps : List Nat} {l : List Contender} (hp : ps.Nodup)
    (hn : (l.map (·.part)).Nodup) (h : ∀ p ∈ ps, ∃ c ∈ l, c.part = p ∧ 0 < c.rem) :
    SlotsDealt l (ps.foldl (fun l p => giveSlot l p charge) l) ps.length := by
  induction ps generalizing l with
  | nil => exact SlotsDealt.refl l
  | cons p ps ih =>
    obtain ⟨hnot, hnodup⟩ := List.nodup_cons.mp hp
    obtain ⟨c, hc, rfl, hr⟩ := h p List.mem_cons_self
    have h1 := giveSlot_dealt charge hn hc hr
    rw [List.foldl_cons, List.length_cons, Nat.add_comm]
    refine h1.trans (ih hnodup (h1.part ▸ hn) (fun q hq => ?_))
    obtain ⟨x, hx, hxq, hxr⟩ := h q (List.mem_cons_of_mem _ hq)
    have hne : x.part ≠ c.part := fun e => hnot (by rwa [← e, hxq])
    exact ⟨x, List.mem_map.mpr ⟨x, hx, if_neg hne⟩, hxq, hxr⟩

theorem mem_agedOrder {l : List Contender} {p : Nat} (h : p ∈ agedOrder l) : ∃ c ∈ l, c.part = p := by
  obtain ⟨c, hc, rfl⟩ := List.mem_map.mp h
  exact ⟨c, (List.mem_filter.mp (List.mem_mergeSort.mp hc)).1, rfl⟩

theorem agedOrder_nodup {l : List Contender} (hn : (l.map (·.part)).Nodup) : (agedOrder l).Nodup :=
  (List.Perm.nodup_iff ((List.mergeSort_perm _ _).map _)).mpr (hn.sublist (List.filter_sublist.map _))

theorem agedOrder_length (l : List Contender) : (agedOrder l).length ≤ l.length := by
  rw [agedOrder, List.length_map, List.length_mergeSort]
  exact List.length_filter_le _ _

/-! ### Slots by share, and the leftover ones (R56, steps 2 and 3) -/

theorem bestOf_some {ok : Contender → Bool} {l : List Contender} {c : Contender} (h : bestOf ok l = some c) :
    c ∈ l ∧ ok c = true := by
  induction l generalizing c with
  | nil => cases h
  | cons a l ih =>
    rw [bestOf] at h
    cases hb : bestOf ok l with
    | none =>
      rw [hb] at h
      obtain ⟨ha, hac⟩ := Option.ite_none_right_eq_some.mp h
      cases hac
      exact ⟨List.mem_cons_self, ha⟩
    | some b =>
      simp only [hb] at h
      split at h <;> cases h
      · rename_i ha
        exact ⟨List.mem_cons_self, (Bool.and_eq_true_iff.mp ha).1⟩
      · exact (ih hb).imp_left (List.mem_cons_of_mem _)

theorem bestOf_none {ok : Contender → Bool} {l : List Contender} (h : bestOf ok l = none) : ∀ c ∈ l, ok c = false := by
  induction l with
  | nil => exact fun _ hc => absurd hc List.not_mem_nil
  | cons a l ih =>
    rw [bestOf] at h
    cases hb : bestOf ok l with
    | none =>
      rw [hb] at h
      have ha : ok a = false := by simpa using h
      exact List.forall_mem_cons.mpr ⟨ha, ih hb⟩
    | some b =>
      simp only [hb] at h
      split at h <;> cases h

/-- Every slot is dealt as long as an element group is left. -/
theorem dealSlots_dealt (wsum n : Nat) {l : List Contender} (hn : (l.map (·.part)).Nodup) :
    SlotsDealt l (dealSlots wsum n l) (min n (l.map (·.rem)).sum) := by
  induction n generalizing l with
  | zero =>
    rw [Nat.zero_min]
    exact SlotsDealt.refl l
  | succ n ih =>
    have next {c : Contender} (charge : Nat) (hc : c ∈ l) (hr : 0 < c.rem) :
        SlotsDealt l (dealSlots wsum n (giveSlot l c.part charge)) (min (n + 1) (l.map (·.rem)).sum) := by
      have h1 := giveSlot_dealt charge hn hc hr
      have h2 := h1.trans (ih (h1.part ▸ hn))
      rwa [← h1.left, Nat.add_min_add_right, Nat.add_comm]
    rw [dealSlots]
    split
    · rename_i c hb
      obtain ⟨hc, hok⟩ := bestOf_some hb
      exact next wsum hc (by simpa using (Bool.and_eq_true_iff.mp hok).2)
    · split
      · rename_i c hb
        obtain ⟨hc, hok⟩ := bestOf_some hb
        exact next 0 hc (by simpa using hok)
      · rename_i hb
        have hzero : (l.map (·.rem)).sum = 0 :=
          List.sum_eq_zero (fun x hx => by
            obtain ⟨c, hc, rfl⟩ := List.mem_map.mp hx
            simpa using bestOf_none hb c hc)
        rw [hzero, Nat.min_zero]
        exact SlotsDealt.refl l

/-! ### One core cycle -/

/-- The contenders as a cycle begins: credit by weight, no slot received. -/
def startCycle (l : List Contender) : List Contender :=
  l.map (fun c => { c with credit := min (c.credit + 8 * c.w) (8 * (l.map (·.w)).sum), got := 0 })

/-- The contenders with the slots of the cycle. -/
def dealCycle (l : List Contender) : List Contender :=
  let aged := agedOrder (startCycle l)
  dealSlots (l.map (·.w)).sum (8 - aged.length)
    (aged.foldl (fun r p => giveSlot r p (l.map (·.w)).sum) (startCycle l))

/-- A contender as the cycle leaves it: aged by the slots that others received. -/
def Contender.aged (issued : Nat) (c : Contender) : Contender := { c with age := if c.got = 0 then c.age + issued else 0 }

theorem arbitrate_eq (l : List Contender) :
    arbitrate l = (dealCycle l).map (Contender.aged ((dealCycle l).map (·.got)).sum) := rfl

theorem startCycle_got (l : List Contender) : ((startCycle l).map (·.got)).sum = 0 :=
  List.sum_eq_zero (fun x hx => by
    obtain ⟨c, hc, rfl⟩ := List.mem_map.mp hx
    obtain ⟨b, -, rfl⟩ := List.mem_map.mp hc
    rfl)

/-- A cycle deals eight slots, or as many as there are element groups left. -/
theorem dealCycle_dealt {l : List Contender} (hn : (l.map (·.part)).Nodup) (hl : l.length ≤ 8) (hr : ∀ c ∈ l, 0 < c.rem) :
    SlotsDealt (startCycle l) (dealCycle l) (min 8 (l.map (·.rem)).sum) := by
  have hpart : (startCycle l).map (·.part) = l.map (·.part) := by
    rw [startCycle, List.map_map]
    rfl
  have hrem : (startCycle l).map (·.rem) = l.map (·.rem) := by
    rw [startCycle, List.map_map]
    rfl
  have hlen : (agedOrder (startCycle l)).length ≤ 8 := (agedOrder_length _).trans (by rwa [startCycle, List.length_map])
  have hpos : ∀ c ∈ startCycle l, 0 < c.rem := fun c hc => by
    obtain ⟨b, hb, rfl⟩ := List.mem_map.mp hc
    exact hr b hb
  have h1 := foldl_giveSlot_dealt (charge := (l.map (·.w)).sum) (agedOrder_nodup (hpart ▸ hn)) (hpart ▸ hn)
    (fun p hp => (mem_agedOrder hp).imp (fun c h => ⟨h.1, h.2, hpos c h.1⟩))
  have h2 := dealSlots_dealt (l.map (·.w)).sum (8 - (agedOrder (startCycle l)).length) ((h1.part.trans hpart) ▸ hn)
  have hleft := h1.left
  rw [hrem] at hleft
  have h3 := h1.trans h2
  rwa [← Nat.add_min_add_left, Nat.add_sub_cancel' hlen, Nat.add_comm _ (List.sum _), hleft] at h3

/-- Settles O58: what every slot keeps is kept by a cycle, by induction on the aged heads and on the slots. -/
theorem laneSlots : Obligations.LaneSlots := by
  unfold Obligations.LaneSlots
  intro l hn hl hr
  have h := dealCycle_dealt hn hl hr
  have hgot : ((dealCycle l).map (·.got)).sum = min 8 (l.map (·.rem)).sum := by rw [h.total, startCycle_got, Nat.zero_add]
  rw [arbitrate_eq, hgot]
  refine ⟨?_, ?_, fun i c x hc hx => ?_⟩
  · have hpart := h.part
    rw [startCycle, List.map_map] at hpart
    rw [List.map_map]
    exact hpart
  · rw [List.map_map]
    exact hgot
  · rw [List.getElem?_map] at hx
    obtain ⟨y, hy, rfl⟩ := Option.map_eq_some_iff.mp hx
    have hsrc := congrArg (fun m : List Contender => m[i]?) h.source
    simp only [startCycle, List.getElem?_map, hy, hc, Option.map_some, Option.some.injEq] at hsrc
    obtain ⟨-, hrem, -, hage, hw, -⟩ := Contender.mk.inj hsrc
    exact ⟨hrem, hw, by rw [Contender.aged, hage]⟩

end Sys2Proof.Machine
end

section
/-! Proofs, 03: what a bank command of the scalar unit does before it enters the B stream, and the hand-off (R61, R179,
R222, R225, R226, R335). -/

namespace Sys2Proof.Machine

/-! ### A trap that a bank command raises -/

/-- A report that the supervisor takes, with the mark of a bank command in its record (R280). -/
theorem State.takeTrap_bank {s : State} {c : Cause} (v : Dword) (h : s.SuperTakes c) :
    s.TrappedSuper (s.takeTrap { s.report c v with bank := true } false) c v := by
  have htook := State.takeTrap_tookSuper (r := { s.report c v with bank := true }) false h
  have hu : s.goesToUser c = false := by
    unfold State.goesToUser
    obtain ⟨h | h | h | h, -⟩ := h <;> simp [h]
  obtain ⟨hlc, htrap, hpart, hcore, -⟩ := s.onlyRecord_writeRecord { s.report c v with bank := true }
  have hnone := s.writeRecord_none { s.report c v with bank := true }
  have heq : s.takeTrap { s.report c v with bank := true } false
      = let t := (s.writeRecord { s.report c v with bank := true }).holdV
        { t with lc := { t.lc with
            trap := t.lc.trap.enterSuper { s.report c v with bank := true } false s.lc.pc, pc := t.core.stvec } } := by
    unfold State.takeTrap
    simp only [State.super_report, hu, h.2, Bool.false_eq_true, if_false]
  rw [heq] at htook ⊢
  generalize s.writeRecord { s.report c v with bank := true } = t at *
  have hvheld : t.lc.vheld = s.lc.vheld := (congrArg Lc.vheld hlc :)
  have hvst : t.lc.vstalled = s.lc.vstalled := (congrArg Lc.vstalled hlc :)
  have hvs : t.lc.vstart = s.lc.vstart := (congrArg Lc.vstart hlc :)
  have hlevel : t.lc.trap.level = s.lc.trap.level := (congrArg TrapRegs.level htrap :)
  refine ⟨⟨htook.lc, ?_, hcore, fun hm => ?_⟩, htook.cause, htook.value, ?_, htook.insn, htook.source,
    ⟨hlevel, htook.level⟩, htook.target, ⟨?_, ?_, rfl, ?_⟩, ?_⟩
  · rw [← hpart]
    rfl
  · rw [hnone hm]
    exact ⟨rfl, rfl⟩
  · simpa [State.report] using htook.pc
  · simp only [State.holdV, hpart]
  · simp only [State.holdV, hpart, hvheld, hvst]
  · simp only [State.holdV, hpart, hvst, hvs]
  · exact congrArg (fun r : TrapRegs => { r with
      scause := s.lc.trap.scause, stval := s.lc.trap.stval, sepc := s.lc.trap.sepc, sinsn := s.lc.trap.sinsn
      sdrpcV := s.lc.trap.sdrpcV, plevel := s.lc.trap.plevel, level := s.lc.trap.level }) htrap

/-! ### The hand-off to the sequencer (R46, R61) -/

/-- The command that the instruction at the boundary hands off. -/
def State.bankCmd (s : State) (k : BKind) : BCmd := ⟨k, s.lc.pc.setWidth 64, s.ir, s.super, s.env, s.lc.passed⟩

/-- The state with that command alone in the B stream's buffer. -/
def State.buffered (s : State) (k : BKind) : State :=
  ({ s with lc := { s.lc with bqueue := [s.bankCmd k] } }).count 8 1

/-- The state with that command at its sequencer, which is an admission point. -/
def State.sentB (s : State) (k : BKind) : State :=
  { s with
    lc := { (s.lc.count 8 1) with bqueue := [] }
    dev := { s.dev.admitAll with
      seqs := s.dev.seqs ++ [⟨s.dev.freshNo, s.lc.key, s.bankCmd k, false, [], false, [], [], [], false⟩] } }

/-- A command of the LC has entered the sequencers behind what they hold, and execution goes on (R46, R61). -/
def State.BankSent (s t : State) (k : BKind) : Prop :=
  ∃ q : SeqCmd, t.dev.seqs = s.dev.seqs ++ [q] ∧ q.who = s.lc.key ∧ q.cmd.kind = k ∧ q.cmd.pc = s.lc.pc.setWidth 64
    ∧ q.probed = false ∧ { t.dev with seqs := s.dev.seqs, admits := s.dev.admits } = s.dev
    ∧ t.lc.pc = s.lc.pc + 4 ∧ t.part = s.part ∧ t.core = s.core ∧ t.lc.s = s.lc.s ∧ t.lc.handles = s.lc.handles

theorem State.sentB_bankSent (s : State) (k : BKind) : s.BankSent (s.sentB k).retire k :=
  ⟨_, rfl, rfl, rfl, rfl, rfl, rfl, rfl, rfl, rfl, rfl, rfl⟩

section
variable {s : State}

/-- An RLOPEN of the LC still at a sequencer, which later commands of its B stream wait for (R216). -/
def State.opening (s : State) : Prop := ∃ c ∈ s.dev.seqs, c.who = s.lc.key ∧ ∃ g m ro, c.cmd.kind = .open g m ro

theorem State.buffered_bqueue (k : BKind) : (s.buffered k).lc.bqueue = [s.bankCmd k] := rfl

/-- With no RLOPEN under way no command at the sequencers is one. -/
theorem State.no_opens (h : ¬s.opening) {p : SeqCmd → Bool} (hp : ∀ c, p c = true → ∃ g m ro, c.cmd.kind = .open g m ro) :
    ¬(s.dev.seqs.any (fun c => c.who == s.lc.key && p c)) = true := by
  rw [List.any_eq_true]
  rintro ⟨c, hc, hk⟩
  obtain ⟨hw, ho⟩ := Bool.and_eq_true_iff.mp hk
  exact h ⟨c, hc, beq_iff_eq.mp hw, hp c ho⟩

/-- A BKOP enters its sequencer when that holds less than 256 of them (R61). -/
theorem State.bankSend_op {o : BkOp} {w : Bool} {dst : Line} {src : Option Line} {a : BitVec 32} {off : Nat}
    {dh sh : BitVec 32} (h : ¬s.opening) (hroom : (s.dev.seqs.filter (fun q => match q.cmd.kind with
      | .op _ _ m _ _ _ _ _ => m.stack == dst.stack
      | _ => false)).length < 256) :
    (s.buffered (.op o w dst src a off dh sh)).bankSend = some (s.sentB (.op o w dst src a off dh sh)) := by
  unfold State.bankSend
  simp only [State.buffered_bqueue]
  refine (if_neg (State.no_opens h (fun c ho => ?_))).trans ?_
  rotate_left
  · exact if_neg (Nat.not_le.mpr hroom)
  · split at ho
    · exact ⟨_, _, _, ‹_›⟩
    · cases ho

/-- A wave enters where no sequencer of its stacks holds 64 of them (R61). -/
theorem State.bankSend_wave {d : WaveDesc} (h : ¬s.opening)
    (hroom : ∀ k ∈ s.dev.waveStacks d s.env s.super, s.dev.wavesAt k < 64) :
    (s.buffered (.wave d)).bankSend = some (s.sentB (.wave d)) := by
  have hany : ¬((s.dev.waveStacks d s.env s.super).any (fun k => decide (64 ≤ s.dev.wavesAt k))) = true := by
    simpa using hroom
  unfold State.bankSend
  simp only [State.buffered_bqueue]
  refine (if_neg (State.no_opens h (fun c ho => ?_))).trans ?_
  rotate_left
  · exact if_neg hany
  · split at ho
    · exact ⟨_, _, _, ‹_›⟩
    · cases ho

section
variable (hr : s.runAhead = true) (hq : s.lc.bqueue = []) (hb : s.lc.breport = none) (he : s.lc.bankErr = [])

include hr hq in
/-- A command that its sequencer takes does not stay in the buffer. -/
theorem State.passB_sent {k : BKind} (h : (s.buffered k).bankSend = some (s.sentB k)) : s.passB k = .ok (s.sentB k) := by
  have hpass : s.passB k = .ok ((s.buffered k).bankSend.getD (s.buffered k)) := by
    unfold State.passB
    simp only [hq]
    rw [if_neg (by decide)]
    exact congrArg Except.ok (if_pos hr)
  rw [hpass, h]
  rfl

include hb he in
theorem State.bankFault_ok : s.bankFault = .ok () := by simp [State.bankFault, hb, he]

end

/-! ### Handles (R217) -/

theorem State.useHandle_ok {v : Dword} {e : HEntry} (h : s.lc.handle v = some e) : s.useHandle v = .ok e := by
  simp only [State.useHandle, h]

theorem State.useHandle_stale {v : Dword} (h : s.lc.handle v = none) (hl : ∀ e ∈ s.lc.handles, e.lost = false) :
    s.useHandle v = s.raise .rowLineStaleHandle v := by
  have hany : ¬(s.lc.handles.any (fun e => e.lost && e.handle.setWidth 64 == v)) = true := by
    rw [List.any_eq_true]
    rintro ⟨e, he, hk⟩
    rw [hl e he, Bool.false_and] at hk
    cases hk
  simp only [State.useHandle, h]
  exact if_neg hany

/-- The entry of a source handle, of an operation that has one. -/
theorem State.sourceOf_ok {o : BkOp} {x : Dword} {src : Option HEntry}
    (h : if o.sourced then src = s.lc.handle x ∧ src ≠ none else src = none) : s.sourceOf o x = .ok src := by
  unfold State.sourceOf
  cases ho : o.sourced <;> rw [ho] at h
  · exact congrArg Except.ok (h : src = none).symm
  · obtain ⟨hsrc, hne⟩ := (h : src = s.lc.handle x ∧ src ≠ none)
    obtain ⟨e, rfl⟩ := Option.ne_none_iff_exists'.mp hne
    simp only [State.useHandle_ok hsrc.symm]
    rfl

/-! ### BKOP (R222, R223, R335) -/

/-- What BKOP does once its handles have been found. -/
def State.bkopOn (s : State) (hv x y : Dword) (w : Bool) (o : BkOp) (d : HEntry) (src : Option HEntry) : Except Halt State :=
  if src.any (fun e => e.line.stack != d.line.stack || e.line.unit != d.line.unit) then s.bankInvalid x
  else if d.ro then .error (.trap { s.report .storeAccess hv with bank := true })
  else if o == .fadd && (x.toNat % 4 != 0 || decide (1024 ≤ x.toNat)) then s.bankInvalid x
  else do
    let scalar : Dword := if o == .scale then x else y
    let u ← s.passB (.op o w d.line (src.map (·.line)) (scalar.setWidth 32) (if o == .fadd then x.toNat else 0)
      d.handle ((src.map (·.handle)).getD 0))
    .ok u.retire

theorem exec_bkop_badType {h a b : SReg} {w : Bool} {o : BkOp} (hw : w = true) (ho : o = .lse ∨ o = .fadd) :
    exec (.bkop h a b w o) s = s.finish (s.raise .badType 3) := by
  show execBkop h a b w o s = _
  subst hw
  rcases ho with rfl | rfl <;> rfl

section
variable {h a b : SReg} {w : Bool} {o : BkOp} (hb : s.lc.breport = none) (he : s.lc.bankErr = []) (hh : s.Readable h)
  (ha : s.Readable a) (hy : s.Readable b) (ht : ¬(w = true ∧ (o = .lse ∨ o = .fadd)))
include hb he hh ha hy ht

/-- BKOP as it meets no fault of its type, of an earlier command or of its operands. -/
theorem exec_bkop : exec (.bkop h a b w o) s = s.finish (do
    let d ← s.useHandle (s.getS h)
    let src ← s.sourceOf o (s.getS a)
    s.bkopOn (s.getS h) (s.getS a) (s.getS b) w o d src) := by
  have hguard : s.guard { types := [(3, !(w && (o == .lse || o == .fadd)))], vector := false, bits := 0 } = .ok () := by
    have htype : (!(w && (o == .lse || o == .fadd))) = true := by
      simpa [Classical.or_iff_not_imp_left] using ht
    rw [htype]
    rfl
  show execBkop h a b w o s = _
  unfold execBkop
  rw [hguard, State.bankFault_ok hb he, State.useS_ok hh, State.useS_ok ha, State.useS_ok hy]
  rfl

/-- BKOP on handles that are found. -/
theorem exec_bkop_found {d : HEntry} {src : Option HEntry} (hd : s.lc.handle (s.getS h) = some d)
    (hsrc : if o.sourced then src = s.lc.handle (s.getS a) ∧ src ≠ none else src = none) :
    exec (.bkop h a b w o) s = s.finish (s.bkopOn (s.getS h) (s.getS a) (s.getS b) w o d src) := by
  rw [exec_bkop hb he hh ha hy ht, State.useHandle_ok hd, State.sourceOf_ok hsrc]
  rfl

/-- BKOP of a destination handle that is not live. -/
theorem exec_bkop_stale (hd : s.lc.handle (s.getS h) = none) (hl : ∀ e ∈ s.lc.handles, e.lost = false) :
    exec (.bkop h a b w o) s = s.finish (s.raise .rowLineStaleHandle (s.getS h)) := by
  rw [exec_bkop hb he hh ha hy ht, State.useHandle_stale hd hl]
  rfl

/-- BKOP of a source handle that is not live. -/
theorem exec_bkop_staleSource {d : HEntry} (hd : s.lc.handle (s.getS h) = some d) (ho : o.sourced = true)
    (hs : s.lc.handle (s.getS a) = none) (hl : ∀ e ∈ s.lc.handles, e.lost = false) :
    exec (.bkop h a b w o) s = s.finish (s.raise .rowLineStaleHandle (s.getS a)) := by
  have hsrc : s.sourceOf o (s.getS a) = s.raise .rowLineStaleHandle (s.getS a) := by
    unfold State.sourceOf
    rw [ho, State.useHandle_stale hs hl]
    rfl
  rw [exec_bkop hb he hh ha hy ht, State.useHandle_ok hd, hsrc]
  rfl

end

/-! #### The checks on its lines, in their order (R222) -/

section
variable {hv x y : Dword} {w : Bool} {o : BkOp} {d : HEntry} {src : Option HEntry}

/-- A source in another unit than the destination. -/
theorem State.bkopOn_elsewhere (h : ∃ e, src = some e ∧ (e.line.stack ≠ d.line.stack ∨ e.line.unit ≠ d.line.unit)) :
    s.bkopOn hv x y w o d src = s.raise .bankCommandInvalid x := by
  obtain ⟨e, rfl, he⟩ := h
  exact if_pos (by simpa [Option.any] using he)

theorem State.source_beside (h : ∀ e, src = some e → e.line.stack = d.line.stack ∧ e.line.unit = d.line.unit) :
    ¬(src.any (fun e => e.line.stack != d.line.stack || e.line.unit != d.line.unit)) = true := by
  cases src with
  | none => simp
  | some e => simpa [Option.any] using h e rfl

/-- A destination that is read-only. -/
theorem State.bkopOn_readOnly (h : ∀ e, src = some e → e.line.stack = d.line.stack ∧ e.line.unit = d.line.unit)
    (hro : d.ro = true) :
    s.bkopOn hv x y w o d src = .error (.trap { s.report .storeAccess hv with bank := true }) := by
  unfold State.bkopOn
  rw [if_neg (State.source_beside h), if_pos hro]

/-- FADD at an offset that is no element of the line. -/
theorem State.bkopOn_misplaced (hsrc : src = none) (ho : o = .fadd) (hro : d.ro = false)
    (hx : x.toNat % 4 ≠ 0 ∨ 1024 ≤ x.toNat) : s.bkopOn hv x y w o d src = s.raise .bankCommandInvalid x := by
  subst hsrc ho
  have hplace : (BkOp.fadd == .fadd && (x.toNat % 4 != 0 || decide (1024 ≤ x.toNat))) = true := by simpa using hx
  unfold State.bkopOn
  rw [if_neg (State.source_beside (fun _ h => by cases h)), hro, if_neg Bool.false_ne_true, if_pos hplace]
  rfl

/-- A BKOP that passes its checks enters the sequencer. -/
theorem State.bkopOn_sent (hr : s.runAhead = true) (hq : s.lc.bqueue = []) (hop : ¬s.opening)
    (h : ∀ e, src = some e → e.line.stack = d.line.stack ∧ e.line.unit = d.line.unit) (hro : d.ro = false)
    (hx : o = .fadd → x.toNat % 4 = 0 ∧ x.toNat < 1024)
    (hroom : (s.dev.seqs.filter (fun q => match q.cmd.kind with
      | .op _ _ m _ _ _ _ _ => m.stack == d.line.stack
      | _ => false)).length < 256) :
    ∃ t, s.bkopOn hv x y w o d src = .ok t ∧ s.BankSent t (.op o w d.line (src.map (·.line))
      ((if o = .scale then x else y).setWidth 32) (if o = .fadd then x.toNat else 0) d.handle
      ((src.map (·.handle)).getD 0)) := by
  have hplace : ¬(o == .fadd && (x.toNat % 4 != 0 || decide (1024 ≤ x.toNat))) = true := by
    simpa using hx
  refine ⟨_, ?_, s.sentB_bankSent _⟩
  unfold State.bkopOn
  rw [if_neg (State.source_beside h), hro, if_neg Bool.false_ne_true, if_neg hplace]
  simp only [beq_iff_eq]
  rw [State.passB_sent hr hq (State.bankSend_op hop hroom)]
  rfl

end

/-! ### BKWAVE and BKFENCE (R179, R225, R226) -/

section
variable {a h : SReg} (hb : s.lc.breport = none) (he : s.lc.bankErr = []) (ha : s.Readable a) (hh : s.Readable h)
include hb he

include ha in
/-- BKWAVE of a descriptor out of alignment. -/
theorem exec_bkwave_misaligned (h : (s.getS a).toNat % 64 ≠ 0) :
    exec (.bkwave a) s = s.finish (s.raise .bankCommandInvalid (s.getS a)) := by
  have hal : (!aligned (s.getS a) 64) = true := by simpa [aligned] using h
  show execBkwave a s = _
  unfold execBkwave
  rw [State.bankFault_ok hb he, State.useS_ok ha]
  exact congrArg s.finish (if_pos hal)

include ha in
/-- BKWAVE of a descriptor that is read. -/
theorem exec_bkwave {l : Loc} {y : Nat} (hl : s.Reaches .load false true (s.getS a) 64 l) (hc : s.CleanAt l)
    (hy : s.readLoc l 64 = y) : exec (.bkwave a) s = s.finish (
      if (waveOf (s.getS a) y s.lc.bnkwin).invalid (y >>> 480) then
        .error (.trapIn s (s.report .bankCommandInvalid (s.getS a)))
      else do
        let u ← s.passB (.wave (waveOf (s.getS a) y s.lc.bnkwin))
        .ok u.retire) := by
  have hal : aligned (s.getS a) 64 = true := by simpa [aligned] using hl.aligned
  have hload : s.load (s.getS a) 64 = .ok (s, y, false) := by
    unfold State.load
    rw [hal, State.locS_ok hl.located, ← hy]
    exact State.loadAt_ok hl hc
  show execBkwave a s = _
  simp only [execBkwave, State.bankFault_ok hb he, State.useS_ok ha, hload, hal, bind, Except.bind,
    Bool.not_true, Bool.false_eq_true, if_false]

/-- BKFENCE of s0 (R179). -/
theorem exec_bkfence_all : exec (.bkfence 0) s
    = s.finish (if s.bankWork.any (·.kind.computes) then .error .wait else .ok s.retire) := by
  show execBkfence 0 s = _
  unfold execBkfence
  rw [State.bankFault_ok hb he]
  rfl

include hh in
/-- BKFENCE of a live handle (R179). -/
theorem exec_bkfence_handle {e : HEntry} (h0 : h ≠ 0) (hd : s.lc.handle (s.getS h) = some e) : exec (.bkfence h) s
    = s.finish (if s.bankWork.any (·.kind.namesHandle e.handle) then .error .wait else .ok s.retire) := by
  show execBkfence h s = _
  unfold execBkfence
  rw [State.bankFault_ok hb he, State.useS_ok hh]
  refine congrArg s.finish ((if_neg h0).trans ?_)
  show (do let e ← s.useHandle (s.getS h); _) = _
  rw [State.useHandle_ok hd]
  rfl

end

/-- The bank commands of an LC under way, with none in its buffer and no fault held. -/
theorem State.bankWork_any (hq : s.lc.bqueue = []) (hb : s.lc.breport = none) (p : BCmd → Bool) :
    s.bankWork.any p = true ↔ ∃ c ∈ s.dev.seqs, c.who = s.lc.key ∧ p c.cmd = true := by
  simp [State.bankWork, hq, hb]

/-- A fence goes on when nothing it covers is under way. -/
theorem State.fence_passes (hq : s.lc.bqueue = []) (hb : s.lc.breport = none) {p : BCmd → Bool}
    (h : ∀ c ∈ s.dev.seqs, c.who = s.lc.key → p c.cmd = false) :
    ∃ t, s.finish (if s.bankWork.any p then .error .wait else .ok s.retire) = .next t ∧ s.WentTo t (s.lc.pc + 4) := by
  have hp : ¬s.bankWork.any p = true := by
    rw [State.bankWork_any hq hb]
    rintro ⟨c, hc, hw, hk⟩
    rw [h c hc hw] at hk
    cases hk
  rw [if_neg hp]
  exact ⟨_, rfl, rfl⟩

/-- A fence waits while something it covers is under way. -/
theorem State.fence_waits (hq : s.lc.bqueue = []) (hb : s.lc.breport = none) {p : BCmd → Bool}
    (h : ∃ c ∈ s.dev.seqs, c.who = s.lc.key ∧ p c.cmd = true) :
    s.finish (if s.bankWork.any p then .error .wait else .ok s.retire) = .next s := by
  rw [if_pos ((State.bankWork_any hq hb p).mpr h)]
  rfl

end

/-- Settles O49: each check in its order by the lemma of its own, and the hand-off of what passes them. -/
theorem bankCommands : Obligations.BankCommands := by
  unfold Obligations.BankCommands
  intro h a b w o l s hr hq hb he hh ha hy sent x opening
  refine ⟨fun hop ht => ⟨fun d hd src hsrc => ⟨fun hs => ⟨fun hro hx hroom => ?_, fun hro hst => ?_⟩, fun hbad hst => ?_⟩,
    fun d hd ho hx hl hst => ?_, fun hd hl hst => ?_⟩, fun hw ho hst => ?_, fun hop hreach hclean => ⟨fun hinv hroom => ?_,
    fun hinv hst => ?_⟩, fun hal hst => ?_, fun hc => ?_, fun hc => ?_, fun e h0 hd => ⟨fun hc => ?_, fun hc => ?_⟩⟩
  · obtain ⟨t, hon, hsent⟩ := State.bkopOn_sent (hv := s.getS h) (y := s.getS b) (w := w) hr hq hop hs hro hx hroom
    rw [exec_bkop_found hb he hh ha hy ht hd hsrc, hon]
    exact ⟨t, rfl, hsent⟩
  · rw [exec_bkop_found hb he hh ha hy ht hd hsrc, State.bkopOn_readOnly hs hro]
    exact ⟨_, rfl, State.takeTrap_bank _ hst⟩
  · rw [exec_bkop_found hb he hh ha hy ht hd hsrc]
    rcases hbad with hbad | ⟨rfl, hro, hx⟩
    · rw [State.bkopOn_elsewhere hbad]
      exact State.finish_raise _ hst
    · rw [State.bkopOn_misplaced hsrc rfl hro hx]
      exact State.finish_raise _ hst
  · rw [exec_bkop_staleSource hb he hh ha hy ht hd ho hx hl]
    exact State.finish_raise _ hst
  · rw [exec_bkop_stale hb he hh ha hy ht hd hl]
    exact State.finish_raise _ hst
  · rw [exec_bkop_badType hw ho]
    exact State.finish_raise _ hst
  · rw [← Nat.shiftRight_eq_div_pow] at hinv
    rw [exec_bkwave hb he ha hreach hclean rfl, if_neg (Bool.eq_false_iff.mp hinv),
      State.passB_sent hr hq (State.bankSend_wave hop hroom)]
    exact ⟨_, rfl, s.sentB_bankSent _⟩
  · rw [← Nat.shiftRight_eq_div_pow] at hinv
    rw [exec_bkwave hb he ha hreach hclean rfl, if_pos hinv]
    exact State.finish_raise_in _ hst
  · rw [exec_bkwave_misaligned hb he ha hal]
    exact State.finish_raise _ hst
  · rw [exec_bkfence_all hb he]
    exact State.fence_passes hq hb hc
  · rw [exec_bkfence_all hb he]
    exact State.fence_waits hq hb hc
  · rw [exec_bkfence_handle hb he hh h0 hd]
    exact State.fence_passes hq hb hc
  · rw [exec_bkfence_handle hb he hh h0 hd]
    exact State.fence_waits hq hb hc

end Sys2Proof.Machine
end

section
/-! Proofs, 03: row lines in memory, and what the use of rows at their banks leaves (R181, R212, R220, R233). -/

namespace Sys2Proof.Machine

/-! ### The bytes of a line -/

/-- Memories with the same bytes from an address on read the same there. -/
theorem Memory.read_congr {m k : List Host.Cell} {a n : Nat} (h : ∀ b, a ≤ b → b < a + n → Memory.get m b = Memory.get k b) :
    Memory.read m a n = Memory.read k a n := by
  induction n generalizing a with
  | zero => rfl
  | succ n ih =>
    rw [Memory.read, Memory.read, h a le_rfl (by omega), ih (fun b h1 h2 => h b (by omega) (by omega))]

/-- What was written reads back. -/
theorem Memory.read_write {m : List Host.Cell} (h : Memory.wf m = true) (a n x : Nat) :
    Memory.read (Memory.write m a n x) a n = x % 256 ^ n := by
  induction n generalizing m a x with
  | zero => rw [pow_zero, Nat.mod_one]; rfl
  | succ n ih =>
    have hget : Memory.get (Memory.write m a (n + 1) x) a = BitVec.ofNat 8 x := by
      rw [Memory.get_write h, if_pos (by omega), Nat.sub_self, pow_zero, Nat.div_one]
    rw [Memory.read, hget, Memory.write, ih (Memory.wf_put h _ _), BitVec.toNat_ofNat, pow_succ' 256 n, Nat.mod_mul]

/-- The address of a granule of a line: four granules every 512 bytes (R212). -/
theorem lineAddr_granule (l : Line) (g : Nat) : lineAddr l (64 * g) = lineAddr l 0 + 512 * (g / 4) + 64 * (g % 4) := by
  unfold lineAddr
  have h1 : (64 * g / 256) <<< 9 = 512 * (g / 4) := by rw [Nat.shiftLeft_eq]; omega
  have h2 : 64 * g % 256 = 64 * (g % 4) := by omega
  simp only [h1, h2, Nat.zero_div, Nat.zero_shiftLeft, Nat.zero_mod]
  omega

/-- Two granules of a line lie apart. -/
theorem lineAddr_apart (l : Line) {g k : Nat} (h : g ≠ k) :
    lineAddr l (64 * g) + 64 ≤ lineAddr l (64 * k) ∨ lineAddr l (64 * k) + 64 ≤ lineAddr l (64 * g) := by
  rw [lineAddr_granule l g, lineAddr_granule l k]
  omega

theorem Device.settle_empty {d : Device} (h : d.combines = []) (pa n : Nat) : d.settle pa n = d := by
  simp [Device.settle, h]

theorem Device.settleLine_empty {d : Device} (h : d.combines = []) (l : Line) : d.settleLine l = d := by
  have hfold (gs : List Nat) : gs.foldl (fun d g => d.settle (lineAddr l (64 * g)) 64) d = d := by
    induction gs with
    | nil => rfl
    | cons g gs ih => rw [List.foldl_cons, Device.settle_empty h, ih]
  exact hfold _

/-- From memory `m` to `k` the granules `which` of a line hold those of a value, and every other byte is as it was. -/
structure LineWritten (m k : List Host.Cell) (l : Line) (which : List Nat) (x : Nat) : Prop where
  lines : ∀ g ∈ which, Memory.read k (lineAddr l (64 * g)) 64 = x / 2 ^ (512 * g) % 2 ^ 512
  others : ∀ a, (∀ g ∈ which, a < lineAddr l (64 * g) ∨ lineAddr l (64 * g) + 64 ≤ a) → Memory.get k a = Memory.get m a

/-- What bank commands may change of the device: memory with its poison, errors and open combining entries, scrubs,
monitors, and the rows' pins and counters; no combining entry opens. -/
structure Device.BankWork (d e : Device) : Prop where
  rest : { e with
    mem := d.mem, memPoison := d.memPoison, memError := d.memError, l2Error := d.l2Error, scrubs := d.scrubs
    monitors := d.monitors, combines := d.combines, slots := d.slots, actcnt := d.actcnt, actError := d.actError
    mgmt := { e.mgmt with log := d.mgmt.log } } = d
  combines : d.combines = [] → e.combines = []

namespace Device.BankWork
variable {d e f : Device}

theorem refl (d : Device) : d.BankWork d := ⟨rfl, id⟩

theorem trans (h : d.BankWork e) (k : e.BankWork f) : d.BankWork f := by
  obtain ⟨h, hc⟩ := h
  obtain ⟨k, kc⟩ := k
  refine ⟨?_, kc ∘ hc⟩
  rw [← h, ← k]

theorem seqs (h : d.BankWork e) : e.seqs = d.seqs := (congrArg Device.seqs h.rest :)
theorem hbm (h : d.BankWork e) : e.hbm = d.hbm := (congrArg Device.hbm h.rest :)
theorem bnklim (h : d.BankWork e) : e.mgmt.bnklim = d.mgmt.bnklim := (congrArg (fun d => d.mgmt.bnklim) h.rest :)

theorem writeP (d : Device) (pa n x : Nat) (p : Bool) : d.BankWork (d.writeP pa n x p) := by
  unfold Device.writeP
  split
  · exact refl d
  · exact ⟨rfl, id⟩

theorem giveBack (d : Device) (g : Nat) : d.BankWork (d.giveBack g) := by
  have h := congrArg (fun e : Device => { e with
    slots := d.slots, actcnt := d.actcnt, actError := d.actError, mgmt := { e.mgmt with log := d.mgmt.log } })
    (d.giveBack_rest g)
  refine ⟨h, fun hc => ?_⟩
  rw [Device.giveBack, hc]
  exact hc

/-- Steps of the device that are bank work each, one after another. -/
theorem foldl {α : Type} {step : Device → α → Device} (h : ∀ (d : Device) (x : α), d.BankWork (step d x)) (xs : List α) (d : Device) :
    d.BankWork (xs.foldl step d) := by
  induction xs generalizing d with
  | nil => exact refl d
  | cons x xs ih => exact (h d x).trans (ih _)

theorem settle (d : Device) (pa n : Nat) : d.BankWork (d.settle pa n) := foldl (fun d _ => giveBack d _) _ d

theorem settleLine (d : Device) (l : Line) : d.BankWork (d.settleLine l) := foldl (fun d _ => settle d _ _) _ d

theorem writeAt (d : Device) (pa n x : Nat) (p : Bool) : d.BankWork (d.writeAt pa n x p) :=
  (settle d pa n).trans (writeP _ _ _ _ _)

theorem writeLine (d : Device) (l : Line) (which : List Nat) (x p : Nat) : d.BankWork (d.writeLine l which x p) :=
  foldl (fun d _ => writeAt d _ _ _ _) _ d

end Device.BankWork

/-- The granules of a line written with no combining entry open (R181, R212). -/
theorem Device.writeLine_written {d : Device} (hc : d.combines = []) (hm : Memory.wf d.mem = true) (l : Line)
    (which : List Nat) (x p : Nat) : LineWritten d.mem (d.writeLine l which x p).mem l which x := by
  unfold Device.writeLine
  induction which generalizing d with
  | nil => exact ⟨fun g hg => absurd hg List.not_mem_nil, fun _ _ => rfl⟩
  | cons g gs ih =>
    generalize hval : x >>> (512 * g) = v
    have hmem : (d.writeAt (lineAddr l (64 * g)) 64 v (p.testBit g)).mem
        = Memory.write d.mem (lineAddr l (64 * g)) 64 v := by
      rw [Device.writeAt, Device.settle_empty hc, Device.writeP_mem]
    obtain ⟨hlines, hothers⟩ := ih (d := d.writeAt (lineAddr l (64 * g)) 64 v (p.testBit g))
      ((BankWork.writeAt d _ _ _ _).combines hc) (Device.writeAt_wf hm _ _ _ _)
    rw [List.foldl_cons, hval]
    refine ⟨fun k hk => ?_, fun a ha => ?_⟩
    · by_cases hin : k ∈ gs
      · exact hlines k hin
      · obtain rfl : k = g := (List.mem_cons.mp hk).resolve_right hin
        have hkeep := Memory.read_congr (a := lineAddr l (64 * k)) (n := 64) (fun b h1 h2 => hothers b (fun j hj => by
          rcases lineAddr_apart l (show k ≠ j from fun e => hin (e ▸ hj)) with h | h <;> omega))
        rw [hkeep, hmem, Memory.read_write hm, ← hval, Nat.shiftRight_eq_div_pow,
          show 256 ^ 64 = 2 ^ 512 from (pow_mul 2 8 64).symm]
    · obtain ⟨hg, hgs⟩ := List.forall_mem_cons.mp ha
      rw [hothers a hgs, hmem, Memory.get_write_other hm _ _ _ _ hg]

end Sys2Proof.Machine
end

section
/-! Proofs, 03: precharges, closing events and the use of a row at its bank, by what they leave (R213, R220, R233). -/

namespace Sys2Proof.Machine

/-- What the use of rows at their banks may change of the device: the pin slots, the activation counters and the log. -/
structure Device.RowsOnly (d e : Device) : Prop where
  rest : { e with
    slots := d.slots, actcnt := d.actcnt, actError := d.actError, mgmt := { e.mgmt with log := d.mgmt.log } } = d

/-- A slot as it was, or closed where it was pinned (R220). -/
def Slot.ClosesTo (x y : Slot) : Prop := y = x ∨ x.st = .pinned ∧ y = { x with st := .closed }

namespace Device.RowsOnly
variable {d e f : Device}

theorem refl (d : Device) : d.RowsOnly d := ⟨rfl⟩

theorem trans (h : d.RowsOnly e) (k : e.RowsOnly f) : d.RowsOnly f := by
  obtain ⟨h⟩ := h
  obtain ⟨k⟩ := k
  refine ⟨?_⟩
  rw [← h, ← k]

theorem ofSlots (d : Device) (xs : List Slot) : d.RowsOnly { d with slots := xs } := ⟨rfl⟩

theorem mem (h : d.RowsOnly e) : e.mem = d.mem := (congrArg Device.mem h.rest :)
theorem memError (h : d.RowsOnly e) : e.memError = d.memError := (congrArg Device.memError h.rest :)
theorem seqs (h : d.RowsOnly e) : e.seqs = d.seqs := (congrArg Device.seqs h.rest :)
theorem combines (h : d.RowsOnly e) : e.combines = d.combines := (congrArg Device.combines h.rest :)

theorem bankWork (h : d.RowsOnly e) : d.BankWork e := by
  have hc := h.combines
  obtain ⟨h⟩ := h
  refine ⟨?_, hc.trans⟩
  rw [← h]

end Device.RowsOnly

theorem Slot.ClosesTo.trans {x y z : Slot} (h : x.ClosesTo y) (k : y.ClosesTo z) : x.ClosesTo z := by
  rcases h with rfl | ⟨hx, rfl⟩
  · exact k
  · rcases k with rfl | ⟨hy, -⟩
    · exact .inr ⟨hx, rfl⟩
    · cases hy

theorem Slot.ClosesTo.isOf {x y : Slot} (h : x.ClosesTo y) (l : Line) : y.isOf l = x.isOf l := by
  rcases h with rfl | ⟨-, rfl⟩ <;> rfl

/-- From `d` to `e` only rows were used, and of the slots some closed. -/
structure Device.RowsClose (d e : Device) : Prop where
  rows : d.RowsOnly e
  slots : ∃ f : Slot → Slot, e.slots = d.slots.map f ∧ ∀ x : Slot, x.ClosesTo (f x)

theorem Device.RowsClose.trans {d e f : Device} (h : d.RowsClose e) (k : e.RowsClose f) : d.RowsClose f := by
  obtain ⟨f, hf, hx⟩ := h.slots
  obtain ⟨g, hg, hy⟩ := k.slots
  exact ⟨h.rows.trans k.rows, g ∘ f, by rw [hg, hf, List.map_map], fun x => (hx x).trans (hy (f x))⟩

/-- Pinned slots that some test selects, closed. -/
theorem Device.RowsClose.closed (d : Device) (p : Slot → Bool) :
    d.RowsClose { d with slots := d.slots.map (fun x => if x.st == .pinned && p x then { x with st := .closed } else x) } := by
  refine ⟨.ofSlots d _, _, rfl, fun x => ?_⟩
  split
  case isTrue h => exact .inr ⟨by simpa using (Bool.and_eq_true_iff.mp h).1, rfl⟩
  case isFalse => exact .inl rfl

/-- The slot of a line is as it was, or closed. -/
theorem Device.RowsClose.slotOf {d e : Device} (h : d.RowsClose e) (l : Line) : (d.slotOf l).ClosesTo (e.slotOf l) := by
  obtain ⟨f, hf, hx⟩ := h.slots
  have hp : (fun x : Slot => x.isOf l) ∘ f = fun x => x.isOf l := funext (fun x => (hx x).isOf l)
  unfold Device.slotOf
  rw [hf, List.find?_map, hp]
  cases d.slots.find? (·.isOf l) with
  | none => exact .inl rfl
  | some x => exact hx x

theorem Device.countAct_rowsClose (d : Device) (l : Line) : d.RowsClose (d.countAct l).1 :=
  ⟨⟨rfl⟩, id, (List.map_id _).symm, fun _ => .inl rfl⟩

/-- Precharges count and close pins, and leave the rest of the device. -/
theorem Device.precharges_rowsClose (n : Nat) (ls : List Line) (d : Device) : d.RowsClose (Device.precharges n ls d) := by
  induction n generalizing ls d with
  | zero => exact ⟨.refl d, id, (List.map_id _).symm, fun _ => .inl rfl⟩
  | succ n ih =>
    cases ls with
    | nil => exact ⟨.refl d, id, (List.map_id _).symm, fun _ => .inl rfl⟩
    | cons l ls =>
      have hcount := d.countAct_rowsClose l
      rw [Device.precharges]
      generalize d.countAct l = q at hcount ⊢
      obtain ⟨e, refresh⟩ := q
      cases refresh with
      | false => exact hcount.trans (ih ls e)
      | true =>
        have hclose := RowsClose.closed e (fun x => x.isOf l && x.row != l.row)
        simp only [← Bool.and_assoc] at hclose
        exact hcount.trans (hclose.trans (ih _ _))

theorem Device.precharge_rowsClose (d : Device) (l : Line) : d.RowsClose (d.precharge l) := d.precharges_rowsClose _ _

theorem Device.closeSlots_rowsClose (d : Device) (p : Slot → Bool) : d.RowsClose (d.closeSlots p) :=
  (RowsClose.closed d p).trans (Device.precharges_rowsClose _ _ _)

theorem Device.openRow_rowsOnly (d : Device) (l : Line) : d.RowsOnly (d.openRow l) :=
  (d.closeSlots_rowsClose _).rows.trans (.ofSlots _ _)

theorem Device.closeRow_rowsOnly (d : Device) (l : Line) : d.RowsOnly (d.closeRow l) := by
  unfold Device.closeRow
  split
  · exact .refl d
  · exact (d.precharge_rowsClose l).rows

/-- Rows used one after another. -/
theorem Device.openRows_rowsOnly (ls : List Line) (d : Device) : d.RowsOnly (ls.foldl Device.openRow d) := by
  induction ls generalizing d with
  | nil => exact .refl d
  | cons l ls ih => exact (d.openRow_rowsOnly l).trans (ih _)

/-! ### Marks, reads and results of lines (R222, R223, R283) -/

/-- Marks of poison leave everything but poison and errors. -/
theorem Device.markLine_rest (d : Device) (l : Line) (reads : Nat) :
    { d.markLine l reads with memPoison := d.memPoison, memError := d.memError } = d := by
  have hfold (gs : List Nat) (e : Device) (h : { e with memPoison := d.memPoison, memError := d.memError } = d) :
      { gs.foldl Device.poison e with memPoison := d.memPoison, memError := d.memError } = d := by
    induction gs generalizing e with
    | nil => exact h
    | cons g gs ih => exact ih _ h
  exact hfold _ _ rfl

theorem Device.markLine_mem (d : Device) (l : Line) (reads : Nat) : (d.markLine l reads).mem = d.mem :=
  (congrArg Device.mem (d.markLine_rest l reads) :)

theorem Device.markLine_bankWork (d : Device) (l : Line) (reads : Nat) : d.BankWork (d.markLine l reads) := by
  have h := congrArg (fun e : Device => { e with
    mem := d.mem, memPoison := d.memPoison, memError := d.memError, l2Error := d.l2Error, scrubs := d.scrubs
    monitors := d.monitors, combines := d.combines, slots := d.slots, actcnt := d.actcnt, actError := d.actError
    mgmt := { e.mgmt with log := d.mgmt.log } }) (d.markLine_rest l reads)
  exact ⟨h, (congrArg Device.combines (d.markLine_rest l reads) :).trans⟩

/-- What a line holds is a matter of memory alone. -/
theorem Device.readLine_congr {d e : Device} (h : e.mem = d.mem) (l : Line) : e.readLine l = d.readLine l := by
  unfold Device.readLine
  rw [h]

/-- The bytes of a result do not depend on the poison of its inputs. -/
theorem bankLine_value (o : BkOp) (w fold : Bool) (a d s pd ps : Nat) :
    (bankLine o w fold a d s pd ps).1 = (bankLine o w fold a d s 0 0).1 := by
  cases o <;> rfl

/-- An uncorrectable input needs an uncorrectable granule (R283). -/
theorem Device.lineBad_clean {d : Device} (h : d.memError = []) (l : Line) (reads : Nat) : (d.lineBad l reads).2 = false := by
  have hmask (gs : List (Nat × Nat)) (m : Nat) : gs.foldl (fun m g => if [].contains g.1 then m + 2 ^ g.2 else m) m = m := by
    induction gs with
    | nil => rfl
    | cons g gs ih => exact ih
  have h0 : lineMask l d.memError = 0 := by rw [h]; exact hmask _ _
  simp [Device.lineBad, h0]

end Sys2Proof.Machine
end

section
/-! Proofs, 03: the row of a wave and the work of a BKOP, at the device (R222, R226, R228, R336). -/

namespace Sys2Proof.Machine

/-- Bank work that writes no line: with no combining entry open it leaves memory as it is. -/
structure Device.BankRead (d e : Device) : Prop where
  work : d.BankWork e
  mem : d.combines = [] → e.mem = d.mem

namespace Device.BankRead
variable {d e f : Device}

theorem refl (d : Device) : d.BankRead d := ⟨.refl d, fun _ => rfl⟩

theorem trans (h : d.BankRead e) (k : e.BankRead f) : d.BankRead f :=
  ⟨h.work.trans k.work, fun hc => (k.mem (h.work.combines hc)).trans (h.mem hc)⟩

theorem ofRows (h : d.RowsOnly e) : d.BankRead e := ⟨h.bankWork, fun _ => h.mem⟩

theorem settleLine (d : Device) (l : Line) : d.BankRead (d.settleLine l) :=
  ⟨.settleLine d l, fun hc => by rw [Device.settleLine_empty hc]⟩

theorem markLine (d : Device) (l : Line) (reads : Nat) : d.BankRead (d.markLine l reads) :=
  ⟨d.markLine_bankWork l reads, fun _ => d.markLine_mem l reads⟩

theorem ite {c : Prop} [Decidable c] (h : d.BankRead e) : d.BankRead (if c then e else d) := by
  split
  · exact h
  · exact refl d

/-- A line reads afterwards as before. -/
theorem readLine (h : d.BankRead e) (hc : d.combines = []) (l : Line) : e.readLine l = d.readLine l :=
  Device.readLine_congr (h.mem hc) l

/-- A line then written. -/
theorem written (h : d.BankRead e) (hc : d.combines = []) (hm : Memory.wf d.mem = true) (l : Line) (which : List Nat)
    (x p : Nat) : LineWritten d.mem (e.writeLine l which x p).mem l which x := by
  have hw := Device.writeLine_written (d := e) (h.work.combines hc) (by rw [h.mem hc]; exact hm) l which x p
  rwa [h.mem hc] at hw

end Device.BankRead

section
variable (d : Device) (c : SeqCmd) (w : WaveDesc) (r : UnitRun) (pb : Nat × Nat)

/-- The row's line of a unit's step (R226, R228). -/
def SeqCmd.rowLine : Line := waveLine (c.frames.getD ((w.npage + 1) * r.k + pb.1) 0) pb.2

/-- The line of L or Y that goes with it. -/
def SeqCmd.otherLine : Line := waveLine (c.operandFrame w pb.1) pb.2

/-- The scalar of the step. -/
def SeqCmd.rowScalar : Nat := ((c.alphas[r.k]?).getD w.scalar).toNat

/-- A row opened for an operation on it. -/
def Device.readied (l : Line) : Device := (d.openRow l).settleLine l

theorem Device.readied_bankRead (l : Line) : d.BankRead (d.readied l) :=
  (BankRead.ofRows (d.openRow_rowsOnly l)).trans (.settleLine _ l)

/-- The device as a fold begins its row: Y is opened before row 0 (R226, R228). -/
def Device.foldBegun : Device := if r.k = 0 then d.readied (c.otherLine w pb) else d

/-- The poison of Y before the row, and whether Y was found uncorrectable: it is read before row 0 and then kept. -/
def Device.foldPoison : Nat × Bool :=
  if r.k = 0 then (d.foldBegun c w r pb).lineBad (c.otherLine w pb) (bankReads w.op w.acc).1 else (r.ypoison.toNat, false)

/-- Y before the row. -/
def Device.foldOld : Nat := if r.k = 0 then (d.foldBegun c w r pb).readLine (c.otherLine w pb) else r.ybuf.toNat

/-- The device as the fold reads its row. -/
def Device.foldReads : Device :=
  (if (d.foldPoison c w r pb).2 then (d.foldBegun c w r pb).markLine (c.otherLine w pb) (bankReads w.op w.acc).1
    else d.foldBegun c w r pb).readied (c.rowLine w r pb)

/-- Y after the row, with its poison. -/
def Device.foldValue : Nat × Nat :=
  bankLine w.op w.w true (c.rowScalar w r) (d.foldOld c w r pb)
    ((d.foldReads c w r pb).readLine (c.rowLine w r pb)) (d.foldPoison c w r pb).1
    ((d.foldReads c w r pb).lineBad (c.rowLine w r pb) wholeLine).1

/-- The row closed after the fold. -/
def Device.foldDone : Device :=
  (if ((d.foldReads c w r pb).lineBad (c.rowLine w r pb) wholeLine).2
    then (d.foldReads c w r pb).markLine (c.rowLine w r pb) wholeLine else d.foldReads c w r pb).closeRow (c.rowLine w r pb)

theorem Device.waveRow_acc (hacc : w.acc = true) : ∃ p, (d.waveRow c w r pb).1 =
    (if r.k = w.count then ((d.foldDone c w r pb).writeLine (c.otherLine w pb) (bankWrites w.op)
      (d.foldValue c w r pb).1 p).closeRow (c.otherLine w pb) else d.foldDone c w r pb) := by
  unfold Device.waveRow
  rw [if_pos hacc]
  exact ⟨_, rfl⟩

theorem Device.foldBegun_bankRead : d.BankRead (d.foldBegun c w r pb) := .ite (d.readied_bankRead _)

theorem Device.foldReads_bankRead : d.BankRead (d.foldReads c w r pb) :=
  (d.foldBegun_bankRead c w r pb).trans ((BankRead.ite (.markLine _ _ _)).trans (readied_bankRead _ _))

theorem Device.foldDone_bankRead : d.BankRead (d.foldDone c w r pb) :=
  (d.foldReads_bankRead c w r pb).trans ((BankRead.ite (.markLine _ _ _)).trans (.ofRows (closeRow_rowsOnly _ _)))

/-- With no combining entry open a fold takes the lines as memory holds them. -/
theorem Device.foldValue_eq (hc : d.combines = []) : (d.foldValue c w r pb).1 = (bankLine w.op w.w true (c.rowScalar w r)
    (if r.k = 0 then d.readLine (c.otherLine w pb) else r.ybuf.toNat) (d.readLine (c.rowLine w r pb)) 0 0).1 := by
  rw [Device.foldValue, bankLine_value, (d.foldReads_bankRead c w r pb).readLine hc, Device.foldOld,
    (d.foldBegun_bankRead c w r pb).readLine hc]

/-- The device as a row that is not folded is read: the row opened, and L recalled where the operation uses it. -/
def Device.plainReads : Device :=
  if w.usesL then (d.readied (c.rowLine w r pb)).settleLine (c.otherLine w pb) else d.readied (c.rowLine w r pb)

/-- The row's line after the operation, with its poison. -/
def Device.plainValue : Nat × Nat :=
  let e := d.plainReads c w r pb
  bankLine w.op w.w false (c.rowScalar w r) (e.readLine (c.rowLine w r pb))
    (if w.usesL then e.readLine (c.otherLine w pb) else 0) (e.lineBad (c.rowLine w r pb) (bankReads w.op w.acc).1).1
    (if w.usesL then e.lineBad (c.otherLine w pb) (bankReads w.op w.acc).2 else (0, false)).1

/-- The lines read, marked where they are uncorrectable. -/
def Device.plainMarked : Device :=
  let e := d.plainReads c w r pb
  let m := if (e.lineBad (c.rowLine w r pb) (bankReads w.op w.acc).1).2
    then e.markLine (c.rowLine w r pb) (bankReads w.op w.acc).1 else e
  if (if w.usesL then e.lineBad (c.otherLine w pb) (bankReads w.op w.acc).2 else (0, false)).2
    then m.markLine (c.otherLine w pb) (bankReads w.op w.acc).2 else m

theorem Device.waveRow_plain (hacc : w.acc = false) : ∃ p, (d.waveRow c w r pb).1 =
    ((d.plainMarked c w r pb).writeLine (c.rowLine w r pb) (bankWrites w.op) (d.plainValue c w r pb).1 p).closeRow
      (c.rowLine w r pb) := by
  unfold Device.waveRow
  rw [if_neg (by rw [hacc]; exact Bool.false_ne_true)]
  exact ⟨_, rfl⟩

theorem Device.plainReads_bankRead : d.BankRead (d.plainReads c w r pb) := by
  unfold Device.plainReads
  split
  · exact (d.readied_bankRead _).trans (.settleLine _ _)
  · exact d.readied_bankRead _

theorem Device.plainMarked_bankRead : d.BankRead (d.plainMarked c w r pb) := by
  unfold Device.plainMarked
  refine (d.plainReads_bankRead c w r pb).trans ((BankRead.ite (.markLine _ _ _)).trans (.ite (.markLine _ _ _)))

theorem Device.plainValue_eq (hc : d.combines = []) : (d.plainValue c w r pb).1 = (bankLine w.op w.w false
    (c.rowScalar w r) (d.readLine (c.rowLine w r pb)) (if w.usesL then d.readLine (c.otherLine w pb) else 0) 0 0).1 := by
  rw [Device.plainValue, bankLine_value, (d.plainReads_bankRead c w r pb).readLine hc,
    (d.plainReads_bankRead c w r pb).readLine hc]

/-- A row of a wave is bank work. -/
theorem Device.waveRow_bankWork : d.BankWork (d.waveRow c w r pb).1 := by
  cases hacc : w.acc with
  | true =>
    obtain ⟨p, h⟩ := d.waveRow_acc c w r pb hacc
    rw [h]
    split
    · exact (d.foldDone_bankRead c w r pb).work.trans ((BankWork.writeLine _ _ _ _ _).trans (closeRow_rowsOnly _ _).bankWork)
    · exact (d.foldDone_bankRead c w r pb).work
  | false =>
    obtain ⟨p, h⟩ := d.waveRow_plain c w r pb hacc
    rw [h]
    exact (d.plainMarked_bankRead c w r pb).work.trans ((BankWork.writeLine _ _ _ _ _).trans (closeRow_rowsOnly _ _).bankWork)

end

/-! ### The work of a BKOP (R222, R336) -/

section
variable (d : Device) (o : BkOp) (w : Bool) (dst : Line) (src : Option Line) (a : BitVec 32) (off : Nat)

/-- The lines of a BKOP recalled. -/
def Device.recalled : Device :=
  match src with
  | some l => (d.settleLine dst).settleLine l
  | none => d.settleLine dst

theorem Device.recalled_bankRead : d.BankRead (d.recalled dst src) := by
  cases src with
  | none => exact .settleLine d dst
  | some l => exact (BankRead.settleLine d dst).trans (.settleLine _ l)

/-- The device as FADD has marked the granule of its element. -/
def Device.faddMarked : Device :=
  let e := d.recalled dst src
  if e.memError.contains (lineAddr dst off / 64) then e.markLine dst (2 ^ (off / 64)) else e

theorem Device.faddMarked_bankRead : d.BankRead (d.faddMarked dst src off) :=
  (d.recalled_bankRead dst src).trans (.ite (.markLine _ _ _))

theorem Device.runBkop_fadd : ∃ p, d.runBkop .fadd w dst src a off
    = ((d.faddMarked dst src off).writeP (lineAddr dst off) 4
        (Fmt.f32.add 0 (Memory.read (d.faddMarked dst src off).mem (lineAddr dst off) 4) a.toNat).1 p,
      (d.recalled dst src).memError.contains (lineAddr dst off / 64)) := ⟨_, rfl⟩

/-- The poison of a source line, and whether it is uncorrectable. -/
def Device.sourceBad : Nat × Bool :=
  match src with
  | some l => d.lineBad l (bankReads o false).2
  | none => (0, false)

/-- The lines of a BKOP marked where they are uncorrectable. -/
def Device.opMarked : Device :=
  let e := d.recalled dst src
  let m := if (e.lineBad dst (bankReads o false).1).2 then e.markLine dst (bankReads o false).1 else e
  match src with
  | some l => if (e.sourceBad o src).2 then m.markLine l (bankReads o false).2 else m
  | none => m

theorem Device.opMarked_bankRead : d.BankRead (d.opMarked o dst src) := by
  have h := (d.recalled_bankRead dst src).trans (BankRead.ite (c := ((d.recalled dst src).lineBad dst
    (bankReads o false).1).2 = true) (.markLine (d.recalled dst src) dst (bankReads o false).1))
  unfold Device.opMarked
  cases src with
  | none => exact h
  | some l => exact h.trans (.ite (.markLine _ _ _))

/-- Every other operation writes its line whole, with the value of the operation on its lines. -/
theorem Device.runBkop_line (ho : o ≠ .fadd) : ∃ p, d.runBkop o w dst src a off
    = ((d.opMarked o dst src).writeLine dst (bankWrites o) (bankLine o w false a.toNat ((d.recalled dst src).readLine dst)
        ((src.map (d.recalled dst src).readLine).getD 0) ((d.recalled dst src).lineBad dst (bankReads o false).1).1
        ((d.recalled dst src).sourceBad o src).1).1 p,
      ((d.recalled dst src).lineBad dst (bankReads o false).1).2 || ((d.recalled dst src).sourceBad o src).2) := by
  cases o with
  | fadd => exact absurd rfl ho
  | zero | copy | add | scale | axpy | max | lse => cases src <;> exact ⟨_, rfl⟩

theorem Device.runBkop_bankWork : d.BankWork (d.runBkop o w dst src a off).1 := by
  by_cases ho : o = .fadd
  · subst ho
    obtain ⟨p, h⟩ := d.runBkop_fadd w dst src a off
    rw [h]
    dsimp only
    exact (d.faddMarked_bankRead dst src off).work.trans (.writeP _ _ _ _ _)
  · obtain ⟨p, h⟩ := d.runBkop_line o w dst src a off ho
    rw [h]
    exact (d.opMarked_bankRead o dst src).work.trans (.writeLine _ _ _ _ _)

variable {d} (hc : d.combines = [])
include hc

theorem Device.recalled_empty : d.recalled dst src = d := by
  cases src <;> simp [Device.recalled, Device.settleLine_empty hc]

/-- A BKOP that meets an uncorrectable input meets an uncorrectable granule of memory (R222, R283). -/
theorem Device.runBkop_bad (h : (d.runBkop o w dst src a off).2 = true) : d.memError ≠ [] := by
  intro hclean
  by_cases ho : o = .fadd
  · subst ho
    obtain ⟨p, hrun⟩ := d.runBkop_fadd w dst src a off
    simp [hrun, Device.recalled_empty dst src hc, hclean] at h
  · obtain ⟨p, hrun⟩ := d.runBkop_line o w dst src a off ho
    have hsrc : (d.sourceBad o src).2 = false := by
      cases src with
      | none => rfl
      | some l => exact Device.lineBad_clean hclean _ _
    simp [hrun, Device.recalled_empty dst src hc, Device.lineBad_clean hclean, hsrc] at h

/-- A BKOP other than FADD leaves its line as the operation gives it, and the rest of memory as it was (R222). -/
theorem Device.runBkop_written (hm : Memory.wf d.mem = true) (ho : o ≠ .fadd) :
    LineWritten d.mem (d.runBkop o w dst src a off).1.mem dst (bankWrites o)
      (bankLine o w false a.toNat (d.readLine dst) ((src.map d.readLine).getD 0) 0 0).1 := by
  obtain ⟨p, h⟩ := d.runBkop_line o w dst src a off ho
  rw [h, bankLine_value, Device.recalled_empty dst src hc]
  exact (d.opMarked_bankRead o dst src).written hc hm _ _ _ _

/-- FADD adds its scalar to one element of the line (R222, R223). -/
theorem Device.runBkop_fadd_mem : (d.runBkop .fadd w dst src a off).1.mem = Memory.write d.mem (lineAddr dst off) 4
    (Fmt.f32.add 0 (Memory.read d.mem (lineAddr dst off) 4) a.toNat).1 := by
  obtain ⟨p, h⟩ := d.runBkop_fadd w dst src a off
  rw [h, Device.writeP_mem, (d.faddMarked_bankRead dst src off).mem hc]

end

end Sys2Proof.Machine
end

section
/-! Proofs, 03: units, sub-waves and BKOPs that complete (R61, R226 to R228, R231, R336). -/

namespace Sys2Proof.Machine

/-! ### An LC changed under its key -/

theorem State.findLc_key {s : State} {k : LcKey} {l : Lc} (h : s.findLc k = some l) : l.key = k := by
  unfold State.findLc at h
  split at h
  case isTrue hk =>
    cases h
    exact (of_decide_eq_true (Bool.and_eq_true_iff.mp hk).1)
  case isFalse => exact beq_iff_eq.mp (List.find?_some h :)

/-- The LC found under a key is there as changed. -/
theorem State.findLc_updLc {s : State} {k : LcKey} {l : Lc} (f : Lc → Lc) (h : s.findLc k = some l) :
    f l ∈ (s.updLc k f).allLcs := by
  have hkey := State.findLc_key h
  unfold State.findLc at h
  split at h
  case isTrue hk =>
    cases h
    exact List.mem_cons.mpr (.inl (if_pos hk).symm)
  case isFalse =>
    exact List.mem_cons_of_mem _ (List.mem_map.mpr ⟨l, List.mem_of_find?_eq_some h, if_pos hkey⟩)

/-! ### A command leaves the sequencers -/

/-- From `s` to `t` a command has left the sequencers, the others are there, and an uncorrectable input is left for its
LC (R227, R336). -/
def State.CommandGone (s t : State) (c : SeqCmd) (tval : Dword) (bad : Bool) : Prop :=
  (∀ x ∈ t.dev.seqs, x.no ≠ c.no) ∧ (∀ x ∈ s.dev.seqs, x.no ≠ c.no → x ∈ t.dev.seqs)
    ∧ (bad = false → t.lc = s.lc ∧ t.lcs = s.lcs)
    ∧ ∀ l, bad = true → s.findLc c.who = some l → ∃ m ∈ t.allLcs, m.key = c.who ∧ m.bankErr = l.bankErr ++ [tval]

/-- The sequencers' commands with the one of a number replaced. -/
def replaceCmd (cs : List SeqCmd) (c : SeqCmd) : List SeqCmd := cs.map (fun x => if x.no = c.no then c else x)

theorem mem_replaceCmd_other {cs : List SeqCmd} {c x : SeqCmd} (hx : x ∈ cs) (hn : x.no ≠ c.no) : x ∈ replaceCmd cs c :=
  List.mem_map.mpr ⟨x, hx, if_neg hn⟩

theorem State.bankDone_dev (s : State) (c : SeqCmd) (tval : Dword) :
    (s.bankDone c tval).dev = { s.dev with seqs := s.dev.seqs.filter (·.no != c.no) } := by
  unfold State.bankDone
  split <;> rfl

theorem State.bankDone_gone {s t : State} {c c1 : SeqCmd} (tval : Dword) (hlc : t.lc = s.lc) (hlcs : t.lcs = s.lcs)
    (hseqs : t.dev.seqs = replaceCmd s.dev.seqs c1) (hno : c1.no = c.no) (hwho : c1.who = c.who) :
    s.CommandGone (t.bankDone c1 tval) c tval c1.bad := by
  refine ⟨fun x hx => ?_, fun x hx hn => ?_, fun hb => ?_, fun l hb hl => ?_⟩
  · rw [State.bankDone_dev] at hx
    simpa [hno] using (List.mem_filter.mp hx).2
  · rw [State.bankDone_dev]
    have hn1 : x.no ≠ c1.no := by rwa [hno]
    refine List.mem_filter.mpr ⟨?_, by simpa using hn1⟩
    rw [hseqs]
    exact mem_replaceCmd_other hx hn1
  · rw [State.bankDone, hb]
    exact ⟨hlc, hlcs⟩
  · have hfind : ({ t with dev := { t.dev with seqs := t.dev.seqs.filter (·.no != c1.no) } } : State).findLc c1.who
        = some l := by
      rw [hwho, ← hl]
      simp only [State.findLc, hlc, hlcs]
    rw [State.bankDone, if_pos hb]
    exact ⟨_, State.findLc_updLc _ hfind, (State.findLc_key hl :), rfl⟩

/-! ### A BNKLIM that arrives (R231) -/

theorem Device.stack_no (d : Device) (n : Nat) : (d.stack n).no = n := by
  unfold Device.stack
  cases h : d.hbm.find? (·.no == n) with
  | none => rfl
  | some x => exact beq_iff_eq.mp (List.find?_some h :)

theorem Device.stack_setStack (d : Device) (x : Stack) : (d.setStack x).stack x.no = x := by
  simp [Device.stack, Device.setStack]

theorem Device.takeLimit_limit (d : Device) (stack : Nat) : ((d.takeLimit stack).stack stack).limit = d.mgmt.bnklim := by
  by_cases h : (d.stack stack).limit = d.mgmt.bnklim
  · rw [show d.takeLimit stack = d from if_pos h, h]
  · have hs := d.stack_setStack { d.stack stack with limit := d.mgmt.bnklim }
    rw [show ({ d.stack stack with limit := d.mgmt.bnklim } : Stack).no = stack from d.stack_no stack] at hs
    rw [show d.takeLimit stack = { d.setStack { d.stack stack with limit := d.mgmt.bnklim } with
      admits := addOnce d.admits stack } from if_neg h]
    exact congrArg Stack.limit hs

theorem Device.takeLimit_mem (d : Device) (stack : Nat) : (d.takeLimit stack).mem = d.mem := by
  by_cases h : (d.stack stack).limit = d.mgmt.bnklim
  · rw [show d.takeLimit stack = d from if_pos h]
  · rw [show d.takeLimit stack = { d.setStack { d.stack stack with limit := d.mgmt.bnklim } with
      admits := addOnce d.admits stack } from if_neg h]
    rfl

/-! ### The steps of a unit (R228) -/

section
variable {s : State} {stack unit : Nat}

/-- A unit that runs nothing makes no step. -/
theorem State.unit_idle (h : s.dev.runOn stack unit = none) : s.waveRowStep stack unit = s ∧ s.waveResume stack unit = s
    ∧ s.subwaveComplete stack unit = s ∧ s.bkopComplete stack unit = s := by
  simp [State.waveRowStep, State.waveResume, State.subwaveComplete, State.bkopComplete, h]

variable {c : SeqCmd} {r : UnitRun} (hrun : s.dev.runOn stack unit = some (c, r))
include hrun

section
variable {w : WaveDesc} (hk : c.cmd.kind = .wave w)
include hk

theorem State.waveRowStep_eq {pb : Nat × Nat} (hpb : (c.unitBanks w stack unit)[r.bank]? = some pb) :
    s.waveRowStep stack unit = if r.yielded then s else { s with dev :=
      (((s.dev.waveRow c w r pb).1.setRun c r ((s.dev.waveRow c w r pb).2.1.next w) (s.dev.waveRow c w r pb).2.2).takeLimit
        stack) } := by
  simp only [State.waveRowStep, hrun, hk, hpb]

/-- A sub-wave some of whose banks are to run does not complete. -/
theorem State.subwaveComplete_early (h : ∃ x ∈ c.runs, (x.stack = stack ∧ x.sub = r.sub)
    ∧ x.bank < (c.unitBanks w x.stack x.unit).length) : s.subwaveComplete stack unit = s := by
  obtain ⟨x, hx, ⟨hst, hsub⟩, hb⟩ := h
  have hany : (c.runs.any (fun x => (x.stack == stack && x.sub == r.sub) && !c.ranAll w x)) = true := by
    refine List.any_eq_true.mpr ⟨x, hx, ?_⟩
    simp [hst, hsub, SeqCmd.ranAll]
    rwa [← hst]
  simp only [State.subwaveComplete, hrun, hk, hany, if_true]

/-- A sub-wave whose banks have all run leaves its units, and the wave with its last one (R61). -/
theorem State.subwaveComplete_ran (h : ∀ x ∈ c.runs, (x.stack = stack ∧ x.sub = r.sub) →
    (c.unitBanks w x.stack x.unit).length ≤ x.bank) :
    s.subwaveComplete stack unit =
      let c1 := { c with runs := c.runs.filter (fun x => !(x.stack == stack && x.sub == r.sub)) }
      let t := { s with dev := { s.dev with
        seqs := replaceCmd s.dev.seqs c1, admits := addOnce s.dev.admits stack } }
      if c1.todo.isEmpty && c1.runs.isEmpty then t.bankDone c1 w.at_ else t := by
  have hany : (c.runs.any (fun x => (x.stack == stack && x.sub == r.sub) && !c.ranAll w x)) = false := by
    refine List.any_eq_false.mpr (fun x hx => ?_)
    rw [Bool.and_eq_true_iff]
    rintro ⟨hm, hr⟩
    have hran := h x hx (by simpa using hm)
    simp [SeqCmd.ranAll, Nat.not_lt.mpr hran] at hr
  simp only [State.subwaveComplete, hrun, hk, hany, Bool.false_eq_true, if_false]
  rfl

end

/-- A yielded unit goes on at its next row. -/
theorem State.waveResume_eq : s.waveResume stack unit = { s with dev := s.dev.setRun c r { r with yielded := false } false } := by
  simp only [State.waveResume, hrun]

end

/-- What a unit runs is a run of a held command. -/
theorem Device.runOn_mem {d : Device} {stack unit : Nat} {c : SeqCmd} {r : UnitRun}
    (h : d.runOn stack unit = some (c, r)) : c ∈ d.seqs ∧ r ∈ c.runs := by
  obtain ⟨x, hx, hr⟩ := List.exists_of_findSome?_eq_some h
  obtain ⟨y, hy, hp⟩ := Option.map_eq_some_iff.mp hr
  cases hp
  exact ⟨hx, List.mem_of_find?_eq_some hy⟩

theorem addOnce_mem (l : List Nat) (g : Nat) : g ∈ addOnce l g := by
  unfold addOnce
  split
  case isTrue h => exact List.contains_iff_mem.mp h
  case isFalse => exact List.mem_cons_self

theorem Device.setRun_mem (d : Device) (c : SeqCmd) (r r1 : UnitRun) (bad : Bool) : (d.setRun c r r1 bad).mem = d.mem := rfl

theorem Device.closeRow_mem (d : Device) (l : Line) : (d.closeRow l).mem = d.mem := (d.closeRow_rowsOnly l).mem

section
variable {s : State} {stack unit : Nat} {c : SeqCmd} {r : UnitRun} (hrun : s.dev.runOn stack unit = some (c, r))
include hrun

/-- A row step works on the row's line, or folds it into Y, and a written BNKLIM arrives (R226, R228, R231). -/
theorem State.waveRowStep_row {w : WaveDesc} (hk : c.cmd.kind = .wave w) {pb : Nat × Nat}
    (hpb : (c.unitBanks w stack unit)[r.bank]? = some pb) (hy : r.yielded = false) (hm : Memory.wf s.dev.mem = true) :
    ∃ t, s.waveRowStep stack unit = t ∧ (s.dev.combines = [] →
        (w.acc = true → r.k ≠ w.count → t.dev.mem = s.dev.mem)
        ∧ (w.acc = true → r.k = w.count → LineWritten s.dev.mem t.dev.mem (c.otherLine w pb) (bankWrites w.op)
          (bankLine w.op w.w true (c.rowScalar w r) (if r.k = 0 then s.dev.readLine (c.otherLine w pb) else r.ybuf.toNat)
            (s.dev.readLine (c.rowLine w r pb)) 0 0).1)
        ∧ (w.acc = false → LineWritten s.dev.mem t.dev.mem (c.rowLine w r pb) (bankWrites w.op)
          (bankLine w.op w.w false (c.rowScalar w r) (s.dev.readLine (c.rowLine w r pb))
            (if w.usesL then s.dev.readLine (c.otherLine w pb) else 0) 0 0).1))
      ∧ (t.dev.stack stack).limit = s.dev.mgmt.bnklim ∧ t.lc = s.lc ∧ t.core = s.core ∧ t.part = s.part := by
  rw [State.waveRowStep_eq hrun hk hpb, if_neg (by simp [hy])]
  refine ⟨_, rfl, fun hc => ⟨fun ha hne => ?_, fun ha he => ?_, fun ha => ?_⟩, ?_, rfl, rfl, rfl⟩
  · obtain ⟨p, h⟩ := s.dev.waveRow_acc c w r pb ha
    rw [Device.takeLimit_mem, Device.setRun_mem, h, if_neg hne, (s.dev.foldDone_bankRead c w r pb).mem hc]
  · obtain ⟨p, h⟩ := s.dev.waveRow_acc c w r pb ha
    rw [Device.takeLimit_mem, Device.setRun_mem, h, if_pos he, Device.closeRow_mem, ← s.dev.foldValue_eq c w r pb hc]
    exact (s.dev.foldDone_bankRead c w r pb).written hc hm _ _ _ _
  · obtain ⟨p, h⟩ := s.dev.waveRow_plain c w r pb ha
    rw [Device.takeLimit_mem, Device.setRun_mem, h, Device.closeRow_mem, ← s.dev.plainValue_eq c w r pb hc]
    exact (s.dev.plainMarked_bankRead c w r pb).written hc hm _ _ _ _
  · rw [Device.takeLimit_limit]
    exact (s.dev.waveRow_bankWork c w r pb).bnklim

/-- A yielded unit resumes, and nothing else changes but its command's runs. -/
theorem State.waveResume_resumes : ∃ t, s.waveResume stack unit = t ∧ { t with dev := { t.dev with seqs := s.dev.seqs } } = s
    ∧ ∃ x ∈ t.dev.seqs, x.no = c.no ∧ { r with yielded := false } ∈ x.runs := by
  obtain ⟨hc, hr⟩ := Device.runOn_mem hrun
  rw [State.waveResume_eq hrun]
  refine ⟨_, rfl, rfl, _, List.mem_map.mpr ⟨c, hc, if_pos rfl⟩, rfl, List.mem_map.mpr ⟨r, hr, ?_⟩⟩
  exact if_pos (beq_self_eq_true r)

/-- The last sub-wave ends the wave; an earlier one frees its units only (R61, R227). -/
theorem State.subwaveComplete_left {w : WaveDesc} (hk : c.cmd.kind = .wave w)
    (h : ∀ x ∈ c.runs, (x.stack = stack ∧ x.sub = r.sub) → (c.unitBanks w x.stack x.unit).length ≤ x.bank) :
    let left := c.runs.filter (fun x => !(x.stack == stack && x.sub == r.sub))
    ∃ t, s.subwaveComplete stack unit = t ∧ t.dev.mem = s.dev.mem ∧ stack ∈ t.dev.admits
      ∧ (left = [] → c.todo = [] → s.CommandGone t c w.at_ c.bad)
      ∧ (left ≠ [] ∨ c.todo ≠ [] → { c with runs := left } ∈ t.dev.seqs
        ∧ { t with dev := { t.dev with seqs := s.dev.seqs, admits := s.dev.admits } } = s) := by
  intro left
  rw [State.subwaveComplete_ran hrun hk h]
  generalize hc1 : ({ c with runs := left } : SeqCmd) = c1
  have hno : c1.no = c.no := by rw [← hc1]
  have hwho : c1.who = c.who := by rw [← hc1]
  have hbad : c1.bad = c.bad := by rw [← hc1]
  have hend : (c1.todo.isEmpty && c1.runs.isEmpty) = true ↔ c.todo = [] ∧ left = [] := by
    rw [← hc1]; simp
  by_cases hlast : (c1.todo.isEmpty && c1.runs.isEmpty) = true
  · obtain ⟨htodo, hleft⟩ := hend.mp hlast
    refine ⟨_, if_pos hlast, ?_, ?_, fun _ _ => ?_, fun hor => ?_⟩
    · rw [State.bankDone_dev]
    · rw [State.bankDone_dev]
      exact addOnce_mem _ _
    · rw [← hbad]
      exact State.bankDone_gone w.at_ rfl rfl rfl hno hwho
    · rcases hor with h | h <;> contradiction
  · refine ⟨_, if_neg hlast, rfl, addOnce_mem _ _, fun hl ht => absurd (hend.mpr ⟨ht, hl⟩) hlast, fun _ => ⟨?_, rfl⟩⟩
    exact List.mem_map.mpr ⟨c, (Device.runOn_mem hrun).1, if_pos hno.symm⟩

end

section
variable {s : State} {stack unit : Nat} {c : SeqCmd} {r : UnitRun} (hrun : s.dev.runOn stack unit = some (c, r))
  {o : BkOp} {w : Bool} {dst : Line} {src : Option Line} {a : BitVec 32} {off : Nat} {dh sh : BitVec 32}
  (hk : c.cmd.kind = .op o w dst src a off dh sh)
include hrun hk

/-- A BKOP waits while a slot that it names opens (R216, R336). -/
theorem State.bkopComplete_waits (h : ∃ l ∈ dst :: src.toList, (s.dev.slotOf l).st = .opening) :
    s.bkopComplete stack unit = s := by
  obtain ⟨l, hl, ho⟩ := h
  have hany : ((dst :: src.toList).any (fun l => (s.dev.slotOf l).st == .opening)) = true :=
    List.any_eq_true.mpr ⟨l, hl, by rw [ho]; rfl⟩
  simp only [State.bkopComplete, hrun, hk, hany, if_true]

/-- The device as a BKOP's work leaves it, with whether an input was uncorrectable. -/
def State.bkopRun (s : State) (o : BkOp) (w : Bool) (dst : Line) (src : Option Line) (a : BitVec 32) (off : Nat) :
    Device × Bool :=
  ((dst :: src.toList).foldl Device.openRow s.dev).runBkop o w dst src a off

theorem State.bkopComplete_eq (h : ∀ l ∈ dst :: src.toList, (s.dev.slotOf l).st ≠ .opening) :
    s.bkopComplete stack unit =
      let q := s.bkopRun o w dst src a off
      ({ s with dev := { q.1 with
        seqs := replaceCmd q.1.seqs { c with bad := q.2 }, admits := addOnce q.1.admits stack } } : State).bankDone
        { c with bad := q.2 } (dh.setWidth 64) := by
  have hany : ((dst :: src.toList).any (fun l => (s.dev.slotOf l).st == .opening)) = false := by
    refine List.any_eq_false.mpr (fun l hl => ?_)
    simpa using h l hl
  simp only [State.bkopComplete, hrun, hk, hany, Bool.false_eq_true, if_false]
  rfl

/-- A BKOP whose slots do not open executes whole and completes (R222, R336). -/
theorem State.bkopComplete_done (h : ∀ l ∈ dst :: src.toList, (s.dev.slotOf l).st ≠ .opening)
    (hc : s.dev.combines = []) (hm : Memory.wf s.dev.mem = true) :
    ∃ t bad, s.bkopComplete stack unit = t ∧ s.CommandGone t c (dh.setWidth 64) bad
      ∧ (o ≠ .fadd → LineWritten s.dev.mem t.dev.mem dst (bankWrites o)
        (bankLine o w false a.toNat (s.dev.readLine dst) ((src.map s.dev.readLine).getD 0) 0 0).1)
      ∧ (o = .fadd → t.dev.mem = Memory.write s.dev.mem (lineAddr dst off) 4
        (Fmt.f32.add 0 (Memory.read s.dev.mem (lineAddr dst off) 4) a.toNat).1)
      ∧ (bad = true → s.dev.memError ≠ []) ∧ stack ∈ t.dev.admits := by
  have hopen := Device.openRows_rowsOnly (dst :: src.toList) s.dev
  rw [State.bkopComplete_eq hrun hk h]
  unfold State.bkopRun
  generalize (dst :: src.toList).foldl Device.openRow s.dev = d at hopen ⊢
  have hc1 : d.combines = [] := hopen.combines.trans hc
  have hread (l : Line) : d.readLine l = s.dev.readLine l := Device.readLine_congr hopen.mem l
  have hwork := d.runBkop_bankWork o w dst src a off
  refine ⟨_, (d.runBkop o w dst src a off).2, rfl, ?_, fun ho => ?_, fun ho => ?_, fun hb => ?_, ?_⟩
  · refine State.bankDone_gone (dh.setWidth 64) rfl rfl ?_ rfl rfl
    exact congrArg (fun cs => replaceCmd cs _) (hwork.seqs.trans hopen.seqs)
  · rw [State.bankDone_dev]
    have hw := Device.runBkop_written o w dst src a off hc1 (by rw [hopen.mem]; exact hm) ho
    rwa [hopen.mem, hread, show d.readLine = s.dev.readLine from funext hread] at hw
  · subst ho
    rw [State.bankDone_dev]
    have hw := Device.runBkop_fadd_mem w dst src a off hc1
    rwa [hopen.mem] at hw
  · rw [← hopen.memError]
    exact Device.runBkop_bad o w dst src a off hc1 hb
  · rw [State.bankDone_dev]
    exact addOnce_mem _ _

end

end Sys2Proof.Machine
end

section
/-! Proofs, 03: an admission point and the probe of a wave (R61, R62, R227). -/

namespace Sys2Proof.Machine

/-! ### Admission (R61) -/

/-- A command without the units it has been given and those it waits for. -/
def SeqCmd.bare (c : SeqCmd) : SeqCmd := { c with todo := [], runs := [] }

/-- The units of a stack that a list of commands runs on. -/
def unitsAt (stack : Nat) (cs : List SeqCmd) : List Nat :=
  cs.flatMap (fun c => (c.runs.filter (·.stack == stack)).map (·.unit))

theorem Device.busyUnits_eq (d : Device) (stack : Nat) : d.busyUnits stack = unitsAt stack d.seqs := rfl

theorem unitsAt_cons (stack : Nat) (c : SeqCmd) (cs : List SeqCmd) :
    unitsAt stack (c :: cs) = unitsAt stack [c] ++ unitsAt stack cs := by
  simp [unitsAt]

/-- What a command may become at an admission point of a stack: with more units there only, as far as there is room. -/
structure SeqCmd.Given (stack : Nat) (c x : SeqCmd) (room left : Nat) : Prop where
  bare : x.bare = c.bare
  others : ∀ k, k ≠ stack → unitsAt k [x] = unitsAt k [c]
  room : (unitsAt stack [x]).length + left = (unitsAt stack [c]).length + room

theorem SeqCmd.given_refl (stack : Nat) (c : SeqCmd) (room : Nat) : c.Given stack c room room := ⟨rfl, fun _ _ => rfl, rfl⟩

/-- A command admitted on more units of a stack. -/
theorem SeqCmd.given_more {stack room : Nat} (c : SeqCmd) (todo : List (Nat × Nat)) {us : List Nat} (sub : Nat)
    (h : us.length ≤ room) :
    c.Given stack { c with todo := todo, runs := c.runs ++ us.map (UnitRun.start stack sub) } room (room - us.length) := by
  refine ⟨rfl, fun k hk => ?_, ?_⟩
  · simp [unitsAt, UnitRun.start, List.filter_map, Function.comp_def, Ne.symm hk]
  · simp [unitsAt, UnitRun.start, List.filter_map, Function.comp_def]
    omega

theorem SeqCmd.admitted_given (stack : Nat) (before : List SeqCmd) (busy : List Nat) (room : Nat) (c : SeqCmd) :
    c.Given stack (c.admitted stack before busy room).1 room (c.admitted stack before busy room).2.2 := by
  unfold SeqCmd.admitted
  split
  case h_1 o w dst src a off dh sh hk =>
    split
    case isTrue hgo =>
      simp only [Bool.and_eq_true, List.isEmpty_iff, bne_iff_ne] at hgo
      obtain ⟨⟨⟨⟨⟨hst, hruns⟩, hroom⟩, -⟩, -⟩, -⟩ := hgo
      have hone := c.given_more (stack := stack) c.todo (us := [dst.unit]) 0 (Nat.one_le_iff_ne_zero.mpr hroom)
      rwa [hruns] at hone
    case isFalse => exact c.given_refl stack room
  case h_2 d hk =>
    split
    case isTrue => exact c.given_refl stack room
    case isFalse =>
      exact c.given_more _ _ (by rw [List.length_take]; exact Nat.min_le_left _ _)
  case h_3 => exact c.given_refl stack room

/-- One command at an admission point, behind those that went before it. -/
def admitStep (stack : Nat) (a : List SeqCmd × List Nat × Nat) (c : SeqCmd) : List SeqCmd × List Nat × Nat :=
  let x := c.admitted stack a.1 a.2.1 a.2.2
  (a.1 ++ [x.1], x.2.1, x.2.2)

/-- The commands that go through an admission point one after another. -/
theorem foldl_admitStep (stack : Nat) (cs before : List SeqCmd) (busy : List Nat) (room : Nat) :
    ∃ ys left, (cs.foldl (admitStep stack) (before, busy, room)).1 = before ++ ys
      ∧ ys.map SeqCmd.bare = cs.map SeqCmd.bare ∧ (∀ k, k ≠ stack → unitsAt k ys = unitsAt k cs)
      ∧ (unitsAt stack ys).length + left = (unitsAt stack cs).length + room
      ∧ ys.head? = cs.head?.map (fun c => (c.admitted stack before busy room).1) := by
  induction cs generalizing before busy room with
  | nil => exact ⟨[], room, (List.append_nil _).symm, rfl, fun _ _ => rfl, rfl, rfl⟩
  | cons c cs ih =>
    have hgiven := c.admitted_given stack before busy room
    rw [List.foldl_cons, admitStep]
    generalize hx : c.admitted stack before busy room = x at hgiven ⊢
    obtain ⟨ys, left, hfold, hbare, hothers, hroom, -⟩ := ih (before ++ [x.1]) x.2.1 x.2.2
    refine ⟨x.1 :: ys, left, ?_, ?_, fun k hk => ?_, ?_, ?_⟩
    · rw [hfold, List.append_assoc]
      rfl
    · rw [List.map_cons, List.map_cons, hbare, hgiven.bare]
    · rw [unitsAt_cons, unitsAt_cons k c, hgiven.others k hk, hothers k hk]
    · have h := hgiven.room
      rw [unitsAt_cons, unitsAt_cons stack c, List.length_append, List.length_append]
      omega
    · simp [hx]

section
variable {s : State} {stack : Nat}

theorem State.bankAdmit_idle (h : stack ∉ s.dev.admits) : s.bankAdmit stack = s := by
  simp [State.bankAdmit, h]

/-- The room a stack has for more units. -/
def Device.room (d : Device) (stack : Nat) : Nat := (d.stack stack).unitLimit - (d.busyUnits stack).length

theorem State.bankAdmit_eq (h : stack ∈ s.dev.admits) : s.bankAdmit stack = { s with dev := { s.dev with
    seqs := (s.dev.seqs.foldl (admitStep stack) ([], s.dev.busyUnits stack, s.dev.room stack)).1
    admits := s.dev.admits.filter (· != stack) } } := by
  rw [State.bankAdmit, if_neg (by simpa using h)]
  rfl

/-- The oldest command, a BKOP of a unit that is free, is admitted where there is room (R61). -/
theorem SeqCmd.admitted_first {c : SeqCmd} {o : BkOp} {w : Bool} {dst : Line} {a : BitVec 32} {off : Nat}
    {dh sh : BitVec 32} {busy : List Nat} {room : Nat} (hk : c.cmd.kind = .op o w dst none a off dh sh)
    (hst : dst.stack = stack) (hruns : c.runs = []) (hfree : dst.unit ∉ busy) (hroom : room ≠ 0) :
    (c.admitted stack [] busy room).1 = { c with runs := [UnitRun.start stack 0 dst.unit] } := by
  simp [SeqCmd.admitted, hk, hst, hruns, hfree, hroom, blockedBank]

/-- An admission point of a stack (R61). -/
theorem State.bankAdmit_point (h : stack ∈ s.dev.admits) : ∃ t, s.bankAdmit stack = t
    ∧ { t with dev := { t.dev with seqs := s.dev.seqs, admits := s.dev.admits } } = s
    ∧ t.dev.admits = s.dev.admits.filter (fun k => k != stack)
    ∧ t.dev.seqs.map SeqCmd.bare = s.dev.seqs.map SeqCmd.bare
    ∧ (t.dev.busyUnits stack).length ≤ max (s.dev.busyUnits stack).length (s.dev.stack stack).unitLimit
    ∧ (∀ k, k ≠ stack → t.dev.busyUnits k = s.dev.busyUnits k)
    ∧ ∀ (c : SeqCmd) (r : List SeqCmd) (o : BkOp) (w : Bool) (dst : Line) (a : BitVec 32) (off : Nat) (dh sh : BitVec 32),
      s.dev.seqs = c :: r → c.cmd.kind = .op o w dst none a off dh sh → dst.stack = stack → c.runs = [] →
      dst.unit ∉ s.dev.busyUnits stack → (s.dev.busyUnits stack).length < (s.dev.stack stack).unitLimit →
      t.dev.seqs.head? = some { c with runs := [UnitRun.start stack 0 dst.unit] } := by
  obtain ⟨ys, left, hfold, hbare, hothers, hroom, hhead⟩ :=
    foldl_admitStep stack s.dev.seqs [] (s.dev.busyUnits stack) (s.dev.room stack)
  rw [List.nil_append] at hfold
  rw [State.bankAdmit_eq h, hfold]
  refine ⟨_, rfl, rfl, rfl, hbare, ?_, hothers, fun c r o w dst a off dh sh hseqs hk hst hruns hfree hlim => ?_⟩
  · show (unitsAt stack ys).length ≤ _
    rw [Device.busyUnits_eq]
    unfold Device.room at hroom
    rw [Device.busyUnits_eq] at hroom
    omega
  · show ys.head? = _
    rw [hhead, hseqs]
    exact congrArg some (SeqCmd.admitted_first hk hst hruns hfree (by unfold Device.room; omega))

end

end Sys2Proof.Machine
end

section
/-! Proofs, 03: the probe of a wave and the events of row lines (R213 to R218, R227). -/

namespace Sys2Proof.Machine

/-! ### The probe of a wave (R227) -/

/-- The stack in whose space a wave is probed, and that space. -/
def State.probeSpace (s : State) (c : SeqCmd) (w : WaveDesc) : Space :=
  s.dev.baseDie (((s.dev.waveStacks w c.cmd.env c.cmd.super).head?).getD 0) c.cmd.env.ptbase c.cmd.env.asid c.cmd.super

section
variable {s : State}

theorem State.waveProbe_none (h : ∀ c ∈ s.dev.seqs, c.cmd.kind.isWave = true → c.probed = true) : s.waveProbe = none := by
  have hfind : s.dev.seqs.find? (fun c => c.cmd.kind.isWave && !c.probed
      && ((s.findLc c.who).map (fun l => l.breport.isNone)).getD false) = none := by
    refine List.find?_eq_none.mpr (fun c hc => ?_)
    cases hw : c.cmd.kind.isWave with
    | false => simp
    | true => simp [h c hc hw]
  simp only [State.waveProbe, hfind]

variable {c : SeqCmd} {r : List SeqCmd} {w : WaveDesc} {l : Lc}

/-- The oldest command replaced, where no other has its number. -/
theorem replace_first (hr : ∀ x ∈ r, x.no ≠ c.no) (c1 : SeqCmd) :
    (c :: r).map (fun x => if x.no = c.no then c1 else x) = c1 :: r := by
  have hkeep : r.map (fun x => if x.no = c.no then c1 else x) = r.map id :=
    List.map_congr_left (fun x hx => if_neg (hr x hx))
  rw [List.map_cons, if_pos rfl, hkeep, List.map_id]

variable (hseqs : s.dev.seqs = c :: r)
  (hk : c.cmd.kind = .wave w) (hp : c.probed = false) (hl : s.findLc c.who = some l) (hb : l.breport = none)
include hseqs hk hp hl hb

/-- The oldest wave, of an LC with no held fault, is the one to probe. -/
theorem State.probe_first : s.dev.seqs.find? (fun c => c.cmd.kind.isWave && !c.probed
    && ((s.findLc c.who).map (fun l => l.breport.isNone)).getD false) = some c := by
  rw [hseqs, List.find?_cons_of_pos]
  simp [hk, hp, hl, hb, BKind.isWave]

/-- A wave whose probes pass has its frames, and one scalar for its rows (R227). -/
theorem State.waveProbe_passes {fs : List (Option Nat)} (hr : ∀ x ∈ r, x.no ≠ c.no) (hs : w.scalars = 0)
    (hf : s.dev.rowProbes (s.probeSpace c w) w.probes = (s.dev, .ok fs)) (ho : w.offends fs = none) :
    ∃ t c1, s.waveProbe = some t ∧ { t with dev := { t.dev with seqs := s.dev.seqs, admits := s.dev.admits } } = s
      ∧ t.dev.admits = List.range 12 ∧ t.dev.seqs = c1 :: r ∧ c1.probed = true
      ∧ c1.frames = fs.map (fun f => f.getD 0) ∧ c1.alphas = List.replicate (w.count + 1) w.scalar
      ∧ c1.cmd = c.cmd ∧ c1.who = c.who ∧ c1.runs = c.runs ∧ c1.todo = c1.units w := by
  obtain ⟨c1, hprobe, hprobed, hframes, halphas, hcmd, hwho, hruns, htodo⟩ : ∃ c1, s.probeWave c w = (s, .ok c1)
      ∧ c1.probed = true ∧ c1.frames = fs.map (fun f => f.getD 0) ∧ c1.alphas = List.replicate (w.count + 1) w.scalar
      ∧ c1.cmd = c.cmd ∧ c1.who = c.who ∧ c1.runs = c.runs ∧ c1.todo = c1.units w := by
    unfold State.probeSpace at hf
    simp only [State.probeWave, hf, hs, beq_self_eq_true, if_true, ho, Option.or_none]
    exact ⟨_, rfl, rfl, rfl, rfl, rfl, rfl, rfl, rfl⟩
  simp only [State.waveProbe, State.probe_first hseqs hk hp hl hb, hk, hprobe]
  refine ⟨_, c1, rfl, rfl, rfl, ?_, hprobed, hframes, halphas, hcmd, hwho, hruns, htodo⟩
  rw [hseqs]
  exact replace_first hr _

theorem State.waveProbe_faults {k : Cause} {va : Dword}
    (hf : s.dev.rowProbes (s.probeSpace c w) w.probes = (s.dev, .error (k, va))) : ∃ t, s.waveProbe = some t
      ∧ t.dev = s.dev ∧ ∃ m ∈ t.allLcs, m.key = c.who ∧ ∃ q, m.breport = some q ∧ q.cause = k ∧ q.tval = va
        ∧ q.pc = c.cmd.pc ∧ q.insn = c.cmd.word := by
  have hprobe : s.probeWave c w = (s, .error (k, va)) := by
    unfold State.probeSpace at hf
    simp only [State.probeWave, hf]
  simp only [State.waveProbe, State.probe_first hseqs hk hp hl hb, hk, hprobe]
  exact ⟨_, rfl, rfl, _, State.findLc_updLc _ hl, (State.findLc_key hl :), _, rfl, rfl, rfl, rfl, rfl⟩

end

/-! ### Pin slots (R215) -/

theorem Slot.isOf_iff {x : Slot} {l : Line} : x.isOf l = true ↔
    x.stack = l.stack ∧ x.chan = l.chan ∧ x.bank = l.bank ∧ x.slot = rowSlot l.row := by
  simp [Slot.isOf, and_assoc]

theorem Device.slotOf_isOf (d : Device) (l : Line) : (d.slotOf l).isOf l = true := by
  unfold Device.slotOf
  cases h : d.slots.find? (·.isOf l) with
  | none => exact Slot.isOf_iff.mpr ⟨rfl, rfl, rfl, rfl⟩
  | some x => exact (List.find?_some h :)

/-- The slot that was replaced is there as replaced. -/
theorem Device.slotOf_setSlot (d : Device) {x : Slot} {l : Line} (h : x.isOf l = true) : (d.setSlot x).slotOf l = x := by
  have hfind := List.find?_cons_of_pos (p := fun y : Slot => y.isOf l) h (l := d.slots.filter (fun y =>
    !(y.stack == x.stack && y.chan == x.chan && y.bank == x.bank && y.slot == x.slot)))
  exact congrArg (fun o : Option Slot => o.getD ⟨l.stack, l.chan, l.bank, rowSlot l.row, .free, 0, 0, none⟩) hfind

/-- A slot named by its place is that of the lines there (R212). -/
theorem State.slotAt_eq (s : State) (l : Line) (h : l.row / 8192 < 4) :
    s.slotAt l.stack l.chan l.bank (rowSlot l.row) = s.dev.slotOf l := by
  have hrow : rowSlot (rowSlot l.row % 4 * 8192) = rowSlot l.row := by
    unfold rowSlot
    rw [Nat.shiftRight_eq_div_pow, Nat.shiftRight_eq_div_pow]
    omega
  unfold State.slotAt Device.slotOf Slot.isOf
  simp only [hrow]

/-! ### Row lines opened and released (R215, R216, R218) -/

section
variable {s : State}

theorem State.pinOpened_other {x : Slot} (h : x.st ≠ .opening) : s.pinOpened x = s := by
  rw [State.pinOpened, if_neg (by simpa using h)]

/-- An Opening slot becomes Pinned, or is released where no LC holds it any more. -/
theorem State.pinOpened_opening {l : Line} (h : (s.dev.slotOf l).st = .opening) (hc : s.dev.combines = []) :
    ∃ t, s.pinOpened (s.dev.slotOf l) = t
      ∧ t.dev.slotOf l = (if (s.dev.slotOf l).holder = none
        then { s.dev.slotOf l with st := .released, gen := (s.dev.slotOf l).gen + 1 }
        else { s.dev.slotOf l with st := .pinned })
      ∧ { t with dev := { t.dev with slots := s.dev.slots } } = s := by
  have hof := s.dev.slotOf_isOf l
  generalize s.dev.slotOf l = x at h hof ⊢
  refine ⟨_, if_pos (by rw [h]; rfl), ?_, ?_⟩
  · rw [Device.settleLine_empty hc]
    dsimp only
    by_cases hn : x.holder = none
    · rw [if_pos hn, if_neg (by simp [hn])]
      exact Device.slotOf_setSlot _ hof
    · rw [if_neg hn, if_pos (Option.isSome_iff_ne_none.mpr hn)]
      exact Device.slotOf_setSlot _ hof
  · rw [Device.settleLine_empty hc]
    rfl

theorem State.slotFreed_other {x : Slot} (h : x.st ≠ .released) : s.slotFreed x = s := by
  rw [State.slotFreed, if_neg (by simpa using h)]

/-- A Released slot becomes Free; its generation stays. -/
theorem State.slotFreed_released {l : Line} (h : (s.dev.slotOf l).st = .released) :
    ∃ t, s.slotFreed (s.dev.slotOf l) = t ∧ (t.dev.slotOf l).st = .free ∧ (t.dev.slotOf l).gen = (s.dev.slotOf l).gen
      ∧ t.dev.mem = s.dev.mem ∧ t.lc = s.lc := by
  have hof := s.dev.slotOf_isOf l
  generalize s.dev.slotOf l = x at h hof ⊢
  have hclose := (s.dev.setSlot { x with st := .free, row := 0 }).precharge_rowsClose ⟨x.stack, x.chan, x.bank, x.row⟩
  have hfree := hclose.slotOf l
  rw [Device.slotOf_setSlot _ (show ({ x with st := .free, row := 0 } : Slot).isOf l = true from hof)] at hfree
  refine ⟨_, if_pos (by rw [h]; rfl), ?_⟩
  rcases hfree with heq | ⟨hpin, -⟩
  · exact ⟨(congrArg Slot.st heq :), (congrArg Slot.gen heq :), hclose.rows.mem, rfl⟩
  · cases hpin

/-- An RLREL at the head of the sequencers releases its slot, whose generation rises (R215, R218). -/
theorem State.pinReleased_first {c : SeqCmd} {r : List SeqCmd} {hd : BitVec 32} {l : Line} {which : Line → Bool}
    (hw : which l = true) (hseqs : s.dev.seqs = c :: r) (hk : c.cmd.kind = .release hd l)
    (h : (s.dev.slotOf l).st ≠ .opening) :
    ∃ t, s.pinReleased which = some t ∧ (t.dev.slotOf l).st = .released ∧ (t.dev.slotOf l).gen = (s.dev.slotOf l).gen + 1
      ∧ (t.dev.slotOf l).holder = none ∧ t.dev.mem = s.dev.mem ∧ t.lc = s.lc ∧ ∀ y ∈ t.dev.seqs, y.no ≠ c.no := by
  have hof := s.dev.slotOf_isOf l
  have hslot := s.dev.slotOf_setSlot (l := l)
    (x := { s.dev.slotOf l with st := .released, gen := (s.dev.slotOf l).gen + 1, holder := none }) hof
  have hgo : (which l && (s.dev.slotOf l).st != .opening
      && !([] : List SeqCmd).any (fun b => b.who == c.who && b.cmd.kind.namesHandle hd)) = true := by
    simp [hw, h]
  have heq : s.pinReleased which = some { s with dev := { (s.dev.setSlot
      { s.dev.slotOf l with st := .released, gen := (s.dev.slotOf l).gen + 1, holder := none }) with
      seqs := s.dev.seqs.filter (·.no != c.no) } } := by
    unfold State.pinReleased
    rw [hseqs, State.pinReleased.go]
    simp only [hk, hgo, if_true, hseqs]
  refine ⟨_, heq, congrArg Slot.st hslot, congrArg Slot.gen hslot, congrArg Slot.holder hslot, rfl, rfl, fun y hy => ?_⟩
  simpa using (List.mem_filter.mp hy).2

theorem State.updLc_focus (f : Lc → Lc) (hs : s.lc.status ≠ .absent) : (s.updLc s.lc.key f).lc = f s.lc :=
  if_pos (by simpa using hs)

theorem State.pinGrant_none (h : ∀ c ∈ s.dev.seqs, ∀ g l ro, c.cmd.kind = .open g l ro → (s.dev.slotOf l).st ≠ .free) :
    s.pinGrant = none := by
  unfold State.pinGrant
  dsimp only
  split
  case h_1 => rfl
  case h_2 c hc =>
    have hmem := List.mem_of_find?_eq_some hc
    have hready := List.find?_some hc
    split at hready
    case h_1 g l ro hk => exact absurd (beq_iff_eq.mp hready) (h c hmem g l ro hk)
    case h_2 => cases hready

/-- What an RLOPEN that takes its slot leaves of the LC in focus. -/
def Lc.granted (l : Lc) (h : SReg) (m : Line) (v : BitVec 32) : Lc :=
  { l.setS h (v.setWidth 64) false with
    pending := if h = 0 then l.pending else l.pending.erase h
    handles := l.handles.map (fun e => if e.line == m && !e.granted then { e with handle := v, granted := true } else e) }

/-- The oldest RLOPEN, whose slot is Free, takes it (R216). -/
theorem State.pinGrant_first {c : SeqCmd} {r : List SeqCmd} {h : SReg} {l : Line} {ro : Bool}
    (hseqs : s.dev.seqs = c :: r) (hk : c.cmd.kind = .open h l ro) (hf : (s.dev.slotOf l).st = .free) :
    s.pinGrant = some (({ s with dev := { (((s.dev.settleLine l).closeSlots (fun y => y.isOf l)).setSlot
        { s.dev.slotOf l with st := .opening, row := l.row, holder := some c.who }) with
      seqs := ((s.dev.settleLine l).closeSlots (fun y => y.isOf l)).seqs.filter (·.no != c.no) } } : State).updLc c.who
        (fun lc => lc.granted h l (handleWord l ro (s.dev.slotOf l).gen.toNat))) := by
  unfold State.pinGrant
  dsimp only
  rw [hseqs, List.find?_cons_of_pos (by simp only [hk, hf]; rfl)]
  simp only [hk]
  rfl

/-- The LC in focus is granted its slot: the slot, the handle's word and its entry (R214, R216). -/
theorem State.pinGrant_granted {c : SeqCmd} {r : List SeqCmd} {h : SReg} {l : Line} {ro : Bool}
    (hseqs : s.dev.seqs = c :: r) (hk : c.cmd.kind = .open h l ro) (hf : (s.dev.slotOf l).st = .free)
    (hw : c.who = s.lc.key) (hs : s.lc.status ≠ .absent) (hc : s.dev.combines = []) :
    ∃ t, s.pinGrant = some t ∧ (t.dev.slotOf l).st = .opening ∧ (t.dev.slotOf l).row = l.row
      ∧ (t.dev.slotOf l).holder = some s.lc.key ∧ (t.dev.slotOf l).gen = (s.dev.slotOf l).gen
      ∧ t.Holds h ((handleWord l ro (s.dev.slotOf l).gen.toNat).setWidth 64) ∧ s.SameRegsBut t h
      ∧ (∀ e ∈ s.lc.handles, e.line = l → e.granted = false →
        { e with handle := handleWord l ro (s.dev.slotOf l).gen.toNat, granted := true } ∈ t.lc.handles)
      ∧ (∀ x ∈ t.dev.seqs, x.no ≠ c.no) ∧ t.dev.mem = s.dev.mem := by
  have hclose := (s.dev.settleLine l).closeSlots_rowsClose (fun y => y.isOf l)
  have hmem := hclose.rows.mem
  rw [Device.settleLine_empty hc] at hclose hmem
  have hslot := Device.slotOf_setSlot (s.dev.closeSlots (fun y => y.isOf l)) (l := l)
    (x := { s.dev.slotOf l with st := .opening, row := l.row, holder := some c.who }) (s.dev.slotOf_isOf l)
  rw [State.pinGrant_first hseqs hk hf, Device.settleLine_empty hc]
  generalize hv : handleWord l ro (s.dev.slotOf l).gen.toNat = v
  generalize hu : ({ s with dev := { ((s.dev.closeSlots (fun y => y.isOf l)).setSlot
      { s.dev.slotOf l with st := .opening, row := l.row, holder := some c.who }) with
    seqs := (s.dev.closeSlots (fun y => y.isOf l)).seqs.filter (·.no != c.no) } } : State) = u
  have hlc : (u.updLc c.who (fun lc => lc.granted h l v)).lc = s.lc.granted h l v := by
    rw [← hu, hw]
    exact State.updLc_focus _ hs
  have hdev : (u.updLc c.who (fun lc => lc.granted h l v)).dev = u.dev := rfl
  have hregs : ∀ q, (u.updLc c.who (fun lc => lc.granted h l v)).getS q = (s.setS h (v.setWidth 64)).getS q
      ∧ (u.updLc c.who (fun lc => lc.granted h l v)).poisonedS q = (s.setS h (v.setWidth 64)).poisonedS q := by
    intro q
    unfold State.getS State.poisonedS
    rw [hlc]
    exact ⟨rfl, rfl⟩
  refine ⟨_, rfl, ?_, ?_, ?_, ?_, ⟨?_, ?_⟩, fun q hq => ⟨?_, ?_⟩, fun e he hl hg => ?_, fun x hx => ?_, ?_⟩
  · rw [hdev, ← hu]
    exact (congrArg Slot.st hslot :)
  · rw [hdev, ← hu]
    exact (congrArg Slot.row hslot :)
  · rw [hdev, ← hu, ← hw]
    exact (congrArg Slot.holder hslot :)
  · rw [hdev, ← hu]
    exact (congrArg Slot.gen hslot :)
  · rw [(hregs h).1, State.getS_setS, if_pos rfl]
  · rw [(hregs h).2, State.poisonedS_setS, if_pos rfl]
  · rw [(hregs q).1, State.getS_setS, if_neg hq]
  · rw [(hregs q).2, State.poisonedS_setS, if_neg hq]
  · rw [hlc]
    exact List.mem_map.mpr ⟨e, he, if_pos (by simp [hl, hg])⟩
  · rw [hdev, ← hu] at hx
    simpa using (List.mem_filter.mp hx).2
  · rw [hdev, ← hu]
    exact hmem

end

end Sys2Proof.Machine
end

section
/-! Proofs, 03: the events of the bank units and row lines (R61, R215, R216, R218, R222, R226 to R228, R231). -/

namespace Sys2Proof.Machine

/-- An event that leaves a state leaves it in the machine. -/
theorem exists_next {u : State} {P : State → Prop} (h : ∃ t, u = t ∧ P t) : ∃ t, (.next u : Out) = .next t ∧ P t := by
  obtain ⟨t, rfl, h⟩ := h
  exact ⟨u, rfl, h⟩

/-- So does one that may find nothing to do, where it finds something. -/
theorem exists_next_getD {o : Option State} {s : State} {P : State → Prop} (h : ∃ t, o = some t ∧ P t) :
    ∃ t, (.next (o.getD s) : Out) = .next t ∧ P t := by
  obtain ⟨t, rfl, h⟩ := h
  exact ⟨t, rfl, h⟩

theorem next_getD_none {o : Option State} {s : State} (h : o = none) : (.next (o.getD s) : Out) = .next s := by
  rw [h]
  rfl

/-- A unit's run lies at its stack and number. -/
theorem Device.runOn_place {d : Device} {stack unit : Nat} {c : SeqCmd} {r : UnitRun}
    (h : d.runOn stack unit = some (c, r)) : r.stack = stack ∧ r.unit = unit := by
  obtain ⟨x, -, hr⟩ := List.exists_of_findSome?_eq_some h
  obtain ⟨y, hy, hp⟩ := Option.map_eq_some_iff.mp hr
  cases hp
  simpa using List.find?_some hy

/-- A unit within its banks keeps its sub-wave from completing. -/
theorem State.subwaveComplete_within {s : State} {stack unit : Nat} {c : SeqCmd} {r : UnitRun}
    (hrun : s.dev.runOn stack unit = some (c, r)) {w : WaveDesc} (hk : c.cmd.kind = .wave w) {pb : Nat × Nat}
    (hpb : (c.unitBanks w stack unit)[r.bank]? = some pb) : s.subwaveComplete stack unit = s := by
  obtain ⟨hst, hu⟩ := Device.runOn_place hrun
  obtain ⟨hlt, -⟩ := List.getElem?_eq_some_iff.mp hpb
  exact State.subwaveComplete_early hrun hk ⟨r, (Device.runOn_mem hrun).2, ⟨hst, rfl⟩, by rwa [hst, hu]⟩

section
variable {s : State} {stack unit : Nat} {c : SeqCmd} {r : UnitRun} (hrun : s.dev.runOn stack unit = some (c, r))
  {o : BkOp} {w : Bool} {dst : Line} {src : Option Line} {a : BitVec 32} {off : Nat} {dh sh : BitVec 32}
  (hk : c.cmd.kind = .op o w dst src a off dh sh)
include hrun hk

/-- What a completed BKOP leaves, byte by byte (R222, R223). -/
theorem State.bkopComplete_bytes (h : ∀ l ∈ dst :: src.toList, (s.dev.slotOf l).st ≠ .opening)
    (hc : s.dev.combines = []) (hm : Memory.wf s.dev.mem = true) :
    ∃ t, s.bkopComplete stack unit = t ∧ ∃ bad, s.CommandGone t c (dh.setWidth 64) bad
      ∧ (o ≠ .fadd → LineWritten s.dev.mem t.dev.mem dst (bankWrites o)
        (bankLine o w false a.toNat (s.dev.readLine dst) ((src.map s.dev.readLine).getD 0) 0 0).1)
      ∧ (o = .fadd → Memory.read t.dev.mem (lineAddr dst off) 4
          = (Fmt.f32.add 0 (Memory.read s.dev.mem (lineAddr dst off) 4) a.toNat).1 % 2 ^ 32
        ∧ ∀ b, (b < lineAddr dst off ∨ lineAddr dst off + 4 ≤ b) → Memory.get t.dev.mem b = Memory.get s.dev.mem b)
      ∧ (bad = true → s.dev.memError ≠ []) ∧ stack ∈ t.dev.admits := by
  obtain ⟨t, bad, ht, hgone, hline, hfadd, hbad, hadm⟩ := State.bkopComplete_done hrun hk h hc hm
  refine ⟨t, ht, bad, hgone, hline, fun ho => ?_, hbad, hadm⟩
  rw [hfadd ho]
  exact ⟨Memory.read_write hm _ 4 _, fun b hb => Memory.get_write_other hm _ _ _ _ hb⟩

end

/-- Settles O57, event by event: an admission point, the probe of a wave, the steps of a unit, and the slots. -/
theorem bankEvents : Obligations.BankEvents := by
  unfold Obligations.BankEvents
  intro stack unit s hmem
  obtain ⟨hm, -⟩ := hmem
  refine ⟨fun h => congrArg Host.Outcome.next (State.bankAdmit_idle h), fun h => exists_next (State.bankAdmit_point h),
    fun h => next_getD_none (State.waveProbe_none h), ?_, fun h => ?_, ?_,
    fun h => next_getD_none (State.pinGrant_none h), ?_, ?_⟩
  · intro c r w l hseqs hk hp hl hb hr
    refine ⟨fun fs hs hf ho => ?_,
      fun k va hf => exists_next_getD (State.waveProbe_faults hseqs hk hp hl hb hf)⟩
    obtain ⟨t, c1, ht, hrest⟩ := State.waveProbe_passes hseqs hk hp hl hb hr hs hf ho
    exact ⟨t, c1, congrArg (fun o : Option State => Host.Outcome.next (o.getD s)) ht, hrest⟩
  · obtain ⟨h1, h2, h3, h4⟩ := State.unit_idle h
    exact ⟨congrArg Host.Outcome.next h1, congrArg Host.Outcome.next h2, congrArg Host.Outcome.next h3,
      congrArg Host.Outcome.next h4⟩
  · intro c r hrun _
    refine ⟨fun w pb hk hpb => ⟨congrArg Host.Outcome.next (State.subwaveComplete_within hrun hk hpb), fun hy => ?_,
        fun hy => ?_⟩,
      exists_next (State.waveResume_resumes hrun),
      fun w hk => ⟨fun h => congrArg Host.Outcome.next (State.subwaveComplete_early hrun hk h),
        fun h => exists_next (State.subwaveComplete_left hrun hk h)⟩,
      fun o w dst src a off dh sh hk => ⟨fun h => congrArg Host.Outcome.next (State.bkopComplete_waits hrun hk h),
        fun h hc => ?_⟩⟩
    · exact congrArg Host.Outcome.next ((State.waveRowStep_eq hrun hk hpb).trans (if_pos hy))
    · obtain ⟨t, ht, hbytes, hrest⟩ := State.waveRowStep_row hrun hk hpb hy hm
      refine ⟨t, congrArg Host.Outcome.next ht, fun hc => ?_, hrest⟩
      obtain ⟨hkeep, hfold, hplain⟩ := hbytes hc
      exact ⟨hkeep, fun ha he => ⟨(hfold ha he).lines, (hfold ha he).others⟩,
        fun ha => ⟨(hplain ha).lines, (hplain ha).others⟩⟩
    · obtain ⟨t, ht, bad, hgone, hline, hfadd, hbad, hadm⟩ := State.bkopComplete_bytes hrun hk h hc hm
      exact ⟨t, bad, congrArg Host.Outcome.next ht, hgone, fun ho => ⟨(hline ho).lines, (hline ho).others⟩,
        fun ho _ _ => hfadd ho, hbad, hadm⟩
  · intro c r h l ro hseqs hk hf hw hs hc
    exact exists_next_getD (State.pinGrant_granted hseqs hk hf hw hs hc)
  · intro l hl
    have hat := s.slotAt_eq l hl
    refine ⟨fun h => ?_, fun h hc => ?_, fun h => ?_, fun h => ?_, fun c r hd hseqs hk h => ?_⟩
    · exact congrArg Host.Outcome.next ((congrArg s.pinOpened hat).trans (State.pinOpened_other h))
    · exact exists_next (by rw [hat]; exact State.pinOpened_opening h hc)
    · exact congrArg Host.Outcome.next ((congrArg s.slotFreed hat).trans (State.slotFreed_other h))
    · exact exists_next (by rw [hat]; exact State.slotFreed_released h)
    · exact exists_next_getD (State.pinReleased_first (by simp) hseqs hk h)

end Sys2Proof.Machine
end

section
/-! Proofs, 03: the arbiter of the lane groups where two LCs out of focus share a key (R55, R56). -/

namespace Sys2Proof.Machine

/-- A vector load of two elements, which is one element group. -/
def crowdedHead : VEntry :=
  { State.reset.capture (.load 1 .unit false false .f32) false 0x10000 0 0 false with ctl := { VecCtl.reset with vl := 2 } }

/-- A resident LC under a key that two of them have, on a core and a partition. -/
def twinLc (core partNo : Nat) : Lc :=
  { Lc.reset with key := ⟨7, 0⟩, status := .resident, core := core, partNo := partNo }

/-- An LC in focus with a ready head, and two LCs of one key on cores 5 and 0, under which 1,024 host requests wait: the
first record found under the key is on core 5, so that none of them counts against core 0. -/
def crowdedState : State :=
  { State.reset with
    lc := { Lc.reset with key := ⟨1, 0⟩, status := .resident }
    part := { Part.reset 0 0 with vqueue := [crowdedHead], done := true, ownerKey := some ⟨1, 0⟩ }
    lcs := [twinLc 5 0, twinLc 0 3]
    dev := { State.reset.dev with hostReqs := List.replicate 1024 ⟨⟨7, 0⟩, 0, false, 0, 8, none, none⟩ } }

theorem crowdedState_focused : crowdedState.Focused := ⟨rfl, ⟨rfl, rfl, by decide⟩, rfl, by decide +kernel⟩

theorem crowdedState_others : ∀ n, n < 8 → n ≠ crowdedState.part.no →
    (crowdedState.findPart crowdedState.core.no n).vqueue = []
      ∧ (crowdedState.findPart crowdedState.core.no n).mslot = none := by decide +kernel

theorem crowdedState_headReady : crowdedState.headReady = some crowdedHead := by decide +kernel

theorem crowdedState_remOf : crowdedState.remOf crowdedHead = 1 := by decide +kernel

/-- The turns of the cycle bring the record on core 0 to the front, and its requests then fill the core's limit (R55): the
head is not issuable any more, and stays. -/
theorem crowdedState_stays :
    ((crowdedState.laneCycle crowdedState.core.no).backTo crowdedState).part.vqueue.length = 1 := by decide +kernel

/-- Refutes O59: the head of the only queue is ready, and yet does not leave it with its last element group, where two
LCs out of focus share a key and the turns of the cycle change which of them is found under it. -/
theorem not_streamEvents : ¬ Obligations.StreamEvents := by
  unfold Obligations.StreamEvents
  intro h
  obtain ⟨hlanes, -⟩ := h crowdedState crowdedState_focused
  obtain ⟨-, hready, -⟩ := hlanes crowdedState_others rfl
  obtain ⟨t, ht, -, -, -, hpart⟩ := hready crowdedHead crowdedState_headReady rfl
    (by rw [crowdedState_remOf]; exact Nat.one_pos)
  have hleaves : t.part.vqueue = [] := by
    rw [crowdedState_remOf, if_neg (by decide)] at hpart
    exact (congrArg Part.vqueue hpart :)
  have hstays : t.part.vqueue.length = 1 := by
    rw [← Host.Outcome.next.inj ht]
    exact crowdedState_stays
  rw [hleaves] at hstays
  cases hstays

end Sys2Proof.Machine
end

section
/-! Proofs, 04: every encoded instruction is read back from its word (R88 to R103), and the manual's own example words. -/

namespace Sys2Proof.Laws

open Sys2Proof

/-- Each instruction that a word encodes has its own round trip; an event is not well-formed. -/
theorem decode_encode (i : Instr) : RoundTrip.Statement i := by
  cases i with
  | add => apply RoundTrip.add
  | sub => apply RoundTrip.sub
  | mul => apply RoundTrip.mul
  | mulh => apply RoundTrip.mulh
  | mulhu => apply RoundTrip.mulhu
  | div => apply RoundTrip.div
  | divu => apply RoundTrip.divu
  | rem => apply RoundTrip.rem
  | remu => apply RoundTrip.remu
  | and => apply RoundTrip.and
  | or => apply RoundTrip.or
  | xor => apply RoundTrip.xor
  | shl => apply RoundTrip.shl
  | shr => apply RoundTrip.shr
  | sra => apply RoundTrip.sra
  | slt => apply RoundTrip.slt
  | sltu => apply RoundTrip.sltu
  | min => apply RoundTrip.min
  | max => apply RoundTrip.max
  | clz => apply RoundTrip.clz
  | popc => apply RoundTrip.popc
  | csel => apply RoundTrip.csel
  | addi => apply RoundTrip.addi
  | andi => apply RoundTrip.andi
  | ori => apply RoundTrip.ori
  | xori => apply RoundTrip.xori
  | slti => apply RoundTrip.slti
  | shli => apply RoundTrip.shli
  | shri => apply RoundTrip.shri
  | srai => apply RoundTrip.srai
  | lui => apply RoundTrip.lui
  | addpc => apply RoundTrip.addpc
  | ld => apply RoundTrip.ld
  | st => apply RoundTrip.st
  | lda => apply RoundTrip.lda
  | stl => apply RoundTrip.stl
  | amo => apply RoundTrip.amo
  | beq => apply RoundTrip.beq
  | bne => apply RoundTrip.bne
  | blt => apply RoundTrip.blt
  | bge => apply RoundTrip.bge
  | bltu => apply RoundTrip.bltu
  | bgeu => apply RoundTrip.bgeu
  | jal => apply RoundTrip.jal
  | jalr => apply RoundTrip.jalr
  | fadd => apply RoundTrip.fadd
  | fsub => apply RoundTrip.fsub
  | fmul => apply RoundTrip.fmul
  | fdiv => apply RoundTrip.fdiv
  | fsqrt => apply RoundTrip.fsqrt
  | fma => apply RoundTrip.fma
  | fmin => apply RoundTrip.fmin
  | fmax => apply RoundTrip.fmax
  | fcmp => apply RoundTrip.fcmp
  | fclass => apply RoundTrip.fclass
  | fcvtFromFp => apply RoundTrip.fcvtFromFp
  | fcvtFromInt => apply RoundTrip.fcvtFromInt
  | csrr => apply RoundTrip.csrr
  | csrw => apply RoundTrip.csrw
  | csrs => apply RoundTrip.csrs
  | csrc => apply RoundTrip.csrc
  | setvl => apply RoundTrip.setvl
  | qsend => apply RoundTrip.qsend
  | qrecv => apply RoundTrip.qrecv
  | qstat => apply RoundTrip.qstat
  | fence => apply RoundTrip.fence
  | sbar => apply RoundTrip.sbar
  | nexts => apply RoundTrip.nexts
  | exit => apply RoundTrip.exit
  | yieldLc => apply RoundTrip.yieldLc
  | spawn => apply RoundTrip.spawn
  | mwait => apply RoundTrip.mwait
  | gjoin => apply RoundTrip.gjoin
  | gleave => apply RoundTrip.gleave
  | gbar => apply RoundTrip.gbar
  | post => apply RoundTrip.post
  | waiti => apply RoundTrip.waiti
  | probe => apply RoundTrip.probe
  | cwb => apply RoundTrip.cwb
  | cinv => apply RoundTrip.cinv
  | vadd => apply RoundTrip.vadd
  | vsub => apply RoundTrip.vsub
  | vmul => apply RoundTrip.vmul
  | vdiv => apply RoundTrip.vdiv
  | vmin => apply RoundTrip.vmin
  | vmax => apply RoundTrip.vmax
  | vand => apply RoundTrip.vand
  | vor => apply RoundTrip.vor
  | vxor => apply RoundTrip.vxor
  | vshl => apply RoundTrip.vshl
  | vshr => apply RoundTrip.vshr
  | vsra => apply RoundTrip.vsra
  | vaddVs => apply RoundTrip.vaddVs
  | vsubVs => apply RoundTrip.vsubVs
  | vmulVs => apply RoundTrip.vmulVs
  | vdivVs => apply RoundTrip.vdivVs
  | vminVs => apply RoundTrip.vminVs
  | vmaxVs => apply RoundTrip.vmaxVs
  | vandVs => apply RoundTrip.vandVs
  | vorVs => apply RoundTrip.vorVs
  | vxorVs => apply RoundTrip.vxorVs
  | vshlVs => apply RoundTrip.vshlVs
  | vshrVs => apply RoundTrip.vshrVs
  | vsraVs => apply RoundTrip.vsraVs
  | vbcast => apply RoundTrip.vbcast
  | vslide => apply RoundTrip.vslide
  | vextract => apply RoundTrip.vextract
  | vma => apply RoundTrip.vma
  | vms => apply RoundTrip.vms
  | vnma => apply RoundTrip.vnma
  | vneg => apply RoundTrip.vneg
  | vabs => apply RoundTrip.vabs
  | vsqrt => apply RoundTrip.vsqrt
  | vrcp => apply RoundTrip.vrcp
  | vrsq => apply RoundTrip.vrsq
  | vexp2 => apply RoundTrip.vexp2
  | vlog2 => apply RoundTrip.vlog2
  | vclass => apply RoundTrip.vclass
  | vmov => apply RoundTrip.vmov
  | viota => apply RoundTrip.viota
  | vcvt => apply RoundTrip.vcvt
  | vcmp => apply RoundTrip.vcmp
  | vsel => apply RoundTrip.vsel
  | vperm => apply RoundTrip.vperm
  | vcompress => apply RoundTrip.vcompress
  | vqsend => apply RoundTrip.vqsend
  | vqrecv => apply RoundTrip.vqrecv
  | vredsum => apply RoundTrip.vredsum
  | vredosum => apply RoundTrip.vredosum
  | vredmax => apply RoundTrip.vredmax
  | vredmin => apply RoundTrip.vredmin
  | vargmax => apply RoundTrip.vargmax
  | vargmin => apply RoundTrip.vargmin
  | vscan => apply RoundTrip.vscan
  | kand => apply RoundTrip.kand
  | kor => apply RoundTrip.kor
  | kxor => apply RoundTrip.kxor
  | knot => apply RoundTrip.knot
  | kmov => apply RoundTrip.kmov
  | kpop => apply RoundTrip.kpop
  | kfirst => apply RoundTrip.kfirst
  | vld => apply RoundTrip.vld
  | vst => apply RoundTrip.vst
  | vamo => apply RoundTrip.vamo
  | vamon => apply RoundTrip.vamon
  | tshape => apply RoundTrip.tshape
  | ten => apply RoundTrip.ten
  | tdis => apply RoundTrip.tdis
  | tzero => apply RoundTrip.tzero
  | tslice => apply RoundTrip.tslice
  | tld => apply RoundTrip.tld
  | tst => apply RoundTrip.tst
  | mma => apply RoundTrip.mma
  | mmax => apply RoundTrip.mmax
  | accrd => apply RoundTrip.accrd
  | accwr => apply RoundTrip.accwr
  | accz => apply RoundTrip.accz
  | xcpy => apply RoundTrip.xcpy
  | xdeil => apply RoundTrip.xdeil
  | xred => apply RoundTrip.xred
  | xwait => apply RoundTrip.xwait
  | skbind => apply RoundTrip.skbind
  | skloop => apply RoundTrip.skloop
  | skend => apply RoundTrip.skend
  | skfence => apply RoundTrip.skfence
  | skstrm => apply RoundTrip.skstrm
  | rlopen => apply RoundTrip.rlopen
  | rlrel => apply RoundTrip.rlrel
  | rlstat => apply RoundTrip.rlstat
  | bkop => apply RoundTrip.bkop
  | bkwave => apply RoundTrip.bkwave
  | bkfence => apply RoundTrip.bkfence
  | urank => apply RoundTrip.urank
  | ucommit => apply RoundTrip.ucommit
  | udirty => apply RoundTrip.udirty
  | ucfg => apply RoundTrip.ucfg
  | smpstep => apply RoundTrip.smpstep
  | vaccept => apply RoundTrip.vaccept
  | vpand => apply RoundTrip.vpand
  | vgumbel => apply RoundTrip.vgumbel
  | vdraw => apply RoundTrip.vdraw
  | jadd => apply RoundTrip.jadd
  | jcommit => apply RoundTrip.jcommit
  | jdrop => apply RoundTrip.jdrop
  | scall => apply RoundTrip.scall
  | ebreak => apply RoundTrip.ebreak
  | eret => apply RoundTrip.eret
  | erpl => apply RoundTrip.erpl
  | _ => exact fun h => Bool.noConfusion h

/-- Settles O1, by the round trip of each instruction. -/
theorem decodeEncode : Obligations.DecodeEncode := decode_encode

/-- Settles O2: each example word is the encoder's word of its instruction, which the decoder reads back. -/
theorem imageWords : Obligations.ImageWords := by
  unfold Obligations.ImageWords
  have word {w : IWord} {i : Instr} (hi : i.wf = true) (hw : w = encode i) : decode w = .ok i :=
    hw ▸ decode_encode i hi
  refine ⟨?_, ?_, ?_, ?_, ?_, ?_, ?_, ?_, ?_, ?_, ?_, ?_, ?_, ?_, ?_, ?_, ?_, ?_, ?_, ?_, ?_, ?_, ?_, ?_, ?_, ?_, ?_, ?_,
    ?_, ?_, ?_⟩ <;> exact word rfl rfl

end Sys2Proof.Laws
end

section
/-! Proofs, 04: what a step does at a boundary: the word at the PC fetched, decoded and executed (R25, R103, R268). -/

namespace Sys2Proof.Machine

/-! ### The word at the PC -/

/-- The two low bits of the PC are those of its address. -/
theorem field_pc (pc : BitVec 57) : field (pc.setWidth 64) 0 2 = (pc.extractLsb' 0 2).toNat := by
  have hlt : pc.toNat % 2 ^ 64 = pc.toNat := Nat.mod_eq_of_lt (by have := pc.isLt; omega)
  simp only [field, BitVec.toNat_setWidth, BitVec.extractLsb'_toNat, Nat.shiftRight_zero, hlt]

/-- Four bytes of memory, lowest address first, are the word whose bytes they are. -/
theorem word_ofBytes {w : IWord} {g : Nat → Byte} (h : ∀ k, k < 4 → w.extractLsb' (8 * k) 8 = g k) :
    BitVec.ofNat 32 (ofBytes ((List.range 4).map g)) = w := by
  have hb (k : Nat) (hk : k < 4) : (g k).toNat = w.toNat / 2 ^ (8 * k) % 256 := by
    rw [← h k hk, BitVec.extractLsb'_toNat, Nat.shiftRight_eq_div_pow]
  have hw := w.isLt
  apply BitVec.eq_of_toNat_eq
  simp only [List.range_succ, List.range_zero, List.nil_append, List.cons_append, List.map_cons, List.map_nil, ofBytes,
    hb 0 (by omega), hb 1 (by omega), hb 2 (by omega), hb 3 (by omega), BitVec.toNat_ofNat]
  omega

/-- A location that a fetch reaches lies in memory: the window refuses fetches (R149). -/
theorem State.locate_fetch {s : State} {super : Bool} {va : Dword} {l : Loc} (h : s.locate super .fetch va = .ok l) :
    ∃ p e, l = .phys p e := by
  unfold State.locate State.locateIn at h
  split at h
  · have hw : s.windowAt .fetch va = .error Acc.fetch.access := rfl
    rw [hw] at h
    cases h
  · split at h
    · cases h
      exact ⟨_, _, rfl⟩
    · cases h

/-- An aligned PC that translates and is met by no error is fetched: the word is what memory holds there (R103). -/
theorem State.fetch_ok {s : State} {l : Loc} {w : IWord} (ha : s.lc.pc.extractLsb' 0 2 = 0)
    (hl : s.locate s.super .fetch (s.lc.pc.setWidth 64) = .ok l) (hh : ¬(s.runAhead = true ∧ l.isHost = true))
    (hb : s.badAt l = false) (hw : ∀ k, k < 4 → w.extractLsb' (8 * k) 8 = s.byteAt l k) :
    s.fetch = .ok { s with ir := w } := by
  have hf : ¬field (s.lc.pc.setWidth 64) 0 2 ≠ 0 := by rw [field_pc, ha]; decide
  have hloc : ({ s with ir := 0 } : State).locS .fetch (s.lc.pc.setWidth 64) = .ok l := by
    unfold State.locS
    rw [show ({ s with ir := 0 } : State).locate ({ s with ir := 0 } : State).super .fetch (s.lc.pc.setWidth 64) = .ok l
      from hl]
  have hread : ({ s with ir := 0 } : State).hostRead l (s.lc.pc.setWidth 64) 4 = .ok { s with ir := 0 } := by
    unfold State.hostRead
    refine if_pos ?_
    cases hr : s.runAhead <;> cases hi : l.isHost <;> simp_all
  have hword : ({ s with ir := 0 } : State).rawWord l = w := by
    obtain ⟨p, e, rfl⟩ := State.locate_fetch hl
    exact word_ofBytes hw
  unfold State.fetch
  simp only [hf, if_false, hloc, hread, bind, Except.bind]
  rw [if_neg (by rw [show ({ s with ir := 0 } : State).badAt l = s.badAt l by cases l <;> rfl, hb]; exact Bool.false_ne_true),
    hword]

/-- An unaligned PC raises MISALIGNED_FETCH before anything is read (R268). -/
theorem State.fetch_misaligned {s : State} (ha : s.lc.pc.extractLsb' 0 2 ≠ 0) :
    s.fetch = ({ s with ir := 0 } : State).raise .misalignedFetch (s.lc.pc.setWidth 64) := by
  unfold State.fetch
  refine if_pos fun h0 => ha (BitVec.eq_of_toNat_eq ?_)
  rw [← field_pc]
  exact h0

/-! ### The turn of the LC in focus -/

/-- What a step makes of the end of an instruction: the account of the step, in a next state. -/
def State.accounted (b : State) : Out → Out
  | .next t => .next (b.after t)
  | .fault e => .fault e
  | .refused e => .refused e

/-- With an empty agenda and no trap at its boundary, the resident LC in focus runs one instruction. -/
theorem step_runOne {s : State} (ha : s.agenda = []) (hs : s.lc.status = .resident) (hb : s.atBoundary.boundary = none) :
    step s = s.atBoundary.accounted s.atBoundary.runOne := by
  unfold step State.turn
  rw [ha]
  simp only [hs, beq_self_eq_true, if_true, State.turnLc, hb]
  rfl

/-- A word fetched that is an instruction's is executed. -/
theorem State.runOne_ok {s t : State} {i : Instr} (h : (s.coreWalk (s.lc.pc.setWidth 64)).fetch = .ok t)
    (hd : decode t.ir = .ok i) : s.runOne = exec i (t.touch i) := by
  unfold State.runOne
  simp only [h, hd]

/-- A word fetched that is no instruction's raises what the decoder says (R103, R445). -/
theorem State.runOne_refused {s t : State} {e : DecodeFault} (h : (s.coreWalk (s.lc.pc.setWidth 64)).fetch = .ok t)
    (hd : decode t.ir = .error e) : s.runOne = t.finish (t.raise (decodeRaised e).1 (decodeRaised e).2) := by
  unfold State.runOne
  simp only [h, hd]

/-- A word that cannot be fetched raises with TINSN 0 (R268). -/
theorem State.runOne_unfetched {s : State} {h : Halt} (hf : (s.coreWalk (s.lc.pc.setWidth 64)).fetch = .error h) :
    s.runOne = ({ s.coreWalk (s.lc.pc.setWidth 64) with ir := 0 } : State).finish (.error h) := by
  unfold State.runOne
  simp only [hf]

/-- A trap of the boundary's instruction that the supervisor takes, with the step's account. -/
theorem State.accounted_raise {b f : State} {c : Cause} (v : Dword) (h : f.SuperTakes c) :
    ∃ t, b.accounted (f.finish (f.raise c v)) = .next (b.after t) ∧ f.TrappedSuper t c v :=
  ⟨_, rfl, f.takeTrap_super c v h⟩

/-- A walk keeps the PC. -/
theorem State.coreWalk_pc (s : State) (va : Dword) : (s.coreWalk va).lc.pc = s.lc.pc := by
  unfold State.coreWalk
  simp only
  split
  · rfl
  · split <;> rfl

/-- Settles O3: the step is its turn; at the boundary the fetch gives the word, and the decoder says which of its cases
it is. -/
theorem stepRunsDecoded : Obligations.StepRunsDecoded := by
  unfold Obligations.StepRunsDecoded
  refine ⟨fun s i r ha he => ?_, fun s l w ha hs => ?_⟩
  · unfold step State.turn
    rw [ha]
    simp only [State.move, he, if_true]
    cases exec i { s with agenda := r } <;> rfl
  · intro b va c f u hb
    have hpc : c.lc.pc = b.lc.pc := b.coreWalk_pc _
    refine ⟨fun hal hl hh hbad hw => ?_, fun hal hu => ?_⟩
    · have hf : c.fetch = .ok f := by
        refine State.fetch_ok (l := l) ?_ ?_ hh hbad hw
        · rw [hpc]; exact hal
        · rw [hpc]; exact hl
      rw [step_runOne ha hs hb]
      have raises {e : DecodeFault} (hd : decode w = .error e) (ht : f.SuperTakes (decodeRaised e).1) :
          ∃ t, b.accounted b.runOne = .next (b.after t) ∧ f.TrappedSuper t (decodeRaised e).1 (decodeRaised e).2 := by
        rw [State.runOne_refused hf hd]
        exact State.accounted_raise _ ht
      refine ⟨fun i hd => ?_, fun hd => raises hd, fun hd => raises hd, fun n hd => raises hd⟩
      change b.accounted b.runOne = _
      rw [State.runOne_ok hf hd]
      cases exec i (f.touch i) <;> rfl
    · have hf : c.fetch = u.raise .misalignedFetch va := by
        rw [State.fetch_misaligned (by rw [hpc]; exact hal), hpc]
      rw [step_runOne ha hs hb]
      change ∃ t, b.accounted b.runOne = _ ∧ _
      rw [State.runOne_unfetched hf]
      exact State.accounted_raise _ hu

end Sys2Proof.Machine
end

section
/-! Proofs, 04: scalar floating point: results with their flags, and the formats accepted and refused (R77, R131, R345 to
R347, R445). -/

namespace Sys2Proof.Machine

/-! ### Flags and their traps (R77, R131) -/

/-- A cause is told by its code (R274). -/
theorem Cause.code_injective {c e : Cause} (h : c.code = e.code) : c = e := by
  have hi : c.ctorIdx = e.ctorIdx := Nat.succ.inj h
  rw [← Cause.ofNat_ctorIdx c, hi, Cause.ofNat_ctorIdx]

theorem fpCause_code (b : Nat) (h : b < 6) : (fpCause b).code = 0x3A + b := by
  interval_cases b <;> rfl

/-- The least number below a bound that satisfies a property. -/
theorem leastBelow_eq {p : Nat → Bool} {b n : Nat} (hb : p b = true) (hl : ∀ a, a < b → p a = false) (hn : b < n) :
    leastBelow p n = some b := by
  have below (m : Nat) (hm : m ≤ b) : leastBelow p m = none := by
    induction m with
    | zero => rfl
    | succ m ih => simp [leastBelow, ih (by omega), hl m (by omega)]
  induction n with
  | zero => omega
  | succ n ih =>
    rcases Nat.lt_succ_iff_lt_or_eq.mp hn with h | rfl
    · simp [leastBelow, ih h]
    · simp [leastBelow, below b le_rfl, hb]

/-- A property that nothing satisfies has no least number. -/
theorem leastBelow_none {p : Nat → Bool} (n : Nat) (h : ∀ a, p a = false) : leastBelow p n = none := by
  induction n with
  | zero => rfl
  | succ n ih => simp [leastBelow, ih, h]

/-- No flag that FTRAPEN enables is raised: there is no trap. -/
theorem State.fpTrap_none {s : State} {fl : Flags} (h : fl.setWidth 6 &&& s.lc.ftrapen = 0) : s.fpTrap fl = none := by
  have : lowestFlag s.lc.ftrapen fl = none := leastBelow_none 6 fun a => by simp [enabledFlags, h]
  rw [State.fpTrap, this, Option.map_none]

/-- The lowest enabled flag that is raised gives the trap, and the enabled flags are its TVAL. -/
theorem State.fpTrap_lowest {s : State} {fl : Flags} {b : Nat} (hb : b < 6)
    (h : (fl.setWidth 6 &&& s.lc.ftrapen).getLsbD b = true)
    (hl : ∀ a, a < b → (fl.setWidth 6 &&& s.lc.ftrapen).getLsbD a = false) :
    s.fpTrap fl = some (fpCause b, (fl.setWidth 6 &&& s.lc.ftrapen).setWidth 64) := by
  have : lowestFlag s.lc.ftrapen fl = some b := leastBelow_eq h hl hb
  rw [State.fpTrap, this]
  rfl

/-- An instruction that ends in `fpResult` completes or traps as R131 and R346 say. -/
theorem fpCompletes_of_fpResult {i : Instr} {s : State} {d : SReg} {r : Nat × Flags} {v : Dword}
    (h : exec i s = s.finish (s.fpResult d r v)) : fpCompletes i s d v r.2 := by
  refine ⟨fun hn => ⟨_, ?_, (s.addFlags r.2).wrote_setS d v⟩, fun b c hb hc hf hl => ?_⟩
  · rw [h, State.fpResult, State.fpTrap_none hn]
    rfl
  · obtain rfl : c = fpCause b := Cause.code_injective (hc.trans (fpCause_code b hb).symm)
    have he : exec i s = .next ((s.addFlags r.2).takeTrap
        ((s.addFlags r.2).report (fpCause b) ((r.2.setWidth 6 &&& s.lc.ftrapen).setWidth 64)) false) := by
      rw [h, State.fpResult, State.fpTrap_lowest hb hf hl]
      rfl
    exact ⟨fun hu => ⟨_, he, State.takeTrap_user _ _ _ hu⟩, fun hu => ⟨_, he, State.takeTrap_super _ _ _ hu⟩⟩

/-! ### The formats accepted (R345, R347) -/

section
variable {s : State} {d a b : SReg} {t : BitVec 3} {y e : Ty} {ok : Ty → Bool}

theorem State.fp2_accepted {f : Fmt → Nat → Nat → Nat → Nat × Flags} (hy : fpType t = some y) (hok : ok y = true)
    (ha : s.Readable a) (hb : s.Readable b) (hd : s.Writable d) :
    s.fp2 d a b t ok f = s.fpResult d (f (Ty.fmt y) s.lc.vec.frm.toNat (lowBits y (s.getS a)) (lowBits y (s.getS b)))
      (BitVec.ofNat 64 (f (Ty.fmt y) s.lc.vec.frm.toNat (lowBits y (s.getS a)) (lowBits y (s.getS b))).1) := by
  simp only [State.fp2, hy, hok, State.useS_ok ha, State.useS_ok hb, State.claimS_ok hd]
  rfl

theorem State.fp1_accepted {f : Fmt → Nat → Nat → Nat × Flags} (hy : fpType t = some y) (hok : ok y = true)
    (ha : s.Readable a) (hd : s.Writable d) :
    s.fp1 d a t ok f = s.fpResult d (f (Ty.fmt y) s.lc.vec.frm.toNat (lowBits y (s.getS a)))
      (BitVec.ofNat 64 (f (Ty.fmt y) s.lc.vec.frm.toNat (lowBits y (s.getS a))).1) := by
  simp only [State.fp1, hy, hok, State.useS_ok ha, State.claimS_ok hd]
  rfl

theorem exec_fma_accepted (hy : fpType t = some y) (ha : s.Readable a) (hb : s.Readable b) (hd : s.Readable d) :
    exec (.fma d a b t) s = s.finish (s.fpResult d
      ((Ty.fmt y).fma s.lc.vec.frm.toNat (lowBits y (s.getS a)) (lowBits y (s.getS b)) (lowBits y (s.getS d)))
      (BitVec.ofNat 64 ((Ty.fmt y).fma s.lc.vec.frm.toNat (lowBits y (s.getS a)) (lowBits y (s.getS b))
        (lowBits y (s.getS d))).1)) := by
  show execFma d a b t s = _
  simp only [execFma, hy, State.useS_ok ha, State.useS_ok hb, State.useS_ok hd]
  rfl

theorem exec_fcvtFromFp_accepted (hy : fpType t = some y) (he : cvtDst e = true) (ha : s.Readable a) (hd : s.Writable d) :
    exec (.fcvtFromFp d a e t) s = s.finish (s.fpResult d (cvtFromF y e s.lc.vec.frm.toNat (lowBits y (s.getS a)))
      (extendLoad e.signed e.bytes (cvtFromF y e s.lc.vec.frm.toNat (lowBits y (s.getS a))).1)) := by
  show execFcvtFromFp d a e t s = _
  simp only [execFcvtFromFp, hy, he, State.useS_ok ha, State.claimS_ok hd]
  rfl

/-- The value of an integer source: signed or not, its low bits (R127). -/
theorem toSigned_setWidth (w : Nat) (x : Dword) (hw : 0 < w) : toSigned w x.toNat = (x.setWidth w).toInt := by
  have hp : 2 ^ w = 2 * 2 ^ (w - 1) := by rw [← pow_succ', Nat.sub_add_cancel hw]
  rw [BitVec.toInt_eq_toNat_cond, BitVec.toNat_setWidth, toSigned]
  by_cases h : x.toNat % 2 ^ w < 2 ^ (w - 1)
  · rw [if_pos h, if_pos (by omega)]
  · rw [if_neg h, if_neg (by omega)]
    push_cast
    rfl

theorem exec_fcvtFromInt_accepted (hy : intType t = some y) (he : e.cls = .F) (ha : s.Readable a) (hd : s.Writable d) :
    let v : Int := if y.signed then ((s.getS a).setWidth y.bits).toInt else ((s.getS a).setWidth y.bits).toNat
    exec (.fcvtFromInt d a e t) s = s.finish (s.fpResult d (cvtIF (Ty.fmt e) s.lc.vec.frm.toNat v)
      (BitVec.ofNat 64 (cvtIF (Ty.fmt e) s.lc.vec.frm.toNat v).1)) := by
  intro v
  have hv : v = if y.signed then toSigned y.bits (s.getS a).toNat else (lowBits y (s.getS a) : Nat) := by
    rw [toSigned_setWidth _ _ (by cases y <;> decide)]
    simp only [v, lowBits, BitVec.toNat_setWidth]
  show execFcvtFromInt d a e t s = _
  rw [hv]
  simp only [execFcvtFromInt, hy, he, State.useS_ok ha, State.claimS_ok hd]
  rfl

/-- A floating-point result in a register: zeros above its bits (R115). -/
theorem extendLoad_fp (he : e.cls = .F) (x : Nat) : extendLoad e.signed e.bytes x = zeroExtend64 e.bits x := by
  cases e <;> simp_all [Ty.cls] <;> rfl

end

/-- The results in the formats accepted (R345 to R347). -/
theorem scalarFloatResults_holds : scalarFloatResults := by
  intro d a b t s ha
  refine ⟨fun y hy => ⟨fun hd => ⟨fun hb => ?_, fun hw => ?_, ?_, fun e he => ?_, fun e he => ?_⟩, fun hb hd => ?_⟩,
    fun y e hy he hd => ?_⟩
  · have two (ok : Ty → Bool) (f : Fmt → Nat → Nat → Nat → Nat × Flags) (hok : ok y = true) :=
      congrArg s.finish (State.fp2_accepted (f := f) hy hok ha hb hd)
    exact ⟨fpCompletes_of_fpResult (two anyFp Fmt.add rfl), fpCompletes_of_fpResult (two anyFp Fmt.sub rfl),
      fpCompletes_of_fpResult (two anyFp Fmt.mul rfl),
      fpCompletes_of_fpResult (two anyFp (fun f _ x y => f.minmax false x y) rfl),
      fpCompletes_of_fpResult (two anyFp (fun f _ x y => f.minmax true x y) rfl),
      fpCompletes_of_fpResult (two anyFp (fun f _ x y => f.fcmp x y) rfl),
      fun hw => fpCompletes_of_fpResult (two wideFp Fmt.div (by simpa [wideFp] using hw))⟩
  · exact fpCompletes_of_fpResult
      (congrArg s.finish (State.fp1_accepted (ok := wideFp) (f := Fmt.sqrt) hy (by simpa [wideFp] using hw) ha hd))
  · exact fpCompletes_of_fpResult
      (congrArg s.finish (State.fp1_accepted (ok := anyFp) (f := fun f _ x => (f.cls x, 0)) hy rfl ha hd))
  · have hr := exec_fcvtFromFp_accepted (e := e) hy (by simp [cvtDst, he]) ha hd
    rw [extendLoad_fp he] at hr
    simp only [cvtFromF, he, beq_self_eq_true, if_true] at hr
    exact fpCompletes_of_fpResult hr
  · have hc : (e.cls == .F) = false := by rcases he with rfl | rfl | rfl | rfl <;> rfl
    have hr := exec_fcvtFromFp_accepted (e := e) hy (by rcases he with rfl | rfl | rfl | rfl <;> rfl) ha hd
    simp only [cvtFromF, hc, Bool.false_eq_true, if_false] at hr
    exact fpCompletes_of_fpResult hr
  · exact fpCompletes_of_fpResult (exec_fma_accepted hy ha hb hd)
  · exact fpCompletes_of_fpResult (exec_fcvtFromInt_accepted hy he ha hd)

/-! ### The formats refused (R345, R445) -/

section
variable {s : State} {d a b : SReg} {t : BitVec 3} {ok : Ty → Bool}

theorem fpType_none (h : 4 ≤ t.toNat) : fpType t = none := by
  unfold fpType
  split
  case h_5 => rfl
  all_goals omega

theorem intType_none (h : 4 ≤ t.toNat) : intType t = none := by
  unfold intType
  split
  case h_5 => rfl
  all_goals omega

theorem fpType_narrow (h : 2 ≤ t.toNat) (y : Ty) (hy : fpType t = some y) : wideFp y = false := by
  unfold fpType at hy
  split at hy
  case h_5 => cases hy
  case h_3 | h_4 => cases hy; rfl
  all_goals omega

/-- The formats that a test refuses, or that have no format at all, are bad ones. -/
theorem State.fp2_refused {f : Fmt → Nat → Nat → Nat → Nat × Flags} (h : ∀ y, fpType t = some y → ok y = false) :
    s.fp2 d a b t ok f = s.badFormat t := by
  unfold State.fp2
  cases hy : fpType t with
  | none => rfl
  | some y => simp only [h y hy]; rfl

theorem State.fp1_refused {f : Fmt → Nat → Nat → Nat × Flags} (h : ∀ y, fpType t = some y → ok y = false) :
    s.fp1 d a t ok f = s.badFormat t := by
  unfold State.fp1
  cases hy : fpType t with
  | none => rfl
  | some y => simp only [h y hy]; rfl

end

/-- The formats refused raise BAD_TYPE (R345, R445). -/
theorem scalarFloatFormats_holds : scalarFloatFormats := by
  intro d a b e t s hs
  have raised {i : Instr} (h : exec i s = s.finish (s.badFormat t)) :
      ∃ u, exec i s = .next u ∧ s.TrappedSuper u .badType (t.setWidth 64) :=
    ⟨_, h, s.takeTrap_super _ _ hs⟩
  refine ⟨fun h4 => ?_, fun h2 => ?_⟩
  · have none {ok : Ty → Bool} (y : Ty) (hy : fpType t = some y) : ok y = false := by
      rw [fpType_none h4] at hy
      cases hy
    refine ⟨raised (congrArg s.finish (State.fp2_refused none)), raised (congrArg s.finish (State.fp2_refused none)),
      raised (congrArg s.finish (State.fp2_refused none)), raised (congrArg s.finish (State.fp2_refused none)),
      raised (congrArg s.finish (State.fp2_refused none)), raised (congrArg s.finish (State.fp2_refused none)),
      raised (congrArg s.finish (State.fp1_refused none)), raised ?_, raised ?_, raised ?_⟩
    · show execFma d a b t s = _
      simp only [execFma, fpType_none h4]
    · show execFcvtFromFp d a e t s = _
      simp only [execFcvtFromFp, fpType_none h4]
    · show execFcvtFromInt d a e t s = _
      simp only [execFcvtFromInt, intType_none h4]
  · exact ⟨raised (congrArg s.finish (State.fp2_refused (fpType_narrow h2))),
      raised (congrArg s.finish (State.fp1_refused (fpType_narrow h2)))⟩

/-- Settles O10: the results with their flags or traps, and the formats refused. -/
theorem scalarFloat : Obligations.ScalarFloat := ⟨scalarFloatResults_holds, scalarFloatFormats_holds⟩

end Sys2Proof.Machine
end

section
/-! Proofs, 04: CSRs read, written, set and cleared, and the accesses that trap (R73, R76 to R82, R269, R342, R343). -/

namespace Sys2Proof.Machine

/-! ### What the tables say of a plain CSR -/

/-- What the CSR tables say of one number: the CSR is the field read, the mask is its RW bits at either level, it has no
W1C and no WO field, its values are refused as R76 says, and a write sets the field. -/
structure PlainFacts (n : Nat) (m : Dword) (get : State → Dword) (set : State → Dword → State) : Prop where
  number : n < 2 ^ 14
  read : ∀ s : State, s.csr n = some (get s)
  rw_ : ∀ super, csrRw n super = m
  some_ : m ≠ 0
  w1c : csrW1c n = 0
  wo : csrWo n = false
  waits : csrWaitsVk n = true → n = 0x003 ∨ n = 0x004 ∨ n = 0x00A
  shapes : (n == 0x018 || n == 0x019) = false ∧ (decide (0x010 ≤ n) && decide (n < 0x018)) = false
  store : ∀ (s : State) v, s.csrStore n v = if !s.csrAccepts n v then s.badCsr n else .ok (set s v, true)
  accepts : ∀ (s : State) v, s.csrAccepts n v = true ↔ ¬csrRefuses n v

/-- The plain CSRs, one by one. -/
theorem plainCsr_facts {n : Nat} {m : Dword} {get : State → Dword} {set : State → Dword → State}
    (h : plainCsr n = some (m, get, set)) : PlainFacts n m get set := by
  unfold plainCsr at h
  split at h
  case h_36 => cases h
  all_goals
    obtain ⟨rfl, rfl, rfl⟩ : _ = m ∧ _ = get ∧ _ = set := by
      simpa only [csrLc, csrVec, csrGen, csrTrap, Option.some.injEq, Prod.mk.injEq] using h
    exact {
      number := by decide, read := fun _ => rfl, rw_ := fun super => rfl, some_ := by decide, w1c := rfl, wo := rfl
      waits := by decide, shapes := by decide, store := fun _ _ => rfl
      accepts := fun s v => by simp [State.csrAccepts, csrRefuses] }

/-! ### An access that is reached -/

section
variable {s : State} {n : Nat} {m : Dword} {get : State → Dword} {set : State → Dword → State} {a d : SReg}

/-- A plain CSR that the level reaches reads as its field. -/
theorem PlainFacts.reach (f : PlainFacts n m get set) (hs : 0x100 ≤ n → s.super = true) (read : Bool) :
    s.csrReach n read = .ok (get s) := by
  unfold State.csrReach
  rw [f.read s]
  refine if_neg fun hc => ?_
  simp only [Bool.and_eq_true, decide_eq_true_eq, Bool.not_eq_true'] at hc
  rw [hs hc.1.1] at hc
  exact Bool.noConfusion hc.1.2

/-- An access of a plain CSR waits for nothing, once the V and K streams are quiet for those that wait for them. -/
theorem PlainFacts.wait (f : PlainFacts n m get set) (hv : n = 0x003 ∨ n = 0x004 ∨ n = 0x00A → s.vkQuiet = true)
    (read : Bool) : s.csrWait n read = .ok () := by
  have hq : (csrWaitsVk n && !s.vkQuiet) = false := by
    cases hc : csrWaitsVk n with
    | false => rfl
    | true => simp [hv (f.waits hc)]
  unfold State.csrWait
  simp only [hq, f.shapes, ite_self, Bool.false_eq_true, if_false]

theorem PlainFacts.writable (f : PlainFacts n m get set) (super : Bool) : csrWritable n super = true := by
  have h : (m != 0) = true := by simpa using f.some_
  simp only [csrWritable, f.rw_, h, Bool.true_or]

/-- A CSR instruction of a plain CSR whose register is readable stores its new value. -/
theorem PlainFacts.csrWrite (f : PlainFacts n m get set) (hs : 0x100 ≤ n → s.super = true)
    (hv : n = 0x003 ∨ n = 0x004 ∨ n = 0x00A → s.vkQuiet = true) (ha : s.Readable a) (o : CsrOp) :
    s.csrWrite o a n = if o ≠ .write ∧ a = 0 then .ok s.retire
      else if s.csrAccepts n (csrNew o (get s) (s.getS a) m 0) then .ok (set s (csrNew o (get s) (s.getS a) m 0)).retire
      else s.badCsr n := by
  unfold State.csrWrite
  simp only [f.reach hs, f.writable, f.wo, State.useS_ok ha, f.wait hv, f.rw_, f.w1c, f.store, bind, Except.bind]
  by_cases hz : o ≠ .write ∧ a = 0
  · rw [if_pos hz, if_neg (by simp), if_neg (by simp), if_pos (by simp [hz.1, hz.2])]
  · rw [if_neg hz, if_neg (by simp), if_neg (by simp), if_neg (by simpa using hz)]
    simp only [Bool.false_eq_true, if_false]
    cases s.csrAccepts n (csrNew o (get s) (s.getS a) m 0) <;> rfl

/-- The instruction of an operation on a CSR. -/
def csrInstr (o : CsrOp) (a : SReg) (c : BitVec 14) : Instr :=
  match o with
  | .write => .csrw a c
  | .set => .csrs a c
  | .clear => .csrc a c

theorem exec_csrInstr (o : CsrOp) (a : SReg) (c : BitVec 14) (s : State) :
    exec (csrInstr o a c) s = s.finish (s.csrWrite o a c.toNat) := by
  cases o <;> rfl

theorem exec_csrr (d : SReg) (c : BitVec 14) (s : State) : exec (.csrr d c) s = s.finish (do
    let v ← s.csrReach c.toNat true
    s.claimS d
    s.csrWait c.toNat true
    .ok (s.setS d v).retire) := rfl

theorem PlainFacts.toNat_ofNat (f : PlainFacts n m get set) : (BitVec.ofNat 14 n).toNat = n := by
  rw [BitVec.toNat_ofNat, Nat.mod_eq_of_lt f.number]

/-- A value that is accepted is written; another raises BAD_CONTROL_STATE naming the CSR (R73). -/
theorem PlainFacts.exec_write (f : PlainFacts n m get set) (hs : 0x100 ≤ n → s.super = true)
    (hv : n = 0x003 ∨ n = 0x004 ∨ n = 0x00A → s.vkQuiet = true) (ha : s.Readable a) (o : CsrOp)
    (hz : ¬(o ≠ .write ∧ a = 0)) {v : Dword} (hn : csrNew o (get s) (s.getS a) m 0 = v) :
    (¬csrRefuses n v → exec (csrInstr o a (BitVec.ofNat 14 n)) s = .next (set s v).retire)
    ∧ (csrRefuses n v → s.SuperTakes .badControlState →
      ∃ t, exec (csrInstr o a (BitVec.ofNat 14 n)) s = .next t
        ∧ s.TrappedSuper t .badControlState (BitVec.ofNat 64 n)) := by
  rw [exec_csrInstr, f.toNat_ofNat, f.csrWrite hs hv ha, if_neg hz, hn]
  refine ⟨fun hr => ?_, fun hr ht => ?_⟩
  · rw [if_pos ((f.accepts s v).mpr hr)]
    rfl
  · rw [if_neg fun h => (f.accepts s v).mp h hr]
    exact ⟨_, rfl, s.takeTrap_super _ _ ht⟩

/-- CSRS and CSRC with s0 write nothing (R343). -/
theorem PlainFacts.exec_s0 (f : PlainFacts n m get set) (hs : 0x100 ≤ n → s.super = true)
    (hv : n = 0x003 ∨ n = 0x004 ∨ n = 0x00A → s.vkQuiet = true) (ha : s.Readable a) (o : CsrOp)
    (hz : o ≠ .write ∧ a = 0) : exec (csrInstr o a (BitVec.ofNat 14 n)) s = .next s.retire := by
  rw [exec_csrInstr, f.toNat_ofNat, f.csrWrite hs hv ha, if_pos hz]
  rfl

end

/-- A mask of no bits clears nothing. -/
theorem and_not_and_zero (x v : Dword) : x &&& ~~~(v &&& 0) = x := by
  show x &&& ~~~(v &&& 0#64) = x
  rw [BitVec.and_zero, BitVec.not_zero, BitVec.and_allOnes]

/-- The values that CSRs take and give (R73, R342, R343). -/
theorem csrValues_holds : csrValues := by
  intro n m get set d a s h hs hv
  have f := plainCsr_facts h
  refine ⟨fun hd => ⟨_, ?_, s.wrote_setS d (get s)⟩, fun ha => ⟨?_, fun h0 => ⟨?_, ?_⟩, fun h0 => ⟨?_, ?_⟩⟩⟩
  · rw [exec_csrr, f.toNat_ofNat, f.reach hs, State.claimS_ok hd, f.wait hv]
    rfl
  · exact f.exec_write hs hv ha .write (fun h => h.1 rfl) (and_not_and_zero _ _)
  · exact f.exec_write hs hv ha .set (fun h => h0 h.2) (and_not_and_zero _ _)
  · exact f.exec_write hs hv ha .clear (fun h => h0 h.2) rfl
  · exact f.exec_s0 hs hv ha .set ⟨by decide, h0⟩
  · exact f.exec_s0 hs hv ha .clear ⟨by decide, h0⟩

/-! ### The accesses that trap (R73) -/

section
variable {s : State} {c : BitVec 14}

/-- An access that its CSR refuses raises the CSR's trap, whatever the instruction. -/
theorem exec_csr_raises {e : Cause} {v : Dword} (ht : s.SuperTakes e) :
    (∀ d, s.csrReach c.toNat true = s.raise e v → ∃ t, exec (.csrr d c) s = .next t ∧ s.TrappedSuper t e v)
    ∧ ∀ o a, s.csrReach c.toNat false = s.raise e v →
      ∃ t, exec (csrInstr o a c) s = .next t ∧ s.TrappedSuper t e v := by
  refine ⟨fun d h => ?_, fun o a h => ?_⟩
  · rw [exec_csrr, h]
    exact ⟨_, rfl, s.takeTrap_super _ _ ht⟩
  · rw [exec_csrInstr, State.csrWrite, h]
    exact ⟨_, rfl, s.takeTrap_super _ _ ht⟩

/-- At user level a CSR from 0x100 on is out of reach, but for a read of 0x116. -/
theorem State.csrReach_privileged {v : Dword} (hc : s.csr c.toNat = some v) (hn : 0x100 ≤ c.toNat)
    (hs : s.super = false) (read : Bool) (hr : read = true → c.toNat ≠ 0x116) :
    s.csrReach c.toNat read = s.raise .privileged (c.setWidth 64) := by
  have hv : BitVec.ofNat 64 c.toNat = c.setWidth 64 := by
    apply BitVec.eq_of_toNat_eq
    simp
  unfold State.csrReach
  simp only [hc]
  rw [if_pos, hv]
  cases read with
  | false => simp [hn, hs]
  | true => simp [hn, hs, hr rfl]

end

theorem csrTraps_holds : csrTraps := by
  intro c d a s
  refine ⟨fun v hc hn hs ht => ?_, fun hc ht => ?_⟩
  · obtain ⟨hread, hwrite⟩ := exec_csr_raises (c := c) (v := c.setWidth 64) ht
    have hw := State.csrReach_privileged hc hn hs false (by simp)
    exact ⟨fun h => hread d (State.csrReach_privileged hc hn hs true fun _ => h), hwrite .write a hw, hwrite .set a hw,
      hwrite .clear a hw⟩
  · obtain ⟨hread, hwrite⟩ := exec_csr_raises (c := c) (v := 0) ht
    have hr (read : Bool) : s.csrReach c.toNat read = s.raise .illegalOpcode 0 := by
      unfold State.csrReach
      rw [hc]
    exact ⟨hread d (hr _), hwrite .write a (hr _), hwrite .set a (hr _), hwrite .clear a (hr _)⟩

/-- Settles O16: the table of the plain CSRs gives every clause of the values; the traps are raised before anything is
read. -/
theorem csrAccess : Obligations.CsrAccess := ⟨csrValues_holds, csrTraps_holds⟩

end Sys2Proof.Machine
end

section
/-! Proofs, 04: tile and accumulator instructions handed off on their own (R103, R235, R241, R243, R327, R389). -/

namespace Sys2Proof.Machine

/-! ### The checks of R103 on their own -/

section
variable {s : State}

/-- With nothing queued, TSTATE.EN counts as it stands (R389). -/
theorem State.Alone.enView (h : s.Alone) : s.enView = s.part.tstate.getLsbD 0 := by
  simp [State.enView, h.queue]

theorem State.Alone.accView (h : s.Alone) : s.accView = s.part.accalloc := by
  simp [State.accView, h.queue]

/-- With nothing queued, no instruction has still to write the tile configurations (R238). -/
theorem State.Alone.shapesDone (h : s.Alone) : s.shapesDone = .ok () := by
  have hl : s.liveV = [] := by simp [State.liveV, State.queuedV, h.queue, h.matrix]
  rw [State.shapesDone, hl]
  rfl

/-- The checks of a tile or accumulator instruction with good fields pass while tile state is enabled (R103). -/
theorem State.Alone.guard_ok {regs types : List (Nat × Bool)} {bits : Nat} {m : Bool} (h : s.Alone)
    (hr : regs.all (·.2) = true) (ht : types.all (·.2) = true) (he : s.part.tstate.getLsbD 0 = true)
    (hv : s.lc.vec.vl.toNat ≤ mvlOf false bits) (hm : m = true → s.lc.vec.vl.toNat ≤ 1024) :
    s.guard { tguard regs types bits with governed := m } = .ok () := by
  have hlt : s.lc.vec.vl.toNat ≤ 8192 := by have := s.lc.vec.vl.isLt; omega
  refine State.guard_ok hr ht h.owner (fun _ => h.enView.trans he) (by simp [tguard]) ?_
  refine State.checkVl_ok rfl hv hv ?_ hlt
  rintro (hk | ⟨hg, -⟩)
  · exact absurd hk (by simp [tguard])
  · exact hm hg

/-- Without tile state they raise TILE_STATE_DISABLED, whatever VL holds (R103 step 8). -/
theorem State.Alone.guard_disabled {regs types : List (Nat × Bool)} {bits : Nat} {m : Bool} (h : s.Alone)
    (hr : regs.all (·.2) = true) (ht : types.all (·.2) = true) (he : s.part.tstate.getLsbD 0 = false) :
    s.guard { tguard regs types bits with governed := m } = s.raise .tileStateDisabled 0 := by
  have htypes : types.find? (fun t => !t.2) = none := by
    rw [List.find?_eq_none]
    intro t hm
    simpa using List.all_eq_true.mp ht t hm
  unfold State.guard
  simp only [tguard, regs_ok _ hr, htypes, h.owner, h.enView, he]
  rfl

end

/-! ### A hand-off on its own -/

/-- The entry of an unplaced instruction without a scalar operand but `x`. -/
abbrev State.entry (s : State) (op : VOp) (x : Dword) : VEntry := s.capture op false x 0 0 false

/-- An instruction on its own that completes and leaves the streams quiet executes in the step that hands it off. -/
theorem State.handOff_alone {s t : State} {op : VOp} {x : Dword} (h : s.Alone) (hb : (s.entry op x).barrier = none)
    (hr : (s.alone (s.entry op x)).runEntry (s.entry op x) = .ok t) (hq : t.Quiet)
    (ht : t.part.vqueue = [s.entry op x]) :
    s.handOff false op x 0 0 false = .ok (t.vpop.count 2 ((s.alone (s.entry op x)).remOf (s.entry op x))) :=
  State.pass_alone h hb rfl hr hq ht

/-- A stream instruction on its own has executed when its meaning left the LC but VSTART, and the device, as they were. -/
theorem State.streamDone_of {s t : State} {e : VEntry} {n : Nat} (hs : t.lc.vstart = 0)
    (hl : { t.lc with vstart := s.lc.vstart } = (s.alone e).lc)
    (hr : { t with lc := s.lc, part := s.part, core := s.core } = s) : s.StreamDone (t.vpop.count 2 n).retire := by
  have hpc : t.lc.pc = s.lc.pc := (congrArg Lc.pc hl :)
  refine ⟨congrArg (· + 4) hpc, hs, ?_, ?_⟩
  · exact congrArg (fun l : Lc => { l with
      pc := s.lc.pc, passed := s.lc.passed, pcval := s.lc.pcval, async := s.lc.async }) hl
  · exact congrArg (fun u : State => { u with retired := s.retired }) hr

/-- The same of one that writes the tile configurations of the LC besides. -/
theorem State.streamDone_tcfg {s t : State} {e : VEntry} {n : Nat} (hs : t.lc.vstart = 0)
    (hl : { t.lc with vstart := s.lc.vstart, tcfg := s.lc.tcfg } = (s.alone e).lc)
    (hr : { t with lc := s.lc, part := s.part, core := s.core } = s) :
    let u := (t.vpop.count 2 n).retire
    s.StreamDone { u with lc := { u.lc with tcfg := s.lc.tcfg } } := by
  have hpc : t.lc.pc = s.lc.pc := (congrArg Lc.pc hl :)
  refine ⟨congrArg (· + 4) hpc, hs, ?_, ?_⟩
  · exact congrArg (fun l : Lc => { l with
      pc := s.lc.pc, passed := s.lc.passed, pcval := s.lc.pcval, async := s.lc.async }) hl
  · exact congrArg (fun u : State => { u with retired := s.retired }) hr

/-- The partition after an instruction on its own has left the queue. -/
theorem State.Alone.popped {s : State} {p : Part} (h : s.Alone) (e : VEntry) (hp : p = (s.alone e).part) :
    { p with vqueue := p.vqueue.tail, rem := s.part.rem, done := false } = s.part := by
  subst hp
  have hq : s.part.vqueue = [] := h.queue
  have hd : s.part.done = false := h.begun
  calc { (s.alone e).part with vqueue := (s.alone e).part.vqueue.tail, rem := s.part.rem, done := false }
      = { s.part with vqueue := (s.part.vqueue ++ [e]).tail, done := false } := rfl
    _ = { s.part with vqueue := [], done := false } := by rw [hq]; rfl
    _ = s.part := by rw [← hq, ← hd]

/-! ### TEN and TDIS (R235, R389) -/

section
variable {s : State}

theorem State.Alone.quiet_alone (h : s.Alone) (e : VEntry) : (s.alone e).Quiet :=
  ⟨h.inOrder, h.matrix, h.stalled, h.stores, h.kqueue, h.context, h.copies, h.bqueue, h.sequencers, h.slots⟩

theorem State.Alone.vqueue_alone (h : s.Alone) (e : VEntry) : (s.alone e).part.vqueue = [e] := by
  simp [State.alone, h.queue]

/-- TEN changes TSTATE alone, and only when EN was 0. -/
theorem State.runTen_eq (s : State) :
    s.runTen = { s with part := { s.part with tstate := if s.part.tstate.getLsbD 0 then s.part.tstate else 1 } } := by
  unfold State.runTen
  split <;> rfl

/-- TDIS frees the segments and the accumulators, and clears TSTATE and TCFG. -/
theorem State.runTdis_eq (s : State) : s.runTdis = { s with
    lc := { s.lc with tcfg := Vector.replicate 8 TCfg.zero }
    part := { s.part with
      grant := ⟨Vector.replicate 8 TCfg.zero, []⟩, segPoison := Vector.replicate 2 0, tstate := 0, accalloc := 0 } } :=
  rfl

theorem exec_ten (h : s.Alone) (hv : s.lc.vec.vl.toNat ≤ 4096) : ∃ n,
    exec .ten s = .next (((s.alone (s.entry .ten 0)).runTen.vdone.vpop.count 2 n).retire) := by
  have hg : s.guard {} = .ok () := by
    refine State.guard_ok rfl rfl h.owner (by simp) (by simp) ?_
    refine State.checkVl_ok rfl hv hv (by simp) ?_
    show s.lc.vec.vl.toNat ≤ 8192
    omega
  have hq : (s.alone (s.entry .ten 0)).runTen.vdone.Quiet := by
    rw [State.runTen_eq]
    exact ⟨h.inOrder, h.matrix, h.stalled, h.stores, h.kqueue, h.context, h.copies, h.bqueue, h.sequencers, h.slots⟩
  have ht : (s.alone (s.entry .ten 0)).runTen.vdone.part.vqueue = [s.entry .ten 0] := by
    rw [State.runTen_eq]
    exact h.vqueue_alone _
  refine ⟨(s.alone (s.entry .ten 0)).remOf (s.entry .ten 0), ?_⟩
  show s.finish (s.vop false {} .ten) = _
  rw [State.vop, hg]
  simp only [bind, Except.bind]
  rw [State.handOff_alone h rfl rfl hq ht]
  rfl

theorem exec_tdis (h : s.Alone) (hv : s.lc.vec.vl.toNat ≤ 4096) (he : s.part.tstate.getLsbD 0 = true) : ∃ n,
    exec .tdis s = .next (((s.alone (s.entry .tdis 0)).runTdis.vdone.vpop.count 2 n).retire) := by
  have hg : s.guard (tguard [] [] 8) = .ok () := h.guard_ok (m := false) rfl rfl he hv (by simp)
  refine ⟨(s.alone (s.entry .tdis 0)).remOf (s.entry .tdis 0), ?_⟩
  show s.finish (s.vop false (tguard [] [] 8) .tdis) = _
  rw [State.vop, hg]
  simp only [bind, Except.bind]
  rw [State.handOff_alone (t := (s.alone (s.entry .tdis 0)).runTdis.vdone) h rfl rfl
    ⟨h.inOrder, h.matrix, h.stalled, h.stores, h.kqueue, h.context, h.copies, h.bqueue, h.sequencers, h.slots⟩
    (h.vqueue_alone _)]
  rfl

end

/-- No segment and no configuration is no tile at all (R237). -/
theorem State.tilesOk_none {t : State} (hl : t.lc.tcfg = Vector.replicate 8 TCfg.zero)
    (hg : t.part.grant = ⟨Vector.replicate 8 TCfg.zero, []⟩) : t.TilesOk where
  segs := by rw [hg]; exact List.nodup_nil
  room := by rw [hg]; decide
  rows t := by simp only [hl, hg]; exact le_rfl
  cols t := by
    have hz : (Vector.replicate 8 TCfg.zero)[t] = TCfg.zero := Vector.getElem_replicate _
    rw [hl, hz]
    exact Nat.zero_le _

theorem tileEnable_holds : tileEnable := by
  intro s h hv
  refine ⟨?_, fun he => ?_, fun he ht => ?_⟩
  · obtain ⟨n, hx⟩ := exec_ten h hv
    rw [State.runTen_eq] at hx
    refine ⟨_, hx, State.streamDone_of (e := s.entry .ten 0) rfl rfl rfl, rfl, rfl, ?_⟩
    exact h.popped (s.entry .ten 0) rfl
  · obtain ⟨n, hx⟩ := exec_tdis h hv he
    rw [State.runTdis_eq] at hx
    refine ⟨_, hx, State.streamDone_tcfg (e := s.entry .tdis 0) rfl rfl rfl, rfl, rfl, rfl, fun i => ?_, rfl,
      State.tilesOk_none rfl rfl, ?_⟩
    · exact Vector.getElem_replicate _
    · exact h.popped (s.entry .tdis 0) rfl
  · have hg : s.guard (tguard [] [] 8) = s.raise .tileStateDisabled 0 := h.guard_disabled (m := false) rfl rfl he
    refine ⟨_, ?_, s.takeTrap_super _ _ ht⟩
    show s.finish (s.vop false (tguard [] [] 8) .tdis) = _
    rw [State.vop_guard_error hg]
    rfl

/-! ### The checks of products and accumulator moves (R103, R241, R243, R327) -/

section
variable {s : State} {c : AccReg} {d a : SReg} {p q : TReg} {x y : Ty} {fb ea sat : Bool}

/-- The checks of an MMA: its types, one by one and as a pair (R99, R103). -/
abbrev mmaTypes (x y : Ty) : List (Nat × Bool) := [(tyCode x, mmaSide x), (tyCode y, mmaSide y), (tyCode y, mmaPair x y)]

/-- The types of an accepted pair are accepted each. -/
theorem mmaTypes_ok (h : mmaPair x y = true) : (mmaTypes x y).all (·.2) = true := by
  have hs : mmaSide x = true ∧ mmaSide y = true := by
    revert h
    cases x <;> cases y <;> decide
  simp [hs.1, hs.2, h]

/-- An instruction whose checks end in a raise traps. -/
theorem finish_raised {r : Except Halt State} {e : Cause} {v : Dword} (h : r = s.raise e v) (ht : s.SuperTakes e) :
    ∃ t, s.finish r = .next t ∧ s.TrappedSuper t e v := by
  rw [h]
  exact ⟨_, rfl, s.takeTrap_super _ _ ht⟩

/-- The checks of an MMA that has good types pass while tile state is enabled. -/
theorem State.Alone.guard_mma (h : s.Alone) (hv : s.lc.vec.vl.toNat ≤ 128) (hm : mmaPair x y = true) :
    (s.part.tstate.getLsbD 0 = false → s.guard (tguard [] (mmaTypes x y) 8) = s.raise .tileStateDisabled 0)
    ∧ (s.part.tstate.getLsbD 0 = true → s.guard (tguard [] (mmaTypes x y) 8) = .ok ()) :=
  ⟨fun he => h.guard_disabled (m := false) rfl (mmaTypes_ok hm) he,
    fun he => h.guard_ok (m := false) rfl (mmaTypes_ok hm) he (hv.trans (by decide)) (by simp)⟩

/-- Those of ACCZ. -/
theorem State.Alone.guard_accz (h : s.Alone) (hv : s.lc.vec.vl.toNat ≤ 128) :
    (s.part.tstate.getLsbD 0 = false → s.guard (tguard [] [] 8) = s.raise .tileStateDisabled 0)
    ∧ (s.part.tstate.getLsbD 0 = true → s.guard (tguard [] [] 8) = .ok ()) :=
  ⟨fun he => h.guard_disabled (m := false) rfl rfl he,
    fun he => h.guard_ok (m := false) rfl rfl he (hv.trans (by decide)) (by simp)⟩

/-- Those of ACCRD and ACCWR on one of the 32 vector registers. -/
theorem State.Alone.guard_accMove (h : s.Alone) (hv : s.lc.vec.vl.toNat ≤ 128) (hd : d.toNat < 32) :
    (s.part.tstate.getLsbD 0 = false →
      s.guard { tguard [(20, v6Ok d)] [] 32 with governed := true } = s.raise .tileStateDisabled 0)
    ∧ (s.part.tstate.getLsbD 0 = true → s.guard { tguard [(20, v6Ok d)] [] 32 with governed := true } = .ok ()) := by
  have hr : [((20 : Nat), v6Ok d)].all (·.2) = true := by simpa [v6Ok] using hd
  exact ⟨fun he => h.guard_disabled hr rfl he,
    fun he => h.guard_ok hr rfl he (hv.trans (by decide)) (fun _ => hv.trans (by decide))⟩

/-- An accumulator is allocated when ACCALLOC names it, with nothing queued (R241). -/
theorem State.Alone.allocated (h : s.Alone) :
    (s.part.accalloc.getLsbD c.toNat = true → s.allocated c = .ok ())
    ∧ (s.part.accalloc.getLsbD c.toNat = false → s.allocated c = s.raise .accumulatorUnallocated (c.setWidth 64)) := by
  rw [State.allocated, h.accView]
  exact ⟨fun hc => if_pos hc, fun hc => if_neg (by simp [hc])⟩

variable {e : Cause} {v : Dword} {g : Guard} {op : VOp}

theorem State.product_guard {mx : Bool} (hg : s.guard g = s.raise e v) :
    s.product g c p q x y mx fb ea sat = s.raise e v := by
  rw [State.product, hg]
  rfl

theorem State.product_allocated {mx : Bool} (hg : s.guard g = .ok ()) (hs : s.shapesDone = .ok ())
    (hc : s.allocated c = s.raise e v) : s.product g c p q x y mx fb ea sat = s.raise e v := by
  rw [State.product, hg, hs, hc]
  rfl

/-- The first shape check that fails names its tile (R243). -/
theorem State.product_shape {n : Nat} (hg : s.guard g = .ok ()) (hs : s.shapesDone = .ok ())
    (hc : s.allocated c = .ok ())
    (hn : shapeError (s.tcfgOf p.toNat) (s.tcfgOf q.toNat) TCfg.zero TCfg.zero p.toNat q.toNat x y false = some n) :
    s.product g c p q x y false fb ea sat = s.raise .tileShapeMismatch (BitVec.ofNat 64 (0x10 + n)) := by
  have hn' : shapeError (s.tcfgOf p.toNat) (s.tcfgOf q.toNat) (s.tcfgOf (p.toNat + 1)) (s.tcfgOf (q.toNat + 1)) p.toNat
      q.toNat x y false = some n := hn
  simp only [State.product, hg, hs, hc, hn', bind, Except.bind]
  rfl

theorem State.accMove_guard (hg : s.guard { tguard [(20, v6Ok d)] [] 32 with governed := true } = s.raise e v) :
    s.accMove d a c op = s.raise e v := by
  rw [State.accMove, hg]
  rfl

theorem State.accMove_allocated (hg : s.guard { tguard [(20, v6Ok d)] [] 32 with governed := true } = .ok ())
    (ha : s.Readable a) (hc : s.allocated c = s.raise e v) : s.accMove d a c op = s.raise e v := by
  rw [State.accMove, hg, State.useS_ok ha, hc]
  rfl

/-- A row that the accumulator has not (R327). -/
theorem State.accMove_row (hg : s.guard { tguard [(20, v6Ok d)] [] 32 with governed := true } = .ok ())
    (ha : s.Readable a) (hc : s.allocated c = .ok ()) (hv : s.lc.vec.vl.toNat ≤ 128) (hx : 128 ≤ (s.getS a).toNat) :
    s.accMove d a c op = s.raise .tileShapeMismatch (s.getS a) := by
  simp only [State.accMove, hg, State.useS_ok ha, hc, bind, Except.bind]
  rw [if_neg (by omega), if_pos hx]

theorem exec_accz (c : AccReg) (s : State) : exec (.accz c) s = s.finish (do
    s.guard (tguard [] [] 8)
    s.allocated c
    if 128 < s.lc.vec.vl.toNat then s.raise .badControlState 0
    else
      let u ← s.handOff false (.accz c) 0 0 0 false
      .ok u.retire) := rfl

/-- ACCZ traps on its checks, and on an accumulator that is not allocated. -/
theorem exec_accz_traps (ht : s.SuperTakes e) (hc : s.guard (tguard [] [] 8) = s.raise e v
    ∨ s.guard (tguard [] [] 8) = .ok () ∧ s.allocated c = s.raise e v) :
    ∃ t, exec (.accz c) s = .next t ∧ s.TrappedSuper t e v := by
  rw [exec_accz]
  refine finish_raised ?_ ht
  rcases hc with hg | ⟨hg, ha⟩
  · rw [hg]
    rfl
  · rw [hg, ha]
    rfl

end

theorem tileChecks_holds : tileChecks := by
  intro d a c p q x y fb ea sat s h hv traps acc
  obtain ⟨hz0, hz1⟩ := h.guard_accz hv
  obtain ⟨hc1, hc0⟩ := h.allocated (c := c)
  have hs := h.shapesDone
  refine ⟨fun he => ⟨fun ht => exec_accz_traps ht (.inl (hz0 he)), fun hm ht => ?_, fun hd ha => ?_⟩,
    fun he hc => ⟨fun ht => exec_accz_traps ht (.inr ⟨hz1 he, hc0 hc⟩), fun hm ht => ?_, fun hd ha => ?_⟩,
    fun he hc => ⟨fun n hm hn ht => ?_, fun hx hd ha => ?_⟩⟩
  · exact finish_raised (State.product_guard ((h.guard_mma hv hm).1 he)) ht
  · have hg := (h.guard_accMove hv hd).1 he
    exact ⟨fun ht => finish_raised (State.accMove_guard hg) ht, fun ht => finish_raised (State.accMove_guard hg) ht⟩
  · exact finish_raised (State.product_allocated ((h.guard_mma hv hm).2 he) hs (hc0 hc)) ht
  · have hg := (h.guard_accMove hv hd).2 he
    exact ⟨fun ht => finish_raised (State.accMove_allocated hg ha (hc0 hc)) ht,
      fun ht => finish_raised (State.accMove_allocated hg ha (hc0 hc)) ht⟩
  · exact finish_raised (State.product_shape ((h.guard_mma hv hm).2 he) hs (hc1 hc) hn) ht
  · have hg := (h.guard_accMove hv hd).2 he
    exact ⟨fun ht => finish_raised (State.accMove_row hg ha (hc1 hc) hv hx) ht,
      fun ht => finish_raised (State.accMove_row hg ha (hc1 hc) hv hx) ht⟩

/-- Settles O34: TEN and TDIS on their own execute in the step that hands them off; each check is raised before what comes
after it. -/
theorem tileState : Obligations.TileState := ⟨tileEnable_holds, tileChecks_holds⟩

end Sys2Proof.Machine
end

section
/-! Proofs, 04: a stream instruction handed off on its own that faults: it stalls, and its report waits at the scalar unit
(R270, R271, R276, R277). -/

namespace Sys2Proof.Machine

/-! ### Streams that hold nothing but a faulted entry -/

section
variable {s : State}

/-- The X stream has nothing to do. -/
theorem State.drainX_empty (h : ∀ c : Fin 4, (s.lc.chans[c]).cmds = []) : s.drainX = s := by
  have hc (c : BitVec 2) : (s.lc.chans[c.toNat]).cmds = [] := h ⟨c.toNat, c.isLt⟩
  simp only [State.drainX, List.foldl, hc, List.map_nil, List.sum_nil, State.copySteps]

/-- No barrier stands in a stream. -/
theorem State.passBarrier_empty (hv : s.part.vqueue = []) (hk : s.lc.kqueue = []) (hb : s.lc.bqueue = [])
    (hx : ∀ c : Fin 4, (s.lc.chans[c]).cmds = []) : s.passBarrier = s := by
  have hxs : s.lc.chans.toList.filterMap (fun c => c.cmds.head?.bind XCmd.barrier) = [] := by
    rw [List.filterMap_eq_nil_iff]
    intro c hc
    obtain ⟨i, hi, rfl⟩ := List.mem_iff_getElem.mp hc
    have hci : (s.lc.chans[i]'(by simpa using hi)).cmds = [] := hx ⟨i, by simpa using hi⟩
    rw [Vector.getElem_toList, hci]
    rfl
  have hr : s.barriersReached = [] := by
    unfold State.barriersReached
    rw [hv, hk, hb, hxs]
    split <;> simp
  rw [State.passBarrier, hr]
  rfl

/-- A round of the streams changes nothing behind a faulted entry, with nothing else queued. -/
theorem State.Quiet.round_stalls {t : State} (h : t.Quiet) (hv : t.part.vqueue = []) (e : VEntry) (r : TrapRec) :
    (t.stalls e r).round = t.stalls e r := by
  have hx : (t.stalls e r).drainX = t.stalls e r := State.drainX_empty h.copies
  have hb : (t.stalls e r).drainB = t.stalls e r := by
    have hs : t.dev.slots.all (fun x => x.st != .opening && x.st != .released) = true := by
      rw [List.all_eq_true]
      intro x hx
      simpa using h.slots x hx
    unfold State.drainB
    simp only [State.stalls, h.bqueue, h.sequencers, hs]
    rfl
  have hp : (t.stalls e r).passBarrier = t.stalls e r := State.passBarrier_empty hv h.kqueue h.bqueue h.copies
  have hst (n : Nat) : State.storeSteps n (t.stalls e r) = t.stalls e r := State.storeSteps_none (s := t.stalls e r) h.stores n
  have hq : (t.stalls e r).part.vqueue = [] := hv
  have hc : (t.stalls e r).lc.ctx = none := h.context
  simp only [State.round, hst, hq, List.length_nil, State.vsteps, State.ksteps_none hc, hx, hb, hp]

/-- An instruction handed off with nothing else under way, that faults and leaves the streams quiet, stalls in the same
step with its report; the element groups that it has issued are counted (R83, R271). -/
theorem State.pass_stalls {t : State} {e : VEntry} {r : TrapRec} (h : s.Alone) (hb : e.barrier = none)
    (hi : e.restart = none) (hr : (s.alone e).runEntry e = .error (.fault t r)) (hq : t.Quiet)
    (ht : t.part.vqueue = [e]) :
    s.pass e = .ok ((t.vpop.count 2 ((s.alone e).issuedAt e r)).stalls e r) := by
  have hs : (s.alone e).Quiet :=
    ⟨h.inOrder, h.matrix, h.stalled, h.stores, h.kqueue, h.context, h.copies, h.bqueue, h.sequencers, h.slots⟩
  have hv : (s.alone e).part.vqueue = [e] := congrArg (· ++ [e]) h.queue
  have ho : (s.alone e).owns = true := h.owner
  have hd : (s.alone e).part.done = false := h.begun
  generalize hn : (s.alone e).issuedAt e r = n
  have hh : (s.alone e).runHead e = .error (.fault t r) := by simp [State.runHead, State.atRestart, hi, hr]
  have hq2 : (t.vpop.count 2 n).Quiet := hq.vpop.count 2 n
  have hp : (t.vpop.count 2 n).part.vqueue = [] := congrArg List.tail ht
  have h1 : (s.alone e).vstep = ((t.vpop.count 2 n).stalls e r, true) := by
    simp only [State.vstep, hs.vStopped, hv, hd, hs.headWaits e hb, ho, hh, hn]
    rfl
  have h2 : (s.alone e).vsteps 1 = (t.vpop.count 2 n).stalls e r := by
    simp only [State.vsteps, h1]
    rfl
  have hround := hq2.round_stalls hp e r
  have h3 : (s.alone e).round = ((t.vpop.count 2 n).stalls e r).round := by
    have hst := State.storeSteps_none (s := (t.vpop.count 2 n).stalls e r) hq2.stores
    have hlen : ((t.vpop.count 2 n).stalls e r).part.vqueue.length = 0 := congrArg List.length hp
    simp only [State.round, State.storeSteps_none hs.stores, hv, List.length_singleton, h2, hst, hlen, State.vsteps]
  have h4 : (s.alone e).drain = (t.vpop.count 2 n).stalls e r := by
    have hra : (s.alone e).runAhead = false := hs.inOrder
    rw [State.drain, hra, if_neg Bool.false_ne_true, h3, hround, hround]
  have h5 : ¬queueCap ≤ s.part.vqueue.length := by simp [h.queue, queueCap]
  rw [State.pass, if_neg h5]
  exact congrArg Except.ok h4

/-- What a stalled instruction's fault leaves of the state `t` in which it met it. -/
theorem State.stalls_frame (t : State) (e : VEntry) (r : TrapRec) (n : Nat) :
    let u := ((t.vpop.count 2 n).stalls e r).retire
    u.lc.vstalled = some { e with restart := none, rm := none } ∧ u.lc.vreport = some r ∧ u.lc.pc = t.lc.pc + 4
      ∧ u.lc.s = t.lc.s ∧ u.lc.vstart = t.lc.vstart ∧ u.lc.tcfg = t.lc.tcfg
      ∧ u.part = { t.part with vqueue := t.part.vqueue.tail, rem := none, done := false } ∧ u.core = t.core
      ∧ u.dev = t.dev :=
  ⟨rfl, rfl, rfl, rfl, rfl, rfl, rfl, rfl, rfl⟩

/-- An unplaced form that reads a scalar register and is ready, on its own and faulting, stalls in the step that hands it
off. -/
theorem VForm.exec_stalls {f : VForm} {i : Instr} {a : SReg} {t : VEntry → State} {r : VEntry → TrapRec}
    (hi : vform i = some f) (hp : f.placed = false) (ha : f.read = some a) (hw : f.write = none) (hr : f.Ready s)
    (h : s.Alone) (hb : ∀ xp, (s.capture f.op false (s.getS a) 0 0 xp).barrier = none)
    (hrun : ∀ xp, let e := s.capture f.op false (s.getS a) 0 0 xp
      (s.alone e).runEntry e = .error (.fault (t e) (r e)) ∧ (t e).Quiet ∧ (t e).part.vqueue = [e]) :
    ∃ (xp : Bool) (n : Nat), let e := s.capture f.op false (s.getS a) 0 0 xp
      exec i s = .next ((((t e).vpop.count 2 n).stalls e (r e)).retire) := by
  obtain ⟨x, xp, hx, -, -, hpass⟩ := VForm.exec_pass hi hp hr
  have hcl : s.claimed f = s := by simp [State.claimed, hw]
  rw [hcl, hx a ha] at hpass
  obtain ⟨hrun, hq, hv⟩ := hrun xp
  exact ⟨xp, _, hpass _ (State.pass_stalls h (hb xp) rfl hrun hq hv)⟩

/-- Streams that differ from quiet ones in VSTART and in registers alone are quiet. -/
theorem State.Quiet.congr {t : State} (h : s.Quiet) (hr : t.runAhead = s.runAhead)
    (hl : { t.lc with vstart := s.lc.vstart } = s.lc) (hm : t.part.mslot = s.part.mslot) (hd : t.dev = s.dev) :
    t.Quiet where
  inOrder := hr.trans h.inOrder
  matrix := hm.trans h.matrix
  stalled := (congrArg Lc.vstalled hl :).trans h.stalled
  stores := (congrArg Lc.stores hl :).trans h.stores
  kqueue := (congrArg Lc.kqueue hl :).trans h.kqueue
  context := (congrArg Lc.ctx hl :).trans h.context
  copies c := by
    have hc : t.lc.chans = s.lc.chans := (congrArg Lc.chans hl :)
    rw [hc]
    exact h.copies c
  bqueue := (congrArg Lc.bqueue hl :).trans h.bqueue
  sequencers := hd ▸ h.sequencers
  slots := hd ▸ h.slots

end

end Sys2Proof.Machine
end

section
/-! Proofs, 04: TSHAPE and its reduction rule (R78, R234, R236, R237, R392). -/

namespace Sys2Proof.Machine

/-! ### The reduction rule (R236) -/

/-- The empty shape needs no byte. -/
theorem footprint_zero (y : Ty) : footprint y 0 0 0 = 0 := by
  cases y <;> rfl

/-- A shape on the way of the reductions: no larger than the request, and no dimension below the rule's least. -/
structure ShapeWithin (M N K : Nat) (x : Nat × Nat × Nat) : Prop where
  rows : min M 8 ≤ x.1 ∧ x.1 ≤ M
  cols : min N 8 ≤ x.2.1 ∧ x.2.1 ≤ N
  depth : min K 32 ≤ x.2.2 ∧ x.2.2 ≤ K

/-- The reductions left before no dimension can be lowered. -/
def shapeSteps (x : Nat × Nat × Nat) : Nat := (x.1 + 7) / 8 + (x.2.1 + 7) / 8 + (x.2.2 + 31) / 32

/-- A shape no larger than another in any dimension. -/
structure ShapeLe (r x : Nat × Nat × Nat) : Prop where
  rows : r.1 ≤ x.1
  cols : r.2.1 ≤ x.2.1
  depth : r.2.2 ≤ x.2.2

/-- What the reductions give: a shape that fits, no larger than the one they begin with, within the request or empty. -/
theorem fitShape_fits {y : Ty} {M N K cap fuel : Nat} {x : Nat × Nat × Nat} (hx : ShapeWithin M N K x)
    (hf : shapeSteps x < fuel) :
    let r := fitShape y M N K cap fuel x
    footprint y r.1 r.2.1 r.2.2 ≤ cap ∧ ShapeLe r x ∧ (r = (0, 0, 0) ∨ ShapeWithin M N K r) := by
  induction fuel generalizing x with
  | zero => omega
  | succ fuel ih =>
    obtain ⟨m, n, k⟩ := x
    obtain ⟨hm, hn, hk⟩ := hx
    simp only [shapeSteps] at hm hn hk hf
    have lowered {x' : Nat × Nat × Nat} (hx' : ShapeWithin M N K x') (hf' : shapeSteps x' < fuel)
        (hl : ShapeLe x' (m, n, k)) :
        let r := fitShape y M N K cap fuel x'
        footprint y r.1 r.2.1 r.2.2 ≤ cap ∧ ShapeLe r (m, n, k) ∧ (r = (0, 0, 0) ∨ ShapeWithin M N K r) := by
      obtain ⟨hfit, hle, hr⟩ := ih hx' hf'
      exact ⟨hfit, ⟨hle.rows.trans hl.rows, hle.cols.trans hl.cols, hle.depth.trans hl.depth⟩, hr⟩
    unfold fitShape
    split
    · exact ⟨‹_›, ⟨le_rfl, le_rfl, le_rfl⟩, .inr ⟨hm, hn, hk⟩⟩
    split
    · next hr =>
      simp only [Bool.and_eq_true, decide_eq_true_eq] at hr
      exact lowered ⟨by simp only; omega, hn, hk⟩ (by simp only [shapeSteps]; omega) ⟨by simp only; omega, le_rfl, le_rfl⟩
    split
    · exact lowered ⟨hm, by simp only; omega, hk⟩ (by simp only [shapeSteps]; omega) ⟨le_rfl, by simp only; omega, le_rfl⟩
    split
    · exact lowered ⟨hm, hn, by simp only; omega⟩ (by simp only [shapeSteps]; omega) ⟨le_rfl, le_rfl, by simp only; omega⟩
    · exact ⟨(footprint_zero y).trans_le (Nat.zero_le _), ⟨Nat.zero_le _, Nat.zero_le _, Nat.zero_le _⟩, .inl rfl⟩

/-- A shape that fits is granted as it is. -/
theorem fitShape_self {y : Ty} {M N K cap fuel m n k : Nat} (h : footprint y m n k ≤ cap) :
    fitShape y M N K cap (fuel + 1) (m, n, k) = (m, n, k) := by
  rw [fitShape, if_pos h]

theorem shapeReduction_holds : shapeReduction := by
  intro y m n k cap hm hn hk r
  obtain ⟨hfit, ⟨hlm, hln, hlk⟩, hr⟩ := fitShape_fits (y := y) (cap := cap) (fuel := 64) (x := (m, n, k)) (M := m) (N := n)
    (K := k) ⟨by simp, by simp, by simp⟩ (by simp only [shapeSteps]; omega)
  exact ⟨hfit, hlm, hln, hlk, fun h => fitShape_self h, hr.imp id fun w => ⟨w.rows.1, w.cols.1, w.depth.1⟩⟩

/-! ### Segments (R234) -/

/-- A segment whose contents are zero is unlisted. -/
theorem Core.setSeg_segs {x : ABits} (c : Core) (n : Nat) (h : x = 0) :
    (c.setSeg n x).segs = c.segs.filter (·.1 != n) := if_pos h

theorem Core.setSeg_eq (c : Core) (n : Nat) (x : ABits) : c.setSeg n x = { c with segs := (c.setSeg n x).segs } := rfl

/-- Segments cleared one after another are unlisted, and nothing else of the core changes. -/
theorem Core.clearSegs_eq {x : ABits} (hx : x = 0) (l : List Nat) (c : Core) :
    l.foldl (fun c g => c.setSeg g x) c = { c with segs := c.segs.filter (fun y => !l.contains y.1) } := by
  induction l generalizing c with
  | nil => simp
  | cons g r ih =>
    have hf : (c.segs.filter (·.1 != g)).filter (fun y => !r.contains y.1)
        = c.segs.filter (fun y => !(g :: r).contains y.1) := by
      rw [List.filter_filter]
      refine List.filter_congr fun y _ => ?_
      rw [List.contains_cons, Bool.not_or, Bool.and_comm]
      rfl
    rw [List.foldl_cons, ih, c.setSeg_eq, c.setSeg_segs g hx, hf]

/-- The contents of a segment when some segments are no longer listed. -/
theorem Core.seg_filter (c : Core) (p : Nat → Bool) (es : List Nat) (g : Nat) :
    ({ c with segs := c.segs.filter (fun x => p x.1), segError := es } : Core).seg g = if p g then c.seg g else 0 := by
  have hf : (c.segs.filter (fun x => p x.1)).find? (·.1 == g) = if p g then c.segs.find? (·.1 == g) else none := by
    rw [List.find?_filter]
    cases hp : p g with
    | true =>
      refine List.find?_congr fun x _ => ?_
      by_cases hx : x.1 = g <;> simp [hx, hp]
    | false =>
      simp only [Bool.false_eq_true, if_false, List.find?_eq_none]
      intro x _
      by_cases hx : x.1 = g <;> simp [hx, hp]
  unfold Core.seg
  simp only [hf]
  cases p g <;> rfl

/-- The free segments do not depend on what the partition in focus holds itself. -/
theorem State.freeSegments_congr {s t : State} (hc : t.core = s.core) (hp : t.parts = s.parts)
    (hn : t.part.no = s.part.no) (hk : t.part.core = s.part.core) : t.freeSegments = s.freeSegments := by
  have held : (t.coreParts s.core.no).flatMap (fun p => if p.no = t.part.no then [] else p.grant.segs)
      = (s.coreParts s.core.no).flatMap (fun p => if p.no = s.part.no then [] else p.grant.segs) := by
    simp only [State.coreParts, List.flatMap_map, hn]
    congr 1
    funext n
    unfold State.findPart
    rw [hk, hn, hp]
    split
    · exact (if_pos rfl).symm
    · rfl
  rw [State.freeSegments, State.freeSegments, hc, held]

/-! ### The request and the answer (R236) -/

theorem field_eq (x : Dword) (lo n : Nat) : field x lo n = x.toNat / 2 ^ lo % 2 ^ n := by
  rw [field, Nat.shiftRight_eq_div_pow]

/-- The type that a request names. -/
theorem shape_type (x : Dword) :
    (TCfg.mk (x.setWidth 4) 0 0).type = (TCfg.mk (BitVec.ofNat 4 (x.toNat % 16)) 0 0).type := by
  have h : x.setWidth 4 = BitVec.ofNat 4 (x.toNat % 16) := by
    apply BitVec.eq_of_toNat_eq
    simp
  rw [h]

/-- The layout of the request's answer, as a number. -/
theorem shapeWord_eq {ty m n k : Nat} (ht : ty < 2 ^ 7) (hm : m < 2 ^ 8) (hn : n < 2 ^ 8) :
    shapeWord ty m n k = BitVec.ofNat 64 (k * 2 ^ 23 + n * 2 ^ 15 + m * 2 ^ 7 + ty) := by
  have h7 : m <<< 7 ||| ty = m <<< 7 + ty := (Nat.shiftLeft_add_eq_or_of_lt ht m).symm
  have h15 : n <<< 15 ||| (m <<< 7 + ty) = n <<< 15 + (m <<< 7 + ty) :=
    (Nat.shiftLeft_add_eq_or_of_lt (by rw [Nat.shiftLeft_eq]; omega) n).symm
  have h23 : k <<< 23 ||| (n <<< 15 + (m <<< 7 + ty)) = k <<< 23 + (n <<< 15 + (m <<< 7 + ty)) :=
    (Nat.shiftLeft_add_eq_or_of_lt (by simp only [Nat.shiftLeft_eq]; omega) k).symm
  simp only [shapeWord, at_, ← BitVec.ofNat_or, Nat.shiftLeft_zero, Nat.or_assoc, h7, h15, h23]
  simp only [Nat.shiftLeft_eq, Nat.add_assoc]

/-- TSTATE holds EN after a grant (R78). -/
theorem grantState_en (segs : List Nat) (m n k : Nat) : (grantState segs m n k).getLsbD 0 = true := by
  simp [grantState, at_]

/-! ### A value delivered to a scalar register (R192) -/

/-- What a value's delivery changes of the LC: the register, and the claim on it. -/
theorem State.deliverS_eq (s : State) (d : SReg) (v : Dword) (p : Bool) : s.deliverS d v p = { s with lc := { s.lc with
    s := (s.lc.setS d v p).s, sPoison := (s.lc.setS d v p).sPoison
    pending := if d = 0 then s.lc.pending else s.lc.pending.erase d } } := by
  unfold State.deliverS Lc.setS
  split <;> rfl

/-- What a value's delivery leaves. -/
theorem State.deliverS_frame (s : State) (d : SReg) (v : Dword) (p : Bool) :
    let t := s.deliverS d v p
    t.lc.pc = s.lc.pc ∧ t.lc.tcfg = s.lc.tcfg ∧ t.core = s.core ∧ t.dev = s.dev ∧ t.part = s.part := by
  rw [State.deliverS_eq]
  exact ⟨rfl, rfl, rfl, rfl, rfl⟩

theorem State.Quiet.deliverS {s : State} (h : s.Quiet) (d : SReg) (v : Dword) (p : Bool) : (s.deliverS d v p).Quiet := by
  rw [State.deliverS_eq]
  exact ⟨h.inOrder, h.matrix, h.stalled, h.stores, h.kqueue, h.context, h.copies, h.bqueue, h.sequencers, h.slots⟩

theorem State.Quiet.vdone {s : State} (h : s.Quiet) : s.vdone.Quiet :=
  ⟨h.inOrder, h.matrix, h.stalled, h.stores, h.kqueue, h.context, h.copies, h.bqueue, h.sequencers, h.slots⟩

theorem State.deliverS_getS (s : State) (d r : SReg) (v : Dword) (p : Bool) :
    (s.deliverS d v p).getS r = (s.setSP d v p).getS r := by
  unfold State.deliverS State.setSP Lc.setS
  split <;> rfl

theorem State.deliverS_poisonedS (s : State) (d r : SReg) (v : Dword) (p : Bool) :
    (s.deliverS d v p).poisonedS r = (s.setSP d v p).poisonedS r := by
  unfold State.deliverS State.setSP Lc.setS
  split <;> rfl

/-- A claim that is delivered leaves the claims as they were before it. -/
theorem State.claim_erase {s : State} {d : SReg} (h : s.Writable d) :
    (if d = 0 then (s.claim d).lc.pending else (s.claim d).lc.pending.erase d) = s.lc.pending := by
  unfold State.claim
  split
  · rfl
  · next h0 =>
    have hd : d ∉ s.lc.pending := fun hm => by
      have hf : s.freeS d = true := h
      rw [State.freeS_pending hm h0] at hf
      cases hf
    show (s.lc.pending ++ [d]).erase d = s.lc.pending
    rw [List.erase_append_right _ hd, List.erase_cons_head, List.append_nil]

/-! ### TSHAPE on its own -/

/-- The shape that TSHAPE grants for the request `x` with room for `cap` bytes (R236). -/
def grantedShape (x : Dword) (cap : Nat) : Nat × Nat × Nat :=
  let y := (TCfg.mk (x.setWidth 4) 0 0).type
  let (K, N, M) := (field x 23 9, field x 15 8, field x 7 8)
  fitShape y M N K cap 64 (if M = 0 ∨ N = 0 ∨ K = 0 then (0, 0, 0) else (min M 128, min N 128, min K 128))

/-- No dimension of a granted shape exceeds 128. -/
theorem grantedShape_le (x : Dword) (cap : Nat) :
    (grantedShape x cap).1 ≤ 128 ∧ (grantedShape x cap).2.1 ≤ 128 ∧ (grantedShape x cap).2.2 ≤ 128 := by
  unfold grantedShape
  simp only
  split
  · rw [fitShape_self (by rw [footprint_zero]; exact Nat.zero_le _)]
    simp
  · obtain ⟨-, ⟨hm, hn, hk⟩, -⟩ := fitShape_fits (y := (TCfg.mk (x.setWidth 4) 0 0).type) (cap := cap) (fuel := 64)
      (x := (min (field x 7 8) 128, min (field x 15 8) 128, min (field x 23 9) 128)) (M := field x 7 8)
      (N := field x 15 8) (K := field x 23 9) ⟨by simp only; omega, by simp only; omega, by simp only; omega⟩
      (by simp only [shapeSteps]; omega)
    exact ⟨hm.trans (Nat.min_le_right _ _), hn.trans (Nat.min_le_right _ _), hk.trans (Nat.min_le_right _ _)⟩

/-- The segments that TSHAPE may use, and those that a shape needs (R234, R236). -/
def State.usable (s : State) : List Nat := s.freeSegments.take ((s.core.banks 2).length / 4)

/-- The segments that the shape granted for the request `x` keeps (R236). -/
def State.keeps (s : State) (x : Dword) : List Nat :=
  let r := grantedShape x (65536 * s.usable.length)
  s.usable.take ((footprint (TCfg.mk (x.setWidth 4) 0 0).type r.1 r.2.1 r.2.2 + 65535) / 65536)

/-- The state with a grant of segments: TSTATE, TCFG and the core as given, and clean poison. -/
def State.withGrant (s : State) (c : Core) (cfg : Vector TCfg 8) (segs : List Nat) (tstate : Dword) : State :=
  { s with
    core := c
    lc := { s.lc with tcfg := cfg }
    part := { s.part with tstate := tstate, grant := ⟨cfg, segs⟩, segPoison := Vector.replicate 2 0 } }

/-- The core with segments clear. -/
def Core.clearSegs (c : Core) (l : List Nat) : Core :=
  { c with
    segs := c.segs.filter (fun y => !l.contains y.1)
    segError := c.segError.filter (fun y => !l.contains (y / 1024)) }

/-- The state with the shape granted for the request `x`: the segments it keeps are clear, and TSTATE and TCFG hold it. -/
def State.shaped (s : State) (x : Dword) : State :=
  let r := grantedShape x (65536 * s.usable.length)
  s.withGrant (s.core.clearSegs (s.keeps x)) (grantCfg (TCfg.mk (x.setWidth 4) 0 0).type r.1 r.2.1 r.2.2) (s.keeps x)
    (grantState (s.keeps x) r.1 r.2.1 r.2.2)

/-- What sd receives (R236). -/
def State.shapeAnswer (s : State) (x : Dword) : Dword :=
  let r := grantedShape x (65536 * s.usable.length)
  shapeWord (field x 0 4) r.1 r.2.1 r.2.2

/-- A request of an accepted type is granted (R236). -/
theorem State.runTshape_ok {s : State} {e : VEntry} {d : SReg}
    (h : shapeType (TCfg.mk (e.x.setWidth 4) 0 0).type = true) :
    s.runTshape e d = .ok ((s.shaped e.x).deliverS d (s.shapeAnswer e.x) false).vdone := by
  have hfree : s.freeSegs.freeSegments = s.freeSegments := State.freeSegments_congr rfl rfl rfl rfl
  have hr : fitShape (TCfg.mk (e.x.setWidth 4) 0 0).type (field e.x 7 8) (field e.x 15 8) (field e.x 23 9)
      (65536 * s.usable.length) 64
      (if (decide (field e.x 7 8 = 0) || decide (field e.x 15 8 = 0) || decide (field e.x 23 9 = 0)) = true then (0, 0, 0)
        else (min (field e.x 7 8) 128, min (field e.x 15 8) 128, min (field e.x 23 9) 128))
      = grantedShape e.x (65536 * s.usable.length) := by
    simp only [grantedShape, Bool.or_eq_true, decide_eq_true_eq, or_assoc]
  have hu : s.freeSegments.take ((s.core.banks 2).length / 4) = s.usable := rfl
  unfold State.runTshape
  simp only [h, hfree, Core.clearSegs_eq rfl, Bool.not_true, Bool.false_eq_true, if_false]
  rw [show s.freeSegs.core = s.core from rfl, hu, hr]
  rfl

/-- A request of another type raises BAD_TYPE (R236). -/
theorem State.runTshape_badType {s : State} {e : VEntry} {d : SReg}
    (h : shapeType (TCfg.mk (e.x.setWidth 4) 0 0).type = false) :
    s.runTshape e d = s.vraise e .badType (at_ (field e.x 0 4) 0) := by
  unfold State.runTshape
  simp only [h, Bool.not_false, if_true]

/-- The shape in the terms of R236. -/
theorem grantedShape_eq (x : Dword) (cap : Nat) : grantedShape x cap
    = fitShape (TCfg.mk (BitVec.ofNat 4 (x.toNat % 16)) 0 0).type (x.toNat / 2 ^ 7 % 256) (x.toNat / 2 ^ 15 % 256)
      (x.toNat / 2 ^ 23 % 512) cap 64
      (if x.toNat / 2 ^ 7 % 256 = 0 ∨ x.toNat / 2 ^ 15 % 256 = 0 ∨ x.toNat / 2 ^ 23 % 512 = 0 then (0, 0, 0)
        else (min (x.toNat / 2 ^ 7 % 256) 128, min (x.toNat / 2 ^ 15 % 256) 128, min (x.toNat / 2 ^ 23 % 512) 128)) := by
  simp only [grantedShape, field_eq, shape_type, Nat.reducePow]

/-- The answer in the terms of R236. -/
theorem State.shapeAnswer_eq (s : State) (x : Dword) : s.shapeAnswer x =
    let r := grantedShape x (65536 * s.usable.length)
    BitVec.ofNat 64 (r.2.2 * 2 ^ 23 + r.2.1 * 2 ^ 15 + r.1 * 2 ^ 7 + x.toNat % 16) := by
  obtain ⟨hm, hn, -⟩ := grantedShape_le x (65536 * s.usable.length)
  have ht : field x 0 4 = x.toNat % 16 := by simp [field_eq]
  rw [State.shapeAnswer, ht]
  exact shapeWord_eq (by omega) (by omega) (by omega)

/-- A segment of a grant reads zero, and the others what they held. -/
theorem Core.clearSegs_seg (c : Core) (l : List Nat) (g : Nat) :
    (c.clearSegs l).seg g = if g ∈ l then 0 else c.seg g := by
  have h := c.seg_filter (fun y => !l.contains y) (c.segError.filter (fun y => !l.contains (y / 1024))) g
  rw [Core.clearSegs, h]
  by_cases hg : g ∈ l <;> simp [hg]

section
variable {s : State}

/-- What a claim changes: the scoreboard alone. -/
theorem State.claim_eq (s : State) (d : SReg) :
    ∃ l, s.claim d = { s with lc := { s.lc with pending := l } } := by
  unfold State.claim
  split
  · exact ⟨s.lc.pending, rfl⟩
  · exact ⟨s.lc.pending ++ [d], rfl⟩

theorem State.Alone.claim (h : s.Alone) (d : SReg) : (s.claim d).Alone := by
  obtain ⟨l, hl⟩ := s.claim_eq d
  rw [hl]
  exact ⟨h.inOrder, h.owner, h.queue, h.matrix, h.stalled, h.begun, h.stores, h.kqueue, h.context, h.copies, h.bqueue,
    h.sequencers, h.slots, h.start, h.row, h.hosts, h.updates⟩

/-- TSHAPE on its own passes its checks, claims sd and is handed off with the request (R103, R192, R236). -/
theorem exec_tshape {d a : SReg} (h : s.Alone) (hv : s.lc.vec.vl.toNat ≤ 4096) (he : s.part.tstate.getLsbD 0 = true)
    (ha : s.Readable a) (hd : s.Writable d) : exec (.tshape d a) s
      = s.finish ((s.claim d).handOff false (.tshape d) (s.getS a) 0 0 false >>= fun t => .ok t.retire) := by
  have hg : s.guard (tguard [] [] 8) = .ok () := h.guard_ok (m := false) rfl rfl he hv (by simp)
  show s.finish _ = _
  rw [hg, State.useS_ok ha, State.claimS_ok hd]
  rfl

/-- The state in which a granted TSHAPE has executed. -/
def State.afterShape (s : State) (d : SReg) (x : Dword) : State :=
  ((s.shaped x).deliverS d (s.shapeAnswer x) false).vdone

theorem State.Quiet.withGrant (h : s.Quiet) (c : Core) (cfg : Vector TCfg 8) (segs : List Nat) (x : Dword) :
    (s.withGrant c cfg segs x).Quiet :=
  ⟨h.inOrder, h.matrix, h.stalled, h.stores, h.kqueue, h.context, h.copies, h.bqueue, h.sequencers, h.slots⟩

/-- What a grant leaves. -/
theorem State.withGrant_frame (s : State) (c : Core) (cfg : Vector TCfg 8) (segs : List Nat) (x : Dword) :
    let t := s.withGrant c cfg segs x
    t.lc.s = s.lc.s ∧ t.lc.sPoison = s.lc.sPoison ∧ t.lc.pending = s.lc.pending ∧ t.lc.pc = s.lc.pc ∧ t.lc.tcfg = cfg
      ∧ t.core = c ∧ t.dev = s.dev
      ∧ t.part = { s.part with tstate := x, grant := ⟨cfg, segs⟩, segPoison := Vector.replicate 2 0 } :=
  ⟨rfl, rfl, rfl, rfl, rfl, rfl, rfl, rfl⟩

/-- TSHAPE on its own executes in the step that hands it off. -/
theorem exec_tshape_ok {d a : SReg} (h : s.Alone) (hv : s.lc.vec.vl.toNat ≤ 4096) (he : s.part.tstate.getLsbD 0 = true)
    (ha : s.Readable a) (hd : s.Writable d) (ht : shapeType (TCfg.mk ((s.getS a).setWidth 4) 0 0).type = true) :
    ∃ n, exec (.tshape d a) s = .next (((((s.claim d).alone ((s.claim d).entry (.tshape d) (s.getS a))).afterShape d
      (s.getS a)).vpop.count 2 n).retire) := by
  have hu := h.claim d
  rw [exec_tshape h hv he ha hd]
  generalize s.claim d = u at hu
  generalize s.getS a = x at ht
  have hr : (u.alone (u.entry (.tshape d) x)).runEntry (u.entry (.tshape d) x)
      = .ok ((u.alone (u.entry (.tshape d) x)).afterShape d x) := State.runTshape_ok (e := u.entry (.tshape d) x) ht
  refine ⟨(u.alone (u.entry (.tshape d) x)).remOf (u.entry (.tshape d) x), ?_⟩
  rw [State.handOff_alone hu rfl hr]
  · rfl
  · exact ((State.Quiet.withGrant (hu.quiet_alone _) _ _ _ _).deliverS _ _ _).vdone
  · obtain ⟨-, -, -, -, hp⟩ := State.deliverS_frame ((u.alone (u.entry (.tshape d) x)).shaped x) d
      ((u.alone (u.entry (.tshape d) x)).shapeAnswer x) false
    obtain ⟨-, -, -, -, -, -, -, hg⟩ := State.withGrant_frame (u.alone (u.entry (.tshape d) x)) _ _ _ _
    exact (congrArg Part.vqueue (hp.trans hg)).trans (hu.vqueue_alone _)

/-- One of another type stalls with its report. -/
theorem exec_tshape_badType {d a : SReg} (h : s.Alone) (hv : s.lc.vec.vl.toNat ≤ 4096)
    (he : s.part.tstate.getLsbD 0 = true) (ha : s.Readable a) (hd : s.Writable d)
    (ht : shapeType (TCfg.mk ((s.getS a).setWidth 4) 0 0).type = false) :
    let u := s.claim d
    let e := u.entry (.tshape d) (s.getS a)
    let r := e.report .badType (at_ (field (s.getS a) 0 4) 0)
    ∃ n, exec (.tshape d a) s = .next (((u.alone e).vpop.count 2 n).stalls e r).retire := by
  have hu := h.claim d
  rw [exec_tshape h hv he ha hd]
  generalize s.claim d = u at hu
  intro u' e r
  refine ⟨(u.alone e).issuedAt e r, ?_⟩
  have hp : u.handOff false (.tshape d) (s.getS a) 0 0 false = _ :=
    State.pass_stalls hu rfl rfl (State.runTshape_badType ht) (hu.quiet_alone _) (hu.vqueue_alone _)
  rw [hp]
  rfl

/-- What is left of a state when the entry that made it leaves the queue and the scalar unit goes on. -/
theorem State.vdone_frame (t : State) (n : Nat) :
    let u := (t.vdone.vpop.count 2 n).retire
    u.lc.s = t.lc.s ∧ u.lc.sPoison = t.lc.sPoison ∧ u.lc.pending = t.lc.pending
      ∧ u.lc.pc = t.lc.pc + 4 ∧ u.lc.tcfg = t.lc.tcfg ∧ u.core = t.core ∧ u.dev = t.dev
      ∧ u.part = { t.part with vqueue := t.part.vqueue.tail, rem := none, done := false } :=
  ⟨rfl, rfl, rfl, rfl, rfl, rfl, rfl, rfl⟩

/-- The scalar registers read what the LC holds. -/
theorem State.regs_congr {t u : State} (hs : u.lc.s = t.lc.s) (hp : u.lc.sPoison = t.lc.sPoison) (r : SReg) :
    u.getS r = t.getS r ∧ u.poisonedS r = t.poisonedS r := by
  simp only [State.getS, State.poisonedS, hs, hp, and_self]

/-- What TSHAPE leaves of the scalar registers: sd receives the answer, and its claim is gone. -/
theorem State.afterShape_scalar (u : State) (d : SReg) (x : Dword) (n : Nat) :
    let t := ((u.afterShape d x).vpop.count 2 n).retire
    t.Holds d (u.shapeAnswer x) ∧ u.SameRegsBut t d
      ∧ t.lc.pending = if d = 0 then u.lc.pending else u.lc.pending.erase d := by
  intro t
  obtain ⟨hs, hp, hpending, -⟩ := ((u.shaped x).deliverS d (u.shapeAnswer x) false).vdone_frame n
  have ht (r : SReg) := State.regs_congr hs hp r
  have hu (r : SReg) : u.getS r = (u.shaped x).getS r ∧ u.poisonedS r = (u.shaped x).poisonedS r :=
    State.regs_congr rfl rfl r
  refine ⟨⟨(ht d).1.trans ?_, (ht d).2.trans ?_⟩, fun r hr => ⟨(ht r).1.trans ?_, (ht r).2.trans ?_⟩, hpending.trans ?_⟩
  · rw [State.deliverS_getS, State.getS_setSP, if_pos rfl]
  · rw [State.deliverS_poisonedS, State.poisonedS_setSP, if_pos rfl, Bool.and_false]
  · rw [State.deliverS_getS, State.getS_setSP, if_neg hr, (hu r).1]
  · rw [State.deliverS_poisonedS, State.poisonedS_setSP, if_neg hr, (hu r).2]
  · rw [State.deliverS_eq]
    rfl

/-- What it leaves besides. -/
theorem State.afterShape_rest (u : State) (d : SReg) (x : Dword) (n : Nat) :
    let t := ((u.afterShape d x).vpop.count 2 n).retire
    let r := grantedShape x (65536 * u.usable.length)
    let cfg := grantCfg (TCfg.mk (x.setWidth 4) 0 0).type r.1 r.2.1 r.2.2
    t.lc.pc = u.lc.pc + 4 ∧ t.lc.tcfg = cfg ∧ t.core = u.core.clearSegs (u.keeps x) ∧ t.dev = u.dev
      ∧ t.part = { u.part with
        tstate := grantState (u.keeps x) r.1 r.2.1 r.2.2, grant := ⟨cfg, u.keeps x⟩, segPoison := Vector.replicate 2 0
        vqueue := u.part.vqueue.tail, rem := none, done := false } := by
  intro t r cfg
  obtain ⟨-, -, -, hpc, htcfg, hcore, hdev, hpart⟩ :=
    ((u.shaped x).deliverS d (u.shapeAnswer x) false).vdone_frame n
  obtain ⟨hpc', htcfg', hcore', hdev', hpart'⟩ := (u.shaped x).deliverS_frame d (u.shapeAnswer x) false
  obtain ⟨-, -, -, hpc'', htcfg'', hcore'', hdev'', hpart''⟩ :=
    u.withGrant_frame (u.core.clearSegs (u.keeps x)) cfg (u.keeps x) (grantState (u.keeps x) r.1 r.2.1 r.2.2)
  rw [hpc', show (u.shaped x).lc.pc = u.lc.pc from hpc''] at hpc
  rw [hpart', show (u.shaped x).part = _ from hpart''] at hpart
  exact ⟨hpc, htcfg.trans (htcfg'.trans htcfg''), hcore.trans (hcore'.trans hcore''), hdev.trans (hdev'.trans hdev''),
    hpart⟩

end

theorem shapeGranted_holds : shapeGranted := by
  intro d a s h hv he ha hd x ty y K N M free r
  have hy : y = (TCfg.mk ((s.getS a).setWidth 4) 0 0).type := (shape_type (s.getS a)).symm
  refine ⟨fun ht => ?_, fun ht => ?_⟩
  · obtain ⟨n, hx⟩ := exec_tshape_ok h hv he ha hd (hy ▸ ht)
    have herase := State.claim_erase hd
    obtain ⟨l, hl⟩ := s.claim_eq d
    rw [hl] at hx herase
    generalize hw : ({ s with lc := { s.lc with pending := l } } : State).alone _ = w at hx
    have hfree : w.freeSegments = s.freeSegments := by
      subst hw
      exact State.freeSegments_congr rfl rfl rfl rfl
    have hcore : w.core = s.core := hw ▸ rfl
    have hpc' : w.lc.pc = s.lc.pc := hw ▸ rfl
    have hpending : w.lc.pending = l := hw ▸ rfl
    have hdev' : w.dev = s.dev := hw ▸ rfl
    have hv' : w.part.v = s.part.v := hw ▸ rfl
    have hk' : w.part.k = s.part.k := hw ▸ rfl
    have hacc : w.part.accalloc = s.part.accalloc := hw ▸ rfl
    have hregs (q : SReg) : w.getS q = s.getS q ∧ w.poisonedS q = s.poisonedS q := hw ▸ ⟨rfl, rfl⟩
    have husable : w.usable = free := by rw [State.usable, hfree, hcore]
    have hr : grantedShape (s.getS a) (65536 * w.usable.length) = r := by
      rw [grantedShape_eq, husable]
    obtain ⟨hHolds, hRegs, hPending⟩ := w.afterShape_scalar d (s.getS a) n
    obtain ⟨hpc, htcfg, htcore, hdev, hpart⟩ := w.afterShape_rest d (s.getS a) n
    have hg : grantCfg (TCfg.mk ((s.getS a).setWidth 4) 0 0).type r.1 r.2.1 r.2.2 = grantCfg y r.1 r.2.1 r.2.2 := by
      rw [hy]
    have hkeeps : w.keeps (s.getS a) = free.take ((footprint y r.1 r.2.1 r.2.2 + 65535) / 65536) := by
      rw [State.keeps, hr, husable, hy]
    have hanswer : w.shapeAnswer (s.getS a)
        = BitVec.ofNat 64 (r.2.2 * 2 ^ 23 + r.2.1 * 2 ^ 15 + r.1 * 2 ^ 7 + ty) := by
      rw [State.shapeAnswer_eq, hr]
    rw [hkeeps, hcore] at htcore
    rw [hkeeps] at hpart
    rw [hr, hg] at htcfg
    refine ⟨_, hx, hpc.trans (congrArg (· + 4) hpc'), ?_, hanswer ▸ hHolds, fun q hq => ?_, htcfg, ?_, ?_, ?_, ?_, ?_, ?_,
      ?_, ?_, ?_, hdev.trans hdev'⟩
    · rw [hPending, hpending]
      exact herase
    · exact ⟨(hRegs q hq).1.trans (hregs q).1, (hRegs q hq).2.trans (hregs q).2⟩
    · rw [htcfg, hpart, hr, hg]
    · rw [hpart]
    · rw [hpart]
      exact grantState_en _ _ _ _
    · rw [hpart, htcore]
      exact fun g hm => (Core.clearSegs_seg _ _ g).trans (if_pos hm)
    · rw [hpart, htcore]
      exact fun g hm => (Core.clearSegs_seg _ _ g).trans (if_neg hm)
    · rw [htcore]
      rfl
    · rw [hpart]
      exact hv'
    · rw [hpart]
      exact hk'
    · rw [hpart]
      exact hacc
  · obtain ⟨n, hx⟩ := exec_tshape_badType h hv he ha hd (hy ▸ ht)
    obtain ⟨l, hl⟩ := s.claim_eq d
    rw [hl] at hx
    obtain ⟨hstalled, hreport, -, hs, -, htcfg, hpart, hcore, -⟩ := State.stalls_frame (({ s with lc := { s.lc with
      pending := l } } : State).alone _) _ _ n
    refine ⟨_, _, _, hx, hstalled, hreport, rfl, ?_, rfl, htcfg, ?_, hs, hcore⟩
    · show at_ (field (s.getS a) 0 4) 0 = _
      simp [field_eq, at_, ty, x]
    · rw [hpart]
      rfl

/-- Settles O35: TSHAPE on its own claims sd, is granted what the reduction rule leaves and delivers the answer in the step
that hands it off; a type it does not accept stalls it. -/
theorem tileShape : Obligations.TileShape := ⟨shapeGranted_holds, shapeReduction_holds⟩

end Sys2Proof.Machine
end

section
/-! Proofs, 04: the effects of CSR writes as events (R241, R246, R271). -/

namespace Sys2Proof.Machine

/-! ### ACCALLOC while a faulted entry waits for ERET (R241, R271) -/

/-- A stalled entry leaves no entry that still has to write the tile configurations. -/
theorem State.shapesDone_stalled {s : State} {e : VEntry} (h : s.lc.vstalled = some e) : s.shapesDone = .ok () := by
  have hl : s.liveV = [] := by simp [State.liveV, h]
  rw [State.shapesDone, hl]
  rfl

/-- With an entry stalled, ACCALLOC waits while the matrix instruction in the unit names an accumulator that it would free,
whatever the status of the LC. -/
theorem exec_accallocWrite_waits {s : State} {e : VEntry} {m : MSlot} {a : Nat} {v : Dword}
    (he : s.lc.vstalled = some e) (hm : s.part.mslot = some m) (ha : a < 16) (hold : s.part.accalloc.getLsbD a = true)
    (hv : v.getLsbD a = false) (hn : m.entry.namesAcc a = true) : exec (.accallocWrite v) s = .next s := by
  have hfreed (others : BitVec 16) : (accNumbers (s.part.accalloc
      &&& ~~~((v &&& csrRw 0x019 s.super).setWidth 16 &&& ~~~others))).any (fun b =>
        [m.entry].any (·.namesAcc b)) = true := by
    refine List.any_eq_true.mpr ⟨a, List.mem_filter.mpr ⟨List.mem_range.mpr ha, ?_⟩, by simpa using hn⟩
    simp [hold, hv, ha]
  have hw : s.writeAccalloc (v &&& csrRw 0x019 s.super) = .error .wait := by
    simp only [State.writeAccalloc, State.shapesDone_stalled he, he, hm, bind, Except.bind, Option.isNone_some,
      Bool.false_eq_true, if_false, Option.map_some, Option.toList_some, hfreed, if_true]
  show s.finish (s.writeAccalloc (v &&& csrRw 0x019 s.super)) = _
  rw [hw]
  rfl

/-! ### A state in which ACCALLOC waits though no entry of a resident LC is queued -/

/-- An ACCZ of accumulator 0 as the machine right after reset would capture it. -/
def acczEntry : VEntry := State.reset.capture (.accz 0) false 0 0 0 false

/-- The machine right after reset, whose LC is absent, with accumulator 0 allocated, an ACCZ of it in the matrix unit and
another one stalled. -/
def acczHeld : State :=
  { State.reset with
    lc := { Lc.reset with vstalled := some acczEntry }
    part := { Part.reset 0 0 with accalloc := 1, mslot := some ⟨acczEntry, 0, false⟩ } }

/-- Its LC is not resident, so none of its entries counts as queued. -/
theorem acczHeld_queuedV : acczHeld.queuedV = [] := rfl

theorem acczHeld_liveV : acczHeld.liveV = [] := rfl

/-- There a write of 0 to ACCALLOC waits. -/
theorem acczHeld_waits : exec (.accallocWrite 0) acczHeld = .next acczHeld :=
  exec_accallocWrite_waits (a := 0) rfl rfl (by decide) (by decide) (by decide) rfl

/-- Refutes O50: with an entry stalled, ACCALLOC waits for the entry in the matrix unit whether or not the LC is resident,
while the statement asks only that no entry of `queuedV`, which is empty for an LC that is not resident, names what is
freed. -/
theorem not_controlEvents : ¬ Obligations.ControlEvents := by
  intro h
  have hshapes : ∀ e ∈ acczHeld.liveV, e.op.shapes = false := by simp [acczHeld_liveV]
  obtain ⟨-, hacc⟩ := (h acczHeld 0).1 hshapes
  obtain ⟨t, hx, hbits, -⟩ := hacc fun a _ _ => .inr (by simp [acczHeld_queuedV])
  obtain rfl : acczHeld = t := by simpa using acczHeld_waits.symm.trans hx
  have h0 : acczHeld.part.accalloc.getLsbD 0 = false := (hbits 0 (by decide)).trans (by simp)
  exact absurd h0 (by decide)

end Sys2Proof.Machine
end

section
/-! Proofs, 04: element accesses of a vector load and a vector store on their own (R104, R276, R277, R301). -/

namespace Sys2Proof.Machine

/-! ### The causes that an address can meet (R295, R301) -/

section
variable {d : Device} {x : Space} {k : Acc}

theorem Acc.pageFault_ne (k : Acc) : k.pageFault ≠ .poisonVector := by
  cases k <;> decide

theorem Acc.access_ne (k : Acc) : k.access ≠ .poisonVector := by
  cases k <;> decide

/-- No table pointer gives POISON_VECTOR. -/
theorem nextTable_ne (e : Dword) : nextTable k e ≠ .error .poisonVector := by
  unfold nextTable
  split_ifs <;> simp [k.pageFault_ne]

theorem Device.pageLeaf_ne (base va : Nat) : d.pageLeaf k base va ≠ .error .poisonVector := by
  unfold Device.pageLeaf
  dsimp only
  split_ifs <;> simp [k.pageFault_ne]

theorem Device.walk2_ne (t va : Nat) : d.walk2 k t va ≠ .error .poisonVector := by
  unfold Device.walk2
  dsimp only
  split_ifs
  · simp
  · simp
  · cases h : nextTable k (d.entry (t + 8 * ((va >>> 28) % 8192))) with
    | error c => exact fun hc => nextTable_ne _ (h.trans (by simpa using hc))
    | ok t3 => exact d.pageLeaf_ne t3 va

theorem Device.walk1_ne (t va : Nat) : d.walk1 k t va ≠ .error .poisonVector := by
  unfold Device.walk1
  cases h : nextTable k (d.entry (t + 8 * ((va >>> 41) % 8192))) with
  | error c => exact fun hc => nextTable_ne _ (h.trans (by simpa using hc))
  | ok t2 => exact d.walk2_ne t2 va

theorem Device.walk0_ne (root va : Nat) : d.walk0 k root va ≠ .error .poisonVector := by
  unfold Device.walk0
  split_ifs
  · simp
  · cases h : nextTable k (d.entry (root + 8 * ((va >>> 54) % 8))) with
    | error c => exact fun hc => nextTable_ne _ (h.trans (by simpa using hc))
    | ok t1 => exact d.walk1_ne t1 va

theorem Device.walk_ne (va : Nat) : d.walk x k va ≠ .error .poisonVector := by
  unfold Device.walk
  cases x.ptr 2 va with
  | some t => exact d.pageLeaf_ne t va
  | none => cases x.ptr 1 va with
    | some t => exact d.walk2_ne t va
    | none => cases x.ptr 0 va with
      | some t => exact d.walk1_ne t va
      | none => exact d.walk0_ne _ va

theorem Device.leafOf_ne (va : Nat) : d.leafOf x k va ≠ .error .poisonVector := by
  unfold Device.leafOf
  cases x.tlb.findSome? (fun t => t.leaf? x.asid va) with
  | some l => simp
  | none => exact d.walk_ne va

theorem Device.reach_ne (pa : Nat) : d.reach k pa ≠ .error .poisonVector := by
  unfold Device.reach
  cases paKind pa with
  | hbm =>
    dsimp only
    split_ifs <;> simp [k.access_ne]
  | unassigned => simp [k.access_ne]
  | peer m off =>
    dsimp only
    split_ifs <;> simp [k.access_ne]
  | host => simp

theorem Device.xlate_ne (va : Dword) : d.xlate x k va ≠ .error (some .poisonVector) := by
  unfold Device.xlate
  split_ifs
  · simp [k.access_ne]
  · cases h : d.leafOf x k va.toNat with
    | error c => exact fun hc => d.leafOf_ne _ (h.trans (by simpa using hc))
    | ok l =>
      cases hr : d.reach k (leafFrame l.entry * 65536
          + if l.block = true then va.toNat % 2 ^ 28 else va.toNat % 2 ^ 16) with
      | error c =>
        have hc : c ≠ .poisonVector := fun hc => d.reach_ne _ (hr.trans (by rw [hc]))
        simp only [hr]
        split <;> [simp [k.access_ne]; split <;> simp [hc]]
      | ok p =>
        simp only [hr]
        split <;> [simp [k.access_ne]; split <;> simp]

theorem State.windowAt_ne (s : State) (va : Dword) : s.windowAt k va ≠ .error .poisonVector := by
  unfold State.windowAt
  dsimp only
  split_ifs <;> simp [k.access_ne]

/-- No address meets POISON_VECTOR as it is translated. -/
theorem State.locate_ne (s : State) (super : Bool) (k : Acc) (va : Dword) :
    s.locate super k va ≠ .error (.cause .poisonVector) := by
  unfold State.locate State.locateIn
  split
  · cases h : s.windowAt k va with
    | error c => exact fun hc => s.windowAt_ne va (h.trans (by simpa using hc))
    | ok l => simp
  · unfold Device.translate
    cases h : s.dev.xlate (s.space super) k va with
    | error c =>
      cases c with
      | none => simp
      | some c => exact fun hc => s.dev.xlate_ne va (h.trans (by simpa using hc))
    | ok p =>
      dsimp only
      split_ifs <;> simp

end

/-! ### Probing elements that need no preparation (R104, R277) -/

/-- What a probe finds where locating an address needs no expansion and no recall. -/
def foundBy : Except XErr Loc → Except Cause Loc
  | .ok l => .ok l
  | .error (.cause c) => .error c
  | .error .expand | .error (.recall _) => .error .loadAccess

/-- An address that needs no preparation: a location, or a cause. -/
def Prepared (r : Except XErr Loc) : Prop := ∀ e, r = .error e → ∃ c, e = .cause c

section
variable {s : State} {e : VEntry} {k : Acc} {w count : Nat}

theorem State.reachIn_prepared {super : Bool} {va : Dword} (h : Prepared (s.locate super k va)) :
    s.reachIn (s.space super) k va = (s, foundBy (s.locate super k va)) := by
  cases hl : s.locate super k va with
  | ok l => exact State.reachIn_of_locate hl
  | error x =>
    obtain ⟨c, rfl⟩ := h x hl
    exact State.reachIn_of_cause hl

/-- A probe of elements that leaves the state as it is. -/
theorem State.probeItems_still {l : List VItem} {res : VItem → Except Cause Loc}
    (h : ∀ i ∈ l, aligned i.va w = true ∧ s.vreach e k i.va = (s, res i)) :
    s.probeItems e k w l = (s, l.map (fun i => ⟨i, res i⟩)) := by
  have hf (l : List VItem) (ps : List Probed) (h : ∀ i ∈ l, aligned i.va w = true ∧ s.vreach e k i.va = (s, res i)) :
      l.foldl (fun a i =>
        if !aligned i.va w then (a.1, a.2 ++ [⟨i, .error k.misaligned⟩])
        else
          let r := a.1.vreach e k i.va
          (r.1, a.2 ++ [⟨i, r.2⟩])) (s, ps) = (s, ps ++ l.map (fun i => ⟨i, res i⟩)) := by
    induction l generalizing ps with
    | nil => simp
    | cons i r ih =>
      obtain ⟨ha, hv⟩ := h i List.mem_cons_self
      rw [List.foldl_cons]
      simp only [ha, Bool.not_true, Bool.false_eq_true, if_false, hv]
      rw [ih _ fun j hj => h j (List.mem_cons_of_mem i hj)]
      simp
  exact hf l [] h

/-- Elements that no watch names raise no DEBUG_WATCH (R286). -/
theorem State.watchItems_none {isStore isLoad : Bool} {l : List VItem}
    (h : ∀ i ∈ l, e.env.watches e.super isStore isLoad i.va w = false) :
    s.watchItems e isStore isLoad w count l = .ok () := by
  have hn : l.filter (fun i => !e.placed && e.env.watches e.super isStore isLoad i.va w) = [] :=
    List.filter_eq_nil_iff.mpr fun i hi => by simp [h i hi]
  rw [State.watchItems, hn]

/-- An element of an access, aligned and not watched, whose probe leaves the state as it is. -/
structure State.Meets (s : State) (e : VEntry) (k : Acc) (isStore isLoad : Bool) (w : Nat) (v : VItem)
    (r : Except XErr Loc) : Prop where
  aligned : aligned v.va w = true
  unwatched : e.env.watches e.super isStore isLoad v.va w = false
  reached : s.vreach e k v.va = (s, foundBy r)
  prepared : Prepared r

section
variable {isStore isLoad : Bool} {l : List Nat} {item : Nat → VItem} {loc : Nat → Except XErr Loc}

theorem State.probeItems_meets (hi : ∀ i, (item i).idx = i)
    (h : ∀ i ∈ l, s.Meets e k isStore isLoad w (item i) (loc i)) :
    s.probeItems e k w (l.map item) = (s, l.map (fun i => ⟨item i, foundBy (loc i)⟩)) := by
  rw [State.probeItems_still (res := fun v => foundBy (loc v.idx)), List.map_map]
  · simp only [Function.comp_def, hi]
  · intro v hv
    obtain ⟨i, hl, rfl⟩ := List.mem_map.mp hv
    rw [hi]
    exact ⟨(h i hl).aligned, (h i hl).reached⟩

theorem State.watchItems_meets (h : ∀ i ∈ l, s.Meets e k isStore isLoad w (item i) (loc i)) :
    s.watchItems e isStore isLoad w count (l.map item) = .ok () := by
  refine State.watchItems_none fun v hv => ?_
  obtain ⟨i, hl, rfl⟩ := List.mem_map.mp hv
  exact (h i hl).unwatched

end

/-- No access waits for a bank command when none is under way (R180). -/
theorem State.itemsWait_none (h : s.bankWork = []) (l : List Probed) : s.itemsWait e l = false := by
  have hb (l : Loc) : s.bankWaitsAt e.no l = false := by
    cases l <;> simp [State.bankWaitsAt, h]
  rw [State.itemsWait, List.any_eq_false]
  intro p _
  cases p.loc? <;> simp [hb]

/-- The LC has no request on its way to the host. -/
def State.NoHost (s : State) : Prop := ∀ r ∈ s.dev.hostReqs, r.who ≠ s.lc.key

theorem State.NoHost.bad (h : s.NoHost) (p : Probed) : s.hostBad p = none := by
  have hn : s.dev.hostReqs.find? (fun r => r.who == s.lc.key && !r.store && r.va == p.item.va) = none :=
    List.find?_eq_none.mpr fun r hr => by simp [h r hr]
  rw [State.hostBad, hn]

theorem State.NoHost.used (h : s.NoHost) (l : List Probed) : s.hostUsed l = s := by
  have hn : s.dev.hostReqs.filter (fun r => !(r.who == s.lc.key && !r.store && l.any (fun p => p.item.va == r.va)))
      = s.dev.hostReqs := List.filter_eq_self.mpr fun r hr => by simp [h r hr]
  rw [State.hostUsed, hn]

end

/-! ### The accesses that meet a cause (R276, R277, R280) -/

/-- The cause that an element's address meets. -/
def causeOf : Except XErr Loc → Option Cause
  | .error (.cause c) => some c
  | _ => none

/-- The accesses of elements that meet a cause. -/
def missed (loc : Nat → Except XErr Loc) (item : Nat → VItem) (l : List Nat) : List (VItem × Cause) :=
  l.filterMap (fun i => (causeOf (loc i)).map (fun c => (item i, c)))

theorem mem_missed {loc : Nat → Except XErr Loc} {item : Nat → VItem} {l : List Nat} {v : VItem} {c : Cause} :
    (v, c) ∈ missed loc item l ↔ ∃ i ∈ l, loc i = .error (.cause c) ∧ item i = v := by
  have hc (i : Nat) : causeOf (loc i) = some c ↔ loc i = .error (.cause c) := by
    cases loc i with
    | ok x => simp [causeOf]
    | error e => cases e <;> simp [causeOf]
  simp only [missed, List.mem_filterMap, Option.map_eq_some_iff, Prod.mk.injEq]
  constructor
  · rintro ⟨i, hi, d, hd, rfl, rfl⟩
    exact ⟨i, hi, (hc i).mp hd, rfl⟩
  · rintro ⟨i, hi, hl, rfl⟩
    exact ⟨i, hi, c, (hc i).mpr hl, rfl, rfl⟩

/-- The elements that meet a cause. -/
theorem mem_missed_idx {loc : Nat → Except XErr Loc} {item : Nat → VItem} (hi : ∀ i, (item i).idx = i) {l : List Nat}
    {i : Nat} : i ∈ (missed loc item l).map (·.1.idx) ↔ i ∈ l ∧ ∃ c, loc i = .error (.cause c) := by
  simp only [List.mem_map, Prod.exists]
  constructor
  · rintro ⟨v, c, hm, rfl⟩
    obtain ⟨j, hj, hl, rfl⟩ := mem_missed.mp hm
    rw [hi]
    exact ⟨hj, c, hl⟩
  · rintro ⟨hl, c, hc⟩
    exact ⟨item i, c, mem_missed.mpr ⟨i, hl, hc, rfl⟩, hi i⟩

section
variable {l : List Nat} {item : Nat → VItem} {loc : Nat → Except XErr Loc}

/-- The first faulting access of ascending elements is the lowest one. -/
theorem missed_head {first : Nat} {c : Cause} (hl : l.Pairwise (· < ·)) (hm : first ∈ l)
    (hf : loc first = .error (.cause c)) (hlow : ∀ i ∈ l, i < first → ∃ x, loc i = .ok x) :
    ∃ r, missed loc item l = (item first, c) :: r := by
  induction l with
  | nil => cases hm
  | cons a r ih =>
    obtain ⟨ha, hr⟩ := List.pairwise_cons.mp hl
    rcases List.mem_cons.mp hm with rfl | hm
    · exact ⟨missed loc item r, by simp [missed, hf, causeOf]⟩
    · obtain ⟨x, hx⟩ := hlow a List.mem_cons_self (ha first hm)
      obtain ⟨q, hq⟩ := ih hr hm fun i hi => hlow i (List.mem_cons_of_mem a hi)
      refine ⟨q, ?_⟩
      rw [← hq]
      simp [missed, hx, causeOf]

end

/-- An element fails when it is active and its address meets a cause. -/
theorem failed_iff {p : Bool} {q : Except XErr Loc} : (p = true → Prepared q) → ((p && match q with
    | .error _ => true
    | .ok _ => false) = true ↔ p = true ∧ ∃ c, q = .error (.cause c)) := by
  intro h
  cases q with
  | ok x => simp
  | error x =>
    simp only [Bool.and_true, iff_self_and]
    intro hp
    obtain ⟨c, rfl⟩ := h hp x rfl
    exact ⟨c, rfl⟩

/-- An active element that does not fail is there. -/
theorem ok_of_not_failed {p : Bool} {q : Except XErr Loc} (hp : p = true) (h : (p && match q with
    | .error _ => true
    | .ok _ => false) = false) : ∃ x, q = .ok x := by
  subst hp
  cases q with
  | ok x => exact ⟨x, rfl⟩
  | error x => cases h

/-- The report of accesses of which the lowest met a cause of its translation (R280). -/
theorem VEntry.reportAt_head (e : VEntry) {v : VItem} {c : Cause} {rest : List (VItem × Cause)} {bad : List (VItem × Cause)}
    {group rm k7 : Bool} (hb : bad = (v, c) :: rest) (hc : c ≠ .poisonVector) :
    let u := e.reportAt bad group rm k7
    u.cause = c ∧ u.tval = v.va ∧ u.first = v.idx ∧ u.rm = some rm ∧ u.pc = e.pc ∧ u.insn = e.word ∧ u.storeGroup = group := by
  subst hb
  have hn : (c == .poisonVector) = false := by simpa using hc
  have ht : (e.reportAt ((v, c) :: rest) group rm k7).tval = if c == .poisonVector then e.target v.sub else v.va := rfl
  rw [hn] at ht
  exact ⟨rfl, ht, rfl, rfl, rfl, rfl, rfl⟩

/-! ### An unplaced instruction that has just been handed off -/

section
variable {s : State}

theorem State.locate_alone (s : State) (e : VEntry) (super : Bool) (q : Acc) (va : Dword) :
    (s.alone e).locate super q va = s.locate super q va := rfl

/-- An unplaced instruction that has just been handed off translates as the scalar unit does (R74). -/
theorem State.vreach_alone {e : VEntry} (hp : e.placed = false) (hs : e.super = s.super) (he : e.env = s.env) (q : Acc)
    (va : Dword) : (s.alone e).vreach e q va = (s.alone e).reachIn ((s.alone e).space s.super) q va := by
  have hv : (s.alone e).vspace e = (s.alone e).space s.super := by
    rw [State.vspace, hp, hs, he]
    rfl
  rw [State.vreach, hp, hv]
  exact if_pos rfl

/-- What the scalar unit's translation of an element says is what the element meets in its stream (R74, R104). -/
theorem State.meets_alone {e : VEntry} {v : VItem} {k : Acc} {isStore isLoad : Bool} {w : Nat} {q : Except XErr Loc}
    (hp : e.placed = false) (hs : e.super = s.super) (he : e.env = s.env) (ha : v.va.toNat % w = 0)
    (hw : s.watched s.super isStore isLoad v.va w = false) (hl : s.locate s.super k v.va = q) (hq : Prepared q) :
    (s.alone e).Meets e k isStore isLoad w v q where
  aligned := by simpa [aligned] using ha
  unwatched := by
    rw [he, hs]
    exact hw
  reached := by
    have hl' : (s.alone e).locate s.super k v.va = q := (s.locate_alone e _ _ _).trans hl
    rw [State.vreach_alone hp hs he, State.reachIn_prepared (hl'.symm ▸ hq), hl']
  prepared := hq

end

/-! ### The unit-stride elements of an instruction on its own -/

/-- The access of element `i` of a unit-stride instruction with base `x` (R412). -/
def State.unitItem (s : State) (y : Ty) (x : Dword) (i : Nat) : VItem := ⟨i, s.elemAddr .unit y x i 0, 0⟩

section
variable {s : State}

theorem State.items_unit (h : s.Alone) (op : VOp) (x : Dword) (xp : Bool) (y : Ty) :
    let e := s.capture op false x 0 0 xp
    (s.alone e).items e .unit y x = s.activeList.map (s.unitItem y x) := by
  intro e
  have ha : (s.alone e).actives e = s.activeList := State.actives_alone h op x xp
  show ((s.alone e).actives e).map _ = _
  rw [ha]
  rfl

/-- The active elements ascend, and are those below VL that the mask leaves. -/
theorem State.mem_activeList {i : Nat} : i ∈ s.activeList ↔ s.activeAt i = true := by
  simp only [State.activeList, List.mem_filter, List.mem_range, and_iff_right_iff_imp]
  intro h
  simp only [State.activeAt, Bool.and_eq_true, decide_eq_true_eq] at h
  exact h.1

theorem State.activeList_ascends (s : State) : s.activeList.Pairwise (· < ·) := List.pairwise_lt_range.filter _

theorem State.activeAt_lt {i : Nat} (h : s.activeAt i = true) : i < s.lc.vec.vl.toNat := by
  simp only [State.activeAt, Bool.and_eq_true, decide_eq_true_eq] at h
  exact h.1

/-- The lowest active element is the first of them. -/
theorem State.activeList_head {low : Nat} (h : s.activeAt low = true) (hl : ∀ i, i < low → s.activeAt i = false) :
    ∃ q, s.activeList = low :: q := by
  have hm := State.mem_activeList.mpr h
  have ha := s.activeList_ascends
  cases hs : s.activeList with
  | nil =>
    rw [hs] at hm
    cases hm
  | cons a q =>
    rw [hs] at hm ha
    have hact : s.activeAt a = true := State.mem_activeList.mp (hs ▸ List.mem_cons_self)
    have hge : ¬a < low := fun hlt => by
      rw [hl a hlt] at hact
      cases hact
    rcases List.mem_cons.mp hm with rfl | hm
    · exact ⟨q, rfl⟩
    · exact absurd ((List.pairwise_cons.mp ha).1 low hm) hge

/-- An instruction on its own waits for no bank command. -/
theorem State.Alone.bankWork (h : s.Alone) : s.bankWork = [] := by
  simp [State.bankWork, h.bqueue, h.sequencers]

/-- An instruction on its own starts at element 0, so one with an active element is not skipped (R86). -/
theorem State.memSkips_unit (h : s.Alone) {op : VOp} {x : Dword} {xp : Bool} {i : Nat} (hi : s.activeAt i = true) :
    (s.alone (s.capture op false x 0 0 xp)).memSkips (s.capture op false x 0 0 xp) .unit = false := by
  have h0 : s.lc.vstart.toNat = 0 := by simp [h.start]
  have hv := State.activeAt_lt hi
  have : ¬ s.lc.vec.vl.toNat ≤ s.lc.vstart.toNat := by omega
  exact decide_eq_false this

end

/-! ### Lanes in k7 (R87, R276) -/

/-- A set of elements as a mask. -/
theorem laneMask_getLsbD (l : List Nat) (i : Nat) (h : i < 1024) : (laneMask l).getLsbD i = decide (i ∈ l) := by
  have hf (l : List Nat) (m : Nat) : (l.foldl (fun m i => m ||| 2 ^ i) m).testBit i = (m.testBit i || decide (i ∈ l)) := by
    induction l generalizing m with
    | nil => simp
    | cons a r ih =>
      rw [List.foldl_cons, ih, Nat.testBit_or, Nat.testBit_two_pow, Bool.or_assoc, ← Bool.decide_or]
      simp only [List.mem_cons, eq_comm]
  rw [laneMask, BitVec.getLsbD_ofNat, hf]
  simp [h]

section
variable {s : State} {count : Nat} {lanes : List Nat}

/-- k7 after a fault of at most 1,024 elements. -/
theorem State.setLanes_k7 (h : s.owns = true) (hc : count ≤ 1024) (hl : ∀ j ∈ lanes, j < 1024) (i : Nat) :
    (s.setLanes count lanes).part.k[7].getLsbD i = decide (i ∈ lanes) := by
  have hk : (s.setLanes count lanes).part.k[7] = laneMask lanes := by
    have hp : (s.setLanes count lanes).part = s.part.setK 7 (laneMask lanes) 0 := by
      rw [State.setLanes, if_pos hc, State.setK_part h]
    simp [hp, Part.setK]
  rw [hk]
  by_cases hi : i < 1024
  · exact laneMask_getLsbD lanes i hi
  · rw [BitVec.getLsbD_of_ge _ _ (by omega)]
    exact (decide_eq_false fun hm => hi (hl i hm)).symm

/-- What it leaves as it was. -/
theorem State.setLanes_rest (h : s.owns = true) :
    let t := s.setLanes count lanes
    t.lc = s.lc ∧ t.core = s.core ∧ t.dev = s.dev ∧ t.runAhead = s.runAhead
      ∧ { t.part with k := s.part.k, kPoison := s.part.kPoison } = s.part := by
  intro t
  by_cases hc : count ≤ 1024
  · have ht : t = s.setK 7 (laneMask lanes) 0 := if_pos hc
    rw [ht, State.setK_part h]
    exact ⟨s.setK_lc _ _ _, s.setK_core _ _ _, s.setK_dev _ _ _, s.setK_runAhead _ _ _, rfl⟩
  · have ht : t = s := if_neg hc
    rw [ht]
    exact ⟨rfl, rfl, rfl, rfl, rfl⟩

end

end Sys2Proof.Machine
end

section
/-! Proofs, 04: a vector load on its own of which some elements do not translate (R104, R276, R280). -/

namespace Sys2Proof.Machine

/-! ### What the loads of an entry give (R276) -/

/-- The values of the other elements, none of them poisoned. -/
def State.fetched (s : State) (loc : Nat → Except XErr Loc) (item : Nat → VItem) (w : Nat) (l : List Nat) :
    List (VItem × Nat × Bool) :=
  l.filterMap (fun i => (loc i).toOption.map (fun x => (item i, s.readLoc x w, false)))

/-- A fold whose steps change nothing. -/
theorem foldl_still {α β : Type} {f : α → β → α} {a : α} {l : List β} (h : ∀ b ∈ l, f a b = a) : l.foldl f a = a := by
  induction l with
  | nil => rfl
  | cons b r ih => rw [List.foldl_cons, h b List.mem_cons_self, ih fun c hc => h c (List.mem_cons_of_mem b hc)]

/-- An element of an access that loads with nothing before it, at a clean location or one that meets a cause. -/
structure State.LoadsAt (s : State) (e : VEntry) (w : Nat) (v : VItem) (r : Except XErr Loc) : Prop extends
    s.Meets e .load false true w v r where
  clean : ∀ x, r = .ok x → s.CleanAt x

section
variable {s : State} {e : VEntry} {w count : Nat} {l : List Nat} {item : Nat → VItem} {loc : Nat → Except XErr Loc}

/-- What a probed load meets at its granule, when that is clean. -/
theorem State.LoadsAt.cause (hh : s.NoHost) {v : VItem} {r : Except XErr Loc} (h : s.LoadsAt e w v r) :
    s.loadCause true ⟨v, foundBy r⟩ = causeOf r := by
  cases r with
  | error x =>
    obtain ⟨c, rfl⟩ := h.prepared x rfl
    rfl
  | ok x =>
    obtain ⟨hb, hp⟩ := h.clean x rfl
    simp only [State.loadCause, foundBy, hh.bad, hb, State.poisonFor, hp, causeOf]
    rfl

/-- The loads of an entry on its own: the clean elements' values, and the others' causes; the state stays as it is. -/
theorem State.loadItems_ok (hp : e.placed = false) (hr : s.runAhead = false) (hb : s.bankWork = []) (hh : s.NoHost)
    (hi : ∀ i, (item i).idx = i) (h : ∀ i ∈ l, s.LoadsAt e w (item i) (loc i)) :
    s.loadItems e w count (l.map item) = .ok ⟨s, s.fetched loc item w l, missed loc item l⟩ := by
  have hprobe : s.probeItems e .load w (l.map item) = (s, l.map (fun i => ⟨item i, foundBy (loc i)⟩)) :=
    State.probeItems_meets hi fun i hl => (h i hl).toMeets
  have hwatch : s.watchItems e false true w count (l.map item) = .ok () :=
    State.watchItems_meets fun i hl => (h i hl).toMeets
  have hbad : (l.map (fun i => (⟨item i, foundBy (loc i)⟩ : Probed))).filterMap
      (fun p => (s.loadCause true p).map (fun c => (p.item, c))) = missed loc item l := by
    rw [List.filterMap_map]
    exact List.filterMap_congr fun i hl => by rw [Function.comp_apply, (h i hl).cause hh]
  have hgood : ((l.map (fun i => (⟨item i, foundBy (loc i)⟩ : Probed))).filter
      (fun p => !((missed loc item l).map (·.1.idx)).contains p.item.idx)).filterMap
        (fun p => p.loc?.map (fun x => (p.item, s.readFor true x w, s.poisonFor true x))) = s.fetched loc item w l := by
    rw [List.filterMap_filter, List.filterMap_map]
    refine List.filterMap_congr fun i hl => ?_
    cases hx : loc i with
    | error x =>
      obtain ⟨c, rfl⟩ := (h i hl).prepared x hx
      simp [Probed.loc?, foundBy, hx, Except.toOption]
    | ok x =>
      have hn : ¬i ∈ (missed loc item l).map (·.1.idx) := fun hm => by
        obtain ⟨-, c, hc⟩ := (mem_missed_idx hi).mp hm
        rw [hx] at hc
        cases hc
      have hc := ((h i hl).clean x hx).2
      simp [Probed.loc?, foundBy, hx, Except.toOption, hi, hn, State.readFor, State.poisonFor, hc]
  have hask := State.hostAsk_none (s := s) w (l := l.map (fun i => (⟨item i, foundBy (loc i)⟩ : Probed)))
    (fun _ _ _ _ => by simp [hr])
  unfold State.loadItems
  simp only [hprobe, hwatch, State.itemsWait_none hb, hask, hp, Bool.not_false, hbad, hgood, bind, Except.bind,
    Bool.false_eq_true, if_false]
  rw [foldl_still (a := s) (l := l.map _) fun p hm => ?_, foldl_still fun v hv => ?_, hh.used]
  · obtain ⟨i, -, hv⟩ := List.mem_filterMap.mp hv
    obtain ⟨x, -, rfl⟩ := Option.map_eq_some_iff.mp hv
    rfl
  · obtain ⟨i, hl, rfl⟩ := List.mem_map.mp hm
    cases hx : loc i with
    | error x =>
      obtain ⟨c, rfl⟩ := (h i hl).prepared x hx
      rfl
    | ok x =>
      have hc := ((h i hl).clean x hx).1
      simp [Probed.loc?, foundBy, hc]

end

/-! ### The lowest element that fails, and the values of the others -/

section
variable {s : State} {w : Nat} {l : List Nat} {item : Nat → VItem} {loc : Nat → Except XErr Loc}

theorem State.fetched_cons_error {a : Nat} {x : XErr} (h : loc a = .error x) :
    s.fetched loc item w (a :: l) = s.fetched loc item w l := by
  simp [State.fetched, h, Except.toOption]

theorem State.fetched_cons_ok {a : Nat} {x : Loc} (h : loc a = .ok x) :
    s.fetched loc item w (a :: l) = (item a, s.readLoc x w, false) :: s.fetched loc item w l := by
  simp [State.fetched, h, Except.toOption]

/-- The value of an element that is there. -/
theorem State.fetched_find (hi : ∀ i, (item i).idx = i) (j : Nat) :
    (s.fetched loc item w l).find? (·.1.idx == j)
      = if j ∈ l then (loc j).toOption.map (fun x => (item j, s.readLoc x w, false)) else none := by
  induction l with
  | nil => rfl
  | cons a r ih =>
    have hmem : j ∈ a :: r ↔ a = j ∨ j ∈ r := by rw [List.mem_cons, eq_comm]
    cases hx : loc a with
    | error x =>
      rw [State.fetched_cons_error hx, ih]
      by_cases ha : a = j
      · subst ha
        simp [hx, Except.toOption]
      · simp [hmem, ha]
    | ok x =>
      rw [State.fetched_cons_ok hx, List.find?_cons, hi]
      by_cases ha : a = j
      · subst ha
        simp [hx, Except.toOption]
      · have hb : (a == j) = false := by simpa using ha
        rw [hb]
        simp [hmem, ha, ih]

theorem State.fetched_some (hi : ∀ i, (item i).idx = i) {j : Nat} {x : Loc} (hj : j ∈ l) (hx : loc j = .ok x) :
    (s.fetched loc item w l).find? (·.1.idx == j) = some (item j, s.readLoc x w, false) := by
  rw [State.fetched_find hi, if_pos hj, hx]
  rfl

theorem State.fetched_none (hi : ∀ i, (item i).idx = i) {j : Nat} (hj : j ∈ l → ∃ x, loc j = .error x) :
    (s.fetched loc item w l).find? (·.1.idx == j) = none := by
  rw [State.fetched_find hi]
  split
  · next hm =>
    obtain ⟨x, hx⟩ := hj hm
    rw [hx]
    rfl
  · rfl

/-- No element is loaded twice. -/
theorem State.fetched_nodup (hi : ∀ i, (item i).idx = i) (hl : l.Nodup) :
    ((s.fetched loc item w l).map (·.1.idx)).Nodup := by
  have hs : ((s.fetched loc item w l).map (·.1.idx)).Sublist l := by
    clear hl
    induction l with
    | nil => exact .slnil
    | cons a r ih =>
      cases hx : loc a with
      | error x =>
        rw [State.fetched_cons_error hx]
        exact ih.cons a
      | ok x =>
        rw [State.fetched_cons_ok hx, List.map_cons, hi]
        exact ih.cons_cons a
  exact hl.sublist hs

/-- A byte of a value that was read. -/
theorem State.readLoc_byte (s : State) (x : Loc) {n k : Nat} (h : n < k) :
    BitVec.ofNat 8 ((s.readLoc x k % 2 ^ (8 * k)) >>> (8 * n)) = s.readByte x n := by
  have hlt (k : Nat) : s.readLoc x k < 2 ^ (8 * k) := by
    induction k with
    | zero => simp [State.readLoc]
    | succ k ih =>
      have hb := (s.readByte x k).isLt
      rw [State.readLoc, Nat.mul_succ, pow_add]
      nlinarith
  have hd (k : Nat) (h : n < k) : s.readLoc x k / 2 ^ (8 * n) % 2 ^ 8 = (s.readByte x n).toNat := by
    induction k with
    | zero => omega
    | succ k ih =>
      rw [State.readLoc]
      rcases Nat.lt_or_ge n k with hn | hn
      · obtain ⟨m, rfl⟩ := Nat.exists_eq_add_of_lt hn
        have hp : 2 ^ (8 * (n + m + 1)) = 2 ^ (8 * m) * 2 ^ 8 * 2 ^ (8 * n) := by
          rw [← pow_add, ← pow_add]
          congr 1
          omega
        rw [hp, ← Nat.mul_assoc, Nat.add_mul_div_right _ _ (by positivity), ← Nat.mul_assoc, Nat.add_mul_mod_self_right,
          ih (by omega)]
      · obtain rfl : n = k := by omega
        rw [Nat.add_mul_div_right _ _ (by positivity), Nat.div_eq_of_lt (hlt n), Nat.zero_add]
        exact Nat.mod_eq_of_lt (s.readByte x n).isLt
  apply BitVec.eq_of_toNat_eq
  rw [BitVec.toNat_ofNat, Nat.mod_eq_of_lt (hlt k), Nat.shiftRight_eq_div_pow, hd k h]

end

/-! ### Values put in their register -/

/-- Values of single fields go to one register. -/
theorem State.putLoaded_single {e : VEntry} {d : VReg} {w : Nat} {s : State} {vals : List (VItem × Nat × Bool)}
    (hp : e.placed = false) (hs : ∀ v ∈ vals, v.1.sub = 0) : State.putLoaded e d w s vals
      = if vals.isEmpty then s else s.writeElems false d w (vals.map (fun v => (v.1.idx, v.2.1, v.2.2))) := by
  have h0 : vals.filter (fun v => v.1.sub == 0) = vals := List.filter_eq_self.mpr fun v hv => by simp [hs v hv]
  have hn (m : Nat) : vals.filter (fun v => v.1.sub == m + 1) = [] :=
    List.filter_eq_nil_iff.mpr fun v hv => by simp [hs v hv]
  rw [State.putLoaded, List.range_succ_eq_map, List.foldl_cons, foldl_still]
  · rw [h0, hp]
    simp
  · intro m hm
    obtain ⟨k, -, rfl⟩ := List.mem_map.mp hm
    rw [hn]
    rfl

theorem State.wroteElems_putLoaded {e : VEntry} {d : VReg} {w : Nat} {s : State} {vals : List (VItem × Nat × Bool)}
    (hp : e.placed = false) (hs : ∀ v ∈ vals, v.1.sub = 0) (hn : (vals.map (·.1.idx)).Nodup) :
    s.WroteElems (State.putLoaded e d w s vals) d w (fun j => (vals.find? (·.1.idx == j)).map (·.2.1)) := by
  rw [State.putLoaded_single hp hs]
  cases vals with
  | nil => exact ⟨fun j _ => rfl, fun q _ => ⟨rfl, rfl⟩, rfl, rfl⟩
  | cons v r =>
    have h := s.wroteElems_writeElems d w ((v :: r).map (fun v => (v.1.idx, v.2.1, v.2.2))) (by
      rw [List.map_map]
      exact hn)
    have hf (j : Nat) : (((v :: r).map (fun v => (v.1.idx, v.2.1, v.2.2))).find? (·.1 == j)).map (·.2.1)
        = ((v :: r).find? (·.1.idx == j)).map (·.2.1) := by
      rw [List.find?_map, Option.map_map]
      rfl
    simp only [hf] at h
    exact h

/-- Loaded values change nothing but vector registers. -/
theorem State.putLoaded_rest {e : VEntry} {d : VReg} {w : Nat} {s : State} {vals : List (VItem × Nat × Bool)}
    (hp : e.placed = false) (hs : ∀ v ∈ vals, v.1.sub = 0) :
    let t := State.putLoaded e d w s vals
    { t.part with v := s.part.v, vPoison := s.part.vPoison } = s.part ∧ { t with part := s.part } = s := by
  rw [State.putLoaded_single hp hs]
  split
  · exact ⟨rfl, rfl⟩
  · obtain ⟨-, hpart, hrest⟩ := s.writeElems_rest d w (vals.map (fun v => (v.1.idx, v.2.1, v.2.2)))
    exact ⟨hpart, hrest⟩

/-! ### A unit-stride load on its own of which some elements do not translate -/

/-- The state in which a load has met its faults: the other elements written, the faulting ones in k7. -/
def State.loadFault (s : State) (e : VEntry) (r : VReg) (y : Ty) (item : Nat → VItem) (loc : Nat → Except XErr Loc)
    (l : List Nat) : State :=
  (State.putLoaded e r y.bits s (s.fetched loc item y.bytes l)).setLanes e.vl
    ((missed loc item l).map (·.1.idx)).eraseDups

section
variable {s : State} {r : VReg} {k o xp : Bool} {y : Ty} {x : Dword} {loc : Nat → Except XErr Loc}

theorem State.readLoc_alone (s : State) (e : VEntry) (q : Loc) (n : Nat) : (s.alone e).readLoc q n = s.readLoc q n := by
  induction n with
  | zero => rfl
  | succ n ih =>
    rw [State.readLoc, State.readLoc, ih]
    rfl

/-- It stops with the report of R276. -/
theorem State.runLoad_faults {first : Nat} {c : Cause} {rest : List (VItem × Cause)} (h : s.Alone) (hc : s.CleanRegs [])
    (hv : s.lc.vec.vl.toNat ≤ 1024) (ha : s.activeAt first = true)
    (hm : missed loc (s.unitItem y x) s.activeList = (s.unitItem y x first, c) :: rest) :
    let e := s.capture (.load r .unit k o y) false x 0 0 xp
    (∀ i ∈ s.activeList, (s.alone e).LoadsAt e y.bytes (s.unitItem y x i) (loc i)) →
    (s.alone e).runEntry e = .error (.fault ((s.alone e).loadFault e r y (s.unitItem y x) loc s.activeList)
      (e.reportAt (missed loc (s.unitItem y x) s.activeList) false true true)) := by
  intro e hl
  have hskip : (s.alone e).memSkips e .unit = false := State.memSkips_unit h ha
  have hmask : (s.alone e).maskCleanOf e ((s.alone e).governed e .unit) = .ok () := State.maskClean_alone _ x xp hc.2
  have hclean : (s.alone e).clean e ((s.alone e).actives e) [] = .ok () := State.clean_alone _ x xp _ [] y.bits hc.1
  have hitems : (s.alone e).items e .unit y x = s.activeList.map (s.unitItem y x) := State.items_unit h _ x xp y
  have hload := State.loadItems_ok (count := e.count .unit) (s := s.alone e) (e := e) rfl h.inOrder h.bankWork h.hosts
    (fun _ => rfl) hl
  have hcount : decide (e.count .unit ≤ 1024) = true := decide_eq_true hv
  have hrun : (s.alone e).runEntry e = (s.alone e).runLoad e r .unit y x := by
    show (if (s.alone e).memSkips e .unit = true then _ else _) = _
    rw [hskip]
    rfl
  rw [hrun, State.runLoad, hmask, hitems]
  simp only [indexSrc, hclean, hload, hcount, bind, Except.bind, State.endLoad, hm, if_true]
  rw [State.loadFault, hm]
  rfl

/-- The values found are single fields. -/
theorem State.fetched_sub {u : State} {l : List Nat} {w : Nat} : ∀ v ∈ u.fetched loc (s.unitItem y x) w l, v.1.sub = 0 := by
  intro v hv
  obtain ⟨i, -, hv⟩ := List.mem_filterMap.mp hv
  obtain ⟨q, -, rfl⟩ := Option.map_eq_some_iff.mp hv
  rfl

/-- What a load that met its faults leaves: nothing but vector registers and k7 has changed. -/
theorem State.loadFault_frame {u : State} {e : VEntry} {l : List Nat} (hp : e.placed = false) (ho : u.owns = true) :
    let t := u.loadFault e r y (s.unitItem y x) loc l
    t.lc = u.lc ∧ t.core = u.core ∧ t.dev = u.dev ∧ t.runAhead = u.runAhead ∧ t.part.mslot = u.part.mslot
      ∧ t.part.vqueue = u.part.vqueue
      ∧ t.part.v = (State.putLoaded e r y.bits u (u.fetched loc (s.unitItem y x) y.bytes l)).part.v
      ∧ (e.vl ≤ 1024 → (∀ i ∈ l, i < 1024) →
        ∀ i, t.part.k[7].getLsbD i = true ↔ i ∈ l ∧ ∃ c, loc i = .error (.cause c)) := by
  intro t
  obtain ⟨hpart, hrest⟩ := State.putLoaded_rest (s := u) (d := r) (w := y.bits) hp
    (State.fetched_sub (s := s) (y := y) (x := x) (loc := loc) (u := u) (l := l) (w := y.bytes))
  generalize hw : State.putLoaded e r y.bits u (u.fetched loc (s.unitItem y x) y.bytes l) = w at hpart hrest
  have ht : t = w.setLanes e.vl ((missed loc (s.unitItem y x) l).map (·.1.idx)).eraseDups := by
    rw [← hw]
    rfl
  have hlc : w.lc = u.lc := (congrArg State.lc hrest :)
  have ho' : w.owns = true := by
    have hk : w.part.ownerKey = u.part.ownerKey := (congrArg Part.ownerKey hpart :)
    rw [State.owns, hk, hlc]
    exact ho
  obtain ⟨h1, h2, h3, h4, h5⟩ := State.setLanes_rest (s := w) (count := e.vl)
    (lanes := ((missed loc (s.unitItem y x) l).map (·.1.idx)).eraseDups) ho'
  rw [← ht] at h1 h2 h3 h4 h5
  refine ⟨h1.trans hlc, h2.trans (congrArg State.core hrest :), h3.trans (congrArg State.dev hrest :),
    h4.trans (congrArg State.runAhead hrest :), ?_, ?_, (congrArg Part.v h5 :), fun hc hl i => ?_⟩
  · exact (congrArg Part.mslot h5 :).trans (congrArg Part.mslot hpart :)
  · exact (congrArg Part.vqueue h5 :).trans (congrArg Part.vqueue hpart :)
  · have hmem (j : Nat) : j ∈ ((missed loc (s.unitItem y x) l).map (·.1.idx)).eraseDups
        ↔ j ∈ l ∧ ∃ c, loc j = .error (.cause c) :=
      List.mem_eraseDups.trans (mem_missed_idx fun _ => rfl)
    rw [ht, State.setLanes_k7 ho' hc fun j hj => hl j ((hmem j).mp hj).1, decide_eq_true_iff]
    exact hmem i

/-- The elements after a load that met its faults: those that are there hold what was read, the others what they held. -/
theorem State.loadFault_elems {u : State} {e : VEntry} {l : List Nat} (hp : e.placed = false) (ho : u.owns = true)
    (hl : l.Nodup) {i : Nat} (hi : i < 32768 / y.bits) :
    let t := u.loadFault e r y (s.unitItem y x) loc l
    (∀ q, i ∈ l → loc i = .ok q → elem t.part.v[r.toNat] y.bits i = u.readLoc q y.bytes % 2 ^ y.bits)
      ∧ ((i ∈ l → ∃ z, loc i = .error z) → elem t.part.v[r.toNat] y.bits i = elem u.part.v[r.toNat] y.bits i) := by
  intro t
  obtain ⟨-, -, -, -, -, -, hv, -⟩ := State.loadFault_frame (s := s) (r := r) (y := y) (x := x) (loc := loc) (u := u)
    (l := l) hp ho
  obtain ⟨helems, -, -⟩ := State.wroteElems_putLoaded (s := u) (d := r) (w := y.bits) hp
    (State.fetched_sub (s := s) (y := y) (x := x) (loc := loc) (u := u) (l := l) (w := y.bytes))
    (State.fetched_nodup (fun _ => rfl) hl)
  have hi' := helems i hi
  rw [← hv] at hi'
  refine ⟨fun q hm hq => ?_, fun hno => ?_⟩
  · rw [State.fetched_some (fun _ => rfl) hm hq] at hi'
    exact hi'
  · rw [State.fetched_none (fun _ => rfl) hno] at hi'
    exact hi'

/-- The widths of a type that vector memory accesses take. -/
theorem tyMove_bits {y : Ty} (h : tyMove y = true) : y.regBits = y.bits ∧ y.bits = 8 * y.bytes := by
  revert h
  cases y <;> decide

/-- It stalls in the step that hands it off. -/
theorem exec_vld_faults {a : SReg} {f : VForm} {first : Nat} {c : Cause} {rest : List (VItem × Cause)}
    (hf : vform (.vld false r a .unit k o y) = some f) (hr : f.Ready s) (h : s.Alone) (hc : s.CleanRegs [])
    (hv : s.lc.vec.vl.toNat ≤ 1024) (ha : s.activeAt first = true)
    (hm : missed loc (s.unitItem y (s.getS a)) s.activeList = (s.unitItem y (s.getS a) first, c) :: rest)
    (hl : ∀ e : VEntry, e.placed = false → e.super = s.super → e.env = s.env →
      ∀ i ∈ s.activeList, (s.alone e).LoadsAt e y.bytes (s.unitItem y (s.getS a) i) (loc i)) :
    ∃ (e : VEntry) (n : Nat), e.pc = s.lc.pc.setWidth 64 ∧ e.word = s.ir ∧ e.placed = false
      ∧ e.vl = s.lc.vec.vl.toNat
      ∧ exec (.vld false r a .unit k o y) s = .next
        (((((s.alone e).loadFault e r y (s.unitItem y (s.getS a)) loc s.activeList).vpop.count 2 n).stalls e
          (e.reportAt (missed loc (s.unitItem y (s.getS a)) s.activeList) false true true)).retire) := by
  simp only [vform, Option.some.injEq] at hf
  subst hf
  obtain ⟨xp, n, hx⟩ := VForm.exec_stalls
    (t := fun e => (s.alone e).loadFault e r y (s.unitItem y (s.getS a)) loc s.activeList)
    (r := fun e => e.reportAt (missed loc (s.unitItem y (s.getS a)) s.activeList) false true true)
    (i := .vld false r a .unit k o y) rfl rfl rfl rfl hr h (fun _ => rfl) fun xp => by
      obtain ⟨hlc, -, hdev, hahead, hslot, hqueue, -⟩ := State.loadFault_frame (s := s) (r := r) (y := y) (x := s.getS a)
        (loc := loc) (u := s.alone (s.capture (.load r .unit k o y) false (s.getS a) 0 0 xp))
        (e := s.capture (.load r .unit k o y) false (s.getS a) 0 0 xp) (l := s.activeList) rfl h.owner
      exact ⟨State.runLoad_faults h hc hv ha hm (hl _ rfl rfl rfl), (h.quiet_alone _).congr hahead (by rw [hlc]) hslot hdev,
        hqueue.trans (h.vqueue_alone _)⟩
  exact ⟨_, n, rfl, rfl, rfl, rfl, hx⟩

end

theorem vectorLoadFaults_holds : vectorLoadFaults := by
  intro r a k o y f loc s first c hf hr h hc hv va failed hall ha hloc hlow
  obtain ⟨hok, hlen⟩ : tyMove y = true ∧ s.lc.vec.vl.toNat ≤ 32768 / y.regBits := by
    simp only [vform, Option.some.injEq] at hf
    subst hf
    have hok := hr.ok
    simp only [Bool.and_eq_true, and_assoc] at hok
    exact ⟨hok.1, hr.vl⟩
  obtain ⟨hreg, hbits⟩ := tyMove_bits hok
  rw [hreg] at hlen
  have hprep (i : Nat) (hi : s.activeAt i = true) : Prepared (loc i) := by
    obtain ⟨-, -, -, hpre, -⟩ := hall i hi
    exact hpre
  have hne : c ≠ .poisonVector := fun hc => by
    obtain ⟨-, -, hl, -, -⟩ := hall first ha
    exact s.locate_ne s.super .load (va first) ((hl.trans hloc).trans (by rw [hc]))
  have hfailed (i : Nat) : failed i = true ↔ s.activeAt i = true ∧ ∃ c, loc i = .error (.cause c) := failed_iff (hprep i)
  have hlt (i : Nat) (hi : i ∈ s.activeList) : i < s.lc.vec.vl.toNat := State.activeAt_lt (State.mem_activeList.mp hi)
  obtain ⟨rest, hm⟩ := missed_head (item := s.unitItem y (s.getS a)) s.activeList_ascends (State.mem_activeList.mpr ha)
    hloc fun i hi hlt => ok_of_not_failed (State.mem_activeList.mp hi) (hlow i hlt)
  obtain ⟨e, n, hepc, hir, hep, hevl, hx⟩ := exec_vld_faults hf hr h hc hv ha hm fun e hp hs he i hi => by
    obtain ⟨hal, hw, hl, hpre, hcl⟩ := hall i (State.mem_activeList.mp hi)
    exact ⟨State.meets_alone hp hs he hal hw hl hpre, hcl⟩
  obtain ⟨hlc, hcore, hdev, -, -, -, -, hk7⟩ := State.loadFault_frame (s := s) (r := r) (y := y) (x := s.getS a)
    (loc := loc) (u := s.alone e) (e := e) (l := s.activeList) hep h.owner
  have helems (i : Nat) (hi : i < 32768 / y.bits) := State.loadFault_elems (s := s) (r := r) (x := s.getS a) (loc := loc)
    (u := s.alone e) hep h.owner (s.activeList_ascends.imp Nat.ne_of_lt) hi
  obtain ⟨hcause, htval, hfirst, hrm, hpc, hinsn, -⟩ := e.reportAt_head (group := false) (rm := true) (k7 := true) hm hne
  generalize (s.alone e).loadFault e r y (s.unitItem y (s.getS a)) loc s.activeList = t at hx hlc hcore hdev hk7 helems
  generalize e.reportAt (missed loc (s.unitItem y (s.getS a)) s.activeList) false true true = u at *
  obtain ⟨hstalled, hreport, hpc', hs, -, -, hpart, hcore', hdev'⟩ := t.stalls_frame e u n
  refine ⟨_, _, _, hx, hstalled, hepc, hreport, hcause, htval, hfirst, hrm, hpc.trans hepc, hinsn.trans hir, fun i => ?_,
    fun i hi q hq m hmb => ?_, fun i hi hno => ?_, hs.trans (congrArg Lc.s hlc :), hdev'.trans hdev, hcore'.trans hcore,
    hpc'.trans (congrArg (·.pc + 4) hlc :)⟩
  · have hkeep : (((t.vpop.count 2 n).stalls e u).retire).part.k = t.part.k := by
      rw [hpart]
    rw [Bool.eq_iff_iff, hkeep, hk7 (hevl ▸ hv) (fun j hj => (hlt j hj).trans_le hv), hfailed, State.mem_activeList]
  · have hmem := State.mem_activeList.mpr hi
    rw [hpart, (helems i ((hlt i hmem).trans_le hlen)).1 q hmem hq, State.readLoc_alone, hbits]
    exact s.readLoc_byte q hmb
  · rw [hpart]
    refine (helems i hi).2 fun hm => ?_
    rcases hno with hno | hno
    · rw [State.mem_activeList, hno] at hm
      cases hm
    · obtain ⟨-, d, hd⟩ := (hfailed i).mp hno
      exact ⟨_, hd⟩

end Sys2Proof.Machine
end

section
/-! Proofs, 04: a vector store on its own of which some elements do not translate (R104, R276, R277, R280). -/

namespace Sys2Proof.Machine

/-! ### Probe groups (R277) -/

theorem length_eraseDups_le {α : Type} [BEq α] (l : List α) : l.eraseDups.length ≤ l.length := by
  induction hn : l.length using Nat.strong_induction_on generalizing l with
  | _ n ih =>
    cases l with
    | nil => simp
    | cons a r =>
      have hf := List.length_filter_le (fun b => !b == a) r
      have hlen : r.length + 1 = n := by simpa using hn
      have := ih _ (by omega) (r.filter (fun b => !b == a)) rfl
      rw [List.eraseDups_cons, List.length_cons]
      omega

/-- The accesses of one more element join the last probe group, or begin the next one (R277). -/
def joinGroup (a : List (List VItem)) (x : List VItem) : List (List VItem) :=
  match a with
  | [] => [x]
  | g :: r =>
    if ((g ++ x).map (fun i => i.va.toNat / 65536)).eraseDups.length ≤ 64 then (g ++ x) :: r else x :: g :: r

theorem probeGroups_eq (l : List VItem) :
    probeGroups l = ((l.splitBy (fun a b => a.idx == b.idx)).foldl joinGroup []).reverse := rfl

/-- Elements of at most 64 accesses join one group. -/
theorem joinGroup_all (xs : List (List VItem)) (g : List VItem) (h : (g ++ xs.flatten).length ≤ 64) :
    xs.foldl joinGroup [g] = [g ++ xs.flatten] := by
  induction xs generalizing g with
  | nil => simp
  | cons x r ih =>
    rw [List.flatten_cons, ← List.append_assoc] at h ⊢
    have hp := length_eraseDups_le ((g ++ x).map (fun i => i.va.toNat / 65536))
    have hx : ((g ++ x).map (fun i => i.va.toNat / 65536)).eraseDups.length ≤ 64 := by
      rw [List.length_map] at hp
      rw [List.length_append] at h
      omega
    have hj : joinGroup [g] x = [g ++ x] := if_pos hx
    rw [List.foldl_cons, hj, ih (g ++ x) h]

/-- Accesses that number at most 64 touch at most 64 pages: they are one probe group. -/
theorem probeGroups_one {l : List VItem} (hn : l ≠ []) (hl : l.length ≤ 64) : probeGroups l = [l] := by
  have hflat := List.flatten_splitBy (fun a b : VItem => a.idx == b.idx) l
  rw [probeGroups_eq]
  cases hs : l.splitBy (fun a b => a.idx == b.idx) with
  | nil =>
    rw [hs] at hflat
    exact absurd hflat.symm hn
  | cons x r =>
    rw [hs, List.flatten_cons] at hflat
    have hj : joinGroup [] x = [x] := rfl
    rw [List.foldl_cons, hj, joinGroup_all r x (by rw [hflat]; exact hl), hflat]
    rfl

/-! ### Stores of one probe group that faults (R277) -/

/-- An element of an access that stores with nothing before it, at a location that its link reaches or one that meets a
cause. -/
structure State.StoresAt (s : State) (e : VEntry) (w : Nat) (v : VItem) (r : Except XErr Loc) : Prop extends
    s.Meets e .store true false w v r where
  link : ∀ x, r = .ok x → s.linkBad x = false

section
variable {s : State} {e : VEntry} {w count : Nat} {l : List Nat} {item : Nat → VItem} {loc : Nat → Except XErr Loc}

/-- A store of one probe group of which some elements fail writes nothing. -/
theorem State.storeItems_faults {twoD : Bool} {val : VItem → Nat × Bool} (hc : s.sccOf s.lc = false)
    (hi : ∀ i, (item i).idx = i) (hl : l.length ≤ 64) (hm : missed loc item l ≠ [])
    (h : ∀ i ∈ l, s.StoresAt e w (item i) (loc i)) :
    s.storeItems e twoD w count (l.map item) val
      = .error (s.groupFault e twoD count (l.map item) (missed loc item l)) := by
  have hholds : s.holds e = false := by simp [State.holds, hc]
  have hn : l.map item ≠ [] := by
    rintro hn
    rw [List.map_eq_nil_iff] at hn
    subst hn
    exact hm rfl
  have hgroup : probeGroups (l.map item) = [l.map item] := probeGroups_one hn (by simpa using hl)
  have hprobe : s.probeItems e .store w (l.map item) = (s, l.map (fun i => ⟨item i, foundBy (loc i)⟩)) :=
    State.probeItems_meets hi fun i hl => (h i hl).toMeets
  have hwatch : s.watchItems e true false w count (l.map item) = .ok () :=
    State.watchItems_meets fun i hl => (h i hl).toMeets
  have hempty : (missed loc item l).isEmpty = false := by simpa using hm
  have hheld : s.checkHeld e [] = .ok () := by simp [State.checkHeld, hholds]
  unfold State.storeItems
  simp only [hholds, Bool.false_eq_true, if_false, hheld, hgroup, bind, Except.bind, State.storeGroups, hprobe, hwatch]
  rw [List.filterMap_map, List.filterMap_congr (g := fun i => (causeOf (loc i)).map (fun c => (item i, c))) fun i hl => ?_]
  · rw [← missed, hempty]
    rfl
  · cases hx : loc i with
    | error x =>
      obtain ⟨c, rfl⟩ := (h i hl).prepared x hx
      simp [hx, foundBy, causeOf]
    | ok x => simp [hx, foundBy, causeOf, (h i hl).link x hx]

end

/-! ### A unit-stride store on its own of which some elements do not translate -/

section
variable {s : State} {r : VReg} {k o xp : Bool} {y : Ty} {x : Dword} {loc : Nat → Except XErr Loc}

/-- The state in which a store has met its faults: nothing written, the faulting elements in k7, VSTART at the first
element. -/
def State.storeFault (s : State) (e : VEntry) (low : Nat) (bad : List (VItem × Cause)) : State :=
  (s.setLanes e.vl (bad.map (·.1.idx)).eraseDups).setRestart e false low

/-- It stops with the report of R277. -/
theorem State.runStore_faults {low : Nat} (h : s.Alone) (hc : s.CleanRegs [])
    (hv : s.lc.vec.vl.toNat ≤ 64) (hscc : s.sccOf s.lc = false) (ha : s.activeAt low = true)
    (hlow : ∀ i, i < low → s.activeAt i = false) (hm : missed loc (s.unitItem y x) s.activeList ≠ []) :
    let e := s.capture (.store r .unit k o y) false x 0 0 xp
    let bad := missed loc (s.unitItem y x) s.activeList
    (∀ i ∈ s.activeList, (s.alone e).StoresAt e y.bytes (s.unitItem y x i) (loc i)) →
    (s.alone e).runEntry e = .error (.fault ((s.alone e).storeFault e low bad)
      (e.reportAt bad true false (decide (e.vl ≤ 1024)))) := by
  intro e bad hl
  have hskip : (s.alone e).memSkips e .unit = false := State.memSkips_unit h ha
  have hmask : (s.alone e).maskCleanOf e ((s.alone e).governed e .unit) = .ok () := State.maskClean_alone _ x xp hc.2
  have hclean : (s.alone e).clean e ((s.alone e).actives e) [] = .ok () := State.clean_alone _ x xp _ [] y.bits hc.1
  have hitems : (s.alone e).items e .unit y x = s.activeList.map (s.unitItem y x) := State.items_unit h _ x xp y
  have hlen : s.activeList.length ≤ 64 := (List.length_filter_le _ _).trans (by simpa using hv)
  have hrun : (s.alone e).runEntry e = (s.alone e).runStore e r .unit y x := by
    show (if (s.alone e).memSkips e .unit = true then _ else _) = _
    rw [hskip]
    rfl
  obtain ⟨q, hq⟩ := State.activeList_head ha hlow
  rw [hrun, State.runStore, hmask, hitems]
  simp only [indexSrc, hclean, bind, Except.bind]
  have hscc' : (s.alone e).sccOf (s.alone e).lc = false := hscc
  rw [State.storeItems_faults hscc' (fun _ => rfl) hlen hm hl, State.groupFault]
  have hhead : ((s.activeList.map (s.unitItem y x)).head?.map (·.idx)).getD 0 = low := by
    rw [hq]
    rfl
  rw [hhead]
  rfl

end

section
variable {u : State} {e : VEntry} {low : Nat} {bad : List (VItem × Cause)}

/-- What a store that met its faults leaves: nothing but k7 and VSTART has changed. -/
theorem State.storeFault_frame (ho : u.owns = true) :
    let t := u.storeFault e low bad
    { t.lc with vstart := u.lc.vstart } = u.lc ∧ t.lc.vstart = BitVec.ofNat 16 low ∧ t.core = u.core ∧ t.dev = u.dev
      ∧ t.runAhead = u.runAhead ∧ t.part.mslot = u.part.mslot ∧ t.part.vqueue = u.part.vqueue ∧ t.part.v = u.part.v
      ∧ (e.vl ≤ 1024 → (∀ b ∈ bad, b.1.idx < 1024) →
        ∀ i, t.part.k[7].getLsbD i = true ↔ i ∈ bad.map (·.1.idx)) := by
  intro t
  obtain ⟨h1, h2, h3, h4, h5⟩ := State.setLanes_rest (s := u) (count := e.vl) (lanes := (bad.map (·.1.idx)).eraseDups) ho
  have hk := State.setLanes_k7 (s := u) (count := e.vl) (lanes := (bad.map (·.1.idx)).eraseDups) ho
  have ht : t = { u.setLanes e.vl (bad.map (·.1.idx)).eraseDups with
      lc := { (u.setLanes e.vl (bad.map (·.1.idx)).eraseDups).lc with vstart := BitVec.ofNat 16 low } } := rfl
  generalize u.setLanes e.vl (bad.map (·.1.idx)).eraseDups = w at h1 h2 h3 h4 h5 hk ht
  clear_value t
  subst ht
  refine ⟨congrArg (fun l : Lc => { l with vstart := u.lc.vstart }) h1, rfl, h2, h3, h4, (congrArg Part.mslot h5 :),
    (congrArg Part.vqueue h5 :), (congrArg Part.v h5 :), fun hc hl i => ?_⟩
  have hlane : ∀ j ∈ (bad.map (·.1.idx)).eraseDups, j < 1024 := fun j hj => by
    obtain ⟨b, hb, rfl⟩ := List.mem_map.mp (List.mem_eraseDups.mp hj)
    exact hl b hb
  have hki := hk hc hlane i
  rw [← List.mem_eraseDups, ← decide_eq_true_iff (p := i ∈ (bad.map (·.1.idx)).eraseDups), ← hki]

end

section
variable {s : State} {r : VReg} {a : SReg} {k o : Bool} {y : Ty} {loc : Nat → Except XErr Loc}

/-- It stalls in the step that hands it off. -/
theorem exec_vst_faults {f : VForm} {low : Nat} {bad : List (VItem × Cause)}
    (hf : vform (.vst false r a .unit k o y) = some f) (hr : f.Ready s) (h : s.Alone) (hc : s.CleanRegs [])
    (hv : s.lc.vec.vl.toNat ≤ 64) (hscc : s.sccOf s.lc = false) (ha : s.activeAt low = true)
    (hlow : ∀ i, i < low → s.activeAt i = false) (hb : missed loc (s.unitItem y (s.getS a)) s.activeList = bad)
    (hn : bad ≠ [])
    (hl : ∀ e : VEntry, e.placed = false → e.super = s.super → e.env = s.env →
      ∀ i ∈ s.activeList, (s.alone e).StoresAt e y.bytes (s.unitItem y (s.getS a) i) (loc i)) :
    ∃ (e : VEntry) (n : Nat), e.pc = s.lc.pc.setWidth 64 ∧ e.vl = s.lc.vec.vl.toNat
      ∧ exec (.vst false r a .unit k o y) s = .next (((((s.alone e).storeFault e low bad).vpop.count 2 n).stalls e
        (e.reportAt bad true false (decide (e.vl ≤ 1024)))).retire) := by
  simp only [vform, Option.some.injEq] at hf
  subst hf
  subst hb
  obtain ⟨xp, n, hx⟩ := VForm.exec_stalls
    (t := fun e => (s.alone e).storeFault e low (missed loc (s.unitItem y (s.getS a)) s.activeList))
    (r := fun e => e.reportAt (missed loc (s.unitItem y (s.getS a)) s.activeList) true false (decide (e.vl ≤ 1024)))
    (i := .vst false r a .unit k o y) rfl rfl rfl rfl hr h (fun _ => rfl) fun xp => by
      obtain ⟨hlc, -, -, hdev, hahead, hslot, hqueue, -⟩ := State.storeFault_frame
        (u := s.alone (s.capture (.store r .unit k o y) false (s.getS a) 0 0 xp))
        (e := s.capture (.store r .unit k o y) false (s.getS a) 0 0 xp) (low := low)
        (bad := missed loc (s.unitItem y (s.getS a)) s.activeList) h.owner
      exact ⟨State.runStore_faults h hc hv hscc ha hlow hn (hl _ rfl rfl rfl),
        (h.quiet_alone _).congr hahead hlc hslot hdev, hqueue.trans (h.vqueue_alone _)⟩
  exact ⟨_, n, rfl, rfl, hx⟩

end

theorem vectorStoreFaults_holds : vectorStoreFaults := by
  intro r a k o y f s first low c hf hr h hc hv hscc va hall failed ha hloc hlow hact hfree
  have hprep (i : Nat) (hi : s.activeAt i = true) : Prepared (s.locate s.super .store (va i)) := by
    obtain ⟨-, -, hpre, -⟩ := hall i hi
    exact hpre
  have hfailed (i : Nat) : failed i = true
      ↔ s.activeAt i = true ∧ ∃ c, s.locate s.super .store (va i) = .error (.cause c) := failed_iff (hprep i)
  have hne : c ≠ .poisonVector := fun hc => s.locate_ne s.super .store (va first) (hloc.trans (by rw [hc]))
  obtain ⟨rest, hm⟩ := missed_head (item := s.unitItem y (s.getS a)) (loc := fun i => s.locate s.super .store (va i))
    s.activeList_ascends (State.mem_activeList.mpr ha) hloc
    fun i hi hlt => ok_of_not_failed (State.mem_activeList.mp hi) (hlow i hlt)
  have hidx (i : Nat) := mem_missed_idx (loc := fun i => s.locate s.super .store (va i))
    (item := s.unitItem y (s.getS a)) (fun _ => rfl) (l := s.activeList) (i := i)
  obtain ⟨e, n, hepc, hevl, hx⟩ := exec_vst_faults hf hr h hc hv hscc hact hfree hm (List.cons_ne_nil _ _)
    fun e hp hs he i hi => by
      obtain ⟨hal, hw, hpre, hlink⟩ := hall i (State.mem_activeList.mp hi)
      exact ⟨State.meets_alone hp hs he hal hw rfl hpre, hlink⟩
  generalize hb : missed (fun i => s.locate s.super .store (va i)) (s.unitItem y (s.getS a)) s.activeList = bad at hm hidx
  rw [← hm] at hx
  obtain ⟨hlc, hstart, hcore, hdev, -, -, -, hvreg, hk7⟩ := State.storeFault_frame (u := s.alone e) (e := e) (low := low)
    (bad := bad) h.owner
  obtain ⟨hcause, htval, hfirst, hrm, -, -, hgroup⟩ := e.reportAt_head (group := true) (rm := false)
    (k7 := decide (e.vl ≤ 1024)) hm hne
  generalize (s.alone e).storeFault e low bad = t at hx hlc hstart hcore hdev hvreg hk7
  generalize e.reportAt bad true false (decide (e.vl ≤ 1024)) = u at *
  obtain ⟨hstalled, hreport, hpc', hs, hstart', -, hpart, hcore', hdev'⟩ := t.stalls_frame e u n
  refine ⟨_, _, _, hx, hstalled, hepc, hreport, hcause, htval, hfirst, hgroup, hrm, fun i => ?_, hstart'.trans hstart, ?_,
    hs.trans (congrArg Lc.s hlc :), hdev'.trans hdev, hcore'.trans hcore, hpc'.trans (congrArg (·.pc + 4) hlc :)⟩
  · have hkeep : (((t.vpop.count 2 n).stalls e u).retire).part.k = t.part.k := by
      rw [hpart]
    rw [Bool.eq_iff_iff, hkeep, hk7 (by omega) (fun b hb => ?_), hfailed, hidx, State.mem_activeList]
    have hin := State.activeAt_lt (State.mem_activeList.mp ((hidx b.1.idx).mp (List.mem_map_of_mem hb)).1)
    omega
  · rw [hpart]
    exact hvreg

/-- Settles O33: a load writes the elements that translate and a store none; either stalls in the step that hands it off, with
the failed elements in k7 and the lowest one in its report. -/
theorem vectorAccessFaults : Obligations.VectorAccessFaults := ⟨vectorLoadFaults_holds, vectorStoreFaults_holds⟩

end Sys2Proof.Machine
end

section
/-! Proofs, 05: matrix blocks that overflow or are not finite (R117, R138). -/

namespace Sys2Proof.Machine

/-- The flags of a value within a format's range leave OF clear (R117, R118). -/
theorem inexact_not_overflow (inexact tiny : Bool) :
    ((if inexact then flNX else 0) ||| (if tiny && inexact then flUF else 0)) &&& flOF = 0 := by
  cases inexact <;> cases tiny <;> rfl

/-- A value that overflows is rounded to the infinity or to the largest finite value of its sign (R117). -/
theorem Fmt.roundVal_overflow {f : Fmt} {mode m : Nat} {neg : Bool} {e : Int}
    (h : (f.roundVal mode (.fin neg m e)).2 &&& flOF ≠ 0) : (f.roundVal mode (.fin neg m e)).1
      = (if neg then f.signBit else 0) + if overflowsToInf mode neg then f.infBits else f.maxBits := by
  rw [Fmt.roundVal, Fmt.round] at h ⊢
  by_cases hzero : (m = 0 && !false) = true
  · rw [if_pos hzero] at h
    exact absurd BitVec.zero_and h
  rw [if_neg hzero] at h ⊢
  by_cases hbig : f.maxBits < (f.roundMag mode neg m e false).1
  · exact congrArg Prod.fst (if_pos hbig)
  · simp only [if_neg hbig] at h
    exact absurd (inexact_not_overflow _ _) h

/-- The infinity of FP32 (R111). -/
theorem f32_infinity (neg : Bool) :
    (if neg then Fmt.f32.signBit else 0) + Fmt.f32.infBits = if neg then 0xFF80_0000 else 0x7F80_0000 := by
  cases neg <;> rfl

section
variable {sat : Bool} {c : Nat} {p : List FVal}

/-- A block whose exact value is finite. -/
theorem matBlock_fin {n : Bool} {m : Nat} {e : Int} (h : FVal.add 0 (Fmt.f32.val c) (exactSum p) = .fin n m e) :
    matBlock sat c p = if sat && (Fmt.f32.roundVal 0 (.fin n m e)).2 &&& flOF != 0
      then (if n then 0xFF7F_FFFF else 0x7F7F_FFFF) else (Fmt.f32.roundVal 0 (.fin n m e)).1 := by
  rw [matBlock, h]

/-- A block whose exact value is an infinity. -/
theorem matBlock_inf {n : Bool} (h : FVal.add 0 (Fmt.f32.val c) (exactSum p) = .inf n) :
    matBlock sat c p = if n then 0xFF80_0000 else 0x7F80_0000 := by
  rw [matBlock, h]
  exact f32_infinity n

/-- A block whose exact value is a NaN. -/
theorem matBlock_nan {q : Bool} (h : FVal.add 0 (Fmt.f32.val c) (exactSum p) = .nan q) :
    matBlock sat c p = 0x7FC0_0000 := by
  rw [matBlock, h]
  rfl

end

/-- Settles O39: the exact value's three kinds, and of a finite one that overflows whether SAT is set. -/
theorem matrixSaturation : Obligations.MatrixSaturation := by
  intro sat c p v
  refine ⟨fun n m e hv hof => ?_, fun n => matBlock_inf, fun q => matBlock_nan⟩
  rw [hv] at hof
  rw [matBlock_fin hv]
  cases sat with
  | true => rw [Bool.true_and, if_pos (by simpa using hof), if_pos rfl]
  | false =>
    have hinf : overflowsToInf 0 n = true := rfl
    rw [Bool.false_and, if_neg Bool.false_ne_true, if_neg Bool.false_ne_true, Fmt.roundVal_overflow hof, hinf, if_pos rfl,
      f32_infinity]

end Sys2Proof.Machine
end

section
/-! Proofs, 05: elementwise vector instructions that stall, on an enabled flag and on a poisoned source (R87, R131, R270,
R276, R285). -/

namespace Sys2Proof.Machine

/-! ### Quiet streams after flags and lanes have been written -/

section
variable {s : State}

theorem State.Quiet.addFlags (h : s.Quiet) (fl : Flags) : (s.addFlags fl).Quiet :=
  ⟨h.inOrder, h.matrix, h.stalled, h.stores, h.kqueue, h.context, h.copies, h.bqueue, h.sequencers, h.slots⟩

theorem State.Quiet.setLanes (h : s.Quiet) (ho : s.owns = true) (count : Nat) (lanes : List Nat) :
    (s.setLanes count lanes).Quiet := by
  obtain ⟨hlc, -, hdev, hahead, hpart⟩ := State.setLanes_rest (count := count) (lanes := lanes) ho
  exact h.congr hahead (by rw [hlc]) (congrArg Part.mslot hpart :) hdev

theorem State.addFlags_none (s : State) : s.addFlags 0 = s :=
  congrArg (fun fl => { s with lc := { s.lc with fflags := fl } }) BitVec.or_zero

end

/-! ### An elementwise instruction that raises a cause with lanes -/

/-- From `s` to `t` an instruction handed off has stalled: its report, of cause `c` with `tval`, waits at the scalar unit,
k7 holds `lanes` where VL lets it, FFLAGS has received `fl`, and no result is written (R87, R131, R270, R276). -/
structure State.LanesStall (s t : State) (op : VOp) (c : Cause) (tval : Dword) (fl : Flags) (lanes : List Nat)
    (e : VEntry) (r : TrapRec) : Prop where
  stalled : t.lc.vstalled = some e
  report : t.lc.vreport = some r
  entryPc : e.pc = s.lc.pc.setWidth 64
  entryOp : e.op = op
  pc : r.pc = s.lc.pc.setWidth 64
  insn : r.insn = s.ir
  cause : r.cause = c
  tval : r.tval = tval
  deferred : r.deferred = false
  first : r.first = lanes.min?.getD 0
  k7valid : r.k7valid = decide (s.lc.vec.vl.toNat ≤ 1024)
  k7 : s.lc.vec.vl.toNat ≤ 1024 → ∀ j, t.part.k[7].getLsbD j = decide (j ∈ lanes)
  fflags : t.lc.fflags = s.lc.fflags ||| fl
  v : t.part.v = s.part.v
  vPoison : t.part.vPoison = s.part.vPoison
  vqueue : t.part.vqueue = []
  scalar : t.lc.s = s.lc.s
  vstart : t.lc.vstart = 0
  next : t.lc.pc = s.lc.pc + 4
  dev : t.dev = s.dev
  core : t.core = s.core

section
variable {s : State} {i : Instr} {f : VForm} {l : Lanes} {c : Cause} {tval : Dword} {fl : Flags} {lanes : List Nat}

/-- What the fault of an instruction on its own leaves, once it has stalled. -/
theorem State.Alone.lanesStall (h : s.Alone) (op : VOp) (x : Dword) (xp : Bool) (c : Cause) (tval : Dword) (fl : Flags)
    (hl : ∀ j ∈ lanes, j < s.lc.vec.vl.toNat) (n : Nat) :
    let e := s.capture op false x 0 0 xp
    let r := { e.report c tval with k7valid := decide (e.vl ≤ 1024), first := lanes.min?.getD 0 }
    s.LanesStall (((((s.alone e).addFlags fl).setLanes e.vl lanes).vpop.count 2 n).stalls e r).retire op c tval fl lanes
      { e with restart := none, rm := none } r := by
  intro e r
  have ho : ((s.alone e).addFlags fl).owns = true := h.owner
  have hk7 := State.setLanes_k7 (count := e.vl) (lanes := lanes) ho
  obtain ⟨hlc, hcore, hdev, -, hpart⟩ := State.setLanes_rest (count := e.vl) (lanes := lanes) ho
  generalize ((s.alone e).addFlags fl).setLanes e.vl lanes = u at hk7 hlc hcore hdev hpart ⊢
  obtain ⟨hstalled, hreport, hpc, hs, hstart, -, hpart', hcore', hdev'⟩ := u.stalls_frame e r n
  exact {
    stalled := hstalled
    report := hreport
    entryPc := rfl
    entryOp := rfl
    pc := rfl
    insn := rfl
    cause := rfl
    tval := rfl
    deferred := rfl
    first := rfl
    k7valid := rfl
    k7 := fun hv j => by
      rw [hpart']
      exact hk7 hv (fun j hj => (hl j hj).trans_le hv) j
    fflags := (congrArg Lc.fflags hlc :)
    v := by rw [hpart']; exact (congrArg Part.v hpart :)
    vPoison := by rw [hpart']; exact (congrArg Part.vPoison hpart :)
    vqueue := by
      have hq : u.part.vqueue = [e] := (congrArg Part.vqueue hpart :).trans (h.vqueue_alone e)
      rw [hpart', hq]
      rfl
    scalar := hs.trans (congrArg Lc.s hlc :)
    vstart := hstart.trans ((congrArg Lc.vstart hlc :).trans h.start)
    next := hpc.trans (congrArg (·.pc + 4) hlc :)
    dev := hdev'.trans hdev
    core := hcore'.trans hcore }

/-- An instruction on its own starts at element 0, so one with an active element is not skipped (R76). -/
theorem State.Alone.not_skipped (h : s.Alone) {j : Nat} (hj : s.activeAt j = true) (op : VOp) (x : Dword) (xp : Bool) :
    let e := s.capture op false x 0 0 xp
    ¬ e.vl ≤ (s.alone e).start e := by
  have h0 : s.lc.vstart.toNat = 0 := congrArg BitVec.toNat h.start
  have hlt := State.activeAt_lt hj
  show ¬ s.lc.vec.vl.toNat ≤ s.lc.vstart.toNat
  omega

/-- An elementwise form hands its scalar operand to its entry. -/
theorem VForm.exec_lanes_pass (hf : vform i = some f) (hp : f.placed = false) (hr : f.Ready s)
    (hl : s.lanes (s.operand f) f.op = some l) :
    ∃ xp, ∀ t, s.pass (s.capture f.op false (s.operand f) 0 0 xp) = .ok t → exec i s = .next t.retire := by
  obtain ⟨hw, hc⟩ := State.lanes_form hf hl
  obtain ⟨x, xp, hread, hnone, -, hpass⟩ := VForm.exec_pass hf hp hr
  have hx : x = s.operand f := by
    cases hrd : f.read with
    | none => rw [(hnone hrd hc).1, State.operand, hrd]; rfl
    | some r => rw [hread r hrd, State.operand, hrd]; rfl
  have hcl : s.claimed f = s := by simp [State.claimed, hw]
  rw [hcl, hx] at hpass
  exact ⟨xp, hpass⟩

/-- An elementwise instruction on its own that raises a cause with lanes, having added flags, stalls in the step that hands
it off. -/
theorem VForm.exec_lanes_stalls (hf : vform i = some f) (hp : f.placed = false) (hr : f.Ready s) (h : s.Alone)
    (hl : s.lanes (s.operand f) f.op = some l) {j : Nat} (hj : s.activeAt j = true)
    (hlanes : ∀ j ∈ lanes, j < s.lc.vec.vl.toNat)
    (hrun : ∀ xp, let e := s.capture f.op false (s.operand f) 0 0 xp
      (s.alone e).elementwise e l.d l.bits (l.srcs.map (·, l.width)) l.val
        = ((s.alone e).addFlags fl).vraiseLanes e c tval lanes) :
    ∃ t e r, exec i s = .next t ∧ s.LanesStall t f.op c tval fl lanes e r := by
  obtain ⟨xp, hpass⟩ := VForm.exec_lanes_pass hf hp hr hl
  have hvl := h.not_skipped hj f.op (s.operand f) xp
  have hrunEntry := State.lanes_run hl xp
  have hfault := hrun xp
  have hstall (n : Nat) := h.lanesStall f.op (s.operand f) xp c tval fl hlanes n
  have hb : (s.capture f.op false (s.operand f) 0 0 xp).barrier = none := State.lanes_barrier hl xp
  have hrestart : (s.capture f.op false (s.operand f) 0 0 xp).restart = none := rfl
  generalize s.capture f.op false (s.operand f) 0 0 xp = e at *
  have ho : ((s.alone e).addFlags fl).owns = true := h.owner
  obtain ⟨-, -, -, -, hpart⟩ := State.setLanes_rest (count := e.vl) (lanes := lanes) ho
  exact ⟨_, _, _, hpass _ (State.pass_stalls h hb hrestart (hrunEntry.trans ((if_neg hvl).trans hfault))
      (((h.quiet_alone e).addFlags fl).setLanes ho _ _) ((congrArg Part.vqueue hpart :).trans (h.vqueue_alone e))),
    hstall _⟩

end

/-! ### Enabled flags (R131) -/

/-- The flags that elements of an elementwise operation raise together. -/
def Lanes.flags (l : Lanes) (js : List Nat) : Flags := js.foldl (fun u j => u ||| (l.val j).2) 0

theorem Lanes.flags_eq (l : Lanes) (js : List Nat) :
    l.flags js = (js.map (fun j => (j, (l.val j).2))).foldl (fun f r => f ||| r.2) 0 := by
  rw [List.foldl_map, Lanes.flags]

theorem Lanes.flags_getLsbD (l : Lanes) (js : List Nat) (b : Nat) :
    (l.flags js).getLsbD b = js.any (fun j => (l.val j).2.getLsbD b) := by
  rw [Lanes.flags_eq, flags_fold, List.any_map]
  exact (congrArg (· || _) BitVec.getLsbD_zero).trans (Bool.false_or _)

/-- The enabled ones of the flags are what the elements' enabled flags give together. -/
theorem Lanes.flags_enabled (l : Lanes) (en : BitVec 6) (js : List Nat) :
    (l.flags js).setWidth 6 &&& en = js.foldl (fun u j => u ||| ((l.val j).2.setWidth 6 &&& en)) 0 := by
  have key (z : Flags) : (js.foldl (fun u j => u ||| (l.val j).2) z).setWidth 6 &&& en
      = js.foldl (fun u j => u ||| ((l.val j).2.setWidth 6 &&& en)) (z.setWidth 6 &&& en) := by
    induction js generalizing z with
    | nil => rfl
    | cons a r ih => rw [List.foldl_cons, List.foldl_cons, ih, BitVec.setWidth_or, BitVec.and_or_distrib_right]
  have hz : (0 : Flags).setWidth 6 &&& en = 0 := BitVec.zero_and
  rw [Lanes.flags, key, hz]

section
variable {s : State} {l : Lanes} {op : VOp} {x : Dword} {xp : Bool}

/-- Flags of which FTRAPEN enables one are added to FFLAGS, and raise the cause of the lowest enabled one with the
elements that raised one (R131). -/
theorem State.commitFlags_traps {e : VEntry} {js : List Nat} {b : Nat}
    (h : ((l.flags js).setWidth 6 &&& e.ftrapen).getLsbD b = true)
    (hlow : ∀ c, c < b → ((l.flags js).setWidth 6 &&& e.ftrapen).getLsbD c = false) :
    s.commitFlags e (js.map (fun j => (j, (l.val j).2))) none
      = (s.addFlags (l.flags js)).vraiseLanes e (fpCause b) (((l.flags js).setWidth 6 &&& e.ftrapen).setWidth 64)
        (js.filter (fun j => (l.val j).2.setWidth 6 &&& e.ftrapen != 0)) := by
  have hb : b < 6 := by
    by_contra hge
    rw [BitVec.getLsbD_of_ge _ _ (by omega)] at h
    cases h
  have hlanes : ((js.map (fun j => (j, (l.val j).2))).filter (fun r => r.2.setWidth 6 &&& e.ftrapen != 0)).map (·.1)
      = js.filter (fun j => (l.val j).2.setWidth 6 &&& e.ftrapen != 0) := by
    rw [List.filter_map, List.map_map]
    exact List.map_id _
  rw [State.commitFlags, ← Lanes.flags_eq, leastBelow_eq (p := fun b => _) h hlow hb, ← hlanes]
  rfl

/-- An elementwise instruction on its own, under a clean mask: its sources are checked, its flags committed, and its
active elements written (R398). -/
theorem State.elementwise_alone (h : s.Alone) (hmask : s.lc.vec.vmsel ≠ 8 → s.kpois s.lc.vec.vmsel.toNat = 0) :
    let e := s.capture op false x 0 0 xp
    (s.alone e).elementwise e l.d l.bits (l.srcs.map (·, l.width)) l.val = (do
      (s.alone e).clean e s.activeList (l.srcs.map (·, l.width))
      let t ← (s.alone e).commitFlags e (s.activeList.map (fun j => (j, (l.val j).2))) none
      .ok (t.writeElems e.placed l.d l.bits (s.activeList.map (fun j => (j, (l.val j).1, false)))).vdone) := by
  intro e
  have hclean : (s.alone e).maskClean e = .ok () := State.maskClean_alone op x xp hmask
  have hact : (s.alone e).actives e = s.activeList := State.actives_alone h op x xp
  rw [State.elementwise, hclean, hact]
  simp only [List.map_map]
  rfl

/-- With clean sources it traps on the lowest enabled flag of its active elements. -/
theorem State.elementwise_traps {b : Nat} (h : s.Alone) (hc : s.CleanRegs l.srcs)
    (hb : ((l.flags s.activeList).setWidth 6 &&& s.lc.ftrapen).getLsbD b = true)
    (hlow : ∀ c, c < b → ((l.flags s.activeList).setWidth 6 &&& s.lc.ftrapen).getLsbD c = false) :
    let e := s.capture op false x 0 0 xp
    (s.alone e).elementwise e l.d l.bits (l.srcs.map (·, l.width)) l.val
      = ((s.alone e).addFlags (l.flags s.activeList)).vraiseLanes e (fpCause b)
        (((l.flags s.activeList).setWidth 6 &&& s.lc.ftrapen).setWidth 64)
        (s.activeList.filter (fun j => (l.val j).2.setWidth 6 &&& s.lc.ftrapen != 0)) := by
  intro e
  have hclean : (s.alone e).clean e s.activeList (l.srcs.map (·, l.width)) = .ok () :=
    State.clean_alone op x xp s.activeList l.srcs l.width hc.1
  rw [State.elementwise_alone h hc.2, hclean, State.commitFlags_traps (e := e) hb hlow]
  rfl

/-! ### Poison (R285) -/

/-- Whether an elementwise operation reads element `j` of a source from a poisoned granule. -/
def Lanes.bad (l : Lanes) (s : State) (r : VReg) (j : Nat) : Bool := s.part.vPoison[r.toNat].getLsbD (l.width * j / 512)

/-- When it reads a poisoned granule it stops with the first such source, and adds no flag. -/
theorem State.elementwise_poison {r : VReg} (h : s.Alone)
    (hmask : s.lc.vec.vmsel ≠ 8 → s.kpois s.lc.vec.vmsel.toNat = 0)
    (hr : l.srcs.find? (fun r => s.activeList.any (l.bad s r)) = some r) :
    let e := s.capture op false x 0 0 xp
    (s.alone e).elementwise e l.d l.bits (l.srcs.map (·, l.width)) l.val
      = ((s.alone e).addFlags 0).vraiseLanes e .poisonVector (r.setWidth 64)
        (s.activeList.filter (fun j => l.srcs.any (fun r => l.bad s r j))) := by
  intro e
  have hbad (r : VReg) (j : Nat) : (s.alone e).vbad e r l.width j = l.bad s r j := rfl
  have hclean : (s.alone e).clean e s.activeList (l.srcs.map (·, l.width))
      = (s.alone e).vraiseLanes e .poisonVector (r.setWidth 64)
        (s.activeList.filter (fun j => l.srcs.any (fun r => l.bad s r j))) := by
    simp only [State.clean, List.find?_map, List.any_map, Function.comp_def, hbad, hr, Option.map_some]
  rw [State.elementwise_alone h hmask, hclean, State.addFlags_none]
  rfl

/-- The least of some active elements is the first of them. -/
theorem State.min?_activeList (s : State) (p : Nat → Bool) : (s.activeList.filter p).min? = s.activeList.find? p := by
  rw [List.min?_eq_head? ((s.activeList_ascends.filter p).imp fun h => by omega), List.head?_filter]

/-- Active elements lie below VL. -/
theorem State.activeList_filter_lt (s : State) (p : Nat → Bool) : ∀ j ∈ s.activeList.filter p, j < s.lc.vec.vl.toNat :=
  fun _ hj => State.activeAt_lt (State.mem_activeList.mp (List.mem_of_mem_filter hj))

theorem State.decide_mem_activeList (s : State) (p : Nat → Bool) (j : Nat) :
    decide (j ∈ s.activeList.filter p) = (s.activeAt j && p j) := by
  rw [Bool.eq_iff_iff, decide_eq_true_iff, List.mem_filter, State.mem_activeList, Bool.and_eq_true]

end

theorem vectorFpTraps_holds : vectorFpTraps := by
  intro i f l s b hf hp hr h hl hc enabled hb hlow
  have he : (l.flags s.activeList).setWidth 6 &&& s.lc.ftrapen = enabled := l.flags_enabled s.lc.ftrapen s.activeList
  obtain ⟨j, hj⟩ : ∃ j, s.activeAt j = true := by
    rw [← he, BitVec.getLsbD_and, BitVec.getLsbD_setWidth, Lanes.flags_getLsbD] at hb
    simp only [Bool.and_eq_true, List.any_eq_true] at hb
    obtain ⟨⟨-, j, hj, -⟩, -⟩ := hb
    exact ⟨j, State.mem_activeList.mp hj⟩
  obtain ⟨t, e, r, hx, hs⟩ := VForm.exec_lanes_stalls hf hp hr h hl hj (s.activeList_filter_lt _)
    fun xp => State.elementwise_traps h hc (he ▸ hb) (he ▸ hlow)
  refine ⟨t, r, e, hx, hs.stalled, hs.report, hs.entryPc, hs.entryOp, hs.pc, hs.insn, hs.cause, he ▸ hs.tval, hs.deferred,
    hs.k7valid, fun hv j => ?_, fun c => ?_, hs.v, hs.vPoison, hs.vqueue, hs.scalar, hs.vstart, hs.next, hs.dev, hs.core⟩
  · rw [hs.k7 hv, State.decide_mem_activeList, Bool.eq_iff_iff]
    simp only [Bool.and_eq_true, bne_iff_ne, decide_eq_true_iff]
  · rw [hs.fflags, BitVec.getLsbD_or, Lanes.flags_getLsbD]

theorem vectorPoison_holds : vectorPoison := by
  intro i f l s r hf hp hr h hl hmask bad hbad
  have hmem : r ∈ l.srcs := List.mem_of_find?_eq_some hbad
  have hany : s.activeList.any (bad r) = true := List.find?_some (p := fun r => s.activeList.any (bad r)) hbad
  obtain ⟨j, hj, hjr⟩ := List.any_eq_true.mp hany
  have hact : s.activeAt j = true := State.mem_activeList.mp hj
  obtain ⟨t, e, u, hx, hs⟩ := VForm.exec_lanes_stalls hf hp hr h hl hact (s.activeList_filter_lt _)
    fun xp => State.elementwise_poison h hmask hbad
  obtain ⟨k, hk⟩ : ∃ k, s.activeList.find? (fun j => l.srcs.any (fun r => l.bad s r j)) = some k :=
    Option.isSome_iff_exists.mp (List.find?_isSome.mpr ⟨j, hj, List.any_eq_true.mpr ⟨r, hmem, hjr⟩⟩)
  have hfirst : u.first = k := by
    rw [hs.first, State.min?_activeList, hk]
    rfl
  exact ⟨t, u, e, hx, hs.stalled, hs.report, hs.cause, hs.tval, hs.pc, hk.trans (congrArg some hfirst.symm),
    fun hv j => (hs.k7 hv j).trans (s.decide_mem_activeList _ j), hs.v, hs.vPoison, hs.scalar,
    hs.fflags.trans BitVec.or_zero, hs.next, hs.dev, hs.core⟩

/-- Settles O26: either stop leaves the sources and the destination as they were, and its report waits at the scalar unit with
the elements that met it in k7. -/
theorem vectorTraps : Obligations.VectorTraps := ⟨vectorFpTraps_holds, vectorPoison_holds⟩

end Sys2Proof.Machine
end

section
/-! Proofs, 06: copy commands of the scalar unit: the checks, the identifier and the entry into the channel (R157 to R159,
R426 to R431). -/

namespace Sys2Proof.Machine

/-! ### Taking an identifier and entering the channel (R157, R426) -/

/-- The command that a copy instruction hands off to a channel (R158). -/
def State.copyCmd (s : State) (h : BitVec 2) (k : XKind) (dst src : Dword) (rows : Nat) : XCmd :=
  ⟨s.lc.chans[h.toNat].next, k, dst, src, s.lc.vec.vl.toNat, rows, s.lc.vec.rowpitch, s.super, s.env⟩

/-- The channel with its next identifier taken and a command behind what it holds. -/
def Chan.took (c : Chan) (x : XCmd) : Chan := { c with next := c.next + 1, cmds := c.cmds ++ [x] }

/-- The state with one channel replaced. -/
def State.withChan (s : State) (h : BitVec 2) (c : Chan) : State :=
  { s with lc := { s.lc with chans := s.lc.chans.set h.toNat c } }

/-- The state in which a copy instruction has entered its channel and retired. -/
def State.tookCmd (s : State) (d : SReg) (h : BitVec 2) (x : XCmd) : State :=
  ((s.withChan h (s.lc.chans[h.toNat].took x)).setS d (s.lc.chans[h.toNat].next.setWidth 64)).retire

/-- A copy command of channel `h` with `n` rows: it enters the channel, its identifier in `d`, or stays at the boundary. -/
def State.EntersCopy (s : State) (d : SReg) (h : BitVec 2) (i : Instr) (k : XKind) (dst src : Dword) (n : Nat) : Prop :=
  let c := s.lc.chans[h.toNat]
  (c.cmds.length < 8 → ∃ t, exec i s = .next t ∧ t.Holds d (c.next.setWidth 64) ∧ s.SameRegsBut t d
    ∧ t.lc.chans[h.toNat] = { c with
        next := c.next + 1
        cmds := c.cmds ++ [⟨c.next, k, dst, src, s.lc.vec.vl.toNat, n, s.lc.vec.rowpitch, s.super, s.env⟩] }
    ∧ (∀ q : Fin 4, q.val ≠ h.toNat → t.lc.chans[q] = s.lc.chans[q])
    ∧ { t.lc with pc := s.lc.pc, s := s.lc.s, sPoison := s.lc.sPoison, chans := s.lc.chans } = s.lc
    ∧ t.lc.pc = s.lc.pc + 4 ∧ t.part = s.part ∧ t.core = s.core ∧ t.dev = s.dev)
  ∧ (8 ≤ c.cmds.length → exec i s = .next s)

section
variable {s : State} {d : SReg} {h : BitVec 2} {k : XKind} {dst src : Dword} {n : Nat} {i : Instr}

theorem State.withChan_same (c : Chan) : (s.withChan h c).lc.chans[h.toNat] = c := Vector.getElem_set_self _

theorem State.withChan_other (c : Chan) {q : Fin 4} (hq : q.val ≠ h.toNat) :
    (s.withChan h c).lc.chans[q] = s.lc.chans[q] := Vector.getElem_set_ne h.isLt q.isLt hq.symm

theorem State.withChan_again (c c' : Chan) : (s.withChan h c).withChan h c' = s.withChan h c' := by
  simp only [State.withChan, Vector.set_set]

theorem State.setS_withChan (c : Chan) (v : Dword) : (s.withChan h c).setS d v = (s.setS d v).withChan h c := by
  unfold State.setS Lc.setS
  split <;> rfl

/-- When the scalar unit runs ahead a command stays in its channel, behind what is there (log 3). -/
theorem State.passX_withChan (hr : s.runAhead = true) (c : Chan) (x : XCmd) :
    (s.withChan h c).passX h x = s.withChan h { c with cmds := c.cmds ++ [x] } := by
  have hpass : (s.withChan h c).passX h x = (s.withChan h c).updChan h (fun c => { c with cmds := c.cmds ++ [x] }) :=
    if_pos hr
  have hupd : (s.withChan h c).updChan h (fun c => { c with cmds := c.cmds ++ [x] }) = (s.withChan h c).withChan h
      { (s.withChan h c).lc.chans[h.toNat] with cmds := (s.withChan h c).lc.chans[h.toNat].cmds ++ [x] } := rfl
  rw [hpass, hupd, State.withChan_same, State.withChan_again]

/-- Where the buffer has room the command takes its identifier and enters (R426). -/
theorem State.takeCmd_room (hr : s.runAhead = true) (hl : s.lc.chans[h.toNat].cmds.length < 8) :
    s.takeCmd d h k dst src s.lc.vec.vl.toNat n = .ok (s.tookCmd d h (s.copyCmd h k dst src n)) := by
  have htake : s.takeCmd d h k dst src s.lc.vec.vl.toNat n = .ok (((s.withChan h { s.lc.chans[h.toNat] with
      next := s.lc.chans[h.toNat].next + 1 }).setS d (s.lc.chans[h.toNat].next.setWidth 64)).passX h
        (s.copyCmd h k dst src n)).retire := if_neg (Nat.not_le.mpr hl)
  have hrd : (s.setS d (s.lc.chans[h.toNat].next.setWidth 64)).runAhead = true := hr
  rw [htake, State.setS_withChan, State.passX_withChan hrd, ← State.setS_withChan]
  rfl

/-- A full buffer holds the scalar unit (R46). -/
theorem State.takeCmd_full {len : Nat} (hl : 8 ≤ s.lc.chans[h.toNat].cmds.length) :
    s.takeCmd d h k dst src len n = .error .wait := if_pos hl

/-- An instruction whose checks have passed enters its channel or waits. -/
theorem State.entersCopy_of_takeCmd (hr : s.runAhead = true)
    (hx : exec i s = s.finish (s.takeCmd d h k dst src s.lc.vec.vl.toNat n)) : s.EntersCopy d h i k dst src n := by
  refine ⟨fun hl => ?_, fun hl => ?_⟩
  · obtain ⟨hholds, hregs, hpc, -, hsame⟩ := State.wrote_setS
      (s.withChan h (s.lc.chans[h.toNat].took (s.copyCmd h k dst src n))) d (s.lc.chans[h.toNat].next.setWidth 64)
    have hlc := congrArg State.lc hsame
    refine ⟨s.tookCmd d h (s.copyCmd h k dst src n), ?_, hholds, hregs, ?_, ?_, ?_, hpc, rfl, rfl, rfl⟩
    · rw [hx, State.takeCmd_room hr hl]
      rfl
    · exact (congrArg (fun l : Lc => l.chans[h.toNat]) hlc).trans (State.withChan_same _)
    · exact fun q hq => (congrArg (fun l : Lc => l.chans[q]) hlc).trans (State.withChan_other _ hq)
    · exact congrArg (fun l : Lc => { l with chans := s.lc.chans }) hlc
  · rw [hx, State.takeCmd_full hl]
    rfl

end

/-! ### The checks of a copy command (R159, R164, R426) -/

/-- A channel refuses a command, or the command goes on (R159). -/
theorem State.chanInvalid_bind (s : State) (h : BitVec 2) (bad : Bool) (x : Except Halt State) :
    (s.chanInvalid h bad >>= fun _ => x) = if bad then s.raise .copyChannelInvalid (h.setWidth 64) else x := by
  cases bad <;> rfl

section
variable {s : State} {d a b : SReg} {h : BitVec 2} (he : s.lc.chans[h.toNat].err = none)
include he

theorem State.chanFault_ok : s.chanFault h = .ok () := by
  unfold State.chanFault
  simp only [he]

theorem State.chanReady_ok (hn : s.lc.chans[h.toNat].next ≠ 0xFFFF_FFFF) : s.chanReady h = .ok () := by
  unfold State.chanReady
  rw [State.chanFault_ok he]
  exact if_neg (by simpa using hn)

theorem State.chanReady_wrap (hn : s.lc.chans[h.toNat].next = 0xFFFF_FFFF) :
    s.chanReady h = s.raise .copyIdWrap (h.setWidth 64) := by
  unfold State.chanReady
  rw [State.chanFault_ok he]
  exact if_pos (by simpa using hn)

/-- A copy of a channel whose next identifier is all ones (R157). -/
theorem exec_xcpy_wrap {r : Bool} (hn : s.lc.chans[h.toNat].next = 0xFFFF_FFFF) :
    exec (.xcpy d a b h r) s = s.finish (s.raise .copyIdWrap (h.setWidth 64)) := by
  show execXcpy d a b h r s = _
  unfold execXcpy
  rw [State.chanReady_wrap he hn]
  rfl

/-- XWAIT of an identifier: one not issued is refused, one still to complete waits (R431). -/
theorem exec_xwait (ha : s.Readable a) : exec (.xwait a h) s = s.finish (
    if s.lc.chans[h.toNat].next.toNat ≤ (s.getS a).toNat then s.raise .copyChannelInvalid (h.setWidth 64)
    else if s.lc.chans[h.toNat].done.toNat ≤ (s.getS a).toNat then .error .wait else .ok s.retire) := by
  show execXwait a h s = _
  unfold execXwait
  rw [State.chanFault_ok he, State.useS_ok ha]
  exact congrArg s.finish ((s.chanInvalid_bind h _ _).trans (by simp only [decide_eq_true_eq]))

section
variable (hn : s.lc.chans[h.toNat].next ≠ 0xFFFF_FFFF) (ha : s.Readable a) (hb : s.Readable b) (hd : s.Writable d)
include hn hb hd

include ha in
/-- XCPY on its way to the channel (R427). -/
theorem exec_xcpy (r : Bool) : exec (.xcpy d a b h r) s = s.finish (
    if r && copyMeets (s.getS a) (s.getS b) s.lc.vec.rowpitch.toInt s.lc.vec.vl.toNat s.copyRows then
      s.raise .copyChannelInvalid (h.setWidth 64)
    else s.takeCmd d h (.cpy r) (s.getS a) (s.getS b) s.lc.vec.vl.toNat s.copyRows) := by
  show execXcpy d a b h r s = _
  unfold execXcpy
  rw [State.chanReady_ok he hn, State.useS_ok ha, State.useS_ok hb, State.claimS_ok hd]
  exact congrArg s.finish (s.chanInvalid_bind h _ _)

/-- XDEIL on its way to the channel (R428). -/
theorem exec_xdeil {v : VReg} {f : BitVec 3} (hv : v.toNat + f.toNat + 1 ≤ 31) (ho : s.owns = true)
    (hal : (s.getS b).toNat % 4 = 0) (hl : s.lc.vec.vl.toNat ≤ 1024) (hu : s.unperformedV = []) :
    exec (.xdeil d v b h f) s
      = s.finish (s.takeCmd d h (.deil v (f.toNat + 1)) 0 (s.getS b) s.lc.vec.vl.toNat 1) := by
  have hg : s.guard { regs := [(14, decide (v.toNat + (f.toNat + 1) ≤ 31))], bits := 0 } = .ok () :=
    State.guard_ok (by simpa [← Nat.add_assoc] using hv) rfl ho nofun nofun rfl
  have hinv : s.chanInvalid h (!aligned (s.getS b) 4) = .ok () := by simp [State.chanInvalid, aligned, hal]
  show execXdeil d v b h f s = _
  unfold execXdeil
  simp only [bind, Except.bind, hg, State.chanReady_ok he hn, State.useS_ok hb, State.claimS_ok hd, hinv, hu]
  exact congrArg s.finish (if_neg (Nat.not_lt.mpr hl))

include ha in
/-- XRED on its way to the channel (R429). -/
theorem exec_xred {e : Bool} {t : RedTy} (hal : (s.getS a).toNat % t.ty.bytes = 0) (hbl : (s.getS b).toNat % t.ty.bytes = 0)
    (hm : rangesMeet (s.getS a).toNat (s.getS b).toNat (s.lc.vec.vl.toNat * s.copyRows * t.ty.bytes)
      (s.lc.vec.vl.toNat * s.copyRows * t.ty.bytes) = false)
    (hdet : e = true → (pagesOf (s.getS a) (s.lc.vec.vl.toNat * s.copyRows * t.ty.bytes)).any s.notLocal = false
      ∧ 0 < field s.lc.redgrp 8 6 ∧ field s.lc.redgrp 8 6 ≤ 16 ∧ field s.lc.redgrp 0 4 < field s.lc.redgrp 8 6) :
    exec (.xred d a b h e t) s
      = s.finish (s.takeCmd d h (.red t e s.lc.redgrp) (s.getS a) (s.getS b) s.lc.vec.vl.toNat s.copyRows) := by
  have hinv : s.chanInvalid h (!aligned (s.getS a) t.ty.bytes || !aligned (s.getS b) t.ty.bytes
      || rangesMeet (s.getS a).toNat (s.getS b).toNat (s.lc.vec.vl.toNat * s.copyRows * t.ty.bytes)
        (s.lc.vec.vl.toNat * s.copyRows * t.ty.bytes)
      || (e && (pagesOf (s.getS a) (s.lc.vec.vl.toNat * s.copyRows * t.ty.bytes)).any s.notLocal)) = .ok () := by
    cases e with
    | false => simp [State.chanInvalid, aligned, hal, hbl, hm]
    | true => simp only [State.chanInvalid, aligned, hal, hbl, hm, (hdet rfl).1, beq_self_eq_true]; rfl
  show execXred d a b h e t s = _
  unfold execXred
  simp only [bind, Except.bind, State.chanReady_ok he hn, State.useS_ok ha, State.useS_ok hb, State.claimS_ok hd, hinv]
  congr 1
  cases e with
  | false => rfl
  | true =>
    obtain ⟨-, hpos, hmost, hrank⟩ := hdet rfl
    rw [if_neg (by simpa using hmost), if_neg (by simp; omega)]

end
end

/-- Settles O47: a copy command whose checks pass comes down to taking its identifier, which a full buffer holds back. -/
theorem copyCommands : Obligations.CopyCommands := by
  intro d a b h r e v f ty s hr ha hb hd c len rows he enters
  have hgo : ∀ {i k dst src n}, exec i s = s.finish (s.takeCmd d h k dst src s.lc.vec.vl.toNat n) → enters i k dst src n :=
    State.entersCopy_of_takeCmd hr
  refine ⟨fun hn => ⟨fun hm => ?_, fun hv ho hal hl hu => ?_, fun hal hbl hm hdet => ?_, fun hrows hm ht => ?_⟩,
    fun hn ht => ?_, fun hi => ⟨fun hx => ?_, fun hx => ?_⟩, fun hi ht => ?_⟩
  · refine hgo ((exec_xcpy he hn ha hb hd r).trans (congrArg s.finish (if_neg ?_)))
    rcases hm with rfl | hm
    · exact Bool.false_ne_true
    · rw [Bool.and_eq_true]
      exact fun hc => Bool.false_ne_true (hm.symm.trans hc.2)
  · exact hgo (exec_xdeil he hn hb hd hv ho hal hl hu)
  · exact hgo (exec_xred he hn ha hb hd hal hbl hm hdet)
  · rw [exec_xcpy he hn ha hb hd, if_pos (by rw [hrows]; exact hm)]
    exact State.finish_raise _ ht
  · rw [exec_xcpy_wrap he hn]
    exact State.finish_raise _ ht
  · rw [exec_xwait he ha, if_neg (Nat.not_le.mpr hi), if_neg (Nat.not_le.mpr hx)]
    exact ⟨_, rfl, rfl⟩
  · rw [exec_xwait he ha, if_neg (Nat.not_le.mpr hi), if_pos hx]
    rfl
  · rw [exec_xwait he ha, if_pos hi]
    exact State.finish_raise _ ht

end Sys2Proof.Machine
end

section
/-! Proofs, 06: refresh of a bank and patrol scrubbing (R187, R220, R275). -/

namespace Sys2Proof.Machine

/-! ### A refresh of a bank (R220) -/

/-- Precharges of rows in whose banks no slot is pinned close nothing. -/
theorem Device.precharges_slots (n : Nat) (ls : List Line) (d : Device)
    (h : ∀ l ∈ ls, ∀ x ∈ d.slots, x.st = .pinned → x.isOf l = false) : (Device.precharges n ls d).slots = d.slots := by
  induction n generalizing ls d with
  | zero => rfl
  | succ n ih =>
    cases ls with
    | nil => rfl
    | cons l r =>
      obtain ⟨hl, hr⟩ := List.forall_mem_cons.mp h
      have hcount : (d.countAct l).1.slots = d.slots := rfl
      rw [Device.precharges]
      generalize d.countAct l = q at hcount ⊢
      obtain ⟨e, refresh⟩ := q
      replace hcount : e.slots = d.slots := hcount
      rw [← hcount] at hl hr ⊢
      cases refresh with
      | false => exact ih r e hr
      | true =>
        have hnone : ∀ x ∈ e.slots, ¬(x.st == .pinned && x.isOf l && x.row != l.row) = true := fun x hx hc => by
          simp only [Bool.and_eq_true, beq_iff_eq] at hc
          exact Bool.false_ne_true ((hl x hx hc.1.1).symm.trans hc.1.2)
        have hkept : e.slots.map (fun x => if x.st == .pinned && x.isOf l && x.row != l.row then { x with st := .closed } else x)
            = e.slots := (List.map_congr_left fun x hx => if_neg (hnone x hx)).trans (List.map_id _)
        have hgone : e.slots.filter (fun x => x.st == .pinned && x.isOf l && x.row != l.row) = [] :=
          List.filter_eq_nil_iff.mpr hnone
        show (Device.precharges n (r ++ (e.slots.filter _).map Slot.line) _).slots = _
        rw [hgone, hkept]
        simpa using ih r e hr

/-- A closing event of a whole bank closes exactly the bank's pinned rows. -/
theorem Device.closeSlots_bank (d : Device) (stack chan bank : Nat) :
    (d.closeSlots (fun x => x.stack == stack && x.chan == chan && x.bank == bank)).slots = d.slots.map (fun x =>
      if x.st = .pinned ∧ x.stack = stack ∧ x.chan = chan ∧ x.bank = bank then { x with st := .closed } else x) := by
  have hmap : d.slots.map (fun x => if x.st == .pinned && (x.stack == stack && x.chan == chan && x.bank == bank) then
      { x with st := .closed } else x) = d.slots.map (fun x =>
        if x.st = .pinned ∧ x.stack = stack ∧ x.chan = chan ∧ x.bank = bank then { x with st := .closed } else x) :=
    List.map_congr_left fun x _ => by simp only [Bool.and_eq_true, beq_iff_eq, and_assoc]
  refine Eq.trans ?_ hmap
  refine Device.precharges_slots _ _ _ ?_
  rintro l hl x hx hp
  obtain ⟨y, hy, rfl⟩ := List.mem_map.mp hl
  obtain ⟨z, hz, rfl⟩ := List.mem_map.mp hx
  have hy := (List.mem_filter.mp hy).2
  by_cases hz : (z.st == .pinned && (z.stack == stack && z.chan == chan && z.bank == bank)) = true
  · rw [if_pos hz] at hp
    cases hp
  · rw [if_neg hz] at hp ⊢
    rw [Bool.eq_false_iff]
    intro ho
    simp only [Slot.isOf, Slot.line, Bool.and_eq_true, beq_iff_eq] at hy hz ho
    exact hz ⟨hp, ⟨ho.1.1.1.trans hy.2.1.1, ho.1.1.2.trans hy.2.1.2⟩, ho.1.2.trans hy.2.2⟩

/-! ### BANK_REFRESH (R220) -/

/-- A refresh closes exactly the pinned rows of its bank; beside them only counters of activations move. -/
theorem exec_bankRefresh (s : State) (stack chan pc bank : Nat) : ∃ t, exec (.bankRefresh stack chan pc bank) s = .next t
    ∧ t.dev.slots = s.dev.slots.map (fun x =>
      if x.st = .pinned ∧ x.stack = stack ∧ x.chan = chan ∧ x.bank = 32 * pc + bank then { x with st := .closed } else x)
    ∧ { t with dev := { t.dev with
        slots := s.dev.slots, actcnt := s.dev.actcnt, actError := s.dev.actError
        mgmt := { t.dev.mgmt with log := s.dev.mgmt.log } } } = s :=
  ⟨_, rfl, s.dev.closeSlots_bank stack chan _,
    congrArg (fun d => { s with dev := d }) (s.dev.closeSlots_rowsClose _).rows.rest⟩

/-! ### Patrol scrubbing (R187, R275) -/

theorem contains_filter_ne (l : List Nat) (g : Nat) : (l.filter (· != g)).contains g = false := by
  simp

section
variable {g : Nat} {s : State} {c u : Bool}

/-- The device whose patrol read found a granule uncorrectable (R275). -/
def Device.scrubbedBad (d : Device) (g : Nat) : Device :=
  ({ d.poison g with memError := d.memError.filter (· != g) }.wake g g).logCause .scrubUncorrectable

/-- A patrol read leaves a granule that a bank holds, or that does not lie in HBM. -/
theorem State.scrubRead_skips (h : s.bankHeld g = true ∨ hbmSize ≤ 64 * g) : s.scrubRead g c u = s :=
  if_pos (by simpa using h)

section
variable (hb : s.bankHeld g = false) (hg : 64 * g < hbmSize)
include hb hg

theorem State.scrubRead_reads : s.scrubRead g c u = if u || s.dev.memError.contains g then
      { s with dev := s.dev.scrubbedBad g }
    else if c then { s with dev := { s.dev.logCause .scrubCorrected with scrubs := addOnce s.dev.scrubs g } } else s :=
  if_neg (by simpa [hb] using hg)

/-- An uncorrectable granule is poisoned and logged (R275). -/
theorem exec_patrolScrubRead_uncorrectable (h : u = true ∨ s.dev.memError.contains g = true) :
    ∃ t, exec (.patrolScrubRead g c u) s = .next t
      ∧ t.dev.memPoison.contains g = true ∧ t.dev.memError.contains g = false
      ∧ t.dev.mgmt.log = s.dev.mgmt.log ++ [.scrubUncorrectable] ∧ t.dev.mem = s.dev.mem ∧ { t with dev := s.dev } = s := by
  refine ⟨_, congrArg Host.Outcome.next ((State.scrubRead_reads hb hg).trans (if_pos (by simpa using h))), ?_, ?_, rfl, rfl, rfl⟩
  · exact List.contains_iff_mem.mpr (addOnce_mem _ _)
  · exact contains_filter_ne _ _

section
variable (hu : u = false) (he : s.dev.memError.contains g = false)
include hu he

/-- A corrected granule is logged and kept for its write-back (R187). -/
theorem exec_patrolScrubRead_corrected (hc : c = true) : ∃ t, exec (.patrolScrubRead g c u) s = .next t
    ∧ t.dev.scrubs.contains g = true ∧ t.dev.mgmt.log = s.dev.mgmt.log ++ [.scrubCorrected]
    ∧ t.dev.mem = s.dev.mem ∧ t.dev.memPoison = s.dev.memPoison ∧ { t with dev := s.dev } = s :=
  ⟨_, congrArg Host.Outcome.next ((State.scrubRead_reads hb hg).trans ((if_neg (by simp only [hu, he]; decide)).trans (if_pos hc))),
    List.contains_iff_mem.mpr (addOnce_mem _ _), rfl, rfl, rfl, rfl⟩

/-- A granule without an error is left (R187). -/
theorem exec_patrolScrubRead_clean (hc : c = false) : exec (.patrolScrubRead g c u) s = .next s :=
  congrArg Host.Outcome.next ((State.scrubRead_reads hb hg).trans ((if_neg (by simp only [hu, he]; decide)).trans (if_neg (by simp [hc]))))

end
end

theorem exec_scrubWriteBack : ∃ t, exec (.scrubWriteBack g) s = .next t ∧ t.dev.scrubs.contains g = false
    ∧ { t with dev := { t.dev with scrubs := s.dev.scrubs } } = s :=
  ⟨_, rfl, contains_filter_ne _ _, rfl⟩

end

end Sys2Proof.Machine
end

section
/-! Proofs, 06: page walks of the core and of a bound context (R302, R303). -/

namespace Sys2Proof.Machine

/-! ### What a walk reaches (R296, R301, R304) -/

/-- A page that a walk reached is in its place in its leaf line. -/
def Device.LeafInLine (d : Device) (va : Nat) (l : Leaf) : Prop :=
  l.block = false → (d.leafLine (l.addr / 128 * 128)).getD ((va >>> 16) % 8) 0 = l.entry

section
variable {d : Device} {k : Acc} {va : Nat} {l : Leaf}

theorem nextTable_aligned {e : Dword} {t : Nat} (h : nextTable k e = .ok t) : t % 65536 = 0 := by
  unfold nextTable at h
  split at h
  · cases h
  split at h
  · cases h
  · cases h
    exact Nat.mul_mod_left _ _

theorem Device.pageLeaf_inLine {t : Nat} (ht : t % 65536 = 0) (h : d.pageLeaf k t va = .ok l) : d.LeafInLine va l := by
  unfold Device.pageLeaf at h
  dsimp only at h
  split at h
  · cases h
  split at h
  · cases h
  split at h
  · cases h
  · cases h
    intro _
    have haddr : (t + 128 * ((va >>> 19) % 512) + 8 * ((va >>> 16) % 8)) / 128 * 128 = t + 128 * ((va >>> 19) % 512) := by omega
    rw [haddr]

theorem Device.walk2_inLine {t : Nat} (h : d.walk2 k t va = .ok l) : d.LeafInLine va l := by
  unfold Device.walk2 at h
  dsimp only at h
  split at h
  · split at h
    · cases h
      exact nofun
    · cases h
  · split at h
    · cases h
    next t3 ht => exact Device.pageLeaf_inLine (nextTable_aligned ht) h

theorem Device.walk1_inLine {t : Nat} (h : d.walk1 k t va = .ok l) : d.LeafInLine va l := by
  unfold Device.walk1 at h
  split at h
  · cases h
  · exact Device.walk2_inLine h

theorem Device.walk0_inLine {t : Nat} (h : d.walk0 k t va = .ok l) : d.LeafInLine va l := by
  unfold Device.walk0 at h
  split at h
  · cases h
  split at h
  · cases h
  · exact Device.walk1_inLine h

theorem Device.walk_inLine {x : Space} (hp : ∀ p ∈ x.ptrs, p.next % 65536 = 0) (h : d.walk x k va = .ok l) :
    d.LeafInLine va l := by
  unfold Device.walk at h
  split at h
  next t ht =>
    obtain ⟨p, hf, rfl⟩ := Option.map_eq_some_iff.mp ht
    exact Device.pageLeaf_inLine (hp p (List.mem_of_find?_eq_some hf)) h
  split at h
  · exact Device.walk2_inLine h
  split at h
  · exact Device.walk1_inLine h
  · exact Device.walk0_inLine h

end

/-- An address below 2^57 has no bit above its VA. -/
theorem field_va_zero {va : Dword} (h : va.toNat < 2 ^ 57) : field va 57 7 = 0 := by
  rw [field, Nat.shiftRight_eq_div_pow, Nat.div_eq_of_lt h, Nat.zero_mod]

/-- The translation that a walk fills serves the walk's address with its leaf (R302). -/
theorem Device.walkEntry_serves {d : Device} {x : Space} {va : Dword} {l : Leaf} (hva : va.toNat < 2 ^ 57)
    (hp : ∀ p ∈ x.ptrs, p.next % 65536 = 0) (hw : d.walk x .load va.toNat = .ok l) (hc : leafC l.entry = false) :
    ∃ e, d.walkEntry x va = some e ∧ (e.leaf? x.asid va.toNat).map (·.entry) = some l.entry := by
  have hline := Device.walk_inLine hp hw
  unfold Device.walkEntry
  rw [if_neg (by simp [field_va_zero hva]), hw]
  dsimp only
  rw [if_neg (by simp [hc])]
  cases hb : l.block with
  | true =>
    refine ⟨_, if_pos rfl, ?_⟩
    simp [TlbEntry.leaf?, Nat.shiftRight_eq_div_pow]
  | false =>
    have hline := hline hb
    rw [if_neg (by decide)]
    split
    next hs =>
      refine ⟨_, rfl, ?_⟩
      have hv := (Bool.and_eq_true_iff.mp hs).2
      have hva : (va.toNat / 2 ^ 19 * 2 ^ 19) >>> 19 = va.toNat >>> 19 := by simp [Nat.shiftRight_eq_div_pow]
      simp only [TlbEntry.leaf?, beq_self_eq_true, Bool.or_true, Bool.not_true, hv, hva, Bool.and_true, if_true,
        Bool.false_eq_true, if_false, Option.map_some]
      rw [hline]
    next =>
      refine ⟨_, rfl, ?_⟩
      simp [TlbEntry.leaf?, Nat.shiftRight_eq_div_pow]

/-! ### The pointers that a walk fills (R304) -/

section
variable {α : Type} {p q : α → Bool}

theorem dropNth_filter (h : ∀ a, p a = true → q a = false) (n : Nat) (l : List α) : (dropNth p n l).filter q = l.filter q := by
  induction l generalizing n with
  | nil => rfl
  | cons a r ih =>
    unfold dropNth
    split
    next ha =>
      rw [List.filter_cons_of_neg (by simp [h a ha])]
      cases n with
      | zero => rfl
      | succ m => exact (List.filter_cons_of_neg (by simp [h a ha])).trans (ih m)
    next ha =>
      rw [List.filter_cons, List.filter_cons, ih]

/-- A fill changes nothing among elements of another kind. -/
theorem fillStore_filter (h : ∀ a, p a = true → q a = false) {a : α} (ha : p a = true) (cap pick : Nat) (l : List α) :
    (fillStore p cap pick l a).filter q = l.filter q := by
  unfold fillStore
  dsimp only
  rw [List.filter_cons_of_neg (by simp [h a ha])]
  split
  · exact dropNth_filter h _ _
  · rfl

end

/-- A pointer filled in one pool leaves every other pool (R304). -/
theorem ptrFill_other {t : PtrEntry} {q : Option Nat} (h : t.pool ≠ q) (pick : Nat) (l : List PtrEntry) :
    (ptrFill pick l t).filter (·.pool == q) = l.filter (·.pool == q) := by
  have hother : ∀ e : PtrEntry, (e.pool == t.pool) = true → (e.pool == q) = false := fun e he => by
    rw [beq_iff_eq.mp he]
    exact beq_false_of_ne h
  refine (fillStore_filter hother (beq_self_eq_true _) _ _ _).trans ?_
  rw [List.filter_filter]
  refine List.filter_congr fun e _ => ?_
  cases he : e.pool == t.pool with
  | true => simp [hother e he]
  | false => simp

section
variable {d : Device} {x : Space} {pool : Option Nat} {va : Nat}

theorem Device.ptrsFrom_pool {level n table : Nat} : ∀ p ∈ d.ptrsFrom x pool va level n table, p.pool = pool := by
  induction n generalizing level table with
  | zero => exact nofun
  | succ n ih =>
    unfold Device.ptrsFrom
    dsimp only
    split
    · exact nofun
    · exact List.forall_mem_cons.mpr ⟨rfl, ih⟩

theorem Device.walkPtrs_pool : ∀ p ∈ d.walkPtrs x pool va, p.pool = pool := by
  unfold Device.walkPtrs
  split
  · exact nofun
  split
  · exact Device.ptrsFrom_pool
  split
  · exact Device.ptrsFrom_pool
  split
  · exact Device.ptrsFrom_pool
  · exact nofun

end

/-- The pointers of a walk for one pool leave every other pool. -/
theorem Device.fillPtrs_pool (d : Device) (x : Space) {pool q : Option Nat} (h : pool ≠ q) (va : Dword) (pick : Nat) :
    (d.fillPtrs x pool va pick).pool q = d.pool q := by
  have hp : ∀ p ∈ d.walkPtrs x pool va.toNat, p.pool = pool := Device.walkPtrs_pool
  unfold Device.pool Device.fillPtrs
  dsimp only
  generalize d.walkPtrs x pool va.toNat = ps at hp ⊢
  generalize d.ptrs = l
  induction ps generalizing l with
  | nil => rfl
  | cons p ps ih =>
    obtain ⟨h1, h2⟩ := List.forall_mem_cons.mp hp
    exact (ih h2 _).trans (ptrFill_other (h1 ▸ h) pick l)

/-! ### PAGE_TABLE_WALK (R301 to R304) -/

section
variable {s : State} {va : Dword}

/-- The state in which the core's walk has filled its pool and its TLB. -/
def State.filledCore (s : State) (va : Dword) (e : TlbEntry) : State :=
  { s with
    core := { s.core with tlb := tlbFill (Config.choice s.tick) s.core.tlb e }
    dev := s.dev.fillPtrs (s.space s.super) none va (Config.choice s.tick) }

theorem State.coreWalk_held (h : (s.space s.super).holds va = true) : s.coreWalk va = s :=
  if_pos (by rw [h]; rfl)

theorem State.baseWalk_unbound (h : s.lc.ctx = none) : s.baseWalk va = s :=
  if_pos (by rw [h]; rfl)

section
variable (hh : (s.space s.super).holds va = false) (hw : inWindow va = false)
include hh hw

theorem State.coreWalk_fills {e : TlbEntry} (he : s.dev.walkEntry (s.space s.super) va = some e) :
    s.coreWalk va = s.filledCore va e := by
  unfold State.coreWalk
  dsimp only
  rw [if_neg (by simp [hh, hw]), he]
  rfl

theorem State.coreWalk_none (he : s.dev.walkEntry (s.space s.super) va = none) :
    s.coreWalk va = { s with dev := s.dev.fillPtrs (s.space s.super) none va (Config.choice s.tick) } := by
  unfold State.coreWalk
  dsimp only
  rw [if_neg (by simp [hh, hw]), he]

end

/-- What a walk for the core may change: its TLB and its own pool of pointers. -/
structure State.CoreFilled (s t : State) : Prop where
  rest : { t with core := { t.core with tlb := s.core.tlb }, dev := { t.dev with ptrs := s.dev.ptrs } } = s
  pools : ∀ n, t.dev.pool (some n) = s.dev.pool (some n)

theorem State.coreWalk_filled (hw : inWindow va = false) : s.CoreFilled (s.coreWalk va) := by
  by_cases hh : (s.space s.super).holds va = true
  · rw [State.coreWalk_held hh]
    exact ⟨rfl, fun _ => rfl⟩
  · have hh := Bool.eq_false_iff.mpr hh
    cases he : s.dev.walkEntry (s.space s.super) va with
    | none =>
      rw [State.coreWalk_none hh hw he]
      exact ⟨rfl, fun n => Device.fillPtrs_pool s.dev _ (Option.some_ne_none n).symm _ _⟩
    | some e =>
      rw [State.coreWalk_fills hh hw he]
      exact ⟨rfl, fun n => Device.fillPtrs_pool s.dev _ (Option.some_ne_none n).symm _ _⟩

/-- A walk for the bound context fills its pool and the TLB of its SVU (R303). -/
theorem State.baseWalk_fills {c : StackCtx} {e : TlbEntry} (hc : s.lc.ctx = some c)
    (hh : (s.ctxSpace s.super).holds va = false) (hw : inWindow va = false)
    (he : s.dev.walkEntry (s.ctxSpace s.super) va = some e) :
    s.baseWalk va = { s with dev := { s.dev.fillPtrs (s.ctxSpace s.super) (some s.ctxHome.1) va (Config.choice s.tick) with
      baseTlb := baseFill (Config.choice s.tick) s.dev.baseTlb ⟨s.ctxHome.1, s.ctxHome.2, e⟩ } } := by
  unfold State.baseWalk
  dsimp only
  rw [if_neg (by simp [hc, hh, hw]), he]
  rfl

/-- A walk for the core leaves the bound context's walk as it was. -/
theorem State.CoreFilled.ctx {t : State} {c : StackCtx} (h : s.CoreFilled t) (hc : s.lc.ctx = some c) :
    t.lc.ctx = some c ∧ t.ctxSpace t.super = s.ctxSpace s.super ∧ t.ctxHome = s.ctxHome
      ∧ t.dev.walkEntry (s.ctxSpace s.super) va = s.dev.walkEntry (s.ctxSpace s.super) va := by
  have hlc : t.lc = s.lc := (congrArg State.lc h.rest :)
  have hdev : { t.dev with ptrs := s.dev.ptrs } = s.dev := congrArg State.dev h.rest
  have huses : t.dev.ctxUses = s.dev.ctxUses := (congrArg Device.ctxUses hdev :)
  have htlb : t.dev.baseTlb = s.dev.baseTlb := (congrArg Device.baseTlb hdev :)
  have hhome : t.ctxHome = s.ctxHome := by rw [State.ctxHome, State.ctxHome, hlc, huses]
  refine ⟨hlc ▸ hc, ?_, hhome, (congrArg (fun d => Device.walkEntry d (s.ctxSpace s.super) va) hdev :)⟩
  rw [State.ctxSpace, State.ctxSpace, hhome, State.super, State.super, hlc, hc]
  simp only [Device.svuSpace, htlb, h.pools]

end

section
variable {s : State} {va : Dword} {l : Leaf} (hva : va.toNat < 2 ^ 57) (hp : ∀ p ∈ s.dev.ptrs, p.next % 65536 = 0)
  (hwin : inWindow va = false)

theorem exec_pageTableWalk_held (hc : s.lc.ctx = none) (hh : (s.space s.super).holds va = true) :
    exec (.pageTableWalk va) s = .next s := by
  have h : (s.coreWalk va).baseWalk va = s := by rw [State.coreWalk_held hh, State.baseWalk_unbound hc]
  exact congrArg Host.Outcome.next h

include hwin

/-- With no bound context a walk is the core's. -/
theorem exec_pageTableWalk_core (hc : s.lc.ctx = none) : exec (.pageTableWalk va) s = .next (s.coreWalk va) := by
  have hlc : (s.coreWalk va).lc = s.lc := (congrArg State.lc (State.coreWalk_filled hwin).rest :)
  exact congrArg Host.Outcome.next (State.baseWalk_unbound (hlc ▸ hc))

/-- A walk of a compressed page fills pointers alone. -/
theorem exec_pageTableWalk_compressed (hw : s.dev.walk (s.space s.super) .load va.toNat = .ok l)
    (hl : leafC l.entry = true) (hc : s.lc.ctx = none) :
    ∃ t, exec (.pageTableWalk va) s = .next t ∧ { t with dev := { t.dev with ptrs := s.dev.ptrs } } = s := by
  have he : s.dev.walkEntry (s.space s.super) va = none := by
    unfold Device.walkEntry
    rw [hw]
    dsimp only
    rw [if_pos hl, ite_self]
  refine ⟨_, exec_pageTableWalk_core hwin hc, ?_⟩
  by_cases hh : (s.space s.super).holds va = true
  · rw [State.coreWalk_held hh]
  · rw [State.coreWalk_none (Bool.eq_false_iff.mpr hh) hwin he]
    rfl

include hva hp

/-- A walk for the core fills an entry that serves the address with the walk's leaf (R302). -/
theorem exec_pageTableWalk_fills (hw : s.dev.walk (s.space s.super) .load va.toNat = .ok l) (hl : leafC l.entry = false)
    (hh : (s.space s.super).holds va = false) (hc : s.lc.ctx = none) : ∃ t e, exec (.pageTableWalk va) s = .next t
      ∧ t.core.tlb = tlbFill (Config.choice s.tick) s.core.tlb e
      ∧ (e.leaf? s.lc.asid va.toNat).map (·.entry) = some l.entry
      ∧ { t with core := { t.core with tlb := s.core.tlb }, dev := { t.dev with ptrs := s.dev.ptrs } } = s := by
  obtain ⟨e, he, hleaf⟩ := Device.walkEntry_serves hva (fun p h => hp p (List.mem_of_mem_filter h)) hw hl
  refine ⟨_, e, exec_pageTableWalk_core hwin hc, ?_, hleaf, (State.coreWalk_filled hwin).rest⟩
  rw [State.coreWalk_fills hh hwin he]
  rfl

/-- A walk for a bound context fills an entry of its SVU that serves the address with the walk's leaf (R303). -/
theorem exec_pageTableWalk_context {c : StackCtx} (hc : s.lc.ctx = some c)
    (hw : s.dev.walk (s.ctxSpace s.super) .load va.toNat = .ok l) (hl : leafC l.entry = false)
    (hh : (s.ctxSpace s.super).holds va = false) : ∃ t e, exec (.pageTableWalk va) s = .next t
      ∧ t.dev.baseTlb = baseFill (Config.choice s.tick) s.dev.baseTlb ⟨s.ctxHome.1, s.ctxHome.2, e⟩
      ∧ (e.leaf? c.asid va.toNat).map (·.entry) = some l.entry
      ∧ { t with
          core := { t.core with tlb := s.core.tlb }
          dev := { t.dev with ptrs := s.dev.ptrs, baseTlb := s.dev.baseTlb } } = s := by
  have hspace : s.ctxSpace s.super = s.dev.svuSpace s.ctxHome.1 s.ctxHome.2 c.ptbase c.asid s.super := by
    rw [State.ctxSpace, hc]
  have hptrs : ∀ p ∈ (s.ctxSpace s.super).ptrs, p.next % 65536 = 0 := fun p h =>
    hp p (List.mem_of_mem_filter (p := (·.pool == some s.ctxHome.1)) (by rw [hspace] at h; exact h))
  obtain ⟨e, he, hleaf⟩ := Device.walkEntry_serves hva hptrs hw hl
  have hfill := State.coreWalk_filled (s := s) hwin
  obtain ⟨htc, hts, hth, htw⟩ := hfill.ctx (va := va) hc
  refine ⟨_, e, congrArg Host.Outcome.next (State.baseWalk_fills htc (by rw [hts]; exact hh) hwin
    (by rw [hts, htw]; exact he)), ?_, ?_, ?_⟩
  · have htlb : (s.coreWalk va).dev.baseTlb = s.dev.baseTlb := (congrArg (fun u : State => u.dev.baseTlb) hfill.rest :)
    have htick : (s.coreWalk va).tick = s.tick := (congrArg State.tick hfill.rest :)
    show baseFill (Config.choice (s.coreWalk va).tick) (s.coreWalk va).dev.baseTlb
      ⟨(s.coreWalk va).ctxHome.1, (s.coreWalk va).ctxHome.2, e⟩ = _
    rw [hth, htlb, htick]
  · rw [hspace] at hleaf
    exact hleaf
  · exact (congrArg (fun u : State => { u with dev := { u.dev with baseTlb := s.dev.baseTlb } }) hfill.rest :)

end

end Sys2Proof.Machine
end

section
/-! Proofs, 06: expansion of compressed pages and combining stores (R203, R204, R306). -/

namespace Sys2Proof.Machine

/-! ### PAGE_EXPANSION (R153, R306) -/

theorem Device.writeP_combines (d : Device) (pa n x : Nat) (p : Bool) : (d.writeP pa n x p).combines = d.combines :=
  (congrArg Device.combines (d.writeP_rest pa n x p) :)

theorem Device.writeP_hbm (d : Device) (pa n x : Nat) (p : Bool) : (d.writeP pa n x p).hbm = d.hbm :=
  (congrArg Device.hbm (d.writeP_rest pa n x p) :)

/-- A granule written whole: its line holds the value, every other byte is kept. -/
theorem Device.writeP_granule {d : Device} (hm : Memory.wf d.mem = true) (pa v : Nat) (bad : Bool) :
    Memory.read (d.writeP pa 64 v bad).mem pa 64 = v % 2 ^ 512
      ∧ ∀ a, (a < pa ∨ pa + 64 ≤ a) → Memory.get (d.writeP pa 64 v bad).mem a = Memory.get d.mem a := by
  rw [Device.writeP_mem]
  exact ⟨by rw [Memory.read_write hm, show 256 ^ 64 = 2 ^ 512 from (pow_mul 2 8 64).symm],
    fun a ha => Memory.get_write_other hm pa 64 v a ha⟩

/-- With no open combining entry memory is what an access sees (R204). -/
theorem Device.settledMem_empty {d : Device} (h : d.combines = []) : d.settledMem = d.mem := by
  rw [Device.settledMem, h]
  rfl

theorem Device.writeAt_empty {d : Device} (h : d.combines = []) (pa n x : Nat) (p : Bool) :
    d.writeAt pa n x p = d.writeP pa n x p := by rw [Device.writeAt, Device.settle_empty h]

/-- Words written in order leave the combining entries and the stacks. -/
theorem Device.writeWords_rest (ws : List Nat) (d : Device) (pa : Nat) :
    (d.writeWords pa ws).combines = d.combines ∧ (d.writeWords pa ws).hbm = d.hbm := by
  induction ws generalizing d pa with
  | nil => exact ⟨rfl, rfl⟩
  | cons w r ih =>
    obtain ⟨hc, hb⟩ := ih (d.write pa 4 w) (pa + 4)
    exact ⟨hc.trans (d.writeP_combines ..), hb.trans (d.writeP_hbm ..)⟩

/-- A written table entry reads back. -/
theorem Device.entry_writeP {d : Device} (hm : Memory.wf d.mem = true) (hc : d.combines = []) (pa : Nat) (x : Dword)
    (p : Bool) : (d.writeP pa 8 x.toNat p).entry pa = x := by
  rw [Device.entry, Device.read, Device.settledMem_empty ((d.writeP_combines ..).trans hc), Device.writeP_mem,
    Memory.read_write hm]
  exact BitVec.eq_of_toNat_eq (by simpa using x.isLt)

/-- The device in which a page has been expanded to a frame taken from the pool (R306). -/
def Device.expanded (d : Device) (l : Leaf) (frame : Nat) (ws : List Nat) : Device :=
  let st := d.stack (leafHstack l.entry)
  let descAt := l.addr / 128 * 128 + 0x48 + 8 * leafDslot l.entry
  (((d.setStack { st with poolhead := st.poolhead + 1 }).writeWords frame ws).writeP descAt 8
    ((d.entry descAt).toNat - 1) false).writeP l.addr 8 (expandedEntry l.entry (frame / 65536)).toNat false

section
variable {d : Device} {l : Leaf} {frame : Nat} {ws : List Nat}

theorem Device.expanded_poolhead : ((d.expanded l frame ws).stack (d.stack (leafHstack l.entry)).no).poolhead
    = (d.stack (leafHstack l.entry)).poolhead + 1 := by
  have hhbm : (d.expanded l frame ws).hbm = (d.setStack { d.stack (leafHstack l.entry) with
      poolhead := (d.stack (leafHstack l.entry)).poolhead + 1 }).hbm :=
    (Device.writeP_hbm ..).trans ((Device.writeP_hbm ..).trans (Device.writeWords_rest ws _ frame).2)
  rw [Device.stack, hhbm]
  exact congrArg Stack.poolhead (d.stack_setStack { d.stack (leafHstack l.entry) with
    poolhead := (d.stack (leafHstack l.entry)).poolhead + 1 })

variable (hc : d.combines = [])
include hc

theorem Device.expanded_entry (hm : Memory.wf d.mem = true) :
    (d.expanded l frame ws).entry l.addr = expandedEntry l.entry (frame / 65536) :=
  Device.entry_writeP (Device.writeP_wf (Device.writeWords_wf (d := d.setStack _) hm _ _) _ _ _ _)
    ((Device.writeP_combines ..).trans ((Device.writeWords_rest ws _ frame).1.trans hc)) _ _ _

/-- A compressed page whose frame and packed data are good is expanded. -/
theorem Device.expand_ok {x : Space} {va : Dword} (hw : d.walk x .load va.toNat = .ok l) (hl : leafC l.entry = true)
    (hfree : (d.stack (leafHstack l.entry)).frame = none)
    (hpool : (d.stack (leafHstack l.entry)).poolhead ≠ (d.stack (leafHstack l.entry)).pooltail)
    (hframe : (d.entry ((d.stack (leafHstack l.entry)).poolbase.toNat
      + 8 * ((d.stack (leafHstack l.entry)).poolhead.toNat % (d.stack (leafHstack l.entry)).poolsize.toNat))).toNat = frame)
    (hal : frame % 65536 = 0) (hk : paKind frame = .hbm) (hst : homeStack frame = (d.stack (leafHstack l.entry)).no)
    (hdec : decodePage d.mem (d.stack (leafHstack l.entry)).czbase.toNat
      (d.entry (l.addr / 128 * 128 + 0x48 + 8 * leafDslot l.entry)) = some ws) :
    d.expand x va = (d.expanded l frame ws, none) := by
  have htake : d.takeFrame (d.stack (leafHstack l.entry)) = some (frame, d.setStack { d.stack (leafHstack l.entry) with
      poolhead := (d.stack (leafHstack l.entry)).poolhead + 1 }) := by
    unfold Device.takeFrame
    split
    next f hf => cases hf.symm.trans hfree
    next => exact (if_neg hpool).trans (by rw [hframe])
  have hc1 : (d.setStack { d.stack (leafHstack l.entry) with
      poolhead := (d.stack (leafHstack l.entry)).poolhead + 1 }).combines = [] := hc
  unfold Device.expand
  simp only [hw, hl, htake, hal, hk, hst, Device.settledMem_empty hc, hdec, Device.settle_empty hc1]
  rw [if_neg (by decide), if_neg (by simp)]
  rw [Device.writeAt_empty ((Device.writeWords_rest ws _ frame).1.trans hc1),
    Device.writeAt_empty ((Device.writeP_combines ..).trans ((Device.writeWords_rest ws _ frame).1.trans hc1))]
  rfl

end

theorem exec_pageExpansion_plain {s : State} {va : Dword} {l : Leaf}
    (hw : s.dev.walk (s.space s.super) .load va.toNat = .ok l) (hl : leafC l.entry = false) :
    exec (.pageExpansion va) s = .next s := by
  have he : s.dev.expand (s.space s.super) va = (s.dev, none) := by
    unfold Device.expand
    simp only [hw, hl]
    rfl
  show execPageExpansion va s = _
  rw [execPageExpansion, he]

theorem exec_pageExpansion {s : State} {va : Dword} {d : Device}
    (h : s.dev.expand (s.space s.super) va = (d, none)) : exec (.pageExpansion va) s = .next { s with dev := d } := by
  show execPageExpansion va s = _
  rw [execPageExpansion, h]

/-! ### Combining stores (R203, R204) -/

/-- The unit of a granule serves every address in it. -/
theorem unitChan_granule (pa : Nat) : unitChan (64 * (pa / 64)) = unitChan pa := by
  simp only [unitChan, homeStack, paChan, chanPair, Nat.shiftRight_eq_div_pow]
  have h (k : Nat) (hk : 6 ≤ k) : 64 * (pa / 64) / 2 ^ k = pa / 2 ^ k := by
    obtain ⟨j, rfl⟩ := Nat.exists_eq_add_of_le hk
    rw [pow_add, ← Nat.div_div_eq_div_mul, ← Nat.div_div_eq_div_mul]
    congr 1
    omega
  rw [h 36 (by decide), h 16 (by decide), h 20 (by decide), h 8 (by decide)]

section
variable {s : State}

theorem exec_scatterAddArrival_none (h : s.dev.scUpdates = []) : exec .scatterAddArrival s = .next s := by
  show execScatterAddArrival s = _
  simp [execScatterAddArrival, Device.scatterArrival, Device.nextArrival, h, Device.arrivals]

theorem exec_scatterAddArrival {d : Device} (h : s.dev.scatterArrival (Config.choice s.tick) = d) :
    exec .scatterAddArrival s = .next { s with dev := d } := by
  subst h
  rfl

/-- The only update on its way arrives once its unit can take it. -/
theorem Device.scatterArrival_only {d : Device} {u : ScUpdate} (h : d.scUpdates = [u]) (ht : d.takes u.pa = true) (pick : Nat) :
    d.scatterArrival pick = ({ d with scUpdates := [] }).join u := by
  have hn : d.nextArrival pick = some u := by
    simp [Device.nextArrival, h, Device.arrivals, ScUpdate.free, ht, Nat.mod_one]
  simp [Device.scatterArrival, hn, h]

/-- An update of a granule whose entry has its old value is applied at once (R203). -/
theorem exec_scatterAddArrival_joins {u : ScUpdate} {e : Combine} {v : BitVec 512} (h : s.dev.scUpdates = [u])
    (hc : s.dev.combines = [e]) (hg : e.granule = u.pa / 64) (hv : e.value = some v) :
    ∃ t, exec .scatterAddArrival s = .next t ∧ t.dev.scUpdates = []
      ∧ t.dev.combines = [{ e with value := some (BitVec.ofNat 512 (u.apply v.toNat)) }]
      ∧ { t with dev := { t.dev with scUpdates := s.dev.scUpdates, combines := s.dev.combines } } = s := by
  have hany : (s.dev.combining u.pa).any (fun c => c.granule == u.pa / 64) = true := by
    simp [Device.combining, hc, hg, unitChan_granule]
  have hjoin : Combine.join u e = { e with value := some (BitVec.ofNat 512 (u.apply v.toNat)) } := by
    simp [Combine.join, hg, hv]
  have harr : s.dev.scatterArrival (Config.choice s.tick) = { s.dev with
      scUpdates := [], combines := [{ e with value := some (BitVec.ofNat 512 (u.apply v.toNat)) }] } := by
    rw [Device.scatterArrival_only h (by simp [Device.takes, hany])]
    refine (if_pos hany).trans ?_
    simp only [hc, List.map_cons, List.map_nil, hjoin]
  exact ⟨_, exec_scatterAddArrival harr, rfl, rfl, rfl⟩

/-- An update of a granule that has no entry opens one where the unit has room (R203). -/
theorem exec_scatterAddArrival_opens {u : ScUpdate} (h : s.dev.scUpdates = [u])
    (hg : ∀ e ∈ s.dev.combines, e.granule ≠ u.pa / 64) (hl : (s.dev.combining u.pa).length < 128) :
    ∃ t, exec .scatterAddArrival s = .next t ∧ t.dev.scUpdates = []
      ∧ t.dev.combines = s.dev.combines ++ [⟨u.pa / 64, [u], none⟩]
      ∧ { t with dev := { t.dev with scUpdates := s.dev.scUpdates, combines := s.dev.combines } } = s := by
  have hany : ¬(s.dev.combining u.pa).any (fun c => c.granule == u.pa / 64) = true := by
    rw [List.any_eq_true]
    rintro ⟨c, hc, he⟩
    exact hg c (List.mem_of_mem_filter hc) (beq_iff_eq.mp he)
  have harr : s.dev.scatterArrival (Config.choice s.tick) = { s.dev with
      scUpdates := [], combines := s.dev.combines ++ [⟨u.pa / 64, [u], none⟩] } := by
    rw [Device.scatterArrival_only h (by simp [Device.takes, combineCap, hl])]
    refine (if_neg hany).trans ?_
    have hroom : (if (s.dev.combining u.pa).length < combineCap then { s.dev with scUpdates := [] }
        else match (s.dev.combining u.pa).find? Combine.idle with
          | some c => ({ s.dev with scUpdates := [] } : Device).giveBack c.granule
          | none => { s.dev with scUpdates := [] }) = { s.dev with scUpdates := [] } := if_pos hl
    exact congrArg (fun d : Device => { d with combines := d.combines ++ [(⟨u.pa / 64, [u], none⟩ : Combine)] }) hroom
  exact ⟨_, exec_scatterAddArrival harr, rfl, rfl, rfl⟩

section
variable {g : Nat} {e : Combine} (hf : s.dev.combines.find? (fun c => c.granule == g) = some e)
include hf

/-- The value of an entry once its chain has been applied. -/
theorem Combine.settled_of_find : e.settled s.dev = e.chain.foldl (fun v u => u.apply v)
    ((e.value.map BitVec.toNat).getD (Memory.read s.dev.mem (64 * g) 64)) := by
  rw [Combine.settled, beq_iff_eq.mp (List.find?_some hf :)]

/-- The old value of a granule arrives: its entry applies its chain, every other entry stays (R203). -/
theorem exec_scatterOldValue : ∃ t, exec (.scatterOldValue g) s = .next t
    ∧ { t with dev := { t.dev with combines := s.dev.combines } } = s
    ∧ (e.value = none → { e with
        value := some (BitVec.ofNat 512 (e.chain.foldl (fun v u => u.apply v) (Memory.read s.dev.mem (64 * g) 64)))
        chain := [] } ∈ t.dev.combines)
    ∧ (e.value ≠ none → e ∈ t.dev.combines) ∧ ∀ c ∈ s.dev.combines, c.granule ≠ g → c ∈ t.dev.combines := by
  have he := List.mem_of_find?_eq_some hf
  have hg : e.granule = g := beq_iff_eq.mp (List.find?_some hf :)
  refine ⟨_, rfl, rfl, fun hv => ?_, fun hv => ?_, fun c hc hne => ?_⟩
  · refine List.mem_map.mpr ⟨e, he, (if_pos (by simp [hg, hv])).trans ?_⟩
    rw [Combine.settled_of_find hf, hv]
    rfl
  · exact List.mem_map.mpr ⟨e, he, if_neg (by simp [hv])⟩
  · exact List.mem_map.mpr ⟨c, hc, if_neg (by simp [hne])⟩

/-- An entry given back: memory then holds its value (R204). -/
theorem Device.giveBack_found (hm : Memory.wf s.dev.mem = true) :
    Memory.read (s.dev.giveBack g).mem (64 * g) 64 = e.settled s.dev % 2 ^ 512
      ∧ (∀ a, (a < 64 * g ∨ 64 * g + 64 ≤ a) → Memory.get (s.dev.giveBack g).mem a = Memory.get s.dev.mem a)
      ∧ (s.dev.giveBack g).combines = s.dev.combines.filter (fun c => c.granule != g) := by
  unfold Device.giveBack
  rw [hf]
  dsimp only
  have hm' : Memory.wf ({ s.dev with combines := s.dev.combines.filter (fun c => c.granule != g) } : Device).mem = true := hm
  obtain ⟨hread, hother⟩ := Device.writeP_granule hm' (64 * g) (e.settled s.dev) _
  exact ⟨hread, hother, Device.writeP_combines ..⟩

/-- An idle entry is given back with its value, another stays (R203). -/
theorem exec_scatterIdleWriteBack (hn : (s.dev.combines.map (·.granule)).Nodup) :
    exec (.scatterIdleWriteBack g) s = .next (if e.idle then { s with dev := s.dev.giveBack g } else s) := by
  have hg : e.granule = g := beq_iff_eq.mp (List.find?_some hf :)
  have hany : s.dev.combines.any (fun c => c.granule == g && c.idle) = e.idle := by
    cases hi : e.idle with
    | true => exact List.any_eq_true.mpr ⟨e, List.mem_of_find?_eq_some hf, by simp [hg, hi]⟩
    | false =>
      refine List.any_eq_false.mpr fun c hc hk => ?_
      obtain ⟨hcg, hci⟩ := Bool.and_eq_true_iff.mp hk
      obtain rfl := List.inj_on_of_nodup_map hn hc (List.mem_of_find?_eq_some hf) ((beq_iff_eq.mp hcg).trans hg.symm)
      exact Bool.false_ne_true (hi.symm.trans hci)
  show execScatterIdleWriteBack g s = _
  rw [execScatterIdleWriteBack, hany]

end
end

end Sys2Proof.Machine
end

section
/-! Proofs, 06: steps of copy transfers (R157, R160, R165). -/

namespace Sys2Proof.Machine

/-! ### The bytes that a transfer reads (R160) -/

/-- A byte of a list written least significant first (R3). -/
theorem ofBytes_byte {bs : List Byte} {j : Nat} (h : j < bs.length) : BitVec.ofNat 8 (ofBytes bs / 256 ^ j) = bs[j] := by
  induction bs generalizing j with
  | nil => exact absurd h (Nat.not_lt_zero j)
  | cons b r ih =>
    have hb := b.isLt
    cases j with
    | zero =>
      refine BitVec.eq_of_toNat_eq ?_
      rw [pow_zero, Nat.div_one, ofBytes, BitVec.toNat_ofNat, List.getElem_cons_zero]
      omega
    | succ j =>
      have hdiv : (b.toNat + 256 * ofBytes r) / 256 = ofBytes r := by omega
      rw [ofBytes, pow_succ', ← Nat.div_div_eq_div_mul, hdiv, ih (Nat.lt_of_succ_lt_succ h), List.getElem_cons_succ]

section
variable {s : State} {c : XCmd} {va : Dword} {l : Loc}

/-- A location found at once, in any space, is reached with nothing before the access. -/
theorem State.reachIn_of_locateIn {x : Space} {k : Acc} (h : s.locateIn x k va = .ok l) : s.reachIn x k va = (s, .ok l) := by
  unfold State.locateIn at h
  unfold State.reachIn
  split at h
  next hw =>
    rw [if_pos hw]
    split at h
    next m hm =>
      cases h
      rw [hm]
    next => cases h
  next hw =>
    rw [if_neg hw]
    split at h
    next p hp =>
      cases h
      rw [Device.fetchXl_of_translate hp]
    next => cases h

theorem State.xreach_ok {k : Acc} (h : s.locateIn (s.spaceOf c.env c.super) k va = .ok l) : s.xreach c k va = .ok (s, l) := by
  rw [State.xreach, State.reachIn_of_locateIn h]

/-- A location of a transfer's read that neither waits for the host nor stops the transfer. -/
def State.XClean (s : State) (c : XCmd) (va : Dword) (l : Loc) : Prop :=
  s.locateIn (s.spaceOf c.env c.super) .load va = .ok l ∧ l.isHost = false ∧ s.badAt l = false

theorem State.xgate_ok (hh : l.isHost = false) (hb : s.badAt l = false) : s.xgate l va = .ok s := by
  cases l <;> simp [State.xgate, hh, hb]

theorem State.byteAt_readHome : BitVec.ofNat 8 (s.readHome l 1) = s.byteAt l 0 := by
  cases l <;> simp [State.readHome, State.byteAt, Memory.read]

theorem State.xbyte_ok {gated : Bool} (h : s.XClean c va l) :
    s.xbyte c gated va = .ok (s, s.byteAt l 0, s.poisonHome l) := by
  obtain ⟨hl, hh, hb⟩ := h
  unfold State.xbyte
  rw [State.xreach_ok hl, ← State.byteAt_readHome]
  cases gated with
  | true => rfl
  | false =>
    show (s.xgate l va >>= fun s => _) = _
    rw [State.xgate_ok hh hb]
    rfl

/-- Clean locations are read one after another, and nothing else happens. -/
theorem State.xbytes_ok {ps : List (Dword × Loc)} (h : ∀ p ∈ ps, s.XClean c p.1 p.2) (prev : Option Dword) :
    ∃ poison, s.xbytes c prev (ps.map (·.1)) = (s, ps.map (fun p => s.byteAt p.2 0), poison, none) := by
  induction ps generalizing prev with
  | nil => exact ⟨false, rfl⟩
  | cons p r ih =>
    obtain ⟨hp, hr⟩ := List.forall_mem_cons.mp h
    obtain ⟨q, hq⟩ := ih hr (some p.1)
    refine ⟨s.poisonHome p.2 || q, ?_⟩
    rw [List.map_cons, State.xbytes, State.xbyte_ok hp]
    dsimp only
    rw [hq]
    rfl

end

/-! ### A unit of an ascending XCPY (R160, R165) -/

/-- The address that an ascending copy writes next. -/
def XCmd.nextDst (c : XCmd) (wp : Nat) : Dword := c.dst + BitVec.ofNat 64 wp

/-- The bytes of a copy's next unit: what is left of the transfer in the destination's line (R160). -/
def XCmd.unitBytes (c : XCmd) (wp : Nat) : Nat := min (c.total - wp) (64 - (c.nextDst wp).toNat % 64)

theorem XCmd.unitBytes_pos {c : XCmd} {wp : Nat} (h : wp < c.total) : c.unitBytes wp ≠ 0 := by
  unfold XCmd.unitBytes
  omega

/-- The state whose memory holds the unit's bytes at their place, with the host's answers used up. -/
def State.copied (s : State) (c : XCmd) (wp pd : Nat) (src : Nat → Loc) (poison : Bool) : State :=
  let x := ofBytes ((List.range (c.unitBytes wp)).map (fun j => s.byteAt (src j) 0))
  State.xUsed { s with dev := s.dev.writeP pd (c.unitBytes wp) x poison }
    ((List.range (c.unitBytes wp)).map (fun j => c.srcAt (wp + j)))

section
variable {s : State} {c : XCmd} {wp pd : Nat} {e : Dword} {src : Nat → Loc}
  (hasc : c.descends = false) (hwp : wp < c.total)
  (hdst : s.locateIn (s.spaceOf c.env c.super) .store (c.nextDst wp) = .ok (.phys pd e))
  (hhost : (Loc.phys pd e).isHost = false) (hlink : s.linkBad (.phys pd e) = false)
  (hsrc : ∀ j, j < c.unitBytes wp → s.XClean c (c.srcAt (wp + j)) (src j))
include hasc hwp hdst hhost hlink hsrc

/-- The unit writes what its sources hold, as one access. -/
theorem State.copyUnit_ascends : ∃ poison, s.copyUnit c wp = (s.copied c wp pd src poison, c.unitBytes wp, none) := by
  obtain ⟨poison, hread⟩ := State.xbytes_ok (s := s) (c := c)
    (ps := (List.range (c.unitBytes wp)).map (fun j => (c.srcAt (wp + j), src j)))
    (fun p hp => by
      obtain ⟨j, hj, rfl⟩ := List.mem_map.mp hp
      exact hsrc j (List.mem_range.mp hj)) none
  rw [List.map_map, List.map_map] at hread
  have hstore : ∀ n x, s.xwrite (.phys pd e) (c.dst + BitVec.ofNat 64 wp) n x poison = .ok { s with dev := s.dev.writeP pd n x poison } :=
    fun n x => by simp [State.xwrite, hlink, State.storeAt, hhost, State.writeLoc]
  refine ⟨poison, ?_⟩
  have hreach : s.xreach c .store (c.dst + BitVec.ofNat 64 wp) = .ok (s, .phys pd e) := State.xreach_ok hdst
  have hread : s.xbytes c none (((List.range (c.unitBytes wp)).map (fun j => wp + j)).map c.srcAt)
      = (s, (List.range (c.unitBytes wp)).map (fun j => s.byteAt (src j) 0), poison, none) := by
    rw [List.map_map]
    exact hread
  have hpos := XCmd.unitBytes_pos hwp
  have hn : min (c.total - wp) (64 - (c.dst + BitVec.ofNat 64 wp).toNat % 64) = c.unitBytes wp := rfl
  unfold State.copyUnit State.copied
  simp only [hasc, Bool.false_eq_true, if_false, hreach, hn]
  have hidx : (List.range (c.unitBytes wp)).map (fun j => c.srcAt (wp + j))
      = ((List.range (c.unitBytes wp)).map (fun j => wp + j)).map c.srcAt := by
    rw [List.map_map]
    rfl
  rw [hidx]
  simp only [hread, List.length_map, List.length_range]
  generalize c.unitBytes wp = n at hpos
  cases n with
  | zero => exact absurd rfl hpos
  | succ n => simp only [hreach, hstore]

end

/-! ### COPY_TRANSFER_STEP of an XCPY (R157, R165) -/

/-- A channel whose oldest transfer has completed: XDONE rises, XWP starts over (R157). -/
def Chan.completed (c : Chan) (r : List XCmd) : Chan := { c with cmds := r, done := c.done + 1, wp := 0, pos := 0 }

/-- The channel after a unit: XWP counts its bytes, or the transfer has completed (R157, R163). -/
def Chan.moved (c : Chan) (r : List XCmd) (total n : Nat) : Chan :=
  if c.wp.toNat + n = total then c.completed r else { c with wp := c.wp + BitVec.ofNat 32 n }

section
variable {s : State} {h : BitVec 2}

/-- A channel with nothing to do, or with a pending fault, does not move (R164). -/
theorem exec_copyTransferStep_idle (hi : s.lc.chans[h.toNat].cmds = [] ∨ s.lc.chans[h.toNat].err ≠ none) :
    exec (.copyTransferStep h) s = .next s := by
  have hstep : s.copyStep h = (s, false) := by
    unfold State.copyStep
    dsimp only
    split
    · rfl
    next hc =>
      have he : s.lc.chans[h.toNat].err ≠ none := hi.resolve_left fun hn => List.cons_ne_nil _ _ (hc.symm.trans hn)
      exact if_pos (Option.isSome_iff_ne_none.mpr he)
  show execCopyTransferStep h s = _
  rw [execCopyTransferStep, hstep]

theorem State.xcomplete_withChan {c : XCmd} {r : List XCmd} (hc : s.lc.chans[h.toNat].cmds = c :: r) :
    s.xcomplete h = s.withChan h (s.lc.chans[h.toNat].completed r) := by
  have htail : s.lc.chans[h.toNat].cmds.tail = r := by rw [hc, List.tail_cons]
  rw [← htail]
  rfl

section
variable {c : XCmd} {r : List XCmd} {tw : Bool} (hc : s.lc.chans[h.toNat].cmds = c :: r)
  (he : s.lc.chans[h.toNat].err = none) (hk : c.kind = .cpy tw)
include hc he hk

/-- A transfer of no bytes completes (R157). -/
theorem State.copyStep_empty (hl : c.len = 0) : s.copyStep h = (s.xcomplete h, true) := by
  unfold State.copyStep
  simp only [hc, he, hk]
  exact (if_neg Bool.false_ne_true).trans (if_pos hl)

/-- An XCPY moves one unit (R165). -/
theorem State.copyStep_unit (hl : c.len ≠ 0) :
    s.copyStep h = State.xadvance h c (s.copyUnit c s.lc.chans[h.toNat].wp.toNat) := by
  unfold State.copyStep
  simp only [hc, he, hk]
  exact (if_neg Bool.false_ne_true).trans (if_neg hl)

theorem exec_copyTransferStep_empty (hl : c.len = 0) : ∃ t, exec (.copyTransferStep h) s = .next t
    ∧ t.lc.chans[h.toNat] = s.lc.chans[h.toNat].completed r ∧ { t with lc := { t.lc with chans := s.lc.chans } } = s := by
  refine ⟨_, congrArg (fun x : State × Bool => Host.Outcome.next x.1) (State.copyStep_empty hc he hk hl), ?_, rfl⟩
  rw [State.xcomplete_withChan hc, State.withChan_same]

end

/-- A unit that stops on nothing moves XWP, and the counter of its bytes (R83). -/
theorem State.xadvance_moved {t : State} {c : XCmd} {r : List XCmd} {n : Nat} (hc : t.lc.chans[h.toNat].cmds = c :: r)
    (hn : t.lc.chans[h.toNat].wp.toNat + n < 2 ^ 32) :
    (State.xadvance h c (t, n, none)).1 = (t.withChan h (t.lc.chans[h.toNat].moved r c.total n)).count 9 n := by
  have hmove : t.advanceWp h n = (t.withChan h { t.lc.chans[h.toNat] with
      wp := t.lc.chans[h.toNat].wp + BitVec.ofNat 32 n }).count 9 n := rfl
  have hcount : ∀ (u : State) (c : Chan), (u.count 9 n).withChan h c = (u.withChan h c).count 9 n := fun _ _ => rfl
  have hwp : (t.lc.chans[h.toNat].wp + BitVec.ofNat 32 n).toNat = t.lc.chans[h.toNat].wp.toNat + n := by
    rw [BitVec.toNat_add, BitVec.toNat_ofNat]
    omega
  have hchan : (t.advanceWp h n).lc.chans[h.toNat] = { t.lc.chans[h.toNat] with
      wp := t.lc.chans[h.toNat].wp + BitVec.ofNat 32 n } := State.withChan_same _
  unfold State.xadvance Chan.moved
  dsimp only
  rw [hchan, hwp]
  split
  · rw [State.xcomplete_withChan (c := c) (r := r) (by rw [hchan]; exact hc), hchan, hmove, hcount, State.withChan_again]
    rfl
  · rfl

section
variable {c : XCmd} {r : List XCmd} {tw : Bool} {pd : Nat} {e : Dword} {src : Nat → Loc}

/-- An XCPY that ascends moves the bytes of one destination line (R160, R165). -/
theorem exec_copyTransferStep_ascends (hm : Memory.wf s.dev.mem = true) (hc : s.lc.chans[h.toNat].cmds = c :: r)
    (he : s.lc.chans[h.toNat].err = none) (hk : c.kind = .cpy tw) (hasc : c.descends = false)
    (hwp : s.lc.chans[h.toNat].wp.toNat < c.total) (htotal : c.total < 2 ^ 32)
    (hdst : s.locateIn (s.spaceOf c.env c.super) .store (c.nextDst s.lc.chans[h.toNat].wp.toNat) = .ok (.phys pd e))
    (hhost : (Loc.phys pd e).isHost = false) (hlink : s.linkBad (.phys pd e) = false)
    (hsrc : ∀ j, j < c.unitBytes s.lc.chans[h.toNat].wp.toNat →
      s.XClean c (c.srcAt (s.lc.chans[h.toNat].wp.toNat + j)) (src j)) :
    let n := c.unitBytes s.lc.chans[h.toNat].wp.toNat
    ∃ t, exec (.copyTransferStep h) s = .next t ∧ (∀ j, j < n → Memory.get t.dev.mem (pd + j) = s.byteAt (src j) 0)
      ∧ (∀ a, (a < pd ∨ pd + n ≤ a) → Memory.get t.dev.mem a = Memory.get s.dev.mem a)
      ∧ t.lc.chans[h.toNat] = s.lc.chans[h.toNat].moved r c.total n
      ∧ { t.lc with chans := s.lc.chans, pcval := s.lc.pcval, async := s.lc.async } = s.lc
      ∧ t.part = s.part ∧ t.core = s.core := by
  intro n
  have hlen : c.len ≠ 0 := fun h0 => by
    have ht : c.total = c.len * c.rows := by rw [XCmd.total, hk]
    rw [ht, h0, Nat.zero_mul] at hwp
    exact Nat.not_lt_zero _ hwp
  have hn : s.lc.chans[h.toNat].wp.toNat + n < 2 ^ 32 := by
    have : n ≤ c.total - s.lc.chans[h.toNat].wp.toNat := Nat.min_le_left _ _
    omega
  obtain ⟨poison, hunit⟩ := State.copyUnit_ascends hasc hwp hdst hhost hlink hsrc
  have hmem : (s.copied c s.lc.chans[h.toNat].wp.toNat pd src poison).dev.mem = Memory.write s.dev.mem pd n
      (ofBytes ((List.range n).map (fun j => s.byteAt (src j) 0))) := s.dev.writeP_mem ..
  have hstep : (s.copyStep h).1 = ((s.copied c s.lc.chans[h.toNat].wp.toNat pd src poison).withChan h
      (s.lc.chans[h.toNat].moved r c.total n)).count 9 n := by
    rw [State.copyStep_unit hc he hk hlen, hunit]
    exact State.xadvance_moved (t := s.copied c s.lc.chans[h.toNat].wp.toNat pd src poison) hc hn
  refine ⟨_, congrArg Host.Outcome.next hstep, fun j hj => ?_, fun a ha => ?_, State.withChan_same _, rfl, rfl, rfl⟩
  · refine (congrArg (fun m => Memory.get m (pd + j)) hmem).trans ?_
    rw [Memory.get_write hm, if_pos (by omega), Nat.add_sub_cancel_left, ofBytes_byte (by simpa using hj)]
    simp
  · refine (congrArg (fun m => Memory.get m a) hmem).trans ?_
    exact Memory.get_write_other hm _ _ _ _ ha

end
end

end Sys2Proof.Machine
end

section
/-! Proofs, 06: contributions of deterministic reductions (R162, R164). -/

namespace Sys2Proof.Machine

/-! ### Contributions of deterministic reductions (R162) -/

/-- The stage of another group or granule than a contribution's (R162). -/
def Stage.same (k g : Stage) : Bool := g.fn == k.fn && g.taskid == k.taskid && g.gid == k.gid && g.granule == k.granule

/-- The sum of a stage's contributions, in rank order, on what memory holds (R162). -/
def Stage.sum (g : Stage) (parts : List StagePart) (old : Nat) : Nat :=
  (List.range g.count).foldl (fun v r => match parts.find? (fun p => p.rank == r) with
    | some q => redGranule g.t.ty v q.cover.toNat q.data.toNat
    | none => v) old

/-- The state whose slice has written a stage's sum to its granule. -/
def State.summed (s : State) (e : Stage) (parts : List StagePart) (bad : Bool) : State :=
  let d : Device := { s.dev with stages := [] }
  { s with dev := d.writeP (64 * e.granule) 64 (e.sum parts (Memory.read s.dev.mem (64 * e.granule) 64)) bad }

section
variable (s : State) (e : Stage) (parts : List StagePart) (bad : Bool)

/-- The device of a summed state, as one write. -/
theorem State.summed_dev : (s.summed e parts bad).dev = ({ s.dev with stages := [] } : Device).writeP (64 * e.granule) 64
    (e.sum parts (Memory.read s.dev.mem (64 * e.granule) 64)) bad := rfl

theorem State.summed_rest : (s.summed e parts bad).dev.stages = []
    ∧ (s.summed e parts bad).dev.contributions = s.dev.contributions := by
  rw [State.summed_dev]
  have hrest := Device.writeP_rest { s.dev with stages := [] } (64 * e.granule) 64
    (e.sum parts (Memory.read s.dev.mem (64 * e.granule) 64)) bad
  exact ⟨(congrArg Device.stages hrest :), (congrArg Device.contributions hrest :)⟩

theorem State.summed_keeps : (s.summed e parts bad).core = s.core ∧ (s.summed e parts bad).part = s.part
    ∧ (s.summed e parts bad).lc = s.lc := by
  unfold State.summed
  exact ⟨rfl, rfl, rfl⟩

end

section
variable {s : State} {k e : Stage} {p : StagePart}

theorem Device.giveBack_empty {d : Device} (h : d.combines = []) (g : Nat) : d.giveBack g = d := by
  simp [Device.giveBack, h]

/-- A contribution that opens a stage of several ranks is staged. -/
theorem State.offer_opens (h : s.dev.stages = []) (hk : 1 < k.count) :
    s.offer k p = some { s with dev := { s.dev with stages := [{ k with parts := [p] }] } } := by
  unfold State.offer
  simp [h, hk]

section
variable (h : s.dev.stages = [e]) (hs : Stage.same k e = true)
include h hs

/-- A contribution that does not fit its stage is refused. -/
theorem State.offer_refused (hbad : e.count ≠ k.count ∨ e.t ≠ k.t ∨ ∃ q ∈ e.parts, q.rank = p.rank) :
    s.offer k p = none := by
  have hfind : (s.dev.stages.find? (Stage.same k)).getD { k with parts := [] } = e := by
    rw [h, List.find?_cons_of_pos hs]
    rfl
  have hrefuse : (e.count != k.count || e.t != k.t || e.parts.any (·.rank == p.rank)) = true := by
    simpa [or_assoc] using hbad
  exact if_pos (by rw [← hfind] at hrefuse; exact hrefuse)

/-- The last rank's contribution makes the slice write the sum. -/
theorem State.offer_sums (hc : s.dev.combines = []) (hcount : e.count = k.count) (ht : e.t = k.t)
    (hrank : e.parts.all (fun q => q.rank != p.rank) = true) (hlast : e.parts.length + 1 = e.count) :
    ∃ bad, s.offer k p = some (s.summed e (e.parts ++ [p]) bad) := by
  have hfind : (s.dev.stages.find? (Stage.same k)).getD { k with parts := [] } = e := by
    rw [h, List.find?_cons_of_pos hs]
    rfl
  have hrest : s.dev.stages.filter (fun g => !Stage.same k g) = [] := by
    rw [h, List.filter_cons_of_neg (by simp [hs])]
    rfl
  have hfits : (e.count != k.count || e.t != k.t || e.parts.any (·.rank == p.rank)) = false := by
    simp only [hcount, ht, bne_self_eq_false, Bool.false_or, List.any_eq_false]
    intro q hq
    simpa using List.all_eq_true.mp hrank q hq
  have hfull : ¬(e.parts ++ [p]).length < e.count := by
    rw [List.length_append]
    exact Nat.not_lt.mpr hlast.ge
  unfold State.offer
  extract_lets same g staged rest d s1 pa s2 old bad v
  have hg : g = e := hfind
  clear_value g
  subst hg
  rw [if_neg (Bool.eq_false_iff.mp hfits), if_neg hfull]
  have hs1 : s1 = { s with dev := { s.dev with stages := [] } } :=
    congrArg (fun l : List Stage => { s with dev := { s.dev with stages := l } }) hrest
  have hs2 : s2 = s1 := congrArg (fun d : Device => { s1 with dev := d }) (Device.giveBack_empty (hs1 ▸ hc) _)
  have hv : v = Stage.sum g (g.parts ++ [p]) (Memory.read s2.dev.mem (64 * g.granule) 64) := rfl
  clear_value v bad
  exact ⟨bad, by rw [hv, hs2, hs1]; rfl⟩

end
end

/-! ### The arrival of a contribution (R162, R164) -/

section
variable {s : State} {c : Contribution} {l : Lc}

/-- Without the contribution that was offered. -/
def State.taken (s : State) : State := { s with dev := { s.dev with contributions := [] } }

/-- With the contribution's channel stopped by its refusal (R164). -/
def Contribution.refuse (c : Contribution) (l : Lc) : Lc :=
  let h := { l.chans[c.part.ch.toNat] with err := some (.reductionGroupInvalid, 0), raised := false }
  { l with chans := l.chans.set c.part.ch.toNat h }

/-- A deterministic transfer's progress touches the LCs' channels and counters only. -/
theorem State.detSync_only (t : State) : t.detSync.core = t.core ∧ t.detSync.part = t.part
    ∧ t.detSync.lc.s = t.lc.s ∧ t.detSync.lc.pc = t.lc.pc := ⟨rfl, rfl, rfl, rfl⟩

theorem Contribution.refuse_err (c : Contribution) (l : Lc) :
    ((c.refuse l).chans[c.part.ch.toNat]).err = some (.reductionGroupInvalid, 0) := by
  simp [Contribution.refuse]

theorem exec_xredContributionArrival_none (h : s.dev.contributions = []) : exec .xredContributionArrival s = .next s := by
  show Host.Outcome.next s.contribute = _
  simp [State.contribute, h]

section
variable (h : s.dev.contributions = [c]) (hl : s.findLc c.part.who = some l) (he : (l.chans[c.part.ch.toNat]).err = none)
include h hl he

/-- The one contribution there is, of a channel that runs, is offered. -/
theorem State.contribute_one : s.contribute = match s.taken.offer c.key c.part with
    | some t => t.detSync
    | none => s.updLc c.part.who c.refuse := by
  unfold State.contribute
  extract_lets isOpen
  have hopen : isOpen c = true := by simp [isOpen, hl, he]
  rw [h, List.find?_cons_of_pos hopen]
  dsimp only
  rw [List.erase_cons_head]
  rfl

theorem exec_xredContributionArrival_offered {t : State} (ho : s.taken.offer c.key c.part = some t) :
    exec .xredContributionArrival s = .next t.detSync := by
  show Host.Outcome.next s.contribute = _
  rw [State.contribute_one h hl he, ho]

theorem exec_xredContributionArrival_refused (ho : s.taken.offer c.key c.part = none) :
    exec .xredContributionArrival s = .next (s.updLc c.part.who c.refuse) := by
  show Host.Outcome.next s.contribute = _
  rw [State.contribute_one h hl he, ho]

end

/-- What a refused contribution stops is found under its key. -/
theorem State.updLc_refused (hl : s.findLc c.part.who = some l) : ∃ m ∈ (s.updLc c.part.who c.refuse).allLcs,
    m.key = c.part.who ∧ (m.chans[c.part.ch.toNat]).err = some (.reductionGroupInvalid, 0) :=
  ⟨c.refuse l, State.findLc_updLc c.refuse hl, (State.findLc_key hl :), c.refuse_err l⟩

theorem Stage.same_of {k e : Stage} (hf : e.fn = k.fn) (ht : e.taskid = k.taskid) (hg : e.gid = k.gid)
    (hn : e.granule = k.granule) : Stage.same k e = true := by
  simp [Stage.same, hf, ht, hg, hn]

end

end Sys2Proof.Machine
end

section
/-! Proofs, 06: the settlement of O56, clause by clause of its events. -/

namespace Sys2Proof.Machine

/-- Settles O56, event by event. -/
theorem memoryEvents : Obligations.MemoryEvents := by
  intro g s hm d onlyDev granule
  have hwf : Memory.wf s.dev.mem = true := hm.1
  refine ⟨exec_bankRefresh s, ?patrol, exec_scrubWriteBack, fun va => exec_pageTableWalk_held, ?walk,
    exec_scatterAddArrival_none, ?update, ?entry, ?copy, exec_xredContributionArrival_none, ?contribution⟩
  case patrol =>
    intro c u
    exact ⟨fun h => congrArg Host.Outcome.next (State.scrubRead_skips h), fun hb hg =>
      ⟨exec_patrolScrubRead_uncorrectable hb hg, exec_patrolScrubRead_corrected hb hg, exec_patrolScrubRead_clean hb hg⟩⟩
  case walk =>
    intro va l hva hp hw hwin
    refine ⟨fun hl => ⟨exec_pageExpansion_plain hw hl, exec_pageTableWalk_fills hva hp hwin hw hl⟩,
      fun c m hc hw hl hh => exec_pageTableWalk_context hva hp hwin hc hw hl hh, fun hl hcomb =>
      ⟨exec_pageTableWalk_compressed hwin hw hl, ?_⟩⟩
    intro ws st frame descAt hfree hpool hal hk hst hdec
    have hexp := Device.expand_ok hcomb hw hl hfree hpool rfl hal hk hst hdec
    exact ⟨_, exec_pageExpansion hexp, rfl, Device.expanded_poolhead, Device.expanded_entry hcomb hwf⟩
  case update =>
    intro u hu
    exact ⟨fun e v hc hg hv => exec_scatterAddArrival_joins hu hc hg hv, exec_scatterAddArrival_opens hu⟩
  case entry =>
    intro e he hn applied
    obtain ⟨hread, hother, hrest⟩ := Device.giveBack_found he hwf
    rw [Combine.settled_of_find he] at hread
    refine ⟨exec_scatterOldValue he, ⟨_, rfl, ⟨hread, hother⟩, hrest, rfl⟩, fun v hv => ⟨fun hchain => ?_, fun hchain => ?_⟩⟩
    · rw [hv, hchain] at hread
      have hidle : e.idle = true := by simp [Combine.idle, hv, hchain]
      have hexec := exec_scatterIdleWriteBack he hn
      rw [if_pos hidle] at hexec
      exact ⟨_, hexec, ⟨hread, hother⟩, hrest, rfl⟩
    · have hidle : ¬e.idle = true := by simp [Combine.idle, hchain]
      rw [exec_scatterIdleWriteBack he hn, if_neg hidle]
  case copy =>
    intro h ch
    refine ⟨exec_copyTransferStep_idle, fun c r tw hc herr hk => ⟨exec_copyTransferStep_empty hc herr hk, ?_⟩⟩
    intro hasc hwp htotal at_ n pd e src hdst hhost hlink hsrc
    exact exec_copyTransferStep_ascends hwf hc herr hk hasc hwp htotal hdst hhost hlink hsrc
  case contribution =>
    intro c l hc hl herr hcomb only
    refine ⟨fun hs hcount => ?_, fun e hs hfn htask hgid hge hgk => ?_⟩
    · exact ⟨_, exec_xredContributionArrival_offered hc hl herr (State.offer_opens (s := s.taken) hs hcount),
        rfl, rfl, rfl, rfl, rfl, rfl, rfl⟩
    have hsame := Stage.same_of hfn htask hgid (hge.trans hgk.symm)
    subst hge
    refine ⟨fun hcount ht hrank hlast => ?_, fun hbad => ?_⟩
    · obtain ⟨bad, hsum⟩ := State.offer_sums (s := s.taken) hs hsame hcomb hcount ht hrank hlast
      obtain ⟨hstages, hcontributions⟩ := s.taken.summed_rest e (e.parts ++ [c.part]) bad
      obtain ⟨hcore, hpart, hlc⟩ := s.taken.summed_keeps e (e.parts ++ [c.part]) bad
      have honly := State.detSync_only (s.taken.summed e (e.parts ++ [c.part]) bad)
      rw [hcore, hpart, hlc] at honly
      exact ⟨_, exec_xredContributionArrival_offered hc hl herr hsum, hstages, hcontributions, honly,
        Device.writeP_granule (d := { s.taken.dev with stages := [] }) hwf (64 * e.granule) _ bad⟩
    · exact ⟨_, exec_xredContributionArrival_refused hc hl herr (State.offer_refused (s := s.taken) hs hsame hbad),
        rfl, rfl, State.updLc_refused hl⟩

end Sys2Proof.Machine
end

section
/-! Proofs, 06: the canonical form of memory, of the scratchpads and of the firmware images (R145, R285, R320). The files
below go through the model in its own order and state, once for each operation, that it keeps this form: `…_memOk` where
the operation gives a state, `…_gives` where it may stop instead. Each lemma starts from a state in canonical form, also
where what it says is only that an operation that reads goes on or stops well. -/

namespace Sys2Proof.Machine

/-- The recovery window and the image in board flash are in canonical form. -/
def Mgmt.MemOk (m : Mgmt) : Prop := Memory.wf m.recovery = true ∧ Memory.wf m.flash = true

/-- Memory and the firmware images of a device are in canonical form. -/
def Device.MemOk (d : Device) : Prop := Memory.wf d.mem = true ∧ d.mgmt.MemOk

/-- The scratchpad of a core is in canonical form. -/
def Core.MemOk (c : Core) : Prop := Memory.wf c.scratch = true

/-- The canonical form of a state is that of its device and of its cores, the one in focus and the others. -/
theorem State.memOk_iff {s : State} : s.MemOk ↔ s.dev.MemOk ∧ s.core.MemOk ∧ ∀ c ∈ s.cores, c.MemOk := by
  unfold State.MemOk Device.MemOk Mgmt.MemOk Core.MemOk
  tauto

theorem State.MemOk.dev_memOk {s : State} (h : s.MemOk) : s.dev.MemOk := (State.memOk_iff.mp h).1

theorem State.MemOk.core_memOk {s : State} (h : s.MemOk) : s.core.MemOk := (State.memOk_iff.mp h).2.1

/-- The device is replaced by one in canonical form. -/
theorem State.MemOk.withDev {s : State} (h : s.MemOk) {d : Device} (hd : d.MemOk) : State.MemOk { s with dev := d } :=
  State.memOk_iff.mpr ⟨hd, (State.memOk_iff.mp h).2⟩

/-- The core in focus is replaced by one in canonical form. -/
theorem State.MemOk.withCore {s : State} (h : s.MemOk) {c : Core} (hc : c.MemOk) : State.MemOk { s with core := c } :=
  State.memOk_iff.mpr ⟨h.dev_memOk, hc, (State.memOk_iff.mp h).2.2⟩

/-- Whatever an operation gives satisfies a predicate: `P` where it stops, `Q` where it goes on. -/
def Gives {ε α : Type} (P : ε → Prop) (Q : α → Prop) (x : Except ε α) : Prop :=
  (∀ e, x = .error e → P e) ∧ ∀ a, x = .ok a → Q a

section
variable {ε α β : Type} {P : ε → Prop} {Q : α → Prop} {R : β → Prop}

@[simp] theorem gives_ok {a : α} : Gives P Q (.ok a) ↔ Q a := by simp [Gives]

@[simp] theorem gives_error {e : ε} : Gives P Q (.error e) ↔ P e := by simp [Gives]

/-- One operation after another: the second gives what it must from whatever the first goes on with. -/
theorem Gives.bind {x : Except ε β} {f : β → Except ε α} (hx : Gives P R x) (hf : ∀ a, R a → Gives P Q (f a)) :
    Gives P Q (x >>= f) := by
  cases x with
  | error e => exact gives_error.mpr (hx.1 e rfl)
  | ok a => exact hf a (hx.2 a rfl)

theorem gives_ite {c : Prop} [Decidable c] {x y : Except ε α} (hx : c → Gives P Q x) (hy : ¬c → Gives P Q y) :
    Gives P Q (if c then x else y) := by
  split <;> simp_all

/-- An operation that never goes on gives whatever is asked of where it goes on. -/
theorem Gives.never {x : Except ε α} (hx : Gives P (fun _ => False) x) : Gives P Q x :=
  ⟨hx.1, fun a ha => (hx.2 a ha).elim⟩

end

/-- A state that a halted instruction leaves is in canonical form. -/
def Halt.MemOk : Halt → Prop
  | .trapIn t _ | .waitIn t => t.MemOk
  | .trap _ | .wait | .expand _ | .recall _ => True

/-- The state that a stopped stream instruction leaves is in canonical form. -/
def VStop.MemOk : VStop → Prop
  | .block t | .fault t _ => t.MemOk

/-- The state that a stopped transfer leaves is in canonical form. -/
def XStop.MemOk : XStop → Prop
  | .wait t | .fault t _ _ => t.MemOk

/-- The state in which an entry's loads have been made is in canonical form. -/
def Loaded.MemOk (r : Loaded) : Prop := r.st.MemOk

/-- What a boot attempt leaves of the management block is in canonical form. -/
def Attempt.MemOk : Attempt → Prop
  | .goes m | .ends m _ => m.MemOk

/-- The next state, if a step gives one, is in canonical form. -/
def Out.MemOk (o : Out) : Prop := ∀ t, o = .next t → t.MemOk

end Sys2Proof.Machine
end

section
/-! Proofs, 06: the canonical form through memory, the scratchpads and scalar operations (R145). -/

namespace Sys2Proof.Machine

/-! ### Reset states -/

theorem Core.reset_memOk (no : Nat) : (Core.reset no).MemOk := rfl

theorem Mgmt.reset_memOk : Mgmt.reset.MemOk := ⟨rfl, rfl⟩

theorem Device.reset_memOk : Device.reset.MemOk := ⟨rfl, Mgmt.reset_memOk⟩

/-! ### Writes, expansions and translated fetches -/

theorem Device.setStack_memOk {d : Device} (h : d.MemOk) (st) :
    (d.setStack st).MemOk := h

theorem Device.wake_memOk {d : Device} (h : d.MemOk) (lo hi) :
    (d.wake lo hi).MemOk := h

theorem Device.writeP_memOk {d : Device} (h : d.MemOk) (pa n x p) : (d.writeP pa n x p).MemOk := by
  refine ⟨Device.writeP_wf h.1 .., ?_⟩
  unfold Device.writeP
  split <;> exact h.2

theorem Device.writeMasked_memOk {d : Device} (h : d.MemOk) (g mask data p) : (d.writeMasked g mask data p).MemOk := by
  constructor
  · exact Device.writeMasked_wf h.1 ..
  · unfold Device.writeMasked Device.wake
    exact h.2

theorem Device.write_memOk {d : Device} (h : d.MemOk) (pa n x) :
    (d.write pa n x).MemOk := by
  unfold Device.write
  grind [Device.writeP_memOk]

theorem Device.poison_memOk {d : Device} (h : d.MemOk) (g) :
    (d.poison g).MemOk := h

theorem Device.giveBack_memOk {d : Device} (h : d.MemOk) (granule) :
    (d.giveBack granule).MemOk := by
  unfold Device.giveBack
  grind [Device.writeP_memOk, Device.MemOk]

theorem Device.settle_memOk {d : Device} (h : d.MemOk) (pa n) : (d.settle pa n).MemOk :=
  List.foldlRecOn _ _ h fun _ hd _ _ => Device.giveBack_memOk hd _

theorem Device.writeAt_memOk {d : Device} (h : d.MemOk) (pa n x poison) :
    (d.writeAt pa n x poison).MemOk := by
  unfold Device.writeAt
  grind [Device.writeP_memOk, Device.settle_memOk]

theorem Device.writeWords_memOk {d : Device} (h : d.MemOk) (pa) (ws : List Nat) : (d.writeWords pa ws).MemOk := by
  induction ws generalizing d pa with
  | nil => exact h
  | cons w ws ih => exact ih (Device.write_memOk h ..) _

theorem Device.takeFrame_memOk {d d' : Device} (h : d.MemOk) {st f} (e : d.takeFrame st = some (f, d')) : d'.MemOk := by
  unfold Device.takeFrame at e
  grind [Device.setStack_memOk]

theorem Device.expand_memOk {d : Device} (h : d.MemOk) (x va) : (d.expand x va).1.MemOk := by
  grind [Device.expand, → Device.takeFrame_memOk, Device.setStack_memOk, Device.writeWords_memOk,
    Device.settle_memOk, Device.writeAt_memOk]

theorem Device.fetchXl_memOk {d : Device} (h : d.MemOk) (x k va) :
    (d.fetchXl x k va).1.MemOk := by
  unfold Device.fetchXl
  grind [Device.settle_memOk, Device.expand_memOk]

/-! ### Registers, LCs, cores, traps and what ends an instruction -/

theorem State.raise_gives {α : Type} (s : State) (c v) :
    Gives (α := α) Halt.MemOk (fun _ => False) (s.raise c v) := by
  unfold State.raise
  grind [Gives, Halt.MemOk]

theorem State.setS_memOk {s : State} (h : s.MemOk) (r v) :
    (s.setS r v).MemOk := h

theorem State.setSP_memOk {s : State} (h : s.MemOk) (r v poison) :
    (s.setSP r v poison).MemOk := h

theorem State.useS_gives {s : State} (_h : s.MemOk) (r) :
    Gives Halt.MemOk (fun _ => True) (s.useS r) := by
  unfold State.useS
  grind [State.raise_gives, Gives, Halt.MemOk]

theorem State.moveS_gives {s : State} (_h : s.MemOk) (r) :
    Gives Halt.MemOk (fun _ => True) (s.moveS r) := by
  unfold State.moveS
  grind [Gives, Halt.MemOk]

theorem State.claimS_gives {s : State} (_h : s.MemOk) (r) :
    Gives Halt.MemOk (fun _ => True) (s.claimS r) := by
  unfold State.claimS
  grind [Gives, Halt.MemOk]

theorem State.retireAt_memOk {s : State} (h : s.MemOk) (pc) :
    (s.retireAt pc).MemOk := h

theorem State.retire_memOk {s : State} (h : s.MemOk) :
    s.retire.MemOk := h

theorem State.count_memOk {s : State} (h : s.MemOk) (event n) :
    (s.count event n).MemOk := h

theorem State.updLc_memOk {s : State} (h : s.MemOk) (k f) :
    (s.updLc k f).MemOk := h

theorem State.mapLcs_memOk {s : State} (h : s.MemOk) (f) :
    (s.mapLcs f).MemOk := h

theorem State.setPart_memOk {s : State} (h : s.MemOk) (p) :
    (s.setPart p).MemOk := by
  unfold State.setPart
  grind [State.memOk_iff]

theorem State.findCore_memOk {s : State} (h : s.MemOk) (no) : (s.findCore no).MemOk := by
  obtain ⟨-, hc, hcs⟩ := State.memOk_iff.mp h
  unfold State.findCore
  split
  · exact hc
  · cases hf : s.cores.find? (·.no == no) with
    | none => exact Core.reset_memOk no
    | some c => exact hcs c (List.mem_of_find?_eq_some hf)

theorem State.setCore_memOk {s : State} {c : Core} (h : s.MemOk) (h2 : c.MemOk) :
    (s.setCore c).MemOk := by
  unfold State.setCore
  grind [State.memOk_iff]

theorem State.turnTo_memOk {s : State} (h : s.MemOk) (core no) :
    (s.turnTo core no).MemOk := by
  unfold State.turnTo
  grind [State.findCore_memOk, State.memOk_iff]

theorem State.focus_memOk {s : State} (h : s.MemOk) (k) :
    (s.focus k).MemOk := by
  unfold State.focus
  grind [State.findCore_memOk, State.memOk_iff]

theorem Device.updTask_memOk {d : Device} (h : d.MemOk) (seq f) :
    (d.updTask seq f).MemOk := h

theorem State.markBad_memOk {s : State} (h : s.MemOk) (x1) :
    (s.markBad x1).MemOk := by
  unfold State.markBad
  grind [Device.poison_memOk, State.memOk_iff, Device.MemOk, Core.MemOk]

theorem State.writeLoc_memOk {s : State} (h : s.MemOk) (l n x p) : (s.writeLoc l n x p).MemOk := by
  cases l <;> grind [State.writeLoc, State.memOk_iff, Device.writeP_memOk, Core.MemOk, Memory.wf_write]

theorem State.locS_gives {s : State} (_h : s.MemOk) (k va) :
    Gives Halt.MemOk (fun _ => True) (s.locS k va) := by
  unfold State.locS
  grind [State.raise_gives, Gives, Halt.MemOk]

theorem Device.releasePins_memOk {d : Device} (h : d.MemOk) (who) :
    (d.releasePins who).MemOk := h

theorem Device.dropLcs_memOk {d : Device} (h : d.MemOk) (who) :
    (d.dropLcs who).MemOk := h

theorem State.endTask_memOk {s : State} (h : s.MemOk) (seq code) :
    (s.endTask seq code).MemOk := by
  unfold State.endTask
  grind [Device.releasePins_memOk, Device.dropLcs_memOk, State.memOk_iff, Device.MemOk]

theorem State.reachIn_memOk {s : State} (h : s.MemOk) (x k va) :
    (s.reachIn x k va).1.MemOk := by
  unfold State.reachIn
  grind [Device.fetchXl_memOk, State.memOk_iff]

theorem State.storeWords_memOk {s : State} (h : s.MemOk) (super va) (ws : List Nat) :
    ∀ t, s.storeWords super va ws = some t → t.MemOk := by
  induction ws generalizing s va with
  | nil => grind [State.storeWords]
  | cons w ws ih => grind [State.storeWords, State.reachIn_memOk, State.writeLoc_memOk]

theorem State.writeRecord_memOk {s : State} (h : s.MemOk) (r) :
    (s.writeRecord r).MemOk := by
  unfold State.writeRecord
  grind [→ State.storeWords_memOk, State.memOk_iff]

theorem State.holdV_memOk {s : State} (h : s.MemOk) :
    s.holdV.MemOk := h

theorem State.takeTrap_memOk {s : State} (h : s.MemOk) (r stream) :
    (s.takeTrap r stream).MemOk := by
  unfold State.takeTrap
  grind [State.endTask_memOk, State.writeRecord_memOk, State.holdV_memOk, State.memOk_iff]

theorem State.expandAt_memOk {s : State} (h : s.MemOk) (va) :
    (s.expandAt va).MemOk := by
  unfold State.expandAt
  grind [Device.expand_memOk, State.takeTrap_memOk, State.memOk_iff]

theorem State.finish_memOk {s : State} (h : s.MemOk) {x : Except Halt State} (hx : Gives Halt.MemOk State.MemOk x) :
    Out.MemOk (s.finish x) := by
  obtain ⟨he, ho⟩ := hx
  rcases x with (r | ⟨t, r⟩ | _ | t | va | g) | t <;>
    grind [State.finish, Out.MemOk, Halt.MemOk, State.takeTrap_memOk, State.expandAt_memOk, Device.giveBack_memOk,
      State.memOk_iff]

/-! ### Integer operations -/

theorem State.int2_gives {s : State} (h : s.MemOk) (d a b f) :
    Gives Halt.MemOk State.MemOk (s.int2 d a b f) := by
  simp only [State.int2, bind, Except.bind]
  grind [State.setS_memOk, State.useS_gives, State.claimS_gives, State.retire_memOk, Gives]

theorem State.int1_gives {s : State} (h : s.MemOk) (d a f) :
    Gives Halt.MemOk State.MemOk (s.int1 d a f) := by
  simp only [State.int1, bind, Except.bind]
  grind [State.setS_memOk, State.useS_gives, State.claimS_gives, State.retire_memOk, Gives]

theorem State.int0_gives {s : State} (h : s.MemOk) (d v) :
    Gives Halt.MemOk State.MemOk (s.int0 d v) := by
  simp only [State.int0, bind, Except.bind]
  grind [State.setS_memOk, State.claimS_gives, State.retire_memOk, Gives]

end Sys2Proof.Machine
end

section
/-! Proofs, 06: the canonical form through stores on their way, the vector core and memory operations (R145). -/

namespace Sys2Proof.Machine

/-! ### Stores on their way and release -/

theorem State.hostRead_gives {s : State} (h : s.MemOk) (l va n) :
    Gives Halt.MemOk State.MemOk (s.hostRead l va n) := by
  unfold State.hostRead
  split
  · exact gives_ok.mpr h
  · dsimp only
    split
    · exact gives_error.mpr h
    · split
      · exact gives_error.mpr trivial
      · split
        · exact gives_ok.mpr h
        · exact gives_error.mpr h

theorem State.hostFault_gives {s : State} (h : s.MemOk) :
    Gives Halt.MemOk (fun _ => True) s.hostFault := by
  unfold State.hostFault
  grind [State.memOk_iff, Gives, Halt.MemOk]

theorem State.keepStore_memOk {s : State} (h : s.MemOk) (l va n x poison release) :
    (s.keepStore l va n x poison release).MemOk := h

theorem State.storeAt_memOk {s : State} (h : s.MemOk) (l va n x poison) :
    (s.storeAt l va n x poison).MemOk := by
  unfold State.storeAt
  grind [State.writeLoc_memOk, State.memOk_iff, Device.MemOk]

theorem State.storeStep_memOk {s : State} (h : s.MemOk) :
    ∀ t, s.storeStep = some t → t.MemOk := by
  unfold State.storeStep
  grind [Device.settle_memOk, State.storeAt_memOk, State.memOk_iff]

theorem State.storeSteps_memOk {s : State} (h : s.MemOk) (n) : (State.storeSteps n s).MemOk := by
  induction n generalizing s with
  | zero => exact h
  | succ n ih => grind [State.storeSteps, → State.storeStep_memOk]

theorem State.releaseWait_gives {s : State} (h : s.MemOk) :
    Gives Halt.MemOk (fun _ => True) s.releaseWait := by
  unfold State.releaseWait
  grind [State.hostFault_gives, Gives, Halt.MemOk]

/-! ### Checks before a vector operation -/

theorem State.checkVl_gives {s : State} (_h : s.MemOk) (g) :
    Gives Halt.MemOk (fun _ => True) (s.checkVl g) := by
  unfold State.checkVl
  grind [State.raise_gives, Gives]

theorem State.guard_gives {s : State} (h : s.MemOk) (g) :
    Gives Halt.MemOk (fun _ => True) (s.guard g) := by
  unfold State.guard
  grind [State.raise_gives, State.checkVl_gives, Gives]

/-! ### Vector registers, lanes and flags -/

theorem State.setVreg_memOk {s : State} (h : s.MemOk) (placed r x p) :
    (s.setVreg placed r x p).MemOk := by
  unfold State.setVreg
  grind [State.memOk_iff]

theorem State.wOverwritten_memOk {s : State} (h : s.MemOk) (placed r gs) :
    (s.wOverwritten placed r gs).MemOk := by
  unfold State.wOverwritten
  grind [State.memOk_iff]

theorem State.writeElems_memOk {s : State} (h : s.MemOk) (placed r w ws) :
    (s.writeElems placed r w ws).MemOk := by
  unfold State.writeElems
  grind [State.setVreg_memOk, State.wOverwritten_memOk]

theorem State.setK_memOk {s : State} (h : s.MemOk) (n x p) :
    (s.setK n x p).MemOk := by
  unfold State.setK
  grind [State.setPart_memOk]

theorem State.vdone_memOk {s : State} (h : s.MemOk) :
    s.vdone.MemOk := h

theorem State.mdone_memOk {s : State} (h : s.MemOk) :
    s.mdone.MemOk := h

theorem State.vraise_gives {α : Type} {s : State} (h : s.MemOk) (e c v) :
    Gives (α := α) VStop.MemOk (fun _ => False) (s.vraise e c v) := by
  grind [State.vraise, Gives, VStop.MemOk]

theorem State.setLanes_memOk {s : State} (h : s.MemOk) (count lanes) :
    (s.setLanes count lanes).MemOk := by
  unfold State.setLanes
  grind [State.setK_memOk]

theorem State.vraiseLanes_gives {α : Type} {s : State} (h : s.MemOk) (e c v l) :
    Gives (α := α) VStop.MemOk (fun _ => False) (s.vraiseLanes e c v l) := by
  grind [State.vraiseLanes, State.setLanes_memOk, Gives, VStop.MemOk]

theorem State.clean_gives {s : State} (h : s.MemOk) (e act srcs) :
    Gives VStop.MemOk (fun _ => True) (s.clean e act srcs) := by
  unfold State.clean
  grind [State.vraiseLanes_gives, Gives]

theorem State.maskCleanOf_gives {s : State} (h : s.MemOk) (e els) :
    Gives VStop.MemOk (fun _ => True) (s.maskCleanOf e els) := by
  unfold State.maskCleanOf
  grind [State.vraiseLanes_gives, Gives]

theorem State.maskClean_gives {s : State} (h : s.MemOk) (e) :
    Gives VStop.MemOk (fun _ => True) (s.maskClean e) := by
  unfold State.maskClean
  grind [State.maskCleanOf_gives]

theorem State.commitFlags_gives {s : State} (h : s.MemOk) (e fl all) :
    Gives VStop.MemOk State.MemOk (s.commitFlags e fl all) := by
  unfold State.commitFlags
  grind [State.vraiseLanes_gives, State.memOk_iff, Gives]

theorem State.elementwise_gives {s : State} (h : s.MemOk) (e d w srcs f) :
    Gives VStop.MemOk State.MemOk (s.elementwise e d w srcs f) := by
  simp only [State.elementwise, bind, Except.bind]
  grind [State.writeElems_memOk, State.vdone_memOk, State.clean_gives, State.maskClean_gives, State.commitFlags_gives,
    Gives]

theorem State.moveElems_gives {s : State} (h : s.MemOk) (e d w els f) :
    Gives VStop.MemOk State.MemOk (s.moveElems e d w els f) := by
  unfold State.moveElems
  grind [State.writeElems_memOk, State.vdone_memOk, Gives]

/-! ### Conversions, comparisons, moves and reductions -/

theorem State.cvtFromM_gives {s : State} (h : s.MemOk) (e d a src dst) :
    Gives VStop.MemOk State.MemOk (s.cvtFromM e d a src dst) := by
  simp only [State.cvtFromM, bind, Except.bind]
  grind [State.writeElems_memOk, State.vdone_memOk, State.vraiseLanes_gives, State.maskClean_gives,
    State.commitFlags_gives, Gives]

theorem State.cvtToM_gives {s : State} (h : s.MemOk) (e d a src dst) :
    Gives VStop.MemOk State.MemOk (s.cvtToM e d a src dst) := by
  simp only [State.cvtToM, bind, Except.bind]
  grind [State.writeElems_memOk, State.vdone_memOk, State.clean_gives, State.maskClean_gives, State.commitFlags_gives,
    Gives]

theorem State.runCvt_gives {s : State} (h : s.MemOk) (e d a sat src dst) :
    Gives VStop.MemOk State.MemOk (s.runCvt e d a sat src dst) := by
  unfold State.runCvt
  grind [State.elementwise_gives, State.cvtFromM_gives, State.cvtToM_gives]

theorem State.runCmp_gives {s : State} (h : s.MemOk) (e k a b t c) :
    Gives VStop.MemOk State.MemOk (s.runCmp e k a b t c) := by
  simp only [State.runCmp, bind, Except.bind]
  grind [State.setK_memOk, State.vdone_memOk, State.clean_gives, State.maskClean_gives, State.commitFlags_gives, Gives]

theorem State.runSel_gives {s : State} (h : s.MemOk) (e d a b t) :
    Gives VStop.MemOk State.MemOk (s.runSel e d a b t) := by
  simp only [State.runSel, bind, Except.bind]
  grind [State.maskClean_gives, State.moveElems_gives, Gives]

theorem State.runPerm_gives {s : State} (h : s.MemOk) (e d a b t) :
    Gives VStop.MemOk State.MemOk (s.runPerm e d a b t) := by
  simp only [State.runPerm, bind, Except.bind]
  grind [State.clean_gives, State.maskClean_gives, State.moveElems_gives, Gives]

theorem State.runSlide_gives {s : State} (h : s.MemOk) (e d a t) :
    Gives VStop.MemOk State.MemOk (s.runSlide e d a t) := by
  simp only [State.runSlide, bind, Except.bind]
  grind [State.maskClean_gives, State.moveElems_gives, Gives]

theorem State.runCompress_gives {s : State} (h : s.MemOk) (e d a t) :
    Gives VStop.MemOk State.MemOk (s.runCompress e d a t) := by
  simp only [State.runCompress, bind, Except.bind]
  grind [State.writeElems_memOk, State.vdone_memOk, State.vraise_gives, State.maskClean_gives, Gives]

theorem State.runBcast_gives {s : State} (h : s.MemOk) (e d t) :
    Gives VStop.MemOk State.MemOk (s.runBcast e d t) := by
  simp only [State.runBcast, bind, Except.bind]
  grind [State.maskClean_gives, State.moveElems_gives, Gives]

theorem State.runMov_gives {s : State} (h : s.MemOk) (e d a t) :
    Gives VStop.MemOk State.MemOk (s.runMov e d a t) := by
  simp only [State.runMov, bind, Except.bind]
  grind [State.maskClean_gives, State.moveElems_gives, Gives]

theorem State.deliverS_memOk {s : State} (h : s.MemOk) (d v poison) :
    (s.deliverS d v poison).MemOk := by
  unfold State.deliverS
  grind [State.memOk_iff]

theorem State.runExtract_gives {s : State} (h : s.MemOk) (e d a t) :
    Gives VStop.MemOk State.MemOk (s.runExtract e d a t) := by
  unfold State.runExtract
  grind [State.setSP_memOk, State.vdone_memOk, State.deliverS_memOk, Gives]

theorem State.runQsend_gives {s : State} (h : s.MemOk) (e q a t) :
    Gives VStop.MemOk State.MemOk (s.runQsend e q a t) := by
  unfold State.runQsend
  grind [State.vdone_memOk, State.vraiseLanes_gives, State.memOk_iff, Gives, VStop.MemOk]

theorem State.runQrecv_gives {s : State} (h : s.MemOk) (e d q t) :
    Gives VStop.MemOk State.MemOk (s.runQrecv e d q t) := by
  simp only [State.runQrecv, bind, Except.bind]
  grind [State.maskClean_gives, State.moveElems_gives, State.memOk_iff, Gives, VStop.MemOk]

theorem State.runRed_gives {s : State} (h : s.MemOk) (e o d a kb t seg) :
    Gives VStop.MemOk State.MemOk (s.runRed e o d a kb t seg) := by
  simp only [State.runRed, bind, Except.bind]
  grind [State.writeElems_memOk, State.vdone_memOk, State.vraise_gives, State.vraiseLanes_gives, State.clean_gives,
    State.maskClean_gives, State.commitFlags_gives, Gives]

theorem State.kclean_gives {s : State} (h : s.MemOk) (e ks) :
    Gives VStop.MemOk (fun _ => True) (s.kclean e ks) := by
  unfold State.kclean
  grind [State.vraise_gives, Gives]

theorem State.runMask_gives {s : State} (h : s.MemOk) (e o k a b) :
    Gives VStop.MemOk State.MemOk (s.runMask e o k a b) := by
  simp only [State.runMask, bind, Except.bind]
  grind [State.setK_memOk, State.vdone_memOk, State.kclean_gives, Gives]

theorem State.runKscalar_gives {s : State} (h : s.MemOk) (e first d a) :
    Gives VStop.MemOk State.MemOk (s.runKscalar e first d a) := by
  simp only [State.runKscalar, bind, Except.bind]
  grind [State.vdone_memOk, State.deliverS_memOk, State.kclean_gives, Gives]

theorem State.runAlu_memOk {s : State} (h : s.MemOk) (e) :
    ∀ x, s.runAlu e = some x → Gives VStop.MemOk State.MemOk x := by
  unfold State.runAlu
  grind [State.vdone_memOk, State.elementwise_gives, State.runCvt_gives, State.runCmp_gives, State.runSel_gives,
    State.runPerm_gives, State.runSlide_gives, State.runCompress_gives, State.runBcast_gives, State.runMov_gives,
    State.runExtract_gives, State.runQsend_gives, State.runQrecv_gives, State.runRed_gives, State.runMask_gives,
    State.runKscalar_gives, Gives]

/-! ### Scalar loads and stores -/

theorem State.loadAt_gives {s : State} (h : s.MemOk) (l va n) :
    Gives Halt.MemOk (·.1.MemOk) (s.loadAt l va n) := by
  simp only [State.loadAt, bind, Except.bind]
  grind [State.raise_gives, State.markBad_memOk, State.hostRead_gives, State.memOk_iff, Gives, Halt.MemOk]

theorem State.load_gives {s : State} (h : s.MemOk) (va n) :
    Gives Halt.MemOk (·.1.MemOk) (s.load va n) := by
  simp only [State.load, bind, Except.bind]
  grind [State.raise_gives, State.locS_gives, State.loadAt_gives, Gives]

theorem State.store_gives {s : State} (h : s.MemOk) (va n x poison release) :
    Gives Halt.MemOk State.MemOk (s.store va n x poison release) := by
  simp only [State.store, bind, Except.bind]
  grind [State.raise_gives, State.markBad_memOk, State.locS_gives, State.keepStore_memOk, State.storeAt_memOk, Gives,
    Halt.MemOk]

theorem State.cacheHint_gives {s : State} (h : s.MemOk) (a) :
    Gives Halt.MemOk State.MemOk (s.cacheHint a) := by
  simp only [State.cacheHint, bind, Except.bind]
  grind [State.raise_gives, State.useS_gives, State.retire_memOk, Gives, Halt.MemOk]

theorem State.disarm_memOk {s : State} (h : s.MemOk) :
    s.disarm.MemOk := h

theorem State.mwaitRead_gives {s : State} (h : s.MemOk) (d l va r) :
    Gives Halt.MemOk State.MemOk (s.mwaitRead d l va r) := by
  unfold State.mwaitRead
  grind [State.setSP_memOk, State.retire_memOk, State.markBad_memOk, State.disarm_memOk, State.memOk_iff, Gives,
    Halt.MemOk]

theorem State.mwait_gives {s : State} (h : s.MemOk) (d a b) :
    Gives Halt.MemOk State.MemOk (s.mwait d a b) := by
  simp only [State.mwait, bind, Except.bind]
  repeat' split
  all_goals grind [State.raise_gives, State.useS_gives, State.claimS_gives, State.disarm_memOk, State.mwaitRead_gives,
    gives_error, State.memOk_iff, Device.MemOk, Gives, Halt.MemOk]

/-! ### Vector loads, stores and atomics -/

theorem State.baseReach_memOk {s : State} (h : s.MemOk) (x k va) :
    (s.baseReach x k va).1.MemOk := by
  unfold State.baseReach
  grind [Device.fetchXl_memOk, State.memOk_iff]

theorem State.scatterReach_memOk {s : State} (h : s.MemOk) (x va) :
    (s.scatterReach x va).1.MemOk := by
  unfold State.scatterReach
  grind [State.baseReach_memOk]

theorem State.vreach_memOk {s : State} (h : s.MemOk) (e k va) :
    (s.vreach e k va).1.MemOk := by
  unfold State.vreach
  grind [State.reachIn_memOk, State.baseReach_memOk, State.scatterReach_memOk]

theorem State.probeItems_memOk {s : State} (h : s.MemOk) (e k w l) : (s.probeItems e k w l).1.MemOk := by
  unfold State.probeItems
  refine List.foldlRecOn (motive := fun (a : State × List Probed) => a.1.MemOk) _ _ h fun a ha i _ => ?_
  grind [State.vreach_memOk]

theorem State.watchItems_gives {s : State} (h : s.MemOk) (e isStore isLoad w count l) :
    Gives VStop.MemOk (fun _ => True) (s.watchItems e isStore isLoad w count l) := by
  unfold State.watchItems
  grind [State.setLanes_memOk, Gives, VStop.MemOk]

theorem State.hostAsk_memOk {s : State} (h : s.MemOk) (n l) : (s.hostAsk n l).1.MemOk := by
  unfold State.hostAsk
  split
  · exact h
  · refine List.foldlRecOn (motive := fun (a : State × Bool) => a.1.MemOk) _ _ h fun a ha p _ => ?_
    grind [State.memOk_iff, Device.MemOk]

theorem State.hostUsed_memOk {s : State} (h : s.MemOk) (l) :
    (s.hostUsed l).MemOk := h

theorem State.loadItems_gives {s : State} (h : s.MemOk) (e w count l) :
    Gives VStop.MemOk Loaded.MemOk (s.loadItems e w count l) := by
  have hp := State.probeItems_memOk h e .load w l
  unfold State.loadItems
  generalize s.probeItems e .load w l = x at hp ⊢
  refine (State.watchItems_gives hp ..).bind fun _ _ => ?_
  dsimp only
  split
  · exact gives_error.mpr hp
  · have ha := State.hostAsk_memOk hp w x.2
    split
    · exact gives_error.mpr ha
    · refine gives_ok.mpr (State.hostUsed_memOk (List.foldlRecOn _ _ ?_ fun a ha v _ => ?_) _)
      · exact List.foldlRecOn _ _ ha fun a ha p _ => by grind [State.markBad_memOk]
      · split <;> exact ha

theorem State.setRestart_memOk {s : State} (h : s.MemOk) (e twoD idx) :
    (s.setRestart e twoD idx).MemOk := by
  unfold State.setRestart
  grind [State.memOk_iff]

theorem State.endLoad_gives {r : Machine.Loaded} (h : r.MemOk) (e twoD count lane)
    {write : State → List (VItem × Nat × Bool) → State} (hw : ∀ s l, s.MemOk → (write s l).MemOk) :
    Gives VStop.MemOk State.MemOk (State.endLoad r e twoD count lane write) := by
  unfold State.endLoad
  grind [State.setLanes_memOk, State.setRestart_memOk, State.mdone_memOk, Loaded.MemOk, Gives, VStop.MemOk]

theorem State.putLoaded_memOk (e d w) {s : State} (h : s.MemOk) (vals) : (State.putLoaded e d w s vals).MemOk :=
  List.foldlRecOn _ _ h fun a ha m _ => by grind [State.writeElems_memOk]

theorem State.runLoad_gives {s : State} (h : s.MemOk) (e d m t base) :
    Gives VStop.MemOk State.MemOk (s.runLoad e d m t base) := by
  simp only [State.runLoad, bind, Except.bind]
  have hp : ∀ s l, State.MemOk s → (State.putLoaded e d t.bits s l).MemOk := fun s l hs => State.putLoaded_memOk e d _
    hs l
  grind [State.maskCleanOf_gives, State.clean_gives, State.loadItems_gives, State.endLoad_gives, Gives]

theorem State.putItem_memOk {s : State} (h : s.MemOk) (e l i w x p) :
    (s.putItem e l i w x p).MemOk := by
  unfold State.putItem
  grind [State.writeLoc_memOk, State.storeAt_memOk, State.memOk_iff]

theorem State.clearWhole_memOk {s : State} (h : s.MemOk) (e w l) :
    (s.clearWhole e w l).MemOk := by
  unfold State.clearWhole
  grind [State.memOk_iff, Device.MemOk, Core.MemOk]

theorem State.checkHeld_gives {s : State} (h : s.MemOk) (e ps) :
    Gives VStop.MemOk (fun _ => True) (s.checkHeld e ps) := by
  unfold State.checkHeld
  grind [State.vraise_gives, Gives]

theorem State.groupFault_memOk {s : State} (h : s.MemOk) (e twoD count g bad) :
    (s.groupFault e twoD count g bad).MemOk := by
  unfold State.groupFault
  grind [State.setLanes_memOk, State.setRestart_memOk, VStop.MemOk]

theorem State.storeGroups_gives {s : State} (h : s.MemOk) (e twoD w count val) (gs : List (List VItem)) :
    Gives VStop.MemOk State.MemOk (s.storeGroups e twoD w count val gs) := by
  induction gs generalizing s with
  | nil => exact gives_ok.mpr (State.mdone_memOk h)
  | cons g gs ih =>
    have hp := State.probeItems_memOk h e .store w g
    unfold State.storeGroups
    generalize s.probeItems e .store w g = x at hp ⊢
    have hw := State.watchItems_gives hp e true false w count g
    dsimp only
    split
    case h_1 t r ht => exact gives_error.mpr (State.setRestart_memOk (hw.1 _ ht) ..)
    case h_2 ht => exact gives_error.mpr (hw.1 _ ht)
    case h_3 =>
      split
      · exact gives_error.mpr (State.groupFault_memOk hp ..)
      · split
        · exact gives_error.mpr (State.setRestart_memOk hp ..)
        · refine ih (State.clearWhole_memOk (List.foldlRecOn _ _ hp fun a ha p _ => ?_) ..)
          grind [State.putItem_memOk]

theorem State.storeItems_gives {s : State} (h : s.MemOk) (e twoD w count l val) :
    Gives VStop.MemOk State.MemOk (s.storeItems e twoD w count l val) := by
  simp only [State.storeItems, bind, Except.bind]
  grind [State.probeItems_memOk, State.checkHeld_gives, State.storeGroups_gives, Gives]

theorem State.runStore_gives {s : State} (h : s.MemOk) (e d m t base) :
    Gives VStop.MemOk State.MemOk (s.runStore e d m t base) := by
  simp only [State.runStore, bind, Except.bind]
  grind [State.clean_gives, State.maskCleanOf_gives, State.storeItems_gives, Gives]

theorem Device.join_memOk {d : Device} (h : d.MemOk) (u) :
    (d.join u).MemOk := by
  unfold Device.join
  grind [Device.giveBack_memOk, Device.MemOk]

theorem Device.scatterOld_memOk {d : Device} (h : d.MemOk) (granule) :
    (d.scatterOld granule).MemOk := h

theorem State.amoGroup_memOk {s : State} (h : s.MemOk) (e o t ret ko x ps) :
    (s.amoGroup e o t ret ko x ps).1.MemOk := by
  unfold State.amoGroup
  refine List.foldlRecOn (motive := fun (a : State × List EltW × List (VItem × Cause)) => a.1.MemOk) _ _ h
    fun a ha va _ => ?_
  dsimp only
  split
  · exact ha
  · split
    · exact State.markBad_memOk ha _
    · split
      · split
        · obtain ⟨hd, hc⟩ := State.memOk_iff.mp ha
          exact State.memOk_iff.mpr ⟨Device.scatterOld_memOk (Device.join_memOk hd _) _, hc⟩
        · exact ha
      · exact State.writeLoc_memOk ha ..

theorem State.amoGroups_gives {s : State} (h : s.MemOk) (e o d t ret ko x) (gs : List (List VItem)) :
    Gives VStop.MemOk State.MemOk (s.amoGroups e o d t ret ko x gs) := by
  induction gs generalizing s with
  | nil => exact gives_ok.mpr (State.vdone_memOk h)
  | cons g gs ih =>
    have hp := State.probeItems_memOk h e .amo t.bytes g
    unfold State.amoGroups
    generalize s.probeItems e .amo t.bytes g = p at hp ⊢
    have hw := State.watchItems_gives hp e true true t.bytes e.vl g
    have ha := State.hostAsk_memOk hp t.bytes p.2
    dsimp only
    split
    case h_1 ht => exact gives_error.mpr (State.setRestart_memOk (hw.1 _ ht) ..)
    case h_2 ht => exact gives_error.mpr (hw.1 _ ht)
    case h_3 =>
      split
      · exact gives_error.mpr (State.setRestart_memOk ha ..)
      · have hu := State.hostUsed_memOk ha p.2
        split
        · exact gives_error.mpr (State.groupFault_memOk hu ..)
        · have hg := State.amoGroup_memOk hu e o t ret ko x p.2
          grind [State.writeElems_memOk, State.setLanes_memOk, gives_error, VStop.MemOk]

theorem State.runAtomic_gives {s : State} (h : s.MemOk) (e o d x ret ko t) :
    Gives VStop.MemOk State.MemOk (s.runAtomic e o d x ret ko t) := by
  simp only [State.runAtomic, bind, Except.bind]
  grind [State.clean_gives, State.maskClean_gives, State.amoGroups_gives, Gives]

end Sys2Proof.Machine
end

section
/-! Proofs, 06: the canonical form through bank commands and copy channels (R145). -/

namespace Sys2Proof.Machine

/-! ### Pinned rows, commands and waves -/

theorem Device.setSlot_memOk {d : Device} (h : d.MemOk) (x) :
    (d.setSlot x).MemOk := h

theorem Device.countAct_memOk {d : Device} (h : d.MemOk) (l) :
    (d.countAct l).1.MemOk := h

theorem Device.precharges_memOk (n ls) {d : Device} (h : d.MemOk) : (Device.precharges n ls d).MemOk := by
  induction n generalizing d ls with
  | zero => exact h
  | succ n ih =>
    cases ls with
    | nil => exact h
    | cons l r =>
      have hc := Device.countAct_memOk h l
      unfold Device.precharges
      grind [Device.MemOk]

theorem Device.precharge_memOk {d : Device} (h : d.MemOk) (l) :
    (d.precharge l).MemOk := by
  unfold Device.precharge
  grind [Device.precharges_memOk]

theorem Device.closeSlots_memOk {d : Device} (h : d.MemOk) (which) :
    (d.closeSlots which).MemOk := by
  unfold Device.closeSlots
  grind [Device.precharges_memOk, Device.MemOk]

theorem Device.openRow_memOk {d : Device} (h : d.MemOk) (l) :
    (d.openRow l).MemOk := by
  unfold Device.openRow
  grind [Device.closeSlots_memOk, Device.MemOk]

theorem Device.closeRow_memOk {d : Device} (h : d.MemOk) (l) :
    (d.closeRow l).MemOk := by
  unfold Device.closeRow
  grind [Device.precharge_memOk]

theorem Device.accessRow_memOk {d : Device} (h : d.MemOk) (l) :
    (d.accessRow l).MemOk := by
  unfold Device.accessRow
  grind [Device.openRow_memOk, Device.closeRow_memOk]

theorem State.useHandle_gives {s : State} (h : s.MemOk) (v) :
    Gives Halt.MemOk (fun _ => True) (s.useHandle v) := by
  unfold State.useHandle
  grind [State.raise_gives, State.memOk_iff, Gives, Halt.MemOk]

theorem Device.settleLine_memOk {d : Device} (h : d.MemOk) (l) : (d.settleLine l).MemOk :=
  List.foldlRecOn _ _ h fun _ ha _ _ => Device.settle_memOk ha ..

theorem Device.writeLine_memOk {d : Device} (h : d.MemOk) (l which x poison) : (d.writeLine l which x poison).MemOk :=
  List.foldlRecOn _ _ h fun _ ha _ _ => Device.writeAt_memOk ha ..

theorem Device.markLine_memOk {d : Device} (h : d.MemOk) (l reads) : (d.markLine l reads).MemOk := by
  unfold Device.markLine
  exact List.foldlRecOn _ _ h fun _ ha _ _ => Device.poison_memOk ha _

theorem Device.runBkop_memOk {d : Device} (h : d.MemOk) (o w dst src a off) :
    (d.runBkop o w dst src a off).1.MemOk := by
  unfold Device.runBkop
  grind [Device.writeP_memOk, Device.settleLine_memOk, Device.writeLine_memOk, Device.markLine_memOk]

theorem Device.rowProbe_memOk {d : Device} (h : d.MemOk) (x k va) :
    (d.rowProbe x k va).1.MemOk := by
  unfold Device.rowProbe
  grind [Device.expand_memOk]

theorem Device.rowProbes_memOk {d : Device} (h : d.MemOk) (x) (l : List (Dword × Acc)) : (d.rowProbes x l).1.MemOk := by
  induction l generalizing d with
  | nil => exact h
  | cons p r ih =>
    have hp := Device.rowProbe_memOk h x p.2 p.1
    unfold Device.rowProbes
    grind

theorem Device.admitAll_memOk {d : Device} (h : d.MemOk) :
    d.admitAll.MemOk := h

theorem State.bankSend_memOk {s : State} (h : s.MemOk) :
    ∀ t, s.bankSend = some t → t.MemOk := by
  unfold State.bankSend
  grind [State.deliverS_memOk, Device.admitAll_memOk, State.memOk_iff, Device.MemOk]

theorem State.pinGrant_memOk {s : State} (h : s.MemOk) :
    ∀ t, s.pinGrant = some t → t.MemOk := by
  unfold State.pinGrant
  grind [State.updLc_memOk, Device.setSlot_memOk, Device.closeSlots_memOk, Device.settleLine_memOk, State.memOk_iff,
    Device.MemOk]

theorem State.pinOpened_memOk {s : State} (h : s.MemOk) (x) :
    (s.pinOpened x).MemOk := by
  unfold State.pinOpened
  grind [Device.setSlot_memOk, Device.settleLine_memOk, State.memOk_iff]

theorem State.pinReleased.go_memOk {s : State} (h : s.MemOk) (which before) (l : List SeqCmd) :
    ∀ t, State.pinReleased.go s which before l = some t → t.MemOk := by
  induction l generalizing before with
  | nil => simp [State.pinReleased.go]
  | cons c r ih =>
    intro t
    unfold State.pinReleased.go
    split
    · dsimp only
      split
      · rintro ⟨⟩
        exact h
      · exact ih _ t
    · exact ih _ t

theorem State.pinReleased_memOk {s : State} (h : s.MemOk) (which) :
    ∀ t, s.pinReleased which = some t → t.MemOk := State.pinReleased.go_memOk h which [] _

theorem State.slotFreed_memOk {s : State} (h : s.MemOk) (x) :
    (s.slotFreed x).MemOk := by
  unfold State.slotFreed
  grind [Device.setSlot_memOk, Device.precharge_memOk, State.memOk_iff]

theorem State.readScalars_memOk {s : State} (h : s.MemOk) (x va n) : (s.readScalars x va n).1.MemOk := by
  induction n generalizing s va with
  | zero => exact h
  | succ n ih =>
    have hb := State.baseReach_memOk h x .load va
    unfold State.readScalars
    grind [State.markBad_memOk]

theorem State.probeWave_memOk {s : State} (h : s.MemOk) (c d) :
    (s.probeWave c d).1.MemOk := by
  unfold State.probeWave
  grind [Device.rowProbes_memOk, State.readScalars_memOk, State.memOk_iff]

theorem State.waveProbe_memOk {s : State} (h : s.MemOk) :
    ∀ t, s.waveProbe = some t → t.MemOk := by
  unfold State.waveProbe
  grind [State.updLc_memOk, Device.admitAll_memOk, State.probeWave_memOk, State.memOk_iff, Device.MemOk]

theorem State.bankAdmit_memOk {s : State} (h : s.MemOk) (stack) :
    (s.bankAdmit stack).MemOk := by
  unfold State.bankAdmit
  grind [State.memOk_iff, Device.MemOk]

theorem Device.setRun_memOk {d : Device} (h : d.MemOk) (c r r1 bad) :
    (d.setRun c r r1 bad).MemOk := h

theorem Device.waveRow_memOk {dev : Device} (h : dev.MemOk) (c d r pb) :
    (dev.waveRow c d r pb).1.MemOk := by
  unfold Device.waveRow
  grind [Device.openRow_memOk, Device.closeRow_memOk, Device.settleLine_memOk, Device.writeLine_memOk,
    Device.markLine_memOk]

theorem Device.takeLimit_memOk {d : Device} (h : d.MemOk) (stack) :
    (d.takeLimit stack).MemOk := by
  unfold Device.takeLimit
  grind [Device.setStack_memOk, Device.MemOk]

theorem State.waveRowStep_memOk {s : State} (h : s.MemOk) (stack unit) :
    (s.waveRowStep stack unit).MemOk := by
  unfold State.waveRowStep
  grind [Device.setRun_memOk, Device.waveRow_memOk, Device.takeLimit_memOk, State.memOk_iff]

theorem State.waveResume_memOk {s : State} (h : s.MemOk) (stack unit) :
    (s.waveResume stack unit).MemOk := by
  unfold State.waveResume
  grind [Device.setRun_memOk, State.memOk_iff]

theorem State.bankDone_memOk {s : State} (h : s.MemOk) (c tval) :
    (s.bankDone c tval).MemOk := by
  unfold State.bankDone
  grind [State.updLc_memOk, State.memOk_iff, Device.MemOk]

theorem State.subwaveComplete_memOk {s : State} (h : s.MemOk) (stack unit) :
    (s.subwaveComplete stack unit).MemOk := by
  unfold State.subwaveComplete
  grind [State.bankDone_memOk, State.memOk_iff, Device.MemOk]

theorem State.bkopComplete_memOk {s : State} (h : s.MemOk) (stack unit) : (s.bkopComplete stack unit).MemOk := by
  unfold State.bkopComplete
  split
  · split
    case h_1 c r ho o w dst src a off dh sh hk =>
      split
      · exact h
      · dsimp only
        have hd : ((dst :: src.toList).foldl Device.openRow s.dev).MemOk :=
          List.foldlRecOn _ _ h.dev_memOk fun _ ha _ _ => Device.openRow_memOk ha _
        obtain ⟨hm, hg⟩ := Device.runBkop_memOk hd o w dst src a off
        refine State.bankDone_memOk ?_ _ _
        exact State.memOk_iff.mpr ⟨⟨hm, hg⟩, (State.memOk_iff.mp h).2⟩
    case h_2 => exact h
  · exact h

theorem State.runUnit_memOk (stack unit n) {s : State} (h : s.MemOk) : (State.runUnit stack unit n s).MemOk := by
  induction n generalizing s with
  | zero => exact h
  | succ n ih =>
    unfold State.runUnit
    split
    · exact h
    · split
      · exact State.bkopComplete_memOk h ..
      · split
        · exact ih (State.waveResume_memOk (State.waveRowStep_memOk h ..) ..)
        · exact State.subwaveComplete_memOk h ..
      · exact h

theorem State.runUnits_memOk {s : State} (h : s.MemOk) : s.runUnits.MemOk :=
  List.foldlRecOn _ _ h fun _ ha _ _ => State.runUnit_memOk _ _ _ ha

theorem State.settleSlots_memOk {s : State} (h : s.MemOk) : s.settleSlots.MemOk :=
  List.foldlRecOn _ _ h fun _ ha _ _ => State.slotFreed_memOk (State.pinOpened_memOk ha _) _

theorem State.getD_memOk {s : State} (h : s.MemOk) {x : Option State} (hx : ∀ t, x = some t → t.MemOk) :
    (x.getD s).MemOk := by
  cases x with
  | none => exact h
  | some t => exact hx t rfl

theorem State.drainBank_memOk (n) {s : State} (h : s.MemOk) : (State.drainBank n s).MemOk := by
  induction n generalizing s with
  | zero => exact h
  | succ n ih =>
    refine ih (State.runUnits_memOk (List.foldlRecOn _ _ ?_ fun _ ha _ _ => State.bankAdmit_memOk ha _))
    have h1 := State.getD_memOk h (State.bankSend_memOk h)
    have h2 := State.settleSlots_memOk (State.getD_memOk h1 (State.pinReleased_memOk h1 fun _ => true))
    have h3 := State.settleSlots_memOk (State.getD_memOk h2 (State.pinGrant_memOk h2))
    exact State.getD_memOk h3 (State.waveProbe_memOk h3)

theorem State.drainB_memOk {s : State} (h : s.MemOk) :
    s.drainB.MemOk := by
  unfold State.drainB
  grind [State.drainBank_memOk]

/-! ### Copy channels and reductions -/

theorem State.xreach_gives {s : State} (h : s.MemOk) (c k va) :
    Gives XStop.MemOk (·.1.MemOk) (s.xreach c k va) := by
  unfold State.xreach
  grind [State.reachIn_memOk, Gives, XStop.MemOk]

theorem State.xgate_gives {s : State} (h : s.MemOk) (l va) : Gives XStop.MemOk State.MemOk (s.xgate l va) := by
  have hb : ∀ (l : Loc), Gives XStop.MemOk State.MemOk (if s.badAt l then .error (.fault (s.markBad l) (s.badCause l)
    va) else .ok s) := by
    intro l
    split
    · exact gives_error.mpr (State.markBad_memOk h l)
    · exact gives_ok.mpr h
  unfold State.xgate
  dsimp only
  split
  · exact hb _
  · split
    · exact hb _
    · split
      · exact gives_error.mpr h
      · split
        · exact gives_error.mpr h
        · split
          · exact hb _
          · exact gives_error.mpr h

theorem State.xUsed_memOk {s : State} (h : s.MemOk) (vas) :
    (s.xUsed vas).MemOk := h

theorem State.xbyte_gives {s : State} (h : s.MemOk) (c gated va) :
    Gives XStop.MemOk (·.1.MemOk) (s.xbyte c gated va) := by
  simp only [State.xbyte, bind, Except.bind]
  grind [State.xreach_gives, State.xgate_gives, Gives]

theorem State.xbytes_memOk {s : State} (h : s.MemOk) (c prev) (l : List Dword) :
    (s.xbytes c prev l).1.MemOk ∧ ∀ x, (s.xbytes c prev l).2.2.2 = some x → x.MemOk := by
  induction l generalizing s prev with
  | nil => simpa [State.xbytes] using h
  | cons va r ih =>
    obtain ⟨he, ho⟩ := State.xbyte_gives h c (prev.any (fun p => p.toNat / 64 == va.toNat / 64)) va
    unfold State.xbytes
    split
    case h_1 t ht => exact ⟨he _ ht, by rintro _ ⟨⟩; exact he _ ht⟩
    case h_2 t k a ht => exact ⟨he _ ht, by rintro _ ⟨⟩; exact he _ ht⟩
    case h_3 t b p ht => exact ih (ho _ ht) _

theorem State.xwrite_gives {s : State} (h : s.MemOk) (l va n x poison) :
    Gives XStop.MemOk State.MemOk (s.xwrite l va n x poison) := by
  unfold State.xwrite
  grind [State.markBad_memOk, State.storeAt_memOk, Gives, XStop.MemOk]

theorem State.updChan_memOk {s : State} (h : s.MemOk) (h' f) :
    (s.updChan h' f).MemOk := h

theorem State.copyUnit_memOk {s : State} (h : s.MemOk) (c wp) :
    (s.copyUnit c wp).1.MemOk ∧ ∀ x, (s.copyUnit c wp).2.2 = some x → x.MemOk := by
  unfold State.copyUnit
  dsimp only
  repeat' split
  all_goals grind [State.xreach_gives, State.xbytes_memOk, State.xwrite_gives, State.xgate_gives, State.xUsed_memOk,
    Gives, XStop.MemOk]

theorem State.offer_memOk {s : State} (h : s.MemOk) (k p) :
    ∀ t, s.offer k p = some t → t.MemOk := by
  unfold State.offer
  grind [Device.writeP_memOk, Device.giveBack_memOk, State.memOk_iff, Device.MemOk]

theorem State.redUnit_memOk {s : State} (h : s.MemOk) (ch c t rt det redgrp wp) :
    (s.redUnit ch c t rt det redgrp wp).1.MemOk ∧ ∀ x, (s.redUnit ch c t rt det redgrp wp).2.2 = some x → x.MemOk := by
  unfold State.redUnit
  dsimp only
  repeat' split
  all_goals grind [State.xreach_gives, State.xbytes_memOk, State.xwrite_gives, State.xgate_gives, State.xUsed_memOk,
    State.writeLoc_memOk, State.memOk_iff, Device.MemOk, → State.offer_memOk, Gives, XStop.MemOk]

theorem gives_foldlM {ε α β : Type} {P : ε → Prop} {Q : β → Prop} {f : β → α → Except ε β} (l : List α) {b : β} (hb : Q
  b)
    (hf : ∀ b a, Q b → Gives P Q (f b a)) : Gives P Q (l.foldlM f b) := by
  induction l generalizing b with
  | nil => exact gives_ok.mpr hb
  | cons a l ih => exact (hf b a hb).bind fun c hc => ih hc

theorem State.deilFields_gives {s : State} (h : s.MemOk) (c n) :
    Gives XStop.MemOk (·.1.MemOk) (s.deilFields c n) :=
  gives_foldlM (Q := fun (a : State × List (Nat × Bool)) => a.1.MemOk) _ h fun _ _ ha =>
    (State.xreach_gives ha ..).bind fun _ hr => (State.xgate_gives hr ..).bind fun _ hg => gives_ok.mpr hg

theorem State.deilUnit_gives {s : State} (h : s.MemOk) (c v f) :
    Gives XStop.MemOk State.MemOk (s.deilUnit c v f) := by
  unfold State.deilUnit
  dsimp only
  split
  · exact gives_error.mpr h
  · exact (State.deilFields_gives h ..).bind fun _ hd => gives_ok.mpr
      (List.foldlRecOn _ _ (State.xUsed_memOk hd _) fun _ ha _ _ => State.writeElems_memOk ha ..)

theorem State.xcomplete_memOk {s : State} (h : s.MemOk) (h') :
    (s.xcomplete h').MemOk := h

theorem State.xstop_memOk (h : BitVec 2) {x : XStop} (hx : x.MemOk) : (State.xstop h x).1.MemOk := by
  cases x <;> exact hx

theorem State.advanceWp_memOk {s : State} (h : s.MemOk) (h' n) :
    (s.advanceWp h' n).MemOk := h

theorem State.xadvance_memOk (h : BitVec 2) (c : XCmd) {r : State × Nat × Option XStop}
    (hr : r.1.MemOk ∧ ∀ x, r.2.2 = some x → x.MemOk) : (State.xadvance h c r).1.MemOk := by
  obtain ⟨hs, hx⟩ := hr
  unfold State.xadvance
  split
  case h_1 t k va ht =>
    dsimp only
    split
    · exact State.xstop_memOk h (x := .fault _ k va) (State.advanceWp_memOk (hx _ ht) ..)
    · exact State.xstop_memOk h (x := .fault _ k va) (State.advanceWp_memOk hs ..)
  case h_2 t ht =>
    split
    · exact hx _ ht
    · exact State.advanceWp_memOk hs ..
  case h_3 =>
    dsimp only
    split
    · exact State.xcomplete_memOk (State.advanceWp_memOk hs ..) _
    · exact State.advanceWp_memOk hs ..

theorem State.detSync_memOk {s : State} (h : s.MemOk) :
    s.detSync.MemOk := h

theorem State.detStep_memOk {s : State} (h : s.MemOk) (h' c t g) :
    (s.detStep h' c t g).1.MemOk := by
  unfold State.detStep
  grind [State.updChan_memOk, State.redUnit_memOk, State.xcomplete_memOk, State.xstop_memOk, State.detSync_memOk]

theorem State.withPart_memOk {s : State} (h : s.MemOk) (core no) :
    (s.withPart core no).MemOk := by
  unfold State.withPart
  grind [State.memOk_iff]

theorem State.deilHome_gives {s : State} (h : s.MemOk) (c v f) :
    Gives XStop.MemOk State.MemOk (s.deilHome c v f) := by
  unfold State.deilHome
  grind [State.deilUnit_gives, State.withPart_memOk, Gives, XStop.MemOk]

theorem State.copyStep_memOk {s : State} (h : s.MemOk) (h') :
    (s.copyStep h').1.MemOk := by
  unfold State.copyStep
  grind [State.copyUnit_memOk, State.redUnit_memOk, State.xcomplete_memOk, State.xstop_memOk, State.xadvance_memOk,
    State.detStep_memOk, State.deilHome_gives, Gives]

theorem State.copySteps_memOk (c n) {s : State} (h : s.MemOk) : (State.copySteps c n s).MemOk := by
  induction n generalizing s with
  | zero => exact h
  | succ n ih => grind [State.copySteps, State.copyStep_memOk]

theorem State.drainX_memOk {s : State} (h : s.MemOk) :
    s.drainX.MemOk := by
  unfold State.drainX
  grind [State.copySteps_memOk]

theorem State.contribute_memOk {s : State} (h : s.MemOk) : s.contribute.MemOk := by
  have hd (c : Contribution) :
      State.MemOk { s with dev := { s.dev with contributions := s.dev.contributions.erase c } } :=
    h.withDev h.dev_memOk
  unfold State.contribute
  extract_lets o
  cases s.dev.contributions.find? o with
  | none => exact h
  | some c =>
    dsimp only
    split
    case h_1 t ht => exact State.detSync_memOk (State.offer_memOk (hd c) _ _ t ht)
    case h_2 => exact State.updLc_memOk h _ _

end Sys2Proof.Machine
end

section
/-! Proofs, 06: the canonical form through generation, tiles and bound contexts (R145). -/

namespace Sys2Proof.Machine

/-! ### Generation and journals -/

theorem VEntry.genFault_memOk (e : VEntry) {s : State} (h : s.MemOk) (bad) : (e.genFault s bad).MemOk := by
  unfold VEntry.genFault
  split <;> exact h

theorem State.hostUsedIn_memOk {s : State} (h : s.MemOk) (lo hi) :
    (s.hostUsedIn lo hi).MemOk := h

theorem State.genReach_gives {s : State} (h : s.MemOk) (e k w reads por vas) :
    Gives VStop.MemOk (·.1.MemOk) (s.genReach e k w reads por vas) := by
  unfold State.genReach
  dsimp only
  generalize hx : List.foldl _ (s, []) vas = x
  have hp : x.1.MemOk := hx ▸ List.foldlRecOn (motive := fun (a : State × List Probed) => a.1.MemOk) _ _ h
    fun _ ha _ _ => State.vreach_memOk ha ..
  refine gives_ite (fun _ => gives_error.mpr (VEntry.genFault_memOk e hp _)) fun _ =>
    gives_ite (fun _ => gives_error.mpr hp) fun _ => gives_ite (fun _ => gives_error.mpr hp) fun _ => ?_
  have ha : (if (reads || k == .load) = true then x.1.hostAsk w x.2 else (x.1, false)).1.MemOk := by
    split
    · exact State.hostAsk_memOk hp ..
    · exact hp
  generalize (if (reads || k == .load) = true then x.1.hostAsk w x.2 else (x.1, false)) = y at ha ⊢
  refine gives_ite (fun _ => gives_error.mpr ha) fun _ => gives_ite (fun _ => gives_ok.mpr ha) fun _ =>
    gives_error.mpr (VEntry.genFault_memOk e (State.hostUsed_memOk (List.foldlRecOn _ _ ha fun a ha p _ => ?_) _) _)
  grind [State.markBad_memOk]

theorem State.genRead_memOk {s : State} (h : s.MemOk) (p n) :
    (s.genRead p n).1.MemOk := by
  unfold State.genRead
  grind [State.memOk_iff]

theorem State.genWrite_memOk {s : State} (h : s.MemOk) (p n x) :
    (s.genWrite p n x).MemOk := by
  unfold State.genWrite
  grind [State.storeAt_memOk]

theorem State.mapWord_memOk {s : State} (h : s.MemOk) (p f) :
    (s.mapWord p f).MemOk := by
  unfold State.mapWord
  grind [State.writeLoc_memOk]

theorem State.runDraw_gives {s : State} (h : s.MemOk) (e d g) :
    Gives VStop.MemOk State.MemOk (s.runDraw e d g) := by
  unfold State.runDraw
  grind [State.elementwise_gives]

theorem State.kcleanTo_gives {s : State} (h : s.MemOk) (e k n) :
    Gives VStop.MemOk (fun _ => True) (s.kcleanTo e k n) := by
  unfold State.kcleanTo
  grind [State.vraise_gives, Gives]

theorem State.runVaccept_gives {s : State} (h : s.MemOk) (e k a) :
    Gives VStop.MemOk State.MemOk (s.runVaccept e k a) := by
  simp only [State.runVaccept, bind, Except.bind]
  grind [State.setK_memOk, State.vdone_memOk, State.clean_gives, State.kcleanTo_gives, State.memOk_iff, Gives]

theorem State.runVpand_gives {s : State} (h : s.MemOk) (e k a) :
    Gives VStop.MemOk State.MemOk (s.runVpand e k a) := by
  simp only [State.runVpand, bind, Except.bind]
  grind [State.setK_memOk, State.vdone_memOk, State.kcleanTo_gives, Gives]

theorem State.runSmpstep_gives {s : State} (h : s.MemOk) (e d a b) :
    Gives VStop.MemOk State.MemOk (s.runSmpstep e d a b) := by
  simp only [State.runSmpstep, bind, Except.bind]
  grind [State.vdone_memOk, State.vraise_gives, State.clean_gives, State.maskClean_gives, State.deliverS_memOk, Gives]

theorem State.runUrank_gives {s : State} (h : s.MemOk) (e k a) :
    Gives VStop.MemOk State.MemOk (s.runUrank e k a) := by
  simp only [State.runUrank, bind, Except.bind]
  grind [State.setK_memOk, State.vdone_memOk, State.clean_gives, State.maskClean_gives, Gives]

theorem State.umHeader_gives {s : State} (h : s.MemOk) (e) :
    Gives VStop.MemOk (·.1.MemOk) (s.umHeader e) := by
  simp only [State.umHeader, bind, Except.bind]
  grind [State.vraise_gives, State.genReach_gives, State.genRead_memOk, Gives]

theorem State.umRange_gives {s : State} (h : s.MemOk) (e) :
    Gives VStop.MemOk (·.1.MemOk) (s.umRange e) := by
  simp only [State.umRange, bind, Except.bind]
  grind [State.vraise_gives, State.umHeader_gives, Gives]

theorem State.runUcfg_gives {s : State} (h : s.MemOk) (e) :
    Gives VStop.MemOk State.MemOk (s.runUcfg e) := by
  simp only [State.runUcfg, bind, Except.bind]
  grind [State.hostUsedIn_memOk, State.umHeader_gives, Gives]

theorem State.umUsed_memOk {s : State} (h : s.MemOk) (e map) : (s.umUsed e map).MemOk :=
  List.foldlRecOn _ _ (State.hostUsedIn_memOk h ..) fun _ ha _ _ => State.hostUsedIn_memOk ha ..

theorem State.runUcommit_gives {s : State} (h : s.MemOk) (e k a) :
    Gives VStop.MemOk State.MemOk (s.runUcommit e k a) := by
  unfold State.runUcommit
  refine (State.umRange_gives h e).bind fun _ h1 => (State.kcleanTo_gives h1 ..).bind fun _ _ =>
    (State.genReach_gives h1 ..).bind fun _ h2 => (State.genReach_gives h2 ..).bind fun _ h3 => ?_
  dsimp only
  split
  · exact (State.vraiseLanes_gives h3 ..).never
  · refine gives_ok.mpr (State.vdone_memOk ?_)
    split
    on_goal 2 => refine State.setK_memOk ?_ ..
    all_goals
      refine State.umUsed_memOk (List.foldlRecOn _ _ (List.foldlRecOn _ _ h3 fun a ha _ _ => ?_) fun a ha _ _ => ?_) e _
      · exact State.genWrite_memOk ha ..
      · exact State.mapWord_memOk ha ..

theorem State.runUdirty_gives {s : State} (h : s.MemOk) (e k) :
    Gives VStop.MemOk State.MemOk (s.runUdirty e k) := by
  unfold State.runUdirty
  refine (State.umRange_gives h e).bind fun _ h1 => (State.genReach_gives h1 ..).bind fun _ h2 =>
    gives_ok.mpr (State.vdone_memOk (State.setK_memOk (State.umUsed_memOk ?_ ..) ..))
  refine List.foldlRecOn (motive := fun (a : State × Nat × Nat) => a.1.MemOk) _ _ h2 fun a ha x _ => ?_
  grind [State.mapWord_memOk, State.memOk_iff]

theorem State.runJadd_gives {s : State} (h : s.MemOk) (e) :
    Gives VStop.MemOk State.MemOk (s.runJadd e) :=
  (State.genReach_gives h ..).bind fun _ hr =>
    gives_ok.mpr (List.foldlRecOn _ _ hr fun _ ha _ _ => State.genWrite_memOk ha ..)

theorem State.scanJournal_gives {s : State} (h : s.MemOk) (e n va l) :
    Gives VStop.MemOk (·.1.MemOk) (s.scanJournal e n va l) := by
  induction n generalizing s va l with
  | zero => exact (State.vraise_gives h ..).never
  | succ n ih =>
    obtain ⟨he, ho⟩ := State.genReach_gives h e .load 16 true true [va]
    unfold State.scanJournal
    split
    case h_1 x hx => exact gives_error.mpr (he x hx)
    case h_2 t ps ht =>
      have hr : ∀ p, (t.genRead p 16).1.MemOk := fun p => State.genRead_memOk (ho _ ht) ..
      cases ps <;> grind [State.vraise_gives, Gives]

theorem State.tableUsed_memOk {s : State} (h : s.MemOk) (vas) : (s.tableUsed vas).MemOk :=
  List.foldlRecOn _ _ h fun _ ha _ _ => State.hostUsedIn_memOk ha ..

theorem State.runJournal_gives {s : State} (h : s.MemOk) (e commit) :
    Gives VStop.MemOk State.MemOk (s.runJournal e commit) := by
  unfold State.runJournal
  split
  · exact (State.vraise_gives h ..).never
  · refine (State.scanJournal_gives h ..).bind fun _ h1 => (State.genReach_gives h1 ..).bind fun _ h2 =>
      (State.genReach_gives h2 ..).bind fun _ h3 => gives_ok.mpr (State.tableUsed_memOk (State.hostUsedIn_memOk
        (List.foldlRecOn _ _ ?_ fun _ ha _ _ => State.genWrite_memOk ha ..) ..) _)
    split
    · exact List.foldlRecOn _ _ h3 fun a ha p _ => by grind [State.genWrite_memOk]
    · exact h3

theorem State.runGen_memOk {s : State} (h : s.MemOk) (e) :
    ∀ x, s.runGen e = some x → Gives VStop.MemOk State.MemOk x := by
  have hv := State.vdone_memOk h
  unfold State.runGen
  generalize s.vdone = v at hv ⊢
  generalize e.op = op
  have hs (r : VRun) (hr : Gives VStop.MemOk State.MemOk r) :
      Gives VStop.MemOk State.MemOk (if e.vl ≤ s.start e then .ok v else r) :=
    gives_ite (fun _ => gives_ok.mpr hv) fun _ => hr
  intro x hx
  cases op
  case urank => exact Option.some.inj hx ▸ hs _ (State.runUrank_gives h ..)
  case ucommit => exact Option.some.inj hx ▸ hs _ (State.runUcommit_gives h ..)
  case udirty => exact Option.some.inj hx ▸ hs _ (State.runUdirty_gives h ..)
  case ucfg => exact Option.some.inj hx ▸ State.runUcfg_gives h e
  case smpstep d a b =>
    exact Option.some.inj hx ▸ gives_ite (fun _ => gives_ok.mpr hv) fun _ => State.runSmpstep_gives h ..
  case vaccept => exact Option.some.inj hx ▸ hs _ (State.runVaccept_gives h ..)
  case vpand => exact Option.some.inj hx ▸ hs _ (State.runVpand_gives h ..)
  case draw => exact Option.some.inj hx ▸ hs _ (State.runDraw_gives h ..)
  case jadd => exact Option.some.inj hx ▸ State.runJadd_gives h e
  case jcommit | jdrop => exact Option.some.inj hx ▸ State.runJournal_gives h e _
  all_goals cases hx

/-! ### Tiles and accumulators -/

theorem Core.setSeg_memOk {c : Core} (h : c.MemOk) (n x) :
    (c.setSeg n x).MemOk := h

theorem State.setTiles_memOk {s : State} (h : s.MemOk) (x) : (s.setTiles x).MemOk :=
  h.withCore (List.foldlRecOn _ _ h.core_memOk fun _ ha _ _ => Core.setSeg_memOk ha ..)

theorem State.setTilePoison_memOk {s : State} (h : s.MemOk) (p) :
    (s.setTilePoison p).MemOk := h

theorem State.writeTiles_memOk {s : State} (h : s.MemOk) (w ws) :
    (s.writeTiles w ws).MemOk := by
  unfold State.writeTiles
  grind [State.setTiles_memOk, State.setTilePoison_memOk, State.memOk_iff, Core.MemOk]

theorem State.markTiles_memOk {s : State} (h : s.MemOk) (gs) :
    (s.markTiles gs).MemOk := h

theorem State.runTen_memOk {s : State} (h : s.MemOk) :
    s.runTen.MemOk := by
  unfold State.runTen
  grind [State.memOk_iff]

theorem State.freeSegs_memOk {s : State} (h : s.MemOk) :
    s.freeSegs.MemOk := h

theorem State.runTdis_memOk {s : State} (h : s.MemOk) :
    s.runTdis.MemOk := h

theorem State.runTshape_gives {s : State} (h : s.MemOk) (e d) :
    Gives VStop.MemOk State.MemOk (s.runTshape e d) := by
  have hf := State.freeSegs_memOk h
  unfold State.runTshape
  dsimp only
  split
  · exact (State.vraise_gives h ..).never
  · refine gives_ok.mpr (State.vdone_memOk (State.deliverS_memOk ?_ _ _ _))
    refine State.memOk_iff.mpr ⟨hf.dev_memOk, ?_, (State.memOk_iff.mp hf).2.2⟩
    exact List.foldlRecOn (motive := Core.MemOk) _ _ hf.core_memOk fun _ ha _ _ => Core.setSeg_memOk ha ..

theorem State.runTld_gives {s : State} (h : s.MemOk) (e t y) :
    Gives VStop.MemOk State.MemOk (s.runTld e t y) := by
  simp only [State.runTld, bind, Except.bind]
  grind [State.loadItems_gives, State.endLoad_gives, State.writeTiles_memOk, Gives]

theorem State.runTst_gives {s : State} (h : s.MemOk) (e t y) :
    Gives VStop.MemOk State.MemOk (s.runTst e t y) := by
  unfold State.runTst
  grind [State.storeItems_gives, State.markTiles_memOk, Gives, VStop.MemOk]

theorem State.runTzero_memOk {s : State} (h : s.MemOk) (t) :
    (s.runTzero t).MemOk := by
  unfold State.runTzero
  grind [State.writeTiles_memOk]

theorem State.runTslice_gives {s : State} (h : s.MemOk) (e d t col) :
    Gives VStop.MemOk State.MemOk (s.runTslice e d t col) := by
  unfold State.runTslice
  grind [State.writeElems_memOk, State.vdone_memOk, State.markTiles_memOk, Gives, VStop.MemOk]

theorem State.setAcc_memOk {s : State} (h : s.MemOk) (c x p er) :
    (s.setAcc c x p er).MemOk := h

theorem State.writeAcc_memOk {s : State} (h : s.MemOk) (c ws) :
    (s.writeAcc c ws).MemOk := h

theorem State.runAccrd_gives {s : State} (h : s.MemOk) (e d c) :
    Gives VStop.MemOk State.MemOk (s.runAccrd e d c) := by
  simp only [State.runAccrd, bind, Except.bind]
  grind [State.setLanes_memOk, State.maskClean_gives, State.moveElems_gives, State.setAcc_memOk, Gives, VStop.MemOk]

theorem State.runAccwr_gives {s : State} (h : s.MemOk) (e d c) :
    Gives VStop.MemOk State.MemOk (s.runAccwr e d c) := by
  simp only [State.runAccwr, bind, Except.bind]
  grind [State.vdone_memOk, State.maskClean_gives, State.writeAcc_memOk, Gives]

theorem State.runAccz_memOk {s : State} (h : s.MemOk) (c) :
    (s.runAccz c).MemOk := h

theorem State.bandFault_memOk {s : State} (h : s.MemOk) (e g c tval) :
    (s.bandFault e g c tval).MemOk := h

theorem State.bandCheck_gives {s : State} (h : s.MemOk) (e o g rows) :
    Gives VStop.MemOk (fun _ => True) (s.bandCheck e o g rows) := by
  unfold State.bandCheck
  grind [State.markTiles_memOk, State.setAcc_memOk, State.bandFault_memOk, Gives]

theorem State.runBand_gives {s : State} (h : s.MemOk) (e o g) :
    Gives VStop.MemOk State.MemOk (s.runBand e o g) := by
  simp only [State.runBand, bind, Except.bind]
  grind [State.count_memOk, State.writeAcc_memOk, State.bandCheck_gives, Gives]

theorem State.runBands_gives {s : State} (h : s.MemOk) (e o n g) :
    Gives VStop.MemOk State.MemOk (s.runBands e o n g) := by
  induction n generalizing s g with
  | zero => exact gives_ok.mpr (State.vdone_memOk h)
  | succ n ih =>
    obtain ⟨he, ho⟩ := State.runBand_gives h e o g
    unfold State.runBands
    split
    case h_1 t ht => exact ih (ho t ht) _
    case h_2 x hx => exact gives_error.mpr (he x hx)

theorem State.runMma_gives {s : State} (h : s.MemOk) (e o) :
    Gives VStop.MemOk State.MemOk (s.runMma e o) := by
  unfold State.runMma
  grind [State.runBands_gives]

theorem State.runTile_memOk {s : State} (h : s.MemOk) (e) :
    ∀ x, s.runTile e = some x → Gives VStop.MemOk State.MemOk x := by
  have hv := State.vdone_memOk h
  unfold State.runTile
  split <;> intro x hx
  case h_8 =>
    obtain ⟨o, -, rfl⟩ := Option.map_eq_some_iff.mp hx
    exact State.runMma_gives h e o
  all_goals
    grind [State.runTshape_gives, State.runTen_memOk, State.runTdis_memOk, State.runTzero_memOk, State.runTslice_gives,
      State.runTld_gives, State.runTst_gives, State.runAccrd_gives, State.runAccwr_gives, State.runAccz_memOk,
      State.vdone_memOk, gives_ok]

/-! ### Bound contexts and their streams -/

theorem State.updCtx_memOk {s : State} (h : s.MemOk) (f) :
    (s.updCtx f).MemOk := h

theorem State.sqEntry_memOk {s : State} (h : s.MemOk) (super va) :
    (s.sqEntry super va).1.MemOk := by
  unfold State.sqEntry
  grind [State.baseReach_memOk]

/-- The state that a read by a context's engine leaves is in canonical form. -/
def EngineRead.MemOk : EngineRead → Prop
  | .wait t | .cause t _ | .value t _ => t.MemOk

theorem State.engineGranule_memOk {s : State} (h : s.MemOk) (x no va n) : (s.engineGranule x no va n).MemOk := by
  have hb := State.baseReach_memOk h x .load va
  unfold State.engineGranule
  grind [State.markBad_memOk, State.memOk_iff, EngineRead.MemOk]

theorem State.engineRead_memOk {s : State} (h : s.MemOk) (x no va n) : (s.engineRead x no va n).MemOk := by
  unfold State.engineRead
  extract_lets m
  split
  · exact State.engineGranule_memOk h ..
  · have h1 := State.engineGranule_memOk h x no va m
    cases he : s.engineGranule x no va m with
    | wait t | cause t c => simpa [he, EngineRead.MemOk] using h1
    | value t lo =>
      have ht : t.MemOk := by simpa [he, EngineRead.MemOk] using h1
      have h2 := State.engineGranule_memOk ht x no (va + BitVec.ofNat 64 m) (n - m)
      cases hf : t.engineGranule x no (va + BitVec.ofNat 64 m) (n - m) <;> simp_all [EngineRead.MemOk]

theorem State.indexEntry_memOk {s : State} (h : s.MemOk) (a iva) : (s.indexEntry a iva).1.MemOk := by
  have hr := State.engineRead_memOk h (s.ctxSpace a.super) a.no iva a.indexBytes
  unfold State.indexEntry
  grind [EngineRead.MemOk, State.sqEntry_memOk]

theorem State.streamEntry_memOk {s : State} (h : s.MemOk) (a) :
    (s.streamEntry a).1.MemOk := by
  unfold State.streamEntry
  grind [State.sqEntry_memOk, State.indexEntry_memOk]

theorem State.generate_memOk {s : State} (h : s.MemOk) (j) :
    ∀ t, s.generate j = some t → t.MemOk := by
  unfold State.generate
  grind [State.updCtx_memOk, State.streamEntry_memOk]

theorem State.fill_memOk {s : State} (h : s.MemOk) (j n) : (s.fill j n).MemOk := by
  induction n generalizing s with
  | zero => exact h
  | succ n ih => grind [State.fill, → State.generate_memOk]

theorem State.runSkstrm_gives {s : State} (h : s.MemOk) (e j) :
    Gives VStop.MemOk State.MemOk (s.runSkstrm e j) := by
  unfold State.runSkstrm
  extract_lets s1
  have h1 : s1.MemOk := State.updCtx_memOk h _
  have hr := State.engineRead_memOk h1 (s1.vspace e) e.no e.x 32
  refine gives_ite (fun _ => (State.vraise_gives h1 ..).never) fun _ => ?_
  generalize s1.engineRead (s1.vspace e) e.no e.x 32 = r at hr ⊢
  cases r with
  | wait t => exact gives_error.mpr hr
  | cause t c => exact (State.vraise_gives hr ..).never
  | value t x =>
    dsimp only
    cases descStream x e.super e.no with
    | none => exact (State.vraise_gives (show t.MemOk from hr) ..).never
    | some a => exact gives_ok.mpr (State.fill_memOk (State.updCtx_memOk hr _) ..)

theorem State.popBase_gives {s : State} (h : s.MemOk) (e x) : Gives VStop.MemOk (·.1.MemOk) (s.popBase e x) := by
  unfold State.popBase
  extract_lets j
  split
  · exact gives_error.mpr h
  · split
    · split
      · exact gives_ite (fun _ => gives_error.mpr h) fun _ => (State.vraise_gives h ..).never
      · exact (State.vraise_gives h ..).never
    · split
      case h_1 t again ht =>
        have hm : t.MemOk := by grind [State.indexEntry_memOk, State.sqEntry_memOk]
        split
        · exact gives_error.mpr hm
        · split
          · exact gives_ok.mpr hm
          · exact (State.vraise_gives (State.updCtx_memOk hm _) ..).never

theorem State.popped_memOk {s : State} (h : s.MemOk) (x) :
    (s.popped x).MemOk := by
  unfold State.popped
  grind [State.updCtx_memOk, State.fill_memOk]

theorem State.runPopped_gives {s : State} (h : s.MemOk) (e x) {run : State → Dword → VRun}
    (hr : ∀ t base, t.MemOk → Gives VStop.MemOk State.MemOk (run t base)) :
    Gives VStop.MemOk State.MemOk (s.runPopped e x run) :=
  (State.popBase_gives h e x).bind fun p hp => (hr _ p.2 hp).bind fun _ ht => gives_ok.mpr (State.popped_memOk ht x)

theorem State.kstepWith_memOk {run : State → VEntry → VRun}
    (hr : ∀ t e, t.MemOk → Gives VStop.MemOk State.MemOk (run t e)) {s : State} (h : s.MemOk) :
    ∀ t, State.kstepWith run s = some t → t.MemOk := by
  intro t
  unfold State.kstepWith
  cases s.lc.ctx with
  | none => nofun
  | some c =>
    dsimp only
    split
    · nofun
    · split
      case h_1 e _ =>
        obtain ⟨he, ho⟩ := hr s e h
        split
        · rintro ⟨⟩; exact State.updCtx_memOk h _
        · split
          · rintro ⟨⟩; exact State.updCtx_memOk h _
          · split
            case h_1 u hu => rintro ⟨⟩; exact State.updCtx_memOk (ho u hu) _
            case h_2 => nofun
            case h_3 u r hu => rintro ⟨⟩; exact he _ hu
      case h_2 =>
        cases s.lc.kqueue with
        | nil => nofun
        | cons e r =>
          obtain ⟨he, ho⟩ := hr s e h
          dsimp only
          split
          case h_1 => rintro ⟨⟩; split <;> exact h
          case h_2 =>
            split
            case h_1 u hu => rintro ⟨⟩; exact ho u hu
            case h_2 => nofun
            case h_3 u r hu => rintro ⟨⟩; exact he _ hu

end Sys2Proof.Machine
end

section
/-! Proofs, 06: the canonical form through the streams of an LC and what hands off to them (R145). -/

namespace Sys2Proof.Machine

/-! ### The streams of an LC -/

theorem State.stackError_memOk {s : State} (h : s.MemOk) (e) :
    ∀ x, s.stackError e = some x → x.MemOk := by
  unfold State.stackError
  grind [State.setLanes_memOk, State.memOk_iff, VStop.MemOk]

theorem State.runOp_gives {s : State} (h : s.MemOk) (e) : Gives VStop.MemOk State.MemOk (s.runOp e) := by
  have hl (t m y) {u : State} (hu : u.MemOk) (base) :
      Gives VStop.MemOk State.MemOk (if u.memSkips e m then .ok u.mdone else u.runLoad e t m y base) :=
    gives_ite (fun _ => gives_ok.mpr (State.mdone_memOk hu)) fun _ => State.runLoad_gives hu ..
  have hs (t m y) {u : State} (hu : u.MemOk) (base) :
      Gives VStop.MemOk State.MemOk (if u.memSkips e m then .ok u.mdone else u.runStore e t m y base) :=
    gives_ite (fun _ => gives_ok.mpr (State.mdone_memOk hu)) fun _ => State.runStore_gives hu ..
  have ho : Gives VStop.MemOk State.MemOk (match s.runAlu e with
      | some r => r
      | none => match s.runTile e with
        | some r => r
        | none => (s.runGen e).getD (.error (.block s))) := by
    cases ha : s.runAlu e with
    | some r => exact State.runAlu_memOk h e r ha
    | none => cases ht : s.runTile e with
      | some r => exact State.runTile_memOk h e r ht
      | none => cases hg : s.runGen e with
        | some r => exact State.runGen_memOk h e r hg
        | none => exact gives_error.mpr h
  unfold State.runOp
  generalize e.op = op
  cases op
  case load t m k o y =>
    cases m
    case stream x => exact State.runPopped_gives h e x fun _ base ht => hl t _ y ht base
    all_goals exact hl t _ y h e.x
  case store t m k o y =>
    cases m
    case stream x => exact State.runPopped_gives h e x fun _ base ht => hs t _ y ht base
    all_goals exact hs t _ y h e.x
  case atomic =>
    exact gives_ite (fun _ => gives_ok.mpr (State.vdone_memOk h)) fun _ => State.runAtomic_gives h ..
  case skstrm j => exact State.runSkstrm_gives h e j
  all_goals exact ho

theorem State.runEntry_gives {s : State} (h : s.MemOk) (e) :
    Gives VStop.MemOk State.MemOk (s.runEntry e) := by
  unfold State.runEntry
  grind [→ State.stackError_memOk, State.runOp_gives, Gives]

theorem State.atRestart_memOk {s : State} (h : s.MemOk) (e) :
    (s.atRestart e).1.MemOk := by
  unfold State.atRestart
  grind [State.memOk_iff]

theorem State.stayed_memOk {s : State} {t : State} (_h : s.MemOk) (h2 : t.MemOk) (e) :
    (s.stayed e t).MemOk := by
  unfold State.stayed
  grind [State.memOk_iff]

theorem State.runHead_gives {s : State} (h : s.MemOk) (e) :
    Gives VStop.MemOk State.MemOk (s.runHead e) := by
  unfold State.runHead
  grind [State.runEntry_gives, State.atRestart_memOk, State.stayed_memOk, Gives, VStop.MemOk]

theorem State.runSlot_gives {s : State} (h : s.MemOk) (e rem) :
    Gives VStop.MemOk State.MemOk (s.runSlot e rem) := by
  unfold State.runSlot
  grind [State.runEntry_gives, State.atRestart_memOk, State.stayed_memOk, State.runHead_gives, State.memOk_iff, Gives,
    VStop.MemOk]

theorem State.vpop_memOk {s : State} (h : s.MemOk) :
    s.vpop.MemOk := h

theorem State.stalls_memOk {s : State} (h : s.MemOk) (e r) :
    (s.stalls e r).MemOk := h

theorem State.vstall_memOk {s : State} (h : s.MemOk) (e r) :
    (s.vstall e r).MemOk := h

theorem State.vunowned_memOk {s : State} (h : s.MemOk) (e) :
    (s.vunowned e).MemOk := h

theorem State.vstep_memOk {s : State} (h : s.MemOk) : s.vstep.1.MemOk := by
  unfold State.vstep
  split
  · exact h
  · split
    · exact h
    · have hr := State.runHead_gives h
      grind [State.vpop_memOk, State.count_memOk, State.vunowned_memOk, State.vstall_memOk, Gives, VStop.MemOk]

theorem State.vsteps_memOk (n) {s : State} (h : s.MemOk) : (State.vsteps n s).MemOk := by
  induction n generalizing s with
  | zero => exact h
  | succ n ih => grind [State.vsteps, State.vstep_memOk]

theorem State.kstep_memOk {s : State} (h : s.MemOk) : ∀ t, s.kstep = some t → t.MemOk :=
  State.kstepWith_memOk (fun _ e ht => State.runEntry_gives ht e) h

theorem State.ksteps_memOk (n) {s : State} (h : s.MemOk) : (State.ksteps n s).MemOk := by
  induction n generalizing s with
  | zero => exact h
  | succ n ih => grind [State.ksteps, → State.kstep_memOk]

theorem State.passBarrier_memOk {s : State} (h : s.MemOk) :
    s.passBarrier.MemOk := by
  unfold State.passBarrier
  grind [State.memOk_iff]

theorem State.round_memOk {s : State} (h : s.MemOk) :
    s.round.MemOk := by
  unfold State.round
  grind [State.storeSteps_memOk, State.drainB_memOk, State.drainX_memOk, State.vsteps_memOk, State.ksteps_memOk,
    State.passBarrier_memOk]

theorem State.drain_memOk {s : State} (h : s.MemOk) :
    s.drain.MemOk := by
  unfold State.drain
  grind [State.round_memOk]

theorem State.block_gives {α : Type} (s : State) (v) :
    Gives (α := α) Halt.MemOk (fun _ => False) (s.block v) := by
  grind [State.block, State.raise_gives, Gives, Halt.MemOk]

theorem State.stall_gives {α : Type} {s : State} (h : s.MemOk) :
    Gives (α := α) Halt.MemOk (fun _ => False) s.stall := by
  grind [State.stall, State.raise_gives, State.count_memOk, Gives, Halt.MemOk]

theorem State.rawLoad_gives {s : State} (_h : s.MemOk) (va) :
    Gives Halt.MemOk (fun _ => True) (s.rawLoad va) := by
  unfold State.rawLoad
  grind [State.raise_gives, Gives, Halt.MemOk]

theorem State.unclaim_memOk {s : State} (h : s.MemOk) (e) :
    (s.unclaim e).MemOk := h

theorem State.pass_gives {s : State} (h : s.MemOk) (e) : Gives Halt.MemOk State.MemOk (s.pass e) :=
  gives_ite (fun _ => (State.stall_gives (State.unclaim_memOk h e)).never) fun _ => gives_ok.mpr
    (State.drain_memOk (State.memOk_iff.mpr (State.memOk_iff.mp h)))

theorem State.passK_gives {s : State} (h : s.MemOk) (e l) : Gives Halt.MemOk State.MemOk (s.passK e l) := by
  refine gives_ite (fun _ => (State.stall_gives (State.unclaim_memOk h e)).never) fun _ => gives_ok.mpr
    (State.drain_memOk (State.count_memOk ?_ 7 1))
  exact h

theorem State.passB_gives {s : State} (h : s.MemOk) (k) : Gives Halt.MemOk State.MemOk (s.passB k) := by
  unfold State.passB
  have ht (l) : State.MemOk (State.count { s with lc := l } 8 1) := State.count_memOk (s := { s with lc := l }) h 8 1
  refine gives_ite (fun _ => gives_error.mpr trivial) fun _ => gives_ok.mpr ?_
  split
  · exact State.getD_memOk (ht _) (State.bankSend_memOk (ht _))
  · exact State.drain_memOk (ht _)

theorem State.passX_memOk {s : State} (h : s.MemOk) (h' c) :
    (s.passX h' c).MemOk := by
  unfold State.passX
  grind [State.updChan_memOk, State.drain_memOk]

theorem State.claim_memOk {s : State} (h : s.MemOk) (d) :
    (s.claim d).MemOk := by
  unfold State.claim
  grind [State.memOk_iff]

/-! ### Checks of bank commands -/

theorem State.bankFault_gives {s : State} (h : s.MemOk) :
    Gives Halt.MemOk (fun _ => True) s.bankFault := by
  unfold State.bankFault
  grind [State.memOk_iff, Gives, Halt.MemOk]

theorem State.bankInvalid_gives {α : Type} (s : State) (v) :
    Gives (α := α) Halt.MemOk (fun _ => False) (s.bankInvalid v) := State.raise_gives s _ v

theorem State.rowTarget_gives {s : State} (h : s.MemOk) (va) :
    Gives Halt.MemOk (fun _ => True) (s.rowTarget va) := by
  simp only [State.rowTarget, bind, Except.bind]
  grind [State.raise_gives, State.rawLoad_gives, State.bankInvalid_gives, Gives]

theorem State.addHandle_memOk {s : State} (h : s.MemOk) (e) :
    (s.addHandle e).MemOk := h

theorem State.sourceOf_gives {s : State} (h : s.MemOk) (o x) :
    Gives Halt.MemOk (fun _ => True) (s.sourceOf o x) := by
  simp only [State.sourceOf, bind, Except.bind]
  grind [State.useHandle_gives, Gives]

/-! ### Branches -/

theorem State.branch_gives {s : State} (h : s.MemOk) (a b o taken) :
    Gives Halt.MemOk State.MemOk (s.branch a b o taken) := by
  simp only [State.branch, bind, Except.bind]
  grind [State.useS_gives, State.retireAt_memOk, State.retire_memOk, Gives]

theorem State.jump_gives {s : State} (h : s.MemOk) (d t register) :
    Gives Halt.MemOk State.MemOk (s.jump d t register) := by
  simp only [State.jump, bind, Except.bind]
  grind [State.raise_gives, State.setS_memOk, State.claimS_gives, State.retireAt_memOk, Gives]

/-! ### Checks of copy commands -/

theorem State.chanFault_gives {s : State} (h : s.MemOk) (h') :
    Gives Halt.MemOk (fun _ => True) (s.chanFault h') := by
  unfold State.chanFault
  grind [State.updChan_memOk, Gives, Halt.MemOk]

theorem State.chanReady_gives {s : State} (h : s.MemOk) (h') :
    Gives Halt.MemOk (fun _ => True) (s.chanReady h') := by
  simp only [State.chanReady, bind, Except.bind]
  grind [State.raise_gives, State.chanFault_gives, Gives]

theorem State.chanInvalid_gives {s : State} (_h : s.MemOk) (h' bad) :
    Gives Halt.MemOk (fun _ => True) (s.chanInvalid h' bad) := by
  unfold State.chanInvalid
  grind [State.raise_gives, Gives]

theorem State.takeCmd_gives {s : State} (h : s.MemOk) (d h' k dst src len rows) :
    Gives Halt.MemOk State.MemOk (s.takeCmd d h' k dst src len rows) := by
  unfold State.takeCmd
  grind [State.setS_memOk, State.retire_memOk, State.updChan_memOk, State.passX_memOk, Gives, Halt.MemOk]

/-! ### The hand-off to the vector streams -/

theorem State.abandonLoops_memOk {s : State} (h : s.MemOk) :
    s.abandonLoops.MemOk := by
  unfold State.abandonLoops
  grind [State.memOk_iff]

theorem State.nesting_gives {α : Type} {s : State} (h : s.MemOk) :
    Gives (α := α) Halt.MemOk (fun _ => False) s.nesting := by
  have ha := State.abandonLoops_memOk h
  grind [State.nesting, Gives, Halt.MemOk]

theorem State.countLoop_gives {s : State} (h : s.MemOk) :
    Gives Halt.MemOk (fun _ => True) s.countLoop := by
  unfold State.countLoop
  grind [State.nesting_gives, Gives]

theorem State.handOff_gives {s : State} (h : s.MemOk) (p op x y z xp kb) :
    Gives Halt.MemOk State.MemOk (s.handOff p op x y z xp kb) := by
  simp only [State.handOff, bind, Except.bind]
  grind [State.raise_gives, State.pass_gives, State.passK_gives, State.countLoop_gives, Gives, Halt.MemOk]

theorem State.vop_gives {s : State} (h : s.MemOk) (p g op kb) :
    Gives Halt.MemOk State.MemOk (s.vop p g op kb) := by
  simp only [State.vop, bind, Except.bind]
  grind [State.retire_memOk, State.guard_gives, State.handOff_gives, Gives]

theorem State.vopS_gives {s : State} (h : s.MemOk) (p g op b) :
    Gives Halt.MemOk State.MemOk (s.vopS p g op b) := by
  simp only [State.vopS, bind, Except.bind]
  grind [State.useS_gives, State.retire_memOk, State.guard_gives, State.handOff_gives, Gives]

theorem State.vopD_gives {s : State} (h : s.MemOk) (p g op d) :
    Gives Halt.MemOk State.MemOk (s.vopD p g op d) := by
  simp only [State.vopD, bind, Except.bind]
  grind [State.claimS_gives, State.retire_memOk, State.guard_gives, State.claim_memOk, State.handOff_gives, Gives]

theorem State.vBin_gives {s : State} (h : s.MemOk) (o p d a b t okTy) :
    Gives Halt.MemOk State.MemOk (s.vBin o p d a b t okTy) := by
  unfold State.vBin
  grind [State.vop_gives]

theorem State.vBinS_gives {s : State} (h : s.MemOk) (o p d a b t okTy) :
    Gives Halt.MemOk State.MemOk (s.vBinS o p d a b t okTy) := by
  unfold State.vBinS
  grind [State.vopS_gives]

theorem State.vTern_gives {s : State} (h : s.MemOk) (o p d a b t) :
    Gives Halt.MemOk State.MemOk (s.vTern o p d a b t) := by
  unfold State.vTern
  grind [State.vop_gives]

theorem State.vUn_gives {s : State} (h : s.MemOk) (o p d a t okTy) :
    Gives Halt.MemOk State.MemOk (s.vUn o p d a t okTy) := by
  unfold State.vUn
  grind [State.vop_gives]

theorem State.vRed_gives {s : State} (h : s.MemOk) (o p d a b t g) :
    Gives Halt.MemOk State.MemOk (s.vRed o p d a b t g) := by
  unfold State.vRed
  grind [State.vop_gives]

theorem State.kBin_gives {s : State} (h : s.MemOk) (o k a b two) :
    Gives Halt.MemOk State.MemOk (s.kBin o k a b two) := by
  unfold State.kBin
  grind [State.vop_gives]

theorem State.kScalar_gives {s : State} (h : s.MemOk) (first a d) :
    Gives Halt.MemOk State.MemOk (s.kScalar first a d) := by
  unfold State.kScalar
  grind [State.vopD_gives]

/-! ### Binding of contexts -/

theorem State.contextGrant_memOk {s : State} (h : s.MemOk) (stack svu) :
    (s.contextGrant stack svu).MemOk := by
  unfold State.contextGrant
  grind [State.memOk_iff, Device.MemOk]

theorem State.leaveCtx_memOk {s : State} (h : s.MemOk) :
    s.leaveCtx.MemOk := h

theorem State.bindTarget_gives {s : State} (h : s.MemOk) (va) :
    Gives Halt.MemOk (fun _ => True) (s.bindTarget va) := by
  simp only [State.bindTarget, bind, Except.bind]
  grind [State.raise_gives, State.rawLoad_gives, Gives]

theorem State.bindTo_memOk {s : State} (h : s.MemOk) (d m st j c va) :
    (s.bindTo d m st j c va).MemOk := h

/-! ### Strips, groups and the end of a task -/

theorem State.setQ_memOk {s : State} (h : s.MemOk) (q l) :
    (s.setQ q l).MemOk := h

theorem State.markSbar_memOk {s : State} (h : s.MemOk) (m) :
    (s.markSbar m).MemOk := h

theorem State.updTask_memOk {s : State} (h : s.MemOk) (f) :
    (s.updTask f).MemOk := h

theorem Device.writeHeld_memOk {d : Device} (h : d.MemOk) (h') :
    (d.writeHeld h').MemOk := by
  unfold Device.writeHeld
  grind [Device.writeMasked_memOk, Device.giveBack_memOk]

theorem State.commitHeld_memOk {s : State} (h : s.MemOk) : s.commitHeld.MemOk :=
  State.memOk_iff.mpr ⟨List.foldlRecOn (motive := Device.MemOk) _ _ h.dev_memOk fun _ ha _ _ => Device.writeHeld_memOk
    ha _,
    (State.memOk_iff.mp h).2⟩

theorem State.postStrip_gives {s : State} (h : s.MemOk) :
    Gives Halt.MemOk State.MemOk s.postStrip := by
  simp only [State.postStrip, bind, Except.bind]
  grind [State.releaseWait_gives, State.updTask_memOk, Gives]

theorem State.commitStrip_gives {s : State} (h : s.MemOk) :
    Gives Halt.MemOk State.MemOk s.commitStrip := by
  unfold State.commitStrip
  grind [State.commitHeld_memOk, Gives, Halt.MemOk]

theorem State.leaveStrip_gives {s : State} (h : s.MemOk) :
    Gives Halt.MemOk State.MemOk s.leaveStrip := by
  simp only [State.leaveStrip, bind, Except.bind]
  grind [State.postStrip_gives, State.commitStrip_gives, Gives]

theorem State.dispense_memOk {s : State} (h : s.MemOk) : ∀ x, s.dispense = some x → x.1.MemOk := by
  unfold State.dispense
  cases s.task with
  | none => rintro _ ⟨⟩; exact h
  | some t =>
    intro x hx
    obtain ⟨r, -, rfl⟩ := Option.map_eq_some_iff.mp hx
    exact State.updTask_memOk h _

theorem State.takeStrip_memOk {s : State} (h : s.MemOk) (a target) :
    (s.takeStrip a target).MemOk := by
  unfold State.takeStrip
  grind [State.retireAt_memOk, State.retire_memOk, State.memOk_iff]

theorem State.stripDispense_memOk {s : State} (h : s.MemOk) :
    s.stripDispense.MemOk := by
  unfold State.stripDispense
  grind [→ State.dispense_memOk, State.memOk_iff]

theorem State.groupOf_gives {s : State} (h : s.MemOk) (a) :
    Gives Halt.MemOk (fun _ => True) (s.groupOf a) := by
  simp only [State.groupOf, bind, Except.bind]
  grind [State.raise_gives, State.useS_gives, Gives]

theorem State.exitFaults_gives {s : State} (h : s.MemOk) :
    Gives Halt.MemOk (fun _ => True) s.exitFaults := by
  simp only [State.exitFaults, bind, Except.bind]
  grind [State.raise_gives, State.bankFault_gives, State.chanFault_gives, State.nesting_gives, Gives]

theorem State.leaveGroups_memOk {s : State} (h : s.MemOk) :
    s.leaveGroups.MemOk := h

theorem State.endLc_memOk {s : State} (h : s.MemOk) :
    s.endLc.MemOk := h

/-! ### The hand-off to the matrix stream -/

theorem State.shapesDone_gives {s : State} (_h : s.MemOk) :
    Gives Halt.MemOk (fun _ => True) s.shapesDone := by
  unfold State.shapesDone
  grind [Gives, Halt.MemOk]

theorem State.tileMismatch_gives {α : Type} (s : State) (t) :
    Gives (α := α) Halt.MemOk (fun _ => False) (s.tileMismatch t) := State.raise_gives s ..

theorem State.tileMove_gives {s : State} (h : s.MemOk) (t a y op) :
    Gives Halt.MemOk State.MemOk (s.tileMove t a y op) := by
  simp only [State.tileMove, bind, Except.bind]
  grind [State.raise_gives, State.useS_gives, State.retire_memOk, State.guard_gives, State.handOff_gives,
    State.shapesDone_gives, State.tileMismatch_gives, Gives]

theorem State.allocated_gives {s : State} (_h : s.MemOk) (c) :
    Gives Halt.MemOk (fun _ => True) (s.allocated c) := by
  unfold State.allocated
  grind [State.raise_gives, Gives]

theorem State.product_gives {s : State} (h : s.MemOk) (g c a b x y mx f e sat) :
    Gives Halt.MemOk State.MemOk (s.product g c a b x y mx f e sat) := by
  simp only [State.product, bind, Except.bind]
  grind [State.retire_memOk, State.guard_gives, State.handOff_gives, State.shapesDone_gives, State.tileMismatch_gives,
    State.allocated_gives, Gives]

theorem State.accMove_gives {s : State} (h : s.MemOk) (d a c op) :
    Gives Halt.MemOk State.MemOk (s.accMove d a c op) := by
  simp only [State.accMove, bind, Except.bind]
  grind [State.raise_gives, State.useS_gives, State.retire_memOk, State.guard_gives, State.handOff_gives,
    State.allocated_gives, Gives]

end Sys2Proof.Machine
end

section
/-! Proofs, 06: the canonical form through control registers, frames and switches (R145). -/

namespace Sys2Proof.Machine

/-! ### Registers that an instruction reaches -/

theorem State.setVec_memOk {s : State} (h : s.MemOk) (f) :
    (s.setVec f).MemOk := h

theorem State.setGen_memOk {s : State} (h : s.MemOk) (f) :
    (s.setGen f).MemOk := h

theorem State.setTrap_memOk {s : State} (h : s.MemOk) (f) :
    (s.setTrap f).MemOk := h

theorem State.setPool_memOk {s : State} (h : s.MemOk) (f) :
    (s.setPool f).MemOk := h

theorem State.setUserCsr_memOk {s : State} (h : s.MemOk) (n v) :
    (s.setUserCsr n v).MemOk := by
  unfold State.setUserCsr
  grind [State.setVec_memOk, State.setGen_memOk, State.setTrap_memOk, State.memOk_iff]

theorem State.setSuperCsr_memOk {s : State} (h : s.MemOk) (n v) :
    (s.setSuperCsr n v).MemOk := by
  unfold State.setSuperCsr
  grind [State.setTrap_memOk, State.setPool_memOk, State.memOk_iff, Core.MemOk]

theorem State.setCsr_memOk {s : State} (h : s.MemOk) (n v) :
    (s.setCsr n v).MemOk := by
  unfold State.setCsr
  grind [State.setUserCsr_memOk, State.setSuperCsr_memOk]

/-! ### Frames in memory -/

theorem State.storeFrame_gives {s : State} (h : s.MemOk) (va) (g : List Granule) :
    Gives Halt.MemOk State.MemOk (s.storeFrame va g) := by
  induction g generalizing s va with
  | nil => exact gives_ok.mpr h
  | cons g r ih =>
    have hr := State.reachIn_memOk h (s.space true) .store va
    unfold State.storeFrame
    split
    case h_1 t l ht =>
      rw [ht] at hr
      exact gives_ite (fun _ => gives_error.mpr (State.markBad_memOk hr l)) fun _ => ih (State.writeLoc_memOk hr ..) _
    case h_2 => exact (State.raise_gives s ..).never

theorem State.loadFrame_gives {s : State} (h : s.MemOk) (va n) :
    Gives Halt.MemOk (·.1.MemOk) (s.loadFrame va n) := by
  induction n generalizing s va with
  | zero => exact gives_ok.mpr h
  | succ n ih =>
    have hr := State.reachIn_memOk h (s.space true) .load va
    unfold State.loadFrame
    split
    case h_1 t l ht =>
      rw [ht] at hr
      exact gives_ite (fun _ => gives_error.mpr (State.markBad_memOk hr l)) fun _ =>
        (ih hr _).bind fun _ hu => gives_ok.mpr hu
    case h_2 => exact (State.raise_gives s ..).never

theorem State.checkFrame_gives {s : State} (_h : s.MemOk) (va g known) :
    Gives Halt.MemOk (fun _ => True) (s.checkFrame va g known) := by
  unfold State.checkFrame
  grind [State.raise_gives, Gives]

theorem State.restoreCsr_memOk {s : State} (h : s.MemOk) (n v) :
    (s.restoreCsr n v).MemOk := by
  unfold State.restoreCsr
  grind [State.setTrap_memOk, State.setCsr_memOk, State.memOk_iff]

theorem State.foldl_restoreCsr_memOk {s : State} (h : s.MemOk) (base n) (v : Nat → Dword) :
    ((List.range n).foldl (fun t i => t.restoreCsr (base + i) (v i)) s).MemOk :=
  List.foldlRecOn _ _ h fun _ ha _ _ => State.restoreCsr_memOk ha _ _

theorem State.withLc_memOk {s : State} (h : s.MemOk) (l) : State.MemOk { s with lc := l } := h

theorem State.restoreScalar_memOk {s : State} (h : s.MemOk) (g) : (s.restoreScalar g).MemOk := by
  unfold State.restoreScalar
  extract_lets csrs t1 t2
  have h1 : t1.MemOk := State.foldl_restoreCsr_memOk (State.foldl_restoreCsr_memOk h _ _ _) _ _ _
  have h2 : t2.MemOk := State.setCsr_memOk (State.setCsr_memOk (State.setCsr_memOk h1 _ _) _ _) _ _
  exact State.withLc_memOk h2 _

theorem Core.ofFrame_memOk {c : Core} (h : c.MemOk) (p g) : (c.ofFrame p g).MemOk :=
  List.foldlRecOn (motive := Core.MemOk) _ _ (List.foldlRecOn (motive := Core.MemOk) _ _ h fun _ ha _ _ =>
    Core.setSeg_memOk ha ..) fun _ ha _ _ => ha

/-! ### Saving and loading of vector state -/

theorem State.vsave_gives {s : State} (h : s.MemOk) (v) :
    Gives Halt.MemOk State.MemOk (s.vsave v) := by
  simp only [State.vsave, bind, Except.bind]
  grind [State.raise_gives, State.updLc_memOk, State.setPart_memOk, State.storeFrame_gives, Gives, Halt.MemOk]

theorem State.vload_gives {s : State} (h : s.MemOk) (v) :
    Gives Halt.MemOk State.MemOk (s.vload v) := by
  simp only [State.vload, bind, Except.bind]
  grind [State.raise_gives, State.loadFrame_gives, State.checkFrame_gives, Core.ofFrame_memOk, State.memOk_iff, Gives,
    Halt.MemOk]

theorem State.dropK_memOk {s : State} (h : s.MemOk) :
    s.dropK.MemOk := h

theorem State.switchPins_memOk {s : State} (h : s.MemOk) :
    s.switchPins.MemOk := by
  unfold State.switchPins
  grind [Device.releasePins_memOk, State.memOk_iff]

theorem State.switchCtx_memOk {s : State} (h : s.MemOk) :
    s.switchCtx.1.MemOk := by
  unfold State.switchCtx
  grind [State.dropK_memOk, State.memOk_iff, Device.MemOk]

theorem State.vacate_memOk {s : State} (h : s.MemOk) (st) :
    (s.vacate st).MemOk := h

theorem State.yieldOut_gives {s : State} (h : s.MemOk) (w pc) :
    Gives Halt.MemOk State.MemOk (s.yieldOut w pc) := by
  simp only [State.yieldOut, bind, Except.bind]
  grind [State.holdV_memOk, State.storeFrame_gives, State.vacate_memOk, State.memOk_iff, Gives]

theorem State.repin_memOk {s : State} (h : s.MemOk) :
    s.repin.MemOk := h

theorem State.reestablish_gives {s : State} (h : s.MemOk) (g) :
    Gives Halt.MemOk State.MemOk (s.reestablish g) := by
  simp only [State.reestablish, bind, Except.bind]
  grind [State.contextGrant_memOk, State.bindTarget_gives, State.repin_memOk, State.memOk_iff, Device.MemOk, Gives]

theorem State.settleRebind_memOk {s : State} (h : s.MemOk) :
    s.settleRebind.MemOk := by
  unfold State.settleRebind
  grind [State.memOk_iff, Device.MemOk]

theorem State.takeEmpty_memOk {s : State} (h : s.MemOk) :
    s.takeEmpty.MemOk := by
  unfold State.takeEmpty
  grind [State.memOk_iff]

theorem State.putBack_memOk {s : State} (h : s.MemOk) (l g held) :
    (s.putBack l g held).MemOk := by
  unfold State.putBack
  grind [State.restoreScalar_memOk, State.takeEmpty_memOk, State.memOk_iff]

theorem State.requeue_memOk {s : State} (h : s.MemOk) :
    s.requeue.MemOk := by
  unfold State.requeue
  grind [State.memOk_iff]

theorem State.sswitch_gives {s : State} (h : s.MemOk) (v next) :
    Gives Halt.MemOk (·.1.MemOk) (s.sswitch v next) := by
  unfold State.sswitch
  extract_lets sa k scc jp
  refine gives_ite (fun _ => (State.raise_gives s ..).never) fun _ => gives_ite (fun _ => gives_error.mpr trivial) fun
    _ => ?_
  refine (State.storeFrame_gives (State.switchCtx_memOk (State.switchPins_memOk h)) ..).bind fun t ht => ?_
  refine (State.storeFrame_gives ht ..).bind fun t ht => ?_
  have hjp : ∀ t : State, t.MemOk → Gives Halt.MemOk (·.1.MemOk) (jp t) := fun t ht => by
    refine gives_ite (fun _ => gives_ok.mpr ht) fun _ => ?_
    refine (State.loadFrame_gives ht ..).bind fun ⟨a, g⟩ ha => (State.checkFrame_gives h ..).bind fun _ _ => ?_
    refine (State.loadFrame_gives ha ..).bind fun ⟨b, c⟩ hb => (State.checkFrame_gives h ..).bind fun _ _ => ?_
    extract_lets d
    have hd : d.MemOk := hb
    clear_value d
    split
    · exact (State.raise_gives s ..).never
    next l _ =>
      extract_lets t2 jp
      have hjp : ∀ u h, State.MemOk u → Gives Halt.MemOk (·.1.MemOk) (jp (u, h)) := fun u h hu => by
        dsimp only [jp]
        have hb := State.withLc_memOk (State.putBack_memOk hu l g h) { (u.putBack l g h).lc with
          trap := { (u.putBack l g h).lc.trap with savebase := sa.setWidth 57 } }
        exact gives_ite (fun _ => gives_ok.mpr (State.requeue_memOk hb)) fun _ =>
          (State.reestablish_gives hb _).bind fun _ hw => gives_ok.mpr hw
      refine gives_ite (fun _ => ?_) fun _ => hjp _ _ hd
      exact (Gives.bind (R := (·.1.MemOk)) ((State.loadFrame_gives (s := t2) hd ..).bind fun ⟨_, _⟩ hu => gives_ok.mpr
        hu) fun ⟨_, _⟩ hu => hjp _ _ hu)
  exact gives_ite (fun _ => (State.storeFrame_gives ht ..).bind hjp) fun _ => hjp _ ht

theorem State.resume_memOk {s : State} (h : s.MemOk) (l) : (s.resume l).MemOk := by
  unfold State.resume
  extract_lets a d here y k run
  have hh : here.MemOk := h
  have hrun : Gives Halt.MemOk State.MemOk run := by
    refine (State.loadFrame_gives hh ..).bind fun ⟨t, g⟩ ht => (State.checkFrame_gives hh ..).bind fun _ _ => ?_
    extract_lets jp
    have hjp : ∀ u h, State.MemOk u → Gives Halt.MemOk State.MemOk (jp (u, h)) := fun u _ hu =>
      gives_ite (fun _ => gives_ok.mpr (State.requeue_memOk (State.putBack_memOk hu ..))) fun _ =>
        (State.loadFrame_gives hu ..).bind fun v hv => (State.checkFrame_gives hh ..).bind fun _ _ =>
          State.reestablish_gives (State.putBack_memOk hv ..) _
    refine gives_ite (fun _ => ?_) fun _ => hjp _ _ ht
    exact (Gives.bind (R := (·.1.MemOk)) ((State.loadFrame_gives ht ..).bind fun ⟨_, _⟩ hu => gives_ok.mpr hu) fun ⟨_,
      _⟩ hu => hjp _ _ hu) 
  clear_value run
  split
  next t  => exact hrun.2 t rfl
  next => exact State.takeTrap_memOk hh ..
  next t r  => exact State.takeTrap_memOk (hrun.1 _ rfl) ..
  next => exact hh

/-! ### Returns from traps, task ends -/

theorem State.resumeV_memOk {s : State} (h : s.MemOk) (r e) :
    (s.resumeV r e).MemOk := h

theorem State.resumeK_memOk {s : State} (h : s.MemOk) (r) :
    (s.resumeK r).MemOk := by
  unfold State.resumeK
  grind [State.updCtx_memOk, State.memOk_iff]

theorem State.resumeUnits_memOk {s : State} (h : s.MemOk) :
    s.resumeUnits.MemOk := h

theorem State.releaseStalled_memOk {s : State} (h : s.MemOk) (r) :
    (s.releaseStalled r).MemOk := by
  unfold State.releaseStalled
  grind [State.resumeV_memOk]

theorem State.releaseLower_memOk {s : State} (h : s.MemOk) (r) :
    (s.releaseLower r).MemOk := by
  unfold State.releaseLower
  grind [State.memOk_iff]

theorem State.releaseK_memOk {s : State} (h : s.MemOk) (r) :
    (s.releaseK r).MemOk := by
  unfold State.releaseK
  grind [State.resumeK_memOk]

theorem State.eretSuper_memOk {s : State} (h : s.MemOk) :
    s.eretSuper.MemOk := by
  unfold State.eretSuper
  grind [State.retireAt_memOk, State.vacate_memOk, State.requeue_memOk, State.resumeUnits_memOk,
    State.releaseStalled_memOk, State.releaseLower_memOk, State.releaseK_memOk, State.memOk_iff]

theorem State.eretUser_memOk {s : State} (h : s.MemOk) :
    s.eretUser.MemOk := by
  unfold State.eretUser
  grind [State.retireAt_memOk, State.resumeUnits_memOk, State.releaseStalled_memOk, State.releaseK_memOk,
    State.memOk_iff]

theorem State.pushRebind_memOk {s : State} (h : s.MemOk) :
    s.pushRebind.MemOk := by
  unfold State.pushRebind
  grind [State.contextGrant_memOk, State.settleRebind_memOk]

theorem State.skipTrapped_memOk {s : State} (h : s.MemOk) :
    s.skipTrapped.MemOk := by
  unfold State.skipTrapped
  grind [State.setTrap_memOk]

theorem State.clearRm_memOk {s : State} (h : s.MemOk) :
    s.clearRm.MemOk := by
  unfold State.clearRm
  grind [State.setTrap_memOk]

theorem State.replaceLanes_memOk {s : State} (h : s.MemOk) (e t b m y) :
    (s.replaceLanes e t b m y).MemOk := by
  unfold State.replaceLanes
  grind [State.writeElems_memOk, State.clearRm_memOk, State.memOk_iff]

/-! ### Writes of control registers -/

theorem State.badCsr_gives {α : Type} (s : State) (n) :
    Gives (α := α) Halt.MemOk (fun _ => False) (s.badCsr n) := State.raise_gives s ..

theorem State.setRoles_memOk {s : State} (h : s.MemOk) (v) : (s.setRoles v).MemOk :=
  h.withCore (Memory.wf_filter h.core_memOk _)

theorem State.writeBankrole_gives {s : State} (h : s.MemOk) (v) :
    Gives Halt.MemOk State.MemOk (s.writeBankrole v) := by
  unfold State.writeBankrole
  grind [State.badCsr_gives, State.setRoles_memOk, Gives, Halt.MemOk]

theorem Core.foldl_memOk {c : Core} (h : c.MemOk) {α : Type} (l : List α) {f : Core → α → Core}
    (hf : ∀ c a, Core.MemOk c → (f c a).MemOk) : (l.foldl f c).MemOk :=
  List.foldlRecOn _ _ h fun c hc a _ => hf c a hc

theorem State.writeAccalloc_gives {s : State} (h : s.MemOk) (v) :
    Gives Halt.MemOk State.MemOk (s.writeAccalloc v) :=
  (State.shapesDone_gives h).bind fun _ _ => gives_ite (fun _ => gives_error.mpr trivial) fun _ =>
    gives_ok.mpr (h.withCore (Core.foldl_memOk h.core_memOk _ fun _ _ hc => hc))

theorem State.writeTcfg_gives {s : State} (h : s.MemOk) (t v) :
    Gives Halt.MemOk State.MemOk (s.writeTcfg t v) := by
  simp only [State.writeTcfg, bind, Except.bind]
  grind [State.shapesDone_gives, State.badCsr_gives, State.memOk_iff, Gives]

theorem State.tlbinv_gives {s : State} (h : s.MemOk) (scope kind vpn) :
    Gives Halt.MemOk State.MemOk (s.tlbinv scope kind vpn) := by
  simp only [State.tlbinv, bind, Except.bind]
  grind [State.releaseWait_gives, State.badCsr_gives, State.memOk_iff, Device.MemOk, Core.MemOk, Gives, Halt.MemOk]

theorem State.xreset_gives {s : State} (h : s.MemOk) (h') :
    Gives Halt.MemOk State.MemOk (s.xreset h') := by
  unfold State.xreset
  grind [State.updChan_memOk, State.badCsr_gives, Gives]

theorem State.tkill_memOk {s : State} (h : s.MemOk) (code) :
    (s.tkill code).MemOk := by
  unfold State.tkill
  grind [State.endTask_memOk]

theorem State.scctl_memOk {s : State} (h : s.MemOk) (v) :
    (s.scctl v).MemOk := by
  unfold State.scctl
  grind [State.commitHeld_memOk]

theorem State.writePooltail_gives {s : State} (h : s.MemOk) (v) :
    Gives Halt.MemOk State.MemOk (s.writePooltail v) := by
  simp only [State.writePooltail, bind, Except.bind]
  grind [State.releaseWait_gives, State.setPool_memOk, State.badCsr_gives, Gives]

theorem State.csrReach_gives {s : State} (_h : s.MemOk) (n read) :
    Gives Halt.MemOk (fun _ => True) (s.csrReach n read) := by
  unfold State.csrReach
  grind [State.raise_gives, Gives]

theorem State.csrWait_gives {s : State} (h : s.MemOk) (n read) :
    Gives Halt.MemOk (fun _ => True) (s.csrWait n read) := by
  unfold State.csrWait
  grind [State.shapesDone_gives, Gives, Halt.MemOk]

theorem Gives.map {ε α β : Type} {P : ε → Prop} {Q : α → Prop} {R : β → Prop} {x : Except ε β} {f : β → α}
    (hx : Gives P R x) (hf : ∀ a, R a → Q (f a)) : Gives P Q (x.map f) := by
  cases x with
  | error e => exact gives_error.mpr (hx.1 e rfl)
  | ok a => exact gives_ok.mpr (hf a (hx.2 a rfl))

theorem Gives.thenTrue {x : Except Halt State} (hx : Gives Halt.MemOk State.MemOk x) :
    Gives Halt.MemOk (fun a : State × Bool => a.1.MemOk) (x.map fun t => (t, true)) :=
  hx.map fun _ ht => ht

theorem State.csrStore_gives {s : State} (h : s.MemOk) (n v) :
    Gives Halt.MemOk (·.1.MemOk) (s.csrStore n v) := by
  unfold State.csrStore
  split
  · exact (State.writeAccalloc_gives h v).thenTrue
  · exact (State.writeBankrole_gives h v).thenTrue
  · exact gives_ok.mpr (State.scctl_memOk h v)
  · exact (State.sswitch_gives h ..).bind fun _ ha => gives_ok.mpr ha
  · exact (State.vsave_gives h v).thenTrue
  · exact (State.vload_gives h v).thenTrue
  · exact (State.xreset_gives h _).thenTrue
  · exact gives_ok.mpr (State.tkill_memOk h _)
  · exact (State.tlbinv_gives h ..).thenTrue
  · exact (State.writePooltail_gives h v).thenTrue
  · exact gives_ite (fun _ => (State.writeTcfg_gives h ..).thenTrue) fun _ =>
      gives_ite (fun _ => (State.badCsr_gives s n).never) fun _ => gives_ok.mpr (State.setCsr_memOk h ..)

theorem State.csrWrite_gives {s : State} (h : s.MemOk) (o a n) :
    Gives Halt.MemOk State.MemOk (s.csrWrite o a n) := by
  refine (State.csrReach_gives h ..).bind fun old _ => gives_ite (fun _ => gives_ite (fun _ =>
    gives_ok.mpr (State.retire_memOk h)) fun _ => (State.raise_gives s ..).never) fun _ => ?_
  refine gives_ite (fun _ => (State.badCsr_gives s n).never) fun _ => ?_
  refine (State.useS_gives h _).bind fun x _ => (State.csrWait_gives h ..).bind fun _ _ => ?_
  refine gives_ite (fun _ => gives_ok.mpr (State.retire_memOk h)) fun _ => ?_
  refine (State.csrStore_gives h ..).bind fun a ha => gives_ok.mpr ?_
  split
  · exact State.retire_memOk ha
  · exact ha

end Sys2Proof.Machine
end

section
/-! Proofs, 06: the canonical form through launches and scheduling (R145). -/

namespace Sys2Proof.Machine

/-! ### Launches, spawns and offers -/

theorem Device.setFunc_memOk {d : Device} (h : d.MemOk) (f) :
    (d.setFunc f).MemOk := h

theorem Device.grantRings_memOk {d : Device} (h : d.MemOk) :
    d.grantRings.MemOk := h

theorem Device.accept_memOk {d : Device} (h : d.MemOk) (t) :
    (d.accept t).MemOk := h

theorem State.servePort_memOk {s : State} (h : s.MemOk) (fn n) :
    (s.servePort fn n).MemOk := by
  unfold State.servePort
  grind [Device.setFunc_memOk, Device.accept_memOk, State.memOk_iff]

theorem State.acceptSpawn_memOk {s : State} (h : s.MemOk) (who fn p) :
    (s.acceptSpawn who fn p).1.MemOk := by
  unfold State.acceptSpawn
  grind [Device.setFunc_memOk, Device.accept_memOk, State.memOk_iff]

theorem State.serveSpawn_memOk {s : State} (h : s.MemOk) (fn) :
    (s.serveSpawn fn).MemOk := by
  unfold State.serveSpawn
  grind [State.acceptSpawn_memOk, State.memOk_iff, Device.MemOk]

theorem State.intake_memOk {s : State} (h : s.MemOk) :
    ∀ t, s.intake = some t → t.MemOk := by
  unfold State.intake
  grind [Device.setFunc_memOk, State.servePort_memOk, State.serveSpawn_memOk, State.memOk_iff, Device.MemOk]

theorem gives_mapM {ε α β : Type} {P : ε → Prop} {f : α → Except ε β} (l : List α)
    (hf : ∀ a, Gives P (fun _ => True) (f a)) : Gives P (fun _ => True) (l.mapM f) := by
  induction l with
  | nil => exact gives_ok.mpr trivial
  | cons a l ih =>
    rw [List.mapM_cons]
    exact (hf a).bind fun _ _ => ih.bind fun _ _ => gives_ok.mpr trivial

theorem State.readPacket_gives {s : State} (h : s.MemOk) (va) :
    Gives Halt.MemOk (·.1.MemOk) (s.readPacket va) := by
  refine Gives.bind (gives_mapM _ fun a => (State.locS_gives h ..).bind fun _ _ => gives_ok.mpr trivial) fun ps _ => ?_
  refine gives_ite (fun _ => gives_error.mpr (State.hostAsk_memOk h ..)) fun _ => ?_
  refine (gives_foldlM (Q := fun a : State × List Nat => a.1.MemOk) _ (State.hostAsk_memOk h ..) fun b p hb => ?_).bind
    fun a ha => gives_ok.mpr ha
  split
  · exact (State.loadAt_gives hb ..).bind fun _ hc => gives_ok.mpr hc
  · exact gives_ok.mpr hb

theorem State.serveOwn_memOk {s : State} (h : s.MemOk) (n) : (s.serveOwn n).MemOk := by
  induction n generalizing s with
  | zero => exact h
  | succ n ih => grind [State.serveOwn, → State.intake_memOk]

theorem State.offerSpawn_memOk {s : State} (h : s.MemOk) (p) :
    (s.offerSpawn p).MemOk := by
  unfold State.offerSpawn
  grind [State.serveOwn_memOk, State.memOk_iff, Device.MemOk]

theorem State.spawned_memOk {s : State} (h : s.MemOk) (d id) :
    (s.spawned d id).MemOk := h

theorem State.startHere_memOk {s : State} (h : s.MemOk) (t) :
    (s.startHere t).MemOk := by
  unfold State.startHere
  grind [Device.updTask_memOk, State.takeEmpty_memOk, State.memOk_iff]

theorem State.startAt_memOk {s : State} (h : s.MemOk) (t core no) :
    (s.startAt t core no).MemOk := by
  unfold State.startAt
  grind [State.turnTo_memOk, State.startHere_memOk]

theorem State.startGang_memOk {s : State} (h : s.MemOk) (seq cores n) : (s.startGang seq cores n).MemOk := by
  induction n generalizing s with
  | zero => exact h
  | succ n ih => grind [State.startGang, State.startAt_memOk]

theorem State.offerCore_memOk {s : State} (h : s.MemOk) (core) :
    ∀ t, s.offerCore core = some t → t.MemOk := by
  unfold State.offerCore
  grind [State.turnTo_memOk, State.resume_memOk, State.startAt_memOk, State.startGang_memOk]

theorem Device.recordAt_memOk {d : Device} (h : d.MemOk) (t) :
    (d.recordAt t).1.MemOk := by
  unfold Device.recordAt
  grind [Device.fetchXl_memOk]

theorem Device.recordFails_memOk {d : Device} (h : d.MemOk) (fn) :
    (d.recordFails fn).MemOk := h

theorem State.writeCompletion_memOk {s : State} (h : s.MemOk) (t) :
    (s.writeCompletion t).MemOk := by
  unfold State.writeCompletion
  grind [Device.writeAt_memOk, Device.recordAt_memOk, Device.recordFails_memOk, State.memOk_iff, Device.MemOk]

theorem State.retireTask_memOk {s : State} (h : s.MemOk) (t) :
    (s.retireTask t).MemOk := h

theorem State.completeTask_memOk {s : State} (h : s.MemOk) (seq) :
    (s.completeTask seq).MemOk := by
  unfold State.completeTask
  grind [State.writeCompletion_memOk, State.retireTask_memOk]

/-! ### Scheduling and traps at a boundary -/

theorem State.fetch_gives {s : State} (h : s.MemOk) :
    Gives Halt.MemOk State.MemOk s.fetch := by
  simp only [State.fetch, bind, Except.bind]
  grind [State.raise_gives, State.markBad_memOk, State.locS_gives, State.hostRead_gives, State.memOk_iff, Gives,
    Halt.MemOk]

theorem State.abandon_memOk {s : State} (h : s.MemOk) :
    s.abandon.MemOk := h

theorem State.restartDiscard_memOk {s : State} (h : s.MemOk) (c) : (s.restartDiscard c).MemOk := by
  refine State.takeTrap_memOk ?_ _ _
  exact h.withCore (Core.foldl_memOk h.core_memOk _ fun _ _ hc => hc)

theorem State.takeAsync_memOk {s : State} (h : s.MemOk) (c) :
    (s.takeAsync c).MemOk := by
  unfold State.takeAsync
  grind [State.takeTrap_memOk, State.restartDiscard_memOk, State.memOk_iff]

theorem State.takeReport_memOk {s : State} (h : s.MemOk) : ∀ t, s.takeReport = some t → t.MemOk := by
  have hv : ∀ l r b, (State.takeTrap { s with lc := l } r b).MemOk := fun l r b => State.takeTrap_memOk
    (State.withLc_memOk h l) r b
  unfold State.takeReport
  cases s.lc.vreport <;> cases s.lc.kreport <;> grind

theorem State.boundary_memOk {s : State} (h : s.MemOk) : ∀ t, s.boundary = some t → t.MemOk := by
  have ha := State.abandon_memOk h
  unfold State.boundary
  cases s.lc.due <;> grind [State.takeAsync_memOk, State.takeReport_memOk ha]

theorem State.sliceCheck_memOk {s : State} (h : s.MemOk) :
    s.sliceCheck.MemOk := by
  unfold State.sliceCheck
  grind [State.memOk_iff]

theorem State.watchdogCheck_memOk {s : State} (h : s.MemOk) :
    s.watchdogCheck.MemOk := by
  unfold State.watchdogCheck
  grind [State.memOk_iff]

theorem State.preemptCheck_memOk {s : State} (h : s.MemOk) :
    s.preemptCheck.MemOk := by
  unfold State.preemptCheck
  grind [State.updLc_memOk, State.memOk_iff, Core.MemOk]

theorem State.lcYield_memOk {s : State} (h : s.MemOk) :
    ∀ x, s.lcYield = some x → Gives Halt.MemOk State.MemOk x := by
  unfold State.lcYield
  intro x hx
  split at hx
  · split at hx
    next t ht =>
      obtain ⟨w, -, rfl⟩ := Option.map_eq_some_iff.mp hx
      exact State.yieldOut_gives ((State.fetch_gives h).2 t ht) ..
    · nomatch hx
  · nomatch hx

theorem State.passTime_memOk {s : State} (h : s.MemOk) :
    s.passTime.MemOk := h

theorem State.account_memOk {s : State} {t : State} (_h : s.MemOk) (h2 : t.MemOk) :
    (s.account t).MemOk := by
  unfold State.account
  grind [State.sliceCheck_memOk, State.watchdogCheck_memOk, State.preemptCheck_memOk, State.passTime_memOk,
    State.memOk_iff]

theorem State.singleStep_memOk {s : State} {t : State} (_h : s.MemOk) (h2 : t.MemOk) :
    (s.singleStep t).MemOk := by
  unfold State.singleStep
  grind [State.takeTrap_memOk]

theorem State.otherWork_memOk {s : State} (h : s.MemOk) : s.otherWork.MemOk := by
  have hy := State.lcYield_memOk h
  unfold State.otherWork
  split
  next t ht => exact (hy _ ht).2 t rfl
  next r _ => exact State.takeTrap_memOk h ..
  next t r ht => exact State.takeTrap_memOk ((hy _ ht).1 _ rfl : t.MemOk) ..
  next => exact h
  next =>
    split
    · exact State.completeTask_memOk h _
    split
    next t ht => exact State.intake_memOk h t ht
    split
    next t ht =>
      obtain ⟨n, -, hn⟩ := List.exists_of_findSome?_eq_some ht
      exact State.offerCore_memOk h n t hn
    split
    · exact State.focus_memOk h _
    · exact h

theorem State.counterWrap_memOk {s : State} (h : s.MemOk) (n) :
    (s.counterWrap n).MemOk := by
  unfold State.counterWrap
  grind [State.memOk_iff]

theorem State.toMatrix_memOk {s : State} (h : s.MemOk) :
    s.toMatrix.MemOk := by
  unfold State.toMatrix
  grind [State.memOk_iff]

theorem State.await_memOk {s : State} (h : s.MemOk) : s.await.MemOk := by
  unfold State.await
  split
  · exact h
  next e _ =>
    split
    · exact h
    · split
      next t ht => exact (State.runSlot_gives h e _).1 _ ht
      · exact h

theorem State.issueSlot_memOk {s : State} (h : s.MemOk) : s.issueSlot.MemOk := by
  unfold State.issueSlot
  split
  · exact h
  next e r _ =>
    extract_lets rem after
    have ha : ∀ t b, State.MemOk t → (after t b).MemOk := fun t b ht => by
      dsimp only [after]
      split
      · exact State.count_memOk (State.vpop_memOk ht) ..
      · refine State.count_memOk ?_ _ _
        exact ht
    have hr := State.runSlot_gives h e rem
    split
    · exact ha _ _ h
    · split
      next t ht => exact ha _ _ (hr.2 t ht)
      next t ht => exact hr.1 _ ht
      next t f ht => exact State.count_memOk (State.vstall_memOk (hr.1 _ ht) ..) ..

theorem State.issueSlots_memOk {s : State} (h : s.MemOk) (n) : (s.issueSlots n).MemOk := by
  induction n generalizing s with
  | zero => exact h
  | succ n ih => exact ih (State.issueSlot_memOk h)

theorem State.applySlots_memOk {s : State} (h : s.MemOk) (c) :
    (s.applySlots c).MemOk := by
  unfold State.applySlots
  grind [State.issueSlots_memOk, State.memOk_iff]

theorem State.foldl_memOk {s : State} (h : s.MemOk) {α : Type} (l : List α) {f : State → α → State}
    (hf : ∀ s a, State.MemOk s → (f s a).MemOk) : (l.foldl f s).MemOk :=
  List.foldlRecOn _ _ h fun s hs a _ => hf s a hs

theorem State.laneCycle_memOk {s : State} (h : s.MemOk) (core) : (s.laneCycle core).MemOk := by
  refine State.foldl_memOk (State.foldl_memOk h _ fun t n ht => State.await_memOk (State.toMatrix_memOk
    (State.turnTo_memOk ht ..))) _ fun t n ht => ?_
  have hu := State.turnTo_memOk ht core n
  dsimp only
  split
  · exact State.applySlots_memOk hu _
  · exact hu

theorem State.backTo_memOk {t : State} {s : State} (h : t.MemOk) (_h : s.MemOk) :
    (t.backTo s).MemOk := by
  unfold State.backTo
  grind [State.turnTo_memOk, State.focus_memOk]

theorem State.nextBand_gives {s : State} (h : s.MemOk) (m) :
    Gives VStop.MemOk State.MemOk (s.nextBand m) := by
  unfold State.nextBand
  grind [State.runBand_gives, Gives]

theorem State.bandDone_memOk {s : State} (h : s.MemOk) (m) :
    (s.bandDone m).MemOk := by
  unfold State.bandDone
  grind [State.vdone_memOk, State.memOk_iff]

theorem State.reportBand_memOk {s : State} (h : s.MemOk) : ∀ t, s.reportBand = some t → t.MemOk := by
  unfold State.reportBand
  intro t ht
  split at ht
  next m _ =>
    split at ht
    next u r hu =>
      split at ht
      · nomatch ht
      · cases ht
        exact State.stalls_memOk ((State.nextBand_gives h m).1 _ hu) m.entry r
    · nomatch ht
  · nomatch ht

theorem State.matrixBand_memOk {s : State} (h : s.MemOk) (core) : (s.matrixBand core).MemOk := by
  unfold State.matrixBand
  dsimp only
  split
  · exact h
  next q _ =>
    have ht := State.turnTo_memOk (State.foldl_memOk h (s.pendingBands core) fun t p ht => State.setPart_memOk ht
      { t.findPart core p.1.no with bcredit := (t.findPart core p.1.no).bcredit + (p.2 : Int) -
        (if p.1.no = q.1.no then (((s.pendingBands core).map (·.2)).sum : Int) else 0) }) core q.1.no
    split
    next m _ =>
      split
      next u hu => exact State.bandDone_memOk ((State.nextBand_gives ht m).2 u hu) m
      · cases hr : (State.turnTo _ core q.1.no).reportBand with
        | none => exact ht
        | some u => exact State.reportBand_memOk ht u hr
    · exact ht

theorem State.reportHead_memOk {s : State} (h : s.MemOk) : s.reportHead.MemOk := by
  unfold State.reportHead
  split
  · exact h
  next e _ _ =>
    split
    · exact h
    split
    · exact State.vunowned_memOk h _
    split
    next t r ht => exact State.count_memOk (State.vstall_memOk ((State.runSlot_gives h e _).1 _ ht) ..) ..
    · exact h

theorem Device.serve_memOk {d : Device} (h : d.MemOk) (u) :
    (d.serve u).MemOk := h

theorem State.kserve_memOk {s : State} (h : s.MemOk) : ∀ t, s.kserve = some t → t.MemOk := by
  unfold State.kserve
  intro t ht
  split at ht
  · exact State.kstep_memOk h t ht
  split at ht
  · nomatch ht
  split at ht
  · obtain ⟨u, hu, rfl⟩ := Option.map_eq_some_iff.mp ht
    have hu := State.kstep_memOk h u hu
    exact hu.withDev (Device.serve_memOk hu.dev_memOk _)
  · nomatch ht

end Sys2Proof.Machine
end

section
/-! Proofs, 06: the canonical form through the memory side, the host and management (R145). -/

namespace Sys2Proof.Machine

/-! ### The memory side on its own -/

theorem Device.fillPtrs_memOk {d : Device} (h : d.MemOk) (x pool va pick) :
    (d.fillPtrs x pool va pick).MemOk := h

theorem State.coreWalk_memOk {s : State} (h : s.MemOk) (va) :
    (s.coreWalk va).MemOk := by
  unfold State.coreWalk
  grind [Device.fillPtrs_memOk, State.memOk_iff, Core.MemOk]

theorem State.baseWalk_memOk {s : State} (h : s.MemOk) (va) :
    (s.baseWalk va).MemOk := by
  unfold State.baseWalk
  grind [Device.fillPtrs_memOk, State.memOk_iff, Device.MemOk]

theorem Device.scatterArrival_memOk {d : Device} (h : d.MemOk) (pick) :
    (d.scatterArrival pick).MemOk := by
  unfold Device.scatterArrival
  grind [Device.join_memOk, Device.MemOk]

theorem Device.logCause_memOk {d : Device} (h : d.MemOk) (c) :
    (d.logCause c).MemOk := h

theorem State.scrubRead_memOk {s : State} (h : s.MemOk) (granule correctable uncorrectable) :
    (s.scrubRead granule correctable uncorrectable).MemOk := by
  unfold State.scrubRead
  grind [Device.wake_memOk, Device.poison_memOk, Device.logCause_memOk, State.memOk_iff, Device.MemOk]

theorem State.loseBinding_memOk {s : State} (h : s.MemOk) :
    s.loseBinding.MemOk := by
  unfold State.loseBinding
  grind [State.dropK_memOk, State.memOk_iff, Device.MemOk]

theorem State.loseBindings_memOk {s : State} (h : s.MemOk) (owners) : (s.loseBindings owners).MemOk := by
  refine State.backTo_memOk (State.foldl_memOk h _ fun t k ht => ?_) h
  split
  · exact State.loseBinding_memOk (State.focus_memOk ht k)
  · exact ht

theorem State.unitFail_memOk {s : State} (h : s.MemOk) (stack svu) :
    (s.unitFail stack svu).MemOk := by
  unfold State.unitFail
  grind [Device.logCause_memOk, State.loseBindings_memOk, State.memOk_iff, Device.MemOk]

theorem Device.foldl_memOk {d : Device} (h : d.MemOk) {α : Type} (l : List α) {f : Device → α → Device}
    (hf : ∀ d a, Device.MemOk d → (f d a).MemOk) : (l.foldl f d).MemOk :=
  List.foldlRecOn _ _ h fun d hd a _ => hf d a hd

theorem Device.agentRead_memOk {d : Device} (h : d.MemOk) (pa n) : (d.agentRead pa n).1.MemOk := by
  refine Device.foldl_memOk ?_ _ fun _ _ hd => Device.poison_memOk hd _
  exact Device.settle_memOk h pa n

theorem Device.agentAmo_memOk {d : Device} (h : d.MemOk) (o n off x c) :
    (d.agentAmo o n off x c).MemOk := by
  unfold Device.agentAmo
  grind [Device.writeP_memOk, Device.agentRead_memOk, Device.MemOk]

theorem Device.peer_memOk {d : Device} (h : d.MemOk) (t) :
    (d.peer t).MemOk := by
  unfold Device.peer
  grind [Device.writeAt_memOk, Device.dropLcs_memOk, Device.agentRead_memOk, Device.agentAmo_memOk, Device.MemOk]

/-! ### The host interface -/

theorem State.resetFunction_memOk {s : State} (h : s.MemOk) (fn) : (s.resetFunction fn).MemOk := by
  have ht := State.foldl_memOk h (((s.dev.tasks.filter (·.fn == fn)).map (·.seq))) fun t q ht =>
    State.endTask_memOk (ht.withDev (Device.updTask_memOk ht.dev_memOk q ({ · with completion := 0 }))) q 0
  exact ht.withDev (Device.setFunc_memOk ht.dev_memOk _)

theorem Device.windowFill_memOk {d : Device} (h : d.MemOk) (x va pick) :
    (d.windowFill x va pick).MemOk := by
  unfold Device.windowFill
  grind [Device.fillPtrs_memOk, Device.MemOk]

theorem Device.windowReach_memOk {d : Device} (h : d.MemOk) (f k va pick) :
    (d.windowReach f k va pick).1.MemOk := by
  unfold Device.windowReach
  grind [Device.fetchXl_memOk, Device.windowFill_memOk]

theorem Device.windowPlaces_memOk {d : Device} (h : d.MemOk) (f k pick l) : (d.windowPlaces f k pick l).1.MemOk := by
  induction l generalizing d with
  | nil => exact h
  | cons p r ih => grind [Device.windowPlaces, Device.windowReach_memOk]

theorem Device.windowFails_memOk {d : Device} (h : d.MemOk) (fn) :
    (d.windowFails fn).MemOk := h

theorem Device.windowRead_memOk {d : Device} (h : d.MemOk) (fn off n pick) : (d.windowRead fn off n pick).MemOk := by
  have hp := Device.windowPlaces_memOk h (d.func fn) .load pick ((d.func fn).pieces off n)
  unfold Device.windowRead
  dsimp only
  split
  next u hu =>
    rw [hu] at hp
    exact Device.windowFails_memOk hp fn
  next u l hu =>
    rw [hu] at hp
    exact List.foldlRecOn (motive := fun a : Device × List Byte × Bool => a.1.MemOk) _ _ hp fun _ ha _ _ =>
      Device.agentRead_memOk ha ..

theorem Device.clearCovered_memOk {d : Device} (h : d.MemOk) (pa n) :
    (d.clearCovered pa n).MemOk := h

theorem Device.windowPut_memOk {d : Device} (h : d.MemOk) (poisoned l bs) : (d.windowPut poisoned l bs).MemOk := by
  induction l generalizing d bs with
  | nil => exact h
  | cons p r ih =>
    have hw := Device.foldl_memOk h (windowParts p.1 p.2) fun d q hd =>
      Device.writeAt_memOk hd q.1 q.2 (ofBytes ((bs.drop (q.1 - p.1)).take q.2)) poisoned
    cases poisoned with
    | true => exact ih hw _
    | false => exact ih (Device.clearCovered_memOk hw _ _) _

theorem Device.windowWrite_memOk {d : Device} (h : d.MemOk) (fn off bs poisoned pick) :
    (d.windowWrite fn off bs poisoned pick).MemOk := by
  unfold Device.windowWrite
  grind [Device.windowPlaces_memOk, Device.windowFails_memOk, Device.windowPut_memOk]

theorem State.answerReq_memOk {s : State} (h : s.MemOk) (r a poisoned) : (s.answerReq r a poisoned).MemOk := by
  unfold State.answerReq
  dsimp only
  split
  · split
    · exact h
    · refine State.MemOk.withDev (s := s) h (Device.recordFails_memOk ?_ _)
      exact h.dev_memOk
    · refine State.updLc_memOk ?_ _ _
      exact h
  · refine h.withDev ?_
    split
    · refine Device.foldl_memOk ?_ _ fun _ _ hd => Device.poison_memOk hd _
      exact h.dev_memOk
    · exact h.dev_memOk

/-! ### Management, boot and firmware -/

theorem Device.hostFlag_memOk {d : Device} (h : d.MemOk) (b) :
    (d.hostFlag b).MemOk := h

theorem Device.refuse_memOk {d : Device} (h : d.MemOk) (c) :
    (d.refuse c).MemOk := by
  unfold Device.refuse
  grind [Device.hostFlag_memOk, Device.MemOk, Mgmt.MemOk]

theorem Device.badValue_memOk {d : Device} (h : d.MemOk) :
    d.badValue.MemOk := h

theorem Device.setMgmt_memOk {d : Device} (h : d.MemOk) {f : Mgmt → Mgmt} (hf : (f d.mgmt).MemOk) :
    (d.setMgmt f).MemOk := ⟨h.1, hf⟩

theorem Device.asOwner_memOk {d : Device} (h : d.MemOk) (c) {f : Device → Device} (hf : (f d).MemOk) :
    (d.asOwner c f).MemOk := by
  unfold Device.asOwner
  split
  · exact hf
  · exact Device.refuse_memOk h c

theorem State.bnklimArrives_memOk {s : State} (h : s.MemOk) (stack) :
    (s.bnklimArrives stack).MemOk := by
  unfold State.bnklimArrives
  grind [State.bankAdmit_memOk, Device.takeLimit_memOk, State.memOk_iff]

theorem State.writeBnklim_memOk {s : State} (h : s.MemOk) (c v) : (s.writeBnklim c v).MemOk := by
  unfold State.writeBnklim
  dsimp only
  split
  · exact h.withDev (Device.refuse_memOk h.dev_memOk c)
  split
  · exact h.withDev (Device.badValue_memOk h.dev_memOk)
  · exact State.foldl_memOk (h.withDev (Device.setMgmt_memOk h.dev_memOk h.dev_memOk.2)) _ fun _ _ ht =>
      State.bnklimArrives_memOk ht _

theorem Device.writePcap_memOk {d : Device} (h : d.MemOk) (c v) :
    (d.writePcap c v).MemOk := by
  unfold Device.writePcap
  grind [Device.badValue_memOk, Device.setMgmt_memOk, Device.asOwner_memOk, Device.MemOk, Mgmt.MemOk]

theorem Device.writeRecovery_memOk {d : Device} (h : d.MemOk) (off v) : (d.writeRecovery off v).MemOk := by
  unfold Device.writeRecovery
  split
  · exact Device.setMgmt_memOk h ⟨Memory.wf_put h.2.1 _ _, h.2.2⟩
  · exact h

theorem Device.writeMmio_memOk {d : Device} (h : d.MemOk) (c fn r v) :
    (d.writeMmio c fn r v).MemOk := by
  unfold Device.writeMmio
  grind [Device.setFunc_memOk, Device.setMgmt_memOk, Device.asOwner_memOk, Device.writePcap_memOk,
    Device.writeRecovery_memOk, Device.MemOk, Mgmt.MemOk]

theorem State.writeClkstep_memOk {s : State} (h : s.MemOk) (c core v) :
    (s.writeClkstep c core v).MemOk := by
  unfold State.writeClkstep
  grind [State.findCore_memOk, State.setCore_memOk, Device.refuse_memOk, Device.badValue_memOk, State.memOk_iff,
    Core.MemOk]

theorem Core.raiseFloor_memOk {c : Core} (h : c.MemOk) :
    c.raiseFloor.MemOk := h

theorem Core.lowerFloor_memOk {c : Core} (h : c.MemOk) :
    c.lowerFloor.MemOk := h

theorem State.moveFloors_memOk {s : State} (h : s.MemOk) (cores up) : (s.moveFloors cores up).MemOk :=
  State.foldl_memOk h _ fun t n ht => by
    have hc := State.findCore_memOk ht n
    refine State.setCore_memOk ht ?_
    split
    · exact Core.raiseFloor_memOk hc
    · exact Core.lowerFloor_memOk hc

theorem Device.moveLimits_memOk {d : Device} (h : d.MemOk) (by_ up) : (d.moveLimits by_ up).MemOk :=
  Device.foldl_memOk h _ fun _ _ hd => Device.setStack_memOk hd _

theorem State.powerSteps_memOk {s : State} (h : s.MemOk) (l) :
    (s.powerSteps l).MemOk := h

theorem State.powerUp_memOk {s : State} (h : s.MemOk) :
    s.powerUp.MemOk := by
  unfold State.powerUp
  grind [State.moveFloors_memOk, Device.moveLimits_memOk, State.powerSteps_memOk, State.memOk_iff]

theorem State.powerUndo_memOk {s : State} (h : s.MemOk) :
    s.powerUndo.MemOk := by
  unfold State.powerUndo
  grind [State.moveFloors_memOk, Device.moveLimits_memOk, State.powerSteps_memOk, State.memOk_iff]

theorem State.powerWindow_memOk {s : State} (h : s.MemOk) (watts) :
    (s.powerWindow watts).MemOk := by
  unfold State.powerWindow
  grind [State.powerUp_memOk, State.powerUndo_memOk]

theorem State.coreHeat_memOk {s : State} (h : s.MemOk) (core hot) :
    (s.coreHeat core hot).MemOk := by
  unfold State.coreHeat
  grind [State.findCore_memOk, State.setCore_memOk, Device.logCause_memOk, Core.raiseFloor_memOk,
    Core.lowerFloor_memOk, State.memOk_iff, Core.MemOk]

theorem Device.stackHeat_memOk {d : Device} (h : d.MemOk) (stack) :
    (d.stackHeat stack).MemOk := by
  unfold Device.stackHeat
  grind [Device.setStack_memOk, Device.logCause_memOk]

theorem Device.loseLink_memOk {d : Device} (h : d.MemOk) (port lost) :
    (d.loseLink port lost).MemOk := h

theorem Mgmt.record_memOk {m : Mgmt} (h : m.MemOk) (n out) :
    (m.record n out).MemOk := h

theorem Mgmt.fail_memOk {m : Mgmt} (h : m.MemOk) (n b causes) : (m.fail n b causes).MemOk := h

theorem Mgmt.plainStep_memOk {m : Mgmt} (h : m.MemOk) (n o c) : (m.plainStep n o c).MemOk := by
  unfold Mgmt.plainStep
  split
  · exact Mgmt.fail_memOk h ..
  · exact h

theorem Mgmt.altStep_memOk {m : Mgmt} (h : m.MemOk) (n clean) {alt : Mgmt → Mgmt} (ha : (alt m).MemOk) :
    (m.altStep n clean alt).MemOk := by
  unfold Mgmt.altStep
  split
  · exact ha
  split
  · exact h
  · exact Mgmt.fail_memOk h ..

theorem bootTrain_memOk {m : Mgmt} (h : m.MemOk) (f) :
    (bootTrain f m).MemOk := h

theorem bootLinkAlt_memOk {m : Mgmt} (h : m.MemOk) (f) :
    (bootLinkAlt f m).MemOk := h

theorem Mgmt.firmware_memOk {m : Mgmt} (h : m.MemOk) (o) : (m.firmware o).MemOk := by
  unfold Mgmt.firmware
  split <;> exact h

theorem Attempt.andThen_memOk {a : Attempt} (ha : a.MemOk) {f : Mgmt → Attempt} (hf : ∀ m, Mgmt.MemOk m → (f m).MemOk) :
    (a.andThen f).MemOk := by
  cases a with
  | goes m => exact hf m ha
  | ends m b => exact ha

theorem Mgmt.memoryTest_memOk {m : Mgmt} (h : m.MemOk) (failed) :
    (m.memoryTest failed).MemOk := by
  unfold Mgmt.memoryTest
  grind [Mgmt.altStep_memOk, Mgmt.MemOk]

theorem Mgmt.cleared_memOk {m : Mgmt} (h : m.MemOk) :
    m.cleared.MemOk := by
  unfold Mgmt.cleared
  grind [Mgmt.MemOk]

theorem bootAttempt_memOk {m : Mgmt} (h : m.MemOk) (f) : (bootAttempt f m).MemOk := by
  refine Attempt.andThen_memOk (Mgmt.plainStep_memOk (Mgmt.cleared_memOk h) ..) fun m hm => ?_
  refine Attempt.andThen_memOk (Mgmt.plainStep_memOk hm ..) fun m hm => ?_
  refine Attempt.andThen_memOk (Mgmt.plainStep_memOk hm ..) fun m hm => ?_
  refine Attempt.andThen_memOk ?_ fun m hm => ?_
  · refine Mgmt.altStep_memOk ?_ _ _ ?_ <;> exact hm
  refine Attempt.andThen_memOk ?_ fun m hm => ?_
  · split
    · exact Mgmt.fail_memOk hm ..
    · exact Mgmt.altStep_memOk (alt := bootLinkAlt f) hm _ _ hm
  · exact Attempt.andThen_memOk (Mgmt.firmware_memOk hm _) fun m hm => Mgmt.memoryTest_memOk hm _

theorem Device.markStacks_memOk {d : Device} (h : d.MemOk) : d.markStacks.MemOk :=
  Device.foldl_memOk h _ fun _ _ hd => Device.setStack_memOk hd _

theorem Device.linksUp_memOk {d : Device} (h : d.MemOk) (f) :
    (d.linksUp f).MemOk := h

theorem Device.setRegions_memOk {d : Device} (h : d.MemOk) (l) : (d.setRegions l).MemOk :=
  Device.foldl_memOk h _ fun _ _ hd => Device.setStack_memOk hd _

theorem Device.booted_memOk {d : Device} {m : Mgmt} (h : d.MemOk) (h2 : m.MemOk) :
    (d.booted m).MemOk := by
  unfold Device.booted
  grind [Device.markStacks_memOk, Device.MemOk, Mgmt.MemOk]

theorem Device.bootWith_memOk {d : Device} (h : d.MemOk) (f) : (d.bootWith f).MemOk := by
  have ha := bootAttempt_memOk (m := { d.mgmt with testFailed := f.testFailed }) h.2 f
  unfold Device.bootWith
  split
  · exact h
  split
  next m hm =>
    rw [hm] at ha
    exact Device.setRegions_memOk (Device.linksUp_memOk (Device.booted_memOk h ha) f) _
  next m b hm =>
    rw [hm] at ha
    have hd : Device.MemOk { d with mgmt := m, boot := b } := ⟨h.1, ha⟩
    dsimp only
    split
    · exact Device.setRegions_memOk (Device.markStacks_memOk (Device.linksUp_memOk hd f)) _
    · exact hd

theorem State.resetDevice_memOk {s : State} (h : s.MemOk) : s.resetDevice.MemOk :=
  State.reset_memOk.withDev ⟨Memory.wf_filter h.dev_memOk.1 _, rfl, h.dev_memOk.2.2⟩

theorem Device.verified_memOk {d : Device} (h : d.MemOk) (pass) : (d.verified pass).MemOk := by
  unfold Device.verified
  dsimp only
  split
  · exact h
  split
  · refine Device.logCause_memOk ?_ _
    exact h
  · have ha := Mgmt.memoryTest_memOk (m := ({ d.mgmt with verifying := false, flash := d.mgmt.recovery }).record 6 1)
      ⟨h.2.1, h.2.1⟩ d.mgmt.testFailed
    split
    next m hm =>
      rw [hm] at ha
      exact Device.booted_memOk h ha
    next m b hm =>
      rw [hm] at ha
      exact ⟨h.1, ha⟩

/-! ### Flags -/

theorem State.addFlags_memOk {s : State} (h : s.MemOk) (fl) :
    (s.addFlags fl).MemOk := h

theorem State.fpResult_gives {s : State} (h : s.MemOk) (d r v) :
    Gives Halt.MemOk State.MemOk (s.fpResult d r v) := by
  unfold State.fpResult
  grind [State.setS_memOk, State.retire_memOk, State.addFlags_memOk, Gives, Halt.MemOk]

/-! ### Scalar floating point -/

theorem State.badFormat_gives {α : Type} (s : State) (t) :
    Gives (α := α) Halt.MemOk (fun _ => False) (s.badFormat t) := State.raise_gives s ..

theorem State.fp2_gives {s : State} (h : s.MemOk) (d a b t ok f) :
    Gives Halt.MemOk State.MemOk (s.fp2 d a b t ok f) := by
  unfold State.fp2
  split
  · exact (State.badFormat_gives s t).never
  · exact gives_ite (fun _ => (State.badFormat_gives s t).never) fun _ => (State.useS_gives h a).bind fun x _ =>
      (State.useS_gives h b).bind fun z _ => (State.claimS_gives h d).bind fun _ _ => State.fpResult_gives h ..

theorem State.fp1_gives {s : State} (h : s.MemOk) (d a t ok f) :
    Gives Halt.MemOk State.MemOk (s.fp1 d a t ok f) := by
  unfold State.fp1
  split
  · exact (State.badFormat_gives s t).never
  · exact gives_ite (fun _ => (State.badFormat_gives s t).never) fun _ => (State.useS_gives h a).bind fun x _ =>
      (State.claimS_gives h d).bind fun _ _ => State.fpResult_gives h ..

end Sys2Proof.Machine
end

section
/-! Proofs, 06: the canonical form through every instruction and event (R145). -/

namespace Sys2Proof.Machine

/-! ### Scalar floating point -/

@[simp] theorem Out.memOk_next {t : State} : Out.MemOk (.next t) ↔ t.MemOk :=
  ⟨fun h => h t rfl, fun h _ ht => by cases ht; exact h⟩

@[simp] theorem Out.memOk_fault {f : Fault} : Out.MemOk (.fault f) := fun _ ht => by cases ht

@[simp] theorem Out.memOk_refused {r : Refusal} : Out.MemOk (.refused r) := fun _ ht => by cases ht

/-! ### Integer operations -/

theorem execCsel_memOk {s : State} (h : s.MemOk) (d a b) :
    Out.MemOk (execCsel d a b s) := by
  refine State.finish_memOk h ?_
  simp only [bind, Except.bind]
  grind [State.setS_memOk, State.useS_gives, State.retire_memOk, Gives]

/-! ### Scalar loads and stores -/

theorem execLd_memOk {s : State} (h : s.MemOk) (d a z x i) :
    Out.MemOk (execLd d a z x i s) := by
  refine State.finish_memOk h ?_
  simp only [bind, Except.bind]
  grind [State.setSP_memOk, State.useS_gives, State.claimS_gives, State.retire_memOk, State.load_gives, Gives]

theorem execSt_memOk {s : State} (h : s.MemOk) (r a z i) :
    Out.MemOk (execSt r a z i s) := by
  refine State.finish_memOk h ?_
  simp only [bind, Except.bind]
  grind [State.useS_gives, State.moveS_gives, State.retire_memOk, State.store_gives, Gives]

theorem execLda_memOk {s : State} (h : s.MemOk) (d a z _c) :
    Out.MemOk (execLda d a z _c s) := by
  refine State.finish_memOk h ?_
  simp only [bind, Except.bind]
  grind [State.setSP_memOk, State.useS_gives, State.claimS_gives, State.retire_memOk, State.load_gives, Gives]

theorem execStl_memOk {s : State} (h : s.MemOk) (r a z c) : Out.MemOk (execStl r a z c s) :=
  State.finish_memOk h <| (State.useS_gives h a).bind fun _ _ => (State.moveS_gives h r).bind fun _ _ =>
    gives_ite (fun _ => (State.raise_gives s ..).never) fun _ => (State.hostFault_gives h).bind fun _ _ =>
      (State.store_gives h ..).bind fun _ ht => gives_ok.mpr (State.retire_memOk ht)

theorem execAmo_memOk {s : State} (h : s.MemOk) (d a z c b o) : Out.MemOk (execAmo d a z c b o s) := by
  refine State.finish_memOk h <| gives_ite (fun _ => (State.raise_gives s ..).never) fun _ => ?_
  extract_lets n
  refine (State.useS_gives h a).bind fun va _ => (State.useS_gives h b).bind fun x _ => ?_
  extract_lets jp
  have hjp : ∀ k, Gives Halt.MemOk State.MemOk (jp k) := fun k => by
    refine gives_ite (fun _ => (State.raise_gives s ..).never) fun _ => (State.locS_gives h ..).bind fun l _ => ?_
    refine gives_ite (fun _ => (State.raise_gives s ..).never) fun _ => (State.releaseWait_gives h).bind fun _ _ => ?_
    refine gives_ite (fun _ => gives_error.mpr trivial) fun _ => (State.hostRead_gives h ..).bind fun t ht => ?_
    refine gives_ite (fun _ => gives_error.mpr (State.markBad_memOk ht l)) fun _ => gives_ok.mpr ?_
    refine State.retire_memOk (State.setSP_memOk ?_ ..)
    have hu : State.MemOk (if t.poisonHome l = true then { t with lc := t.lc.logPoison va } else t) := by
      split <;> exact ht
    split
    · exact State.writeLoc_memOk hu ..
    · exact hu
  refine gives_ite (fun _ => (State.useS_gives h d).bind fun k _ => hjp k) fun _ => ?_
  exact Gives.bind (R := fun _ => True) ((State.claimS_gives h d).bind fun _ _ => gives_ok.mpr trivial) fun k _ => hjp k

theorem execProbe_memOk {s : State} (h : s.MemOk) (d a) :
    Out.MemOk (execProbe d a s) := by
  refine State.finish_memOk h ?_
  simp only [bind, Except.bind]
  grind [State.setS_memOk, State.useS_gives, State.claimS_gives, State.retire_memOk, Gives]

/-! ### Checks of bank commands -/

theorem execRlopen_memOk {s : State} (h : s.MemOk) (r a) : Out.MemOk (execRlopen r a s) := by
  refine State.finish_memOk h <| (State.bankFault_gives h).bind fun _ _ => (State.useS_gives h a).bind fun va _ =>
    (State.claimS_gives h r).bind fun _ _ => (State.rowTarget_gives h va).bind fun l _ => ?_
  dsimp only
  split
  · exact gives_ite (fun _ => gives_ok.mpr (State.retire_memOk (State.setS_memOk h ..))) fun _ => gives_error.mpr
      trivial
  split
  · exact (State.raise_gives s ..).never
  · exact gives_ite (fun _ => (State.raise_gives s ..).never) fun _ =>
      (State.passB_gives (State.addHandle_memOk (State.claim_memOk h r) _) _).bind fun _ hu =>
        gives_ok.mpr (State.retire_memOk hu)

theorem execRlrel_memOk {s : State} (h : s.MemOk) (r) : Out.MemOk (execRlrel r s) :=
  State.finish_memOk h <| (State.bankFault_gives h).bind fun _ _ => (State.useS_gives h r).bind fun v _ =>
    (State.useHandle_gives h v).bind fun _ _ => (State.passB_gives (State.withLc_memOk h _) _).bind fun _ hu =>
      gives_ok.mpr (State.retire_memOk hu)

theorem execRlstat_memOk {s : State} (h : s.MemOk) (h' d) :
    Out.MemOk (execRlstat h' d s) := by
  refine State.finish_memOk h ?_
  simp only [bind, Except.bind]
  grind [State.useS_gives, State.claimS_gives, State.retire_memOk, State.passB_gives, State.claim_memOk, Gives]

theorem execBkop_memOk {s : State} (h : s.MemOk) (r a b w o) : Out.MemOk (execBkop r a b w o s) :=
  State.finish_memOk h <| (State.guard_gives h _).bind fun _ _ => (State.bankFault_gives h).bind fun _ _ =>
    (State.useS_gives h r).bind fun hv _ => (State.useS_gives h a).bind fun x _ => (State.useS_gives h b).bind fun _ _
      =>
      (State.useHandle_gives h hv).bind fun _ _ => (State.sourceOf_gives h o x).bind fun _ _ =>
        gives_ite (fun _ => (State.bankInvalid_gives s x).never) fun _ => gives_ite (fun _ => gives_error.mpr trivial)
          fun _ =>
          gives_ite (fun _ => (State.bankInvalid_gives s x).never) fun _ => (State.passB_gives h _).bind fun _ hu =>
            gives_ok.mpr (State.retire_memOk hu)

theorem execBkwave_memOk {s : State} (h : s.MemOk) (a) : Out.MemOk (execBkwave a s) :=
  State.finish_memOk h <| (State.bankFault_gives h).bind fun _ _ => (State.useS_gives h a).bind fun va _ =>
    gives_ite (fun _ => (State.bankInvalid_gives s va).never) fun _ => (State.load_gives h ..).bind fun _ ht =>
      gives_ite (fun _ => gives_error.mpr ht) fun _ => (State.passB_gives ht _).bind fun _ hu =>
        gives_ok.mpr (State.retire_memOk hu)

theorem execBkfence_memOk {s : State} (h : s.MemOk) (h') :
    Out.MemOk (execBkfence h' s) := by
  refine State.finish_memOk h ?_
  simp only [bind, Except.bind]
  grind [State.useS_gives, State.retire_memOk, State.useHandle_gives, State.bankFault_gives, Gives, Halt.MemOk]

/-! ### Branches -/

theorem execJalr_memOk {s : State} (h : s.MemOk) (d a i) :
    Out.MemOk (execJalr d a i s) := by
  refine State.finish_memOk h ?_
  simp only [bind, Except.bind]
  grind [State.useS_gives, State.jump_gives, Gives]

/-! ### Checks of copy commands -/

theorem execXcpy_memOk {s : State} (h : s.MemOk) (d a b k r) : Out.MemOk (execXcpy d a b k r s) :=
  State.finish_memOk h <| (State.chanReady_gives h k).bind fun _ _ => (State.useS_gives h a).bind fun _ _ =>
    (State.useS_gives h b).bind fun _ _ => (State.claimS_gives h d).bind fun _ _ =>
      (State.chanInvalid_gives h ..).bind fun _ _ => State.takeCmd_gives h ..

theorem execXdeil_memOk {s : State} (h : s.MemOk) (d v b k f) : Out.MemOk (execXdeil d v b k f s) :=
  State.finish_memOk h <| (State.guard_gives h _).bind fun _ _ => (State.chanReady_gives h k).bind fun _ _ =>
    (State.useS_gives h b).bind fun _ _ => (State.claimS_gives h d).bind fun _ _ =>
      (State.chanInvalid_gives h ..).bind fun _ _ => gives_ite (fun _ => (State.raise_gives s ..).never) fun _ =>
        gives_ite (fun _ => gives_error.mpr trivial) fun _ => State.takeCmd_gives h ..

theorem execXred_memOk {s : State} (h : s.MemOk) (d a b k e t) : Out.MemOk (execXred d a b k e t s) :=
  State.finish_memOk h <| (State.chanReady_gives h k).bind fun _ _ => (State.useS_gives h a).bind fun _ _ =>
    (State.useS_gives h b).bind fun _ _ => (State.claimS_gives h d).bind fun _ _ =>
      (State.chanInvalid_gives h ..).bind fun _ _ => gives_ite (fun _ => (State.raise_gives s ..).never) fun _ =>
        gives_ite (fun _ => (State.raise_gives s ..).never) fun _ => State.takeCmd_gives h ..

theorem execXwait_memOk {s : State} (h : s.MemOk) (a h') :
    Out.MemOk (execXwait a h' s) := by
  refine State.finish_memOk h ?_
  simp only [bind, Except.bind]
  grind [State.useS_gives, State.retire_memOk, State.chanFault_gives, State.chanInvalid_gives, Gives, Halt.MemOk]

/-! ### The hand-off to the vector streams -/

theorem execVbcast_memOk {s : State} (h : s.MemOk) (p d b t) :
    Out.MemOk (execVbcast p d b t s) := by
  refine State.finish_memOk h ?_
  simp only [bind, Except.bind]
  grind [State.moveS_gives, State.retire_memOk, State.guard_gives, State.handOff_gives, Gives]

theorem execVqsend_memOk {s : State} (h : s.MemOk) (p a q t) : Out.MemOk (execVqsend p a q t s) :=
  State.finish_memOk h (State.vop_gives h ..)

theorem execVqrecv_memOk {s : State} (h : s.MemOk) (p d q t) : Out.MemOk (execVqrecv p d q t s) :=
  State.finish_memOk h (State.vop_gives h ..)

/-! ### Binding of contexts -/

theorem execSkbind_memOk {s : State} (h : s.MemOk) (d a) : Out.MemOk (execSkbind d a s) := by
  refine State.finish_memOk h <| gives_ite (fun _ => (State.nesting_gives h).never) fun _ =>
    (State.useS_gives h a).bind fun va _ => (State.claimS_gives h d).bind fun _ _ => (State.bindTarget_gives h va).bind
      fun x _ => ?_
  obtain ⟨m, st, j⟩ := x
  dsimp only
  have hg : ∀ (ahead : Bool) t k, State.MemOk t → State.MemOk (if ahead then t else t.contextGrant k j) :=
    fun ahead t k ht => by
      split
      · exact ht
      · exact State.contextGrant_memOk ht ..
  refine gives_ite (fun _ => ?_) fun _ => gives_ite (fun _ => gives_error.mpr trivial) fun _ => ?_
  · split
    · exact gives_error.mpr (hg _ s _ h)
    · exact gives_ok.mpr (State.bindTo_memOk (hg _ s _ h) ..)
  · have hl : ∀ l, State.MemOk { s.leaveCtx with dev := { s.leaveCtx.dev with binds := l } } := fun _ =>
      State.leaveCtx_memOk h
    split
    · exact gives_error.mpr (hg _ _ _ (hl _))
    · exact gives_ok.mpr (State.bindTo_memOk (hg _ _ _ (hl _)) ..)

theorem execSkloop_memOk {s : State} (h : s.MemOk) (a b) : Out.MemOk (execSkloop a b s) := by
  refine State.finish_memOk h <| (State.guard_gives h _).bind fun _ _ => (State.useS_gives h a).bind fun n _ =>
    (State.useS_gives h b).bind fun len _ => ?_
  have hgo : ∀ r, Gives Halt.MemOk State.MemOk (if !r then s.nesting else
      s.countLoop >>= fun loops => s.passK (s.capture .skloop true n len 0 false) (SkLevel.mk len 0 :: loops) >>= fun u
        =>
        .ok u.retire) := fun r =>
    gives_ite (fun _ => (State.nesting_gives h).never) fun _ => (State.countLoop_gives h).bind fun _ _ =>
      (State.passK_gives h ..).bind fun _ hu => gives_ok.mpr (State.retire_memOk hu)
  dsimp only
  split
  · refine gives_ite (fun _ => ?_) fun _ => hgo true
    exact (State.raise_gives (α := Bool) s .stackBufferOverflow len).bind fun r _ => hgo r
  · exact hgo _
  · exact hgo false

theorem execSkend_memOk {s : State} (h : s.MemOk) :
    Out.MemOk (execSkend s) := by
  refine State.finish_memOk h ?_
  simp only [bind, Except.bind]
  grind [State.retire_memOk, State.guard_gives, State.passK_gives, State.nesting_gives, Gives]

theorem execSkfence_memOk {s : State} (h : s.MemOk) :
    Out.MemOk (execSkfence s) := by
  refine State.finish_memOk h ?_
  simp only [bind, Except.bind]
  grind [State.raise_gives, State.retire_memOk, State.guard_gives, State.nesting_gives, Gives, Halt.MemOk]

theorem execSkstrm_memOk {s : State} (h : s.MemOk) (j a) : Out.MemOk (execSkstrm j a s) :=
  State.finish_memOk h <| (State.guard_gives h _).bind fun _ _ => (State.useS_gives h a).bind fun _ _ =>
    (State.countLoop_gives h).bind fun _ _ => (State.passK_gives h ..).bind fun _ hu => gives_ok.mpr
      (State.retire_memOk hu)

/-! ### Strips, groups and the end of a task -/

theorem execSetvl_memOk {s : State} (h : s.MemOk) (d a t) :
    Out.MemOk (execSetvl d a t s) := by
  refine State.finish_memOk h ?_
  simp only [bind, Except.bind]
  grind [State.setS_memOk, State.useS_gives, State.claimS_gives, State.retire_memOk, State.guard_gives,
    State.memOk_iff, Gives]

theorem execQsend_memOk {s : State} (h : s.MemOk) (a q) :
    Out.MemOk (execQsend a q s) := by
  refine State.finish_memOk h ?_
  simp only [bind, Except.bind]
  grind [State.useS_gives, State.retire_memOk, State.guard_gives, State.block_gives, State.setQ_memOk, Gives]

theorem execQrecv_memOk {s : State} (h : s.MemOk) (d q) :
    Out.MemOk (execQrecv d q s) := by
  refine State.finish_memOk h ?_
  simp only [bind, Except.bind]
  grind [State.setS_memOk, State.claimS_gives, State.retire_memOk, State.guard_gives, State.block_gives,
    State.setQ_memOk, Gives]

theorem execQstat_memOk {s : State} (h : s.MemOk) (d q) :
    Out.MemOk (execQstat d q s) := by
  refine State.finish_memOk h ?_
  simp only [bind, Except.bind]
  grind [State.setS_memOk, State.claimS_gives, State.retire_memOk, Gives]

theorem execFence_memOk {s : State} (h : s.MemOk) (_c) :
    Out.MemOk (execFence _c s) := by
  refine State.finish_memOk h ?_
  simp only [bind, Except.bind]
  grind [State.retire_memOk, State.releaseWait_gives, Gives]

theorem execSbar_memOk {s : State} (h : s.MemOk) (m) : Out.MemOk (execSbar m s) := by
  have hd := State.retire_memOk (State.drain_memOk (State.markSbar_memOk h m))
  refine State.finish_memOk h ?_
  grind [State.retire_memOk, Gives, Halt.MemOk]

theorem execPost_memOk {s : State} (h : s.MemOk) (a) :
    Out.MemOk (execPost a s) := by
  refine State.finish_memOk h ?_
  simp only [bind, Except.bind]
  grind [State.raise_gives, State.useS_gives, State.retire_memOk, State.releaseWait_gives, State.updTask_memOk, Gives]

theorem execWaiti_memOk {s : State} (h : s.MemOk) (a) :
    Out.MemOk (execWaiti a s) := by
  refine State.finish_memOk h ?_
  simp only [bind, Except.bind]
  grind [State.raise_gives, State.useS_gives, State.retire_memOk, Gives, Halt.MemOk]

theorem execNexts_memOk {s : State} (h : s.MemOk) (o) :
    Out.MemOk (execNexts o s) := by
  refine State.finish_memOk h ?_
  simp only [bind, Except.bind]
  grind [State.leaveStrip_gives, → State.dispense_memOk, State.takeStrip_memOk, State.memOk_iff, Gives, Halt.MemOk]

theorem execGjoin_memOk {s : State} (h : s.MemOk) (a) :
    Out.MemOk (execGjoin a s) := by
  refine State.finish_memOk h ?_
  simp only [bind, Except.bind]
  grind [State.retire_memOk, State.updTask_memOk, State.groupOf_gives, State.memOk_iff, Gives]

theorem execGleave_memOk {s : State} (h : s.MemOk) (a) :
    Out.MemOk (execGleave a s) := by
  refine State.finish_memOk h ?_
  simp only [bind, Except.bind]
  grind [State.raise_gives, State.retire_memOk, State.updTask_memOk, State.groupOf_gives, State.memOk_iff, Gives]

theorem execGbar_memOk {s : State} (h : s.MemOk) (a) :
    Out.MemOk (execGbar a s) := by
  refine State.finish_memOk h ?_
  simp only [bind, Except.bind]
  grind [State.raise_gives, State.retire_memOk, State.releaseWait_gives, State.updTask_memOk, State.groupOf_gives,
    State.memOk_iff, Gives, Halt.MemOk]

theorem execExit_memOk {s : State} (h : s.MemOk) :
    Out.MemOk (execExit s) := by
  refine State.finish_memOk h ?_
  simp only [bind, Except.bind]
  grind [State.retire_memOk, State.hostFault_gives, State.postStrip_gives, State.commitStrip_gives,
    State.exitFaults_gives, State.leaveGroups_memOk, State.endLc_memOk, Gives, Halt.MemOk]

/-! ### The hand-off to the matrix stream -/

theorem execTshape_memOk {s : State} (h : s.MemOk) (d a) :
    Out.MemOk (execTshape d a s) := by
  refine State.finish_memOk h ?_
  simp only [bind, Except.bind]
  grind [State.useS_gives, State.claimS_gives, State.retire_memOk, State.guard_gives, State.claim_memOk,
    State.handOff_gives, Gives]

theorem execTzero_memOk {s : State} (h : s.MemOk) (t) :
    Out.MemOk (execTzero t s) := by
  refine State.finish_memOk h ?_
  simp only [bind, Except.bind]
  grind [State.retire_memOk, State.guard_gives, State.handOff_gives, State.shapesDone_gives, Gives]

theorem execTslice_memOk {s : State} (h : s.MemOk) (d a c t) :
    Out.MemOk (execTslice d a c t s) := by
  refine State.finish_memOk h ?_
  simp only [bind, Except.bind]
  grind [State.raise_gives, State.useS_gives, State.retire_memOk, State.guard_gives, State.handOff_gives,
    State.shapesDone_gives, Gives]

theorem execAccz_memOk {s : State} (h : s.MemOk) (c) :
    Out.MemOk (execAccz c s) := by
  refine State.finish_memOk h ?_
  simp only [bind, Except.bind]
  grind [State.raise_gives, State.retire_memOk, State.guard_gives, State.handOff_gives, State.allocated_gives, Gives]

/-! ### Returns from traps, task ends -/

theorem execEret_memOk {s : State} (h : s.MemOk) :
    Out.MemOk (execEret s) := by
  refine State.finish_memOk h ?_
  grind [State.raise_gives, State.eretSuper_memOk, State.eretUser_memOk, State.pushRebind_memOk, Gives, Halt.MemOk]

theorem execErpl_memOk {s : State} (h : s.MemOk) (a v) : Out.MemOk (execErpl a v s) := by
  have hbad : Gives Halt.MemOk State.MemOk (s.raise .badControlState 0x61 : Except Halt State) := (State.raise_gives s
    ..).never
  have hscalar : ∀ d, Gives Halt.MemOk State.MemOk (s.useS a >>= fun x => s.claimS d >>= fun _ =>
      .ok ((s.setS d x).skipTrapped).retire) := fun d => (State.useS_gives h a).bind fun x _ =>
    (State.claimS_gives h d).bind fun _ _ => gives_ok.mpr (State.retire_memOk (State.skipTrapped_memOk
      (State.setS_memOk h ..)))
  refine State.finish_memOk h ?_
  dsimp only
  split
  · exact hbad
  refine gives_ite (fun _ => hbad) fun _ => ?_
  split
  · exact hscalar _
  · exact hscalar _
  · refine gives_ite (fun _ => (State.raise_gives s ..).never) fun _ => gives_ite (fun _ => gives_error.mpr trivial)
      fun _ => ?_
    split
    · exact gives_ok.mpr (State.retire_memOk (State.replaceLanes_memOk h ..))
    · exact hbad
  · exact hbad

/-! ### Writes of control registers -/

theorem execCsrr_memOk {s : State} (h : s.MemOk) (d c) :
    Out.MemOk (execCsrr d c s) := by
  refine State.finish_memOk h ?_
  simp only [bind, Except.bind]
  grind [State.setS_memOk, State.claimS_gives, State.retire_memOk, State.csrReach_gives, State.csrWait_gives, Gives]

theorem execSswitch_memOk {s : State} (h : s.MemOk) (v) :
    Out.MemOk (execSswitch v s) := by
  refine State.finish_memOk h ?_
  simp only [bind, Except.bind]
  grind [State.sswitch_gives, Gives]

theorem execTkill_memOk {s : State} (h : s.MemOk) (code) : Out.MemOk (execTkill code s) :=
  State.finish_memOk h (gives_ok.mpr (State.tkill_memOk h _))

theorem execScctlCommit_memOk {s : State} (h : s.MemOk) : Out.MemOk (execScctlCommit s) :=
  State.finish_memOk h (gives_ok.mpr (State.commitHeld_memOk h))

/-! ### Generation and journals -/

theorem execUrank_memOk {s : State} (h : s.MemOk) (k a t) :
    Out.MemOk (execUrank k a t s) := by
  refine State.finish_memOk h ?_
  simp only [bind, Except.bind]
  grind [State.raise_gives, State.retire_memOk, State.guard_gives, State.handOff_gives, Gives]

theorem execUcfg_memOk {s : State} (h : s.MemOk) (b) :
    Out.MemOk (execUcfg b s) := by
  refine State.finish_memOk h ?_
  simp only [bind, Except.bind]
  grind [State.raise_gives, State.useS_gives, State.retire_memOk, State.guard_gives, State.handOff_gives,
    State.memOk_iff, Gives]

theorem execSmpstep_memOk {s : State} (h : s.MemOk) (d a b t) : Out.MemOk (execSmpstep d a b t s) :=
  State.finish_memOk h <| (State.guard_gives h _).bind fun _ _ => gives_ite (fun _ => gives_error.mpr trivial) fun _ =>
    (State.handOff_gives (State.foldl_memOk h _ fun _ _ ht => State.claim_memOk ht _) ..).bind fun _ hu =>
      gives_ok.mpr (State.retire_memOk hu)

theorem execJadd_memOk {s : State} (h : s.MemOk) (d a b) : Out.MemOk (execJadd d a b s) :=
  State.finish_memOk h <| (State.guard_gives h _).bind fun _ _ => (State.useS_gives h d).bind fun _ _ =>
    (State.useS_gives h a).bind fun _ _ => (State.useS_gives h b).bind fun _ _ =>
      gives_ite (fun _ => (State.raise_gives s ..).never) fun _ => (State.handOff_gives h ..).bind fun _ hu =>
        gives_ok.mpr (State.retire_memOk (State.withLc_memOk hu _))

theorem execJcommit_memOk {s : State} (h : s.MemOk) (a b) : Out.MemOk (execJcommit a b s) :=
  State.finish_memOk h <| (State.guard_gives h _).bind fun _ _ => (State.useS_gives h a).bind fun _ _ =>
    (State.useS_gives h b).bind fun _ _ => (State.handOff_gives h ..).bind fun _ hu => gives_ok.mpr (State.retire_memOk
      hu)

/-! ### Launches, spawns and offers -/

theorem execSpawn_memOk {s : State} (h : s.MemOk) (d a) : Out.MemOk (execSpawn d a s) := by
  refine State.finish_memOk h ?_
  split
  · exact gives_ok.mpr (State.spawned_memOk h ..)
  · refine gives_ite (fun _ => gives_error.mpr trivial) fun _ => (State.useS_gives h a).bind fun x _ =>
      (State.claimS_gives h d).bind fun _ _ => gives_ite (fun _ => (State.raise_gives s ..).never) fun _ =>
        (State.releaseWait_gives h).bind fun _ _ => (State.readPacket_gives h x).bind fun t ht =>
          gives_ite (fun _ => (State.raise_gives t.1 ..).never) fun _ => ?_
    have hu := State.offerSpawn_memOk ht t.2
    dsimp only
    split
    · exact gives_ok.mpr (State.spawned_memOk hu ..)
    · exact gives_error.mpr hu

theorem execYieldLc_memOk {s : State} (h : s.MemOk) :
    Out.MemOk (execYieldLc s) := by
  refine State.finish_memOk h ?_
  simp only [bind, Except.bind]
  grind [State.retire_memOk, State.yieldOut_gives, State.memOk_iff, Gives]

/-! ### Scheduling and traps at a boundary -/

theorem execLaunchIntake_memOk {s : State} (h : s.MemOk) : Out.MemOk (execLaunchIntake s) :=
  Out.memOk_next.mpr (State.getD_memOk h (State.intake_memOk h))

theorem execPartitionOffer_memOk {s : State} (h : s.MemOk) (core part) : Out.MemOk (execPartitionOffer core part s) :=
  by
  refine Out.memOk_next.mpr ?_
  split
  · exact State.getD_memOk h (State.offerCore_memOk h core)
  · exact h

theorem execLcYield_memOk {s : State} (h : s.MemOk) : Out.MemOk (execLcYield s) := by
  refine State.finish_memOk h ?_
  cases hy : s.lcYield with
  | none => exact gives_ok.mpr h
  | some x => exact State.lcYield_memOk h x hy

theorem execSliceExpired_memOk {s : State} (h : s.MemOk) :
    Out.MemOk (execSliceExpired s) := by
  refine Out.memOk_next.mpr ?_
  grind [State.sliceCheck_memOk]

theorem execProgressWatchdog_memOk {s : State} (h : s.MemOk) :
    Out.MemOk (execProgressWatchdog s) := by
  refine Out.memOk_next.mpr ?_
  grind [State.watchdogCheck_memOk]

theorem execTrapDelivery_memOk {s : State} (h : s.MemOk) : Out.MemOk (execTrapDelivery s) := by
  refine Out.memOk_next.mpr ?_
  split
  · exact State.getD_memOk h (State.boundary_memOk h)
  · exact h

theorem execLaneArbitration_memOk {s : State} (h : s.MemOk) :
    Out.MemOk (execLaneArbitration s) := by
  refine Out.memOk_next.mpr ?_
  grind [State.laneCycle_memOk, State.backTo_memOk]

theorem execFirstBandStart_memOk {s : State} (h : s.MemOk) :
    Out.MemOk (execFirstBandStart s) := by
  refine Out.memOk_next.mpr ?_
  grind [State.memOk_iff]

theorem execMatrixBandComplete_memOk {s : State} (h : s.MemOk) :
    Out.MemOk (execMatrixBandComplete s) := by
  refine Out.memOk_next.mpr ?_
  grind [State.backTo_memOk, State.matrixBand_memOk]

theorem execStreamTrapReport_memOk {s : State} (h : s.MemOk) : Out.MemOk (execStreamTrapReport s) := by
  refine Out.memOk_next.mpr ?_
  split
  · exact h
  · exact State.getD_memOk (State.reportHead_memOk h) (State.reportBand_memOk h)

theorem execStackContextExecute_memOk {s : State} (h : s.MemOk) :
    Out.MemOk (execStackContextExecute s) := by
  refine Out.memOk_next.mpr ?_
  grind [→ State.kserve_memOk]

theorem execDeferredTrapReport_memOk {s : State} (h : s.MemOk) :
    Out.MemOk (execDeferredTrapReport s) := by
  refine Out.memOk_next.mpr ?_
  grind [→ State.kserve_memOk]

theorem execAddressStreamGenerate_memOk {s : State} (h : s.MemOk) (j) : Out.MemOk (execAddressStreamGenerate j s) :=
  Out.memOk_next.mpr (State.getD_memOk h (State.generate_memOk h j))

/-! ### The memory side on its own -/

theorem execPageExpansion_memOk {s : State} (h : s.MemOk) (va) :
    Out.MemOk (execPageExpansion va s) := by
  refine Out.memOk_next.mpr ?_
  grind [Device.expand_memOk, State.memOk_iff]

theorem execPageTableWalk_memOk {s : State} (h : s.MemOk) (va) :
    Out.MemOk (execPageTableWalk va s) := by
  refine Out.memOk_next.mpr ?_
  grind [State.coreWalk_memOk, State.baseWalk_memOk]

theorem execScatterAddArrival_memOk {s : State} (h : s.MemOk) :
    Out.MemOk (execScatterAddArrival s) := by
  refine Out.memOk_next.mpr ?_
  grind [Device.scatterArrival_memOk, State.memOk_iff]

theorem execScatterOldValue_memOk {s : State} (h : s.MemOk) (granule) :
    Out.MemOk (execScatterOldValue granule s) := by
  refine Out.memOk_next.mpr ?_
  grind [Device.scatterOld_memOk, State.memOk_iff]

theorem execScatterIdleWriteBack_memOk {s : State} (h : s.MemOk) (granule) :
    Out.MemOk (execScatterIdleWriteBack granule s) := by
  refine Out.memOk_next.mpr ?_
  grind [Device.giveBack_memOk, State.memOk_iff]

theorem execScatterRecall_memOk {s : State} (h : s.MemOk) (granule) :
    Out.MemOk (execScatterRecall granule s) := by
  refine Out.memOk_next.mpr ?_
  grind [Device.giveBack_memOk, State.memOk_iff]

theorem execCopyTransferStep_memOk {s : State} (h : s.MemOk) (h') :
    Out.MemOk (execCopyTransferStep h' s) := by
  refine Out.memOk_next.mpr ?_
  grind [State.copyStep_memOk]

theorem execMonitorWake_memOk {s : State} (h : s.MemOk) : Out.MemOk (execMonitorWake s) := by
  have hn : Out.MemOk (.next s) := Out.memOk_next.mpr h
  unfold execMonitorWake
  split
  · split
    next t ht =>
      have ht := (State.fetch_gives h).2 t ht
      split
      · exact State.finish_memOk ht (State.mwait_gives ht ..)
      · exact hn
    · exact hn
  · exact hn

theorem execWaveProbe_memOk {s : State} (h : s.MemOk) : Out.MemOk (execWaveProbe s) :=
  Out.memOk_next.mpr (State.getD_memOk h (State.waveProbe_memOk h))

theorem execRowPinGrant_memOk {s : State} (h : s.MemOk) : Out.MemOk (execRowPinGrant s) :=
  Out.memOk_next.mpr (State.getD_memOk h (State.pinGrant_memOk h))

theorem execPinReleased_memOk {s : State} (h : s.MemOk) (stack chan bank slot) :
    Out.MemOk (execPinReleased stack chan bank slot s) :=
  Out.memOk_next.mpr (State.getD_memOk h (State.pinReleased_memOk h _))

theorem execBankRefresh_memOk {s : State} (h : s.MemOk) (stack chan pc bank) :
    Out.MemOk (execBankRefresh stack chan pc bank s) := by
  refine Out.memOk_next.mpr ?_
  grind [Device.closeSlots_memOk, State.memOk_iff]

theorem execScrubWriteBack_memOk {s : State} (h : s.MemOk) (granule) :
    Out.MemOk (execScrubWriteBack granule s) := by
  refine Out.memOk_next.mpr ?_
  grind [State.memOk_iff, Device.MemOk]

theorem execUalinkTransactionArrival_memOk {s : State} (h : s.MemOk) (t) :
    Out.MemOk (execUalinkTransactionArrival t s) := by
  refine Out.memOk_next.mpr ?_
  grind [State.contextGrant_memOk, Device.peer_memOk, State.memOk_iff]

/-! ### The host interface -/

theorem execLaunchPortCommit_memOk {s : State} (h : s.MemOk) (fn p) :
    Out.MemOk (execLaunchPortCommit fn p s) := by
  refine Out.memOk_next.mpr ?_
  grind [Device.setFunc_memOk, State.memOk_iff]

theorem execKillWrite_memOk {s : State} (h : s.MemOk) (fn id) :
    Out.MemOk (execKillWrite fn id s) := by
  refine Out.memOk_next.mpr ?_
  grind [State.endTask_memOk]

theorem execFunctionLevelReset_memOk {s : State} (h : s.MemOk) (fn) :
    Out.MemOk (execFunctionLevelReset fn s) := by
  refine Out.memOk_next.mpr ?_
  grind [State.resetFunction_memOk]

theorem execPcieLinkLoss_memOk {s : State} (h : s.MemOk) :
    Out.MemOk (execPcieLinkLoss s) := by
  refine Out.memOk_next.mpr ?_
  grind [State.memOk_iff, Device.MemOk, Mgmt.MemOk]

theorem execHostWindowRead_memOk {s : State} (h : s.MemOk) (fn off bytes) :
    Out.MemOk (execHostWindowRead fn off bytes s) := by
  refine Out.memOk_next.mpr ?_
  grind [Device.windowRead_memOk, State.memOk_iff]

theorem execHostWindowWrite_memOk {s : State} (h : s.MemOk) (fn off data poisoned) :
    Out.MemOk (execHostWindowWrite fn off data poisoned s) := by
  refine Out.memOk_next.mpr ?_
  grind [Device.windowWrite_memOk, State.memOk_iff]

theorem execHostRequestCompletion_memOk {s : State} (h : s.MemOk) (a poisoned) :
    Out.MemOk (execHostRequestCompletion a poisoned s) := by
  refine Out.memOk_next.mpr ?_
  grind [State.answerReq_memOk]

theorem execCompletionTimeout_memOk {s : State} (h : s.MemOk) :
    Out.MemOk (execCompletionTimeout s) := by
  refine Out.memOk_next.mpr ?_
  grind [State.answerReq_memOk]

/-! ### Management, boot and firmware -/

theorem execOwnershipClaim_memOk {s : State} (h : s.MemOk) (c) :
    Out.MemOk (execOwnershipClaim c s) := by
  refine Out.memOk_next.mpr ?_
  grind [Device.setMgmt_memOk, Device.asOwner_memOk, State.memOk_iff, Device.MemOk, Mgmt.MemOk]

theorem execOwnershipHandover_memOk {s : State} (h : s.MemOk) (c heir) :
    Out.MemOk (execOwnershipHandover c heir s) := by
  refine Out.memOk_next.mpr ?_
  grind [Device.setMgmt_memOk, Device.asOwner_memOk, State.memOk_iff, Device.MemOk, Mgmt.MemOk]

theorem execOwnershipRelease_memOk {s : State} (h : s.MemOk) (c) :
    Out.MemOk (execOwnershipRelease c s) := by
  refine Out.memOk_next.mpr ?_
  grind [Device.setMgmt_memOk, Device.asOwner_memOk, State.memOk_iff, Device.MemOk, Mgmt.MemOk]

theorem execMmioRegisterWrite_memOk {s : State} (h : s.MemOk) (c fn r v) :
    Out.MemOk (execMmioRegisterWrite c fn r v s) := by
  refine Out.memOk_next.mpr ?_
  grind [Device.writeMmio_memOk, State.memOk_iff]

theorem execThermalBankLimit_memOk {s : State} (h : s.MemOk) (stack) :
    Out.MemOk (execThermalBankLimit stack s) := by
  refine Out.memOk_next.mpr ?_
  grind [Device.stackHeat_memOk, State.memOk_iff]

theorem execLinkRetrain_memOk {s : State} (h : s.MemOk) (port) :
    Out.MemOk (execLinkRetrain port s) := by
  refine Out.memOk_next.mpr ?_
  grind [Device.logCause_memOk, State.memOk_iff]

theorem execLinkDown_memOk {s : State} (h : s.MemOk) (port lost) :
    Out.MemOk (execLinkDown port lost s) := by
  refine Out.memOk_next.mpr ?_
  grind [State.loseBindings_memOk, Device.loseLink_memOk, State.memOk_iff]

theorem execDeviceBoot_memOk {s : State} (h : s.MemOk) (facts) :
    Out.MemOk (execDeviceBoot facts s) := by
  refine Out.memOk_next.mpr ?_
  grind [Device.bootWith_memOk, State.memOk_iff]

theorem execBootctlReset_memOk {s : State} (h : s.MemOk) (c) :
    Out.MemOk (execBootctlReset c s) := by
  refine Out.memOk_next.mpr ?_
  grind [Device.refuse_memOk, State.resetDevice_memOk, State.memOk_iff]

theorem execBootctlClear_memOk {s : State} (h : s.MemOk) (c) :
    Out.MemOk (execBootctlClear c s) := by
  refine Out.memOk_next.mpr ?_
  grind [Device.setMgmt_memOk, Device.asOwner_memOk, State.memOk_iff, Device.MemOk, Mgmt.MemOk]

theorem execBootctlLoad_memOk {s : State} (h : s.MemOk) (_c) :
    Out.MemOk (execBootctlLoad _c s) := by
  refine Out.memOk_next.mpr ?_
  grind [Device.setMgmt_memOk, State.memOk_iff, Device.MemOk, Mgmt.MemOk]

theorem execImageVerifyDone_memOk {s : State} (h : s.MemOk) (pass) :
    Out.MemOk (execImageVerifyDone pass s) := by
  refine Out.memOk_next.mpr ?_
  grind [Device.verified_memOk, State.memOk_iff]

/-! ### Scalar floating point -/

theorem execFma_memOk {s : State} (h : s.MemOk) (d a b t) : Out.MemOk (execFma d a b t s) := by
  refine State.finish_memOk h ?_
  split
  · exact (State.badFormat_gives s t).never
  · exact (State.useS_gives h a).bind fun x _ => (State.useS_gives h b).bind fun z _ => (State.useS_gives h d).bind
      fun c _ => State.fpResult_gives h ..

theorem execFcvtFromFp_memOk {s : State} (h : s.MemOk) (d a e t) :
    Out.MemOk (execFcvtFromFp d a e t s) := by
  refine State.finish_memOk h ?_
  simp only [bind, Except.bind]
  grind [State.raise_gives, State.useS_gives, State.claimS_gives, State.fpResult_gives, State.badFormat_gives, Gives]

theorem execFcvtFromInt_memOk {s : State} (h : s.MemOk) (d a e t) :
    Out.MemOk (execFcvtFromInt d a e t s) := by
  refine State.finish_memOk h ?_
  simp only [bind, Except.bind]
  grind [State.raise_gives, State.useS_gives, State.claimS_gives, State.fpResult_gives, State.badFormat_gives, Gives]

/-! ### Every instruction and event -/

theorem exec_memOk {s : State} (h : s.MemOk) (i : Instr) : Out.MemOk (exec i s) := by
  cases i with
  | add
  | sub
  | mul
  | mulh
  | mulhu
  | div
  | divu
  | rem
  | remu
  | and
  | or
  | xor
  | shl
  | shr
  | sra
  | slt
  | sltu
  | min
  | max => exact State.finish_memOk h (State.int2_gives h ..)
  | clz
  | popc
  | addi
  | andi
  | ori
  | xori
  | slti
  | shli
  | shri
  | srai => exact State.finish_memOk h (State.int1_gives h ..)
  | csel => exact execCsel_memOk h _ _ _
  | lui
  | addpc => exact State.finish_memOk h (State.int0_gives h ..)
  | ld => exact execLd_memOk h _ _ _ _ _
  | st => exact execSt_memOk h _ _ _ _
  | lda d a z c => exact execLda_memOk h d a z c
  | stl d a z c => exact execStl_memOk h d a z c
  | amo d a z c b o => exact execAmo_memOk h d a z c b o
  | cwb
  | cinv => exact State.finish_memOk h (State.cacheHint_gives h ..)
  | probe => exact execProbe_memOk h _ _
  | mwait => exact State.finish_memOk h (State.mwait_gives h ..)
  | rlopen => exact execRlopen_memOk h _ _
  | rlrel => exact execRlrel_memOk h _
  | rlstat => exact execRlstat_memOk h _ _
  | bkop => exact execBkop_memOk h _ _ _ _ _
  | bkwave => exact execBkwave_memOk h _
  | bkfence => exact execBkfence_memOk h _
  | beq
  | bne
  | blt
  | bge
  | bltu
  | bgeu => exact State.finish_memOk h (State.branch_gives h ..)
  | jal => exact State.finish_memOk h (State.jump_gives h ..)
  | jalr => exact execJalr_memOk h _ _ _
  | xcpy => exact execXcpy_memOk h _ _ _ _ _
  | xdeil => exact execXdeil_memOk h _ _ _ _ _
  | xred => exact execXred_memOk h _ _ _ _ _ _
  | xwait => exact execXwait_memOk h _ _
  | vadd
  | vsub
  | vmul
  | vdiv
  | vmin
  | vmax
  | vand
  | vor
  | vxor
  | vshl
  | vshr
  | vsra => exact State.finish_memOk h (State.vBin_gives h ..)
  | vaddVs
  | vsubVs
  | vmulVs
  | vdivVs
  | vminVs
  | vmaxVs
  | vandVs
  | vorVs
  | vxorVs
  | vshlVs
  | vshrVs
  | vsraVs => exact State.finish_memOk h (State.vBinS_gives h ..)
  | vbcast => exact execVbcast_memOk h _ _ _ _
  | vslide
  | ucommit
  | udirty
  | vaccept
  | vgumbel
  | vdraw
  | jdrop
  | vld
  | vst
  | vamo
  | vamon => exact State.finish_memOk h (State.vopS_gives h ..)
  | vextract => exact State.finish_memOk h (State.vopD_gives h ..)
  | vma
  | vms
  | vnma => exact State.finish_memOk h (State.vTern_gives h ..)
  | vneg
  | vabs
  | vsqrt
  | vrcp
  | vrsq
  | vexp2
  | vlog2
  | vclass
  | vmov => exact State.finish_memOk h (State.vUn_gives h ..)
  | viota
  | vcvt
  | vcmp
  | vsel
  | vperm
  | vcompress
  | ten
  | tdis
  | vpand => exact State.finish_memOk h (State.vop_gives h ..)
  | vqsend => exact execVqsend_memOk h _ _ _ _
  | vqrecv => exact execVqrecv_memOk h _ _ _ _
  | vredsum
  | vredosum
  | vredmax
  | vredmin
  | vargmax
  | vargmin
  | vscan => exact State.finish_memOk h (State.vRed_gives h ..)
  | kand
  | kor
  | kxor
  | knot
  | kmov => exact State.finish_memOk h (State.kBin_gives h ..)
  | kpop
  | kfirst => exact State.finish_memOk h (State.kScalar_gives h ..)
  | skbind => exact execSkbind_memOk h _ _
  | skloop => exact execSkloop_memOk h _ _
  | skend => exact execSkend_memOk h
  | skfence => exact execSkfence_memOk h
  | skstrm => exact execSkstrm_memOk h _ _
  | setvl => exact execSetvl_memOk h _ _ _
  | qsend => exact execQsend_memOk h _ _
  | qrecv => exact execQrecv_memOk h _ _
  | qstat => exact execQstat_memOk h _ _
  | fence c => exact execFence_memOk h c
  | sbar => exact execSbar_memOk h _
  | post => exact execPost_memOk h _
  | waiti => exact execWaiti_memOk h _
  | nexts => exact execNexts_memOk h _
  | gjoin => exact execGjoin_memOk h _
  | gleave => exact execGleave_memOk h _
  | gbar => exact execGbar_memOk h _
  | exit => exact execExit_memOk h
  | tshape => exact execTshape_memOk h _ _
  | tzero => exact execTzero_memOk h _
  | tslice => exact execTslice_memOk h _ _ _ _
  | tld
  | tst => exact State.finish_memOk h (State.tileMove_gives h ..)
  | mma
  | mmax => exact State.finish_memOk h (State.product_gives h ..)
  | accrd
  | accwr => exact State.finish_memOk h (State.accMove_gives h ..)
  | accz => exact execAccz_memOk h _
  | scall
  | ebreak => exact State.finish_memOk h (State.raise_gives s ..).never
  | eret => exact execEret_memOk h
  | erpl => exact execErpl_memOk h _ _
  | csrr => exact execCsrr_memOk h _ _
  | csrw
  | csrs
  | csrc => exact State.finish_memOk h (State.csrWrite_gives h ..)
  | bankroleWrite => exact State.finish_memOk h (State.writeBankrole_gives h ..)
  | accallocWrite => exact State.finish_memOk h (State.writeAccalloc_gives h ..)
  | tcfgWrite => exact State.finish_memOk h (State.writeTcfg_gives h ..)
  | tlbinvPage
  | tlbinvAsid
  | tlbinvNonglobal
  | tlbinvAll => exact State.finish_memOk h (State.tlbinv_gives h ..)
  | sswitch => exact execSswitch_memOk h _
  | vsave => exact State.finish_memOk h (State.vsave_gives h ..)
  | vload => exact State.finish_memOk h (State.vload_gives h ..)
  | xreset => exact State.finish_memOk h (State.xreset_gives h ..)
  | tkill => exact execTkill_memOk h _
  | scctlCommit => exact execScctlCommit_memOk h
  | pooltailWrite => exact State.finish_memOk h (State.writePooltail_gives h ..)
  | urank => exact execUrank_memOk h _ _ _
  | ucfg => exact execUcfg_memOk h _
  | smpstep => exact execSmpstep_memOk h _ _ _ _
  | jadd => exact execJadd_memOk h _ _ _
  | jcommit => exact execJcommit_memOk h _ _
  | spawn => exact execSpawn_memOk h _ _
  | yieldLc => exact execYieldLc_memOk h
  | launchIntake => exact execLaunchIntake_memOk h
  | taskCompletion => exact Out.memOk_next.mpr (State.completeTask_memOk h ..)
  | partitionOffer => exact execPartitionOffer_memOk h _ _
  | lcYield => exact execLcYield_memOk h
  | sliceExpired => exact execSliceExpired_memOk h
  | preemptRequest => exact Out.memOk_next.mpr (State.preemptCheck_memOk h ..)
  | progressWatchdog => exact execProgressWatchdog_memOk h
  | counterOverflow => exact Out.memOk_next.mpr (State.counterWrap_memOk h ..)
  | stripDispense => exact Out.memOk_next.mpr (State.stripDispense_memOk h ..)
  | trapDelivery => exact execTrapDelivery_memOk h
  | laneArbitration => exact execLaneArbitration_memOk h
  | firstBandStart => exact execFirstBandStart_memOk h
  | matrixBandComplete => exact execMatrixBandComplete_memOk h
  | streamTrapReport => exact execStreamTrapReport_memOk h
  | stackContextExecute => exact execStackContextExecute_memOk h
  | deferredTrapReport => exact execDeferredTrapReport_memOk h
  | contextGrant => exact Out.memOk_next.mpr (State.contextGrant_memOk h ..)
  | addressStreamGenerate => exact execAddressStreamGenerate_memOk h _
  | pageExpansion => exact execPageExpansion_memOk h _
  | pageTableWalk => exact execPageTableWalk_memOk h _
  | scatterAddArrival => exact execScatterAddArrival_memOk h
  | scatterOldValue => exact execScatterOldValue_memOk h _
  | scatterIdleWriteBack => exact execScatterIdleWriteBack_memOk h _
  | scatterRecall => exact execScatterRecall_memOk h _
  | copyTransferStep => exact execCopyTransferStep_memOk h _
  | xredContributionArrival => exact Out.memOk_next.mpr (State.contribute_memOk h ..)
  | monitorWake => exact execMonitorWake_memOk h
  | bankAdmission => exact Out.memOk_next.mpr (State.bankAdmit_memOk h ..)
  | waveProbe => exact execWaveProbe_memOk h
  | waveRowStep => exact Out.memOk_next.mpr (State.waveRowStep_memOk h ..)
  | waveResume => exact Out.memOk_next.mpr (State.waveResume_memOk h ..)
  | subwaveComplete => exact Out.memOk_next.mpr (State.subwaveComplete_memOk h ..)
  | bkopComplete => exact Out.memOk_next.mpr (State.bkopComplete_memOk h ..)
  | rowPinGrant => exact execRowPinGrant_memOk h
  | pinOpened => exact Out.memOk_next.mpr (State.pinOpened_memOk h ..)
  | pinReleased => exact execPinReleased_memOk h _ _ _ _
  | slotFreed => exact Out.memOk_next.mpr (State.slotFreed_memOk h ..)
  | bankRefresh => exact execBankRefresh_memOk h _ _ _ _
  | patrolScrubRead => exact Out.memOk_next.mpr (State.scrubRead_memOk h ..)
  | scrubWriteBack => exact execScrubWriteBack_memOk h _
  | bindingLost => exact Out.memOk_next.mpr (State.loseBinding_memOk h ..)
  | stackUnitFail => exact Out.memOk_next.mpr (State.unitFail_memOk h ..)
  | ualinkTransactionArrival => exact execUalinkTransactionArrival_memOk h _
  | launchPortCommit => exact execLaunchPortCommit_memOk h _ _
  | killWrite => exact execKillWrite_memOk h _ _
  | functionLevelReset => exact execFunctionLevelReset_memOk h _
  | pcieLinkLoss => exact execPcieLinkLoss_memOk h
  | hostWindowRead => exact execHostWindowRead_memOk h _ _ _
  | hostWindowWrite => exact execHostWindowWrite_memOk h _ _ _ _
  | hostRequestCompletion => exact execHostRequestCompletion_memOk h _ _
  | completionTimeout => exact execCompletionTimeout_memOk h
  | ownershipClaim => exact execOwnershipClaim_memOk h _
  | ownershipHandover => exact execOwnershipHandover_memOk h _ _
  | ownershipRelease => exact execOwnershipRelease_memOk h _
  | bnklimWrite => exact Out.memOk_next.mpr (State.writeBnklim_memOk h ..)
  | bnklimArrival => exact Out.memOk_next.mpr (State.bnklimArrives_memOk h ..)
  | mmioRegisterWrite => exact execMmioRegisterWrite_memOk h _ _ _ _
  | clkstepWrite => exact Out.memOk_next.mpr (State.writeClkstep_memOk h ..)
  | powerWindow => exact Out.memOk_next.mpr (State.powerWindow_memOk h ..)
  | thermalCoreLimit => exact Out.memOk_next.mpr (State.coreHeat_memOk h ..)
  | thermalBankLimit => exact execThermalBankLimit_memOk h _
  | linkRetrain => exact execLinkRetrain_memOk h _
  | linkDown => exact execLinkDown_memOk h _ _
  | deviceBoot => exact execDeviceBoot_memOk h _
  | bootctlReset => exact execBootctlReset_memOk h _
  | bootctlClear => exact execBootctlClear_memOk h _
  | bootctlLoad c => exact execBootctlLoad_memOk h c
  | imageVerifyDone => exact execImageVerifyDone_memOk h _
  | fadd
  | fsub
  | fmul
  | fdiv
  | fmin
  | fmax
  | fcmp => exact State.finish_memOk h (State.fp2_gives h ..)
  | fsqrt
  | fclass => exact State.finish_memOk h (State.fp1_gives h ..)
  | fma => exact execFma_memOk h _ _ _ _
  | fcvtFromFp => exact execFcvtFromFp_memOk h _ _ _ _
  | fcvtFromInt => exact execFcvtFromInt_memOk h _ _ _ _

end Sys2Proof.Machine
end

section
/-! Proofs, 06: the canonical form through a step (R145), and the settlement of O5. -/

namespace Sys2Proof.Machine

/-! ### Turns, drains and the agenda -/

theorem State.touch_memOk {s : State} (h : s.MemOk) (i) :
    (s.touch i).MemOk := by
  unfold State.touch
  grind [State.coreWalk_memOk]

theorem State.runOne_memOk {s : State} (h : s.MemOk) : Out.MemOk s.runOne := by
  have hw := State.coreWalk_memOk h (s.lc.pc.setWidth 64)
  unfold State.runOne
  dsimp only
  split
  next e he => exact State.finish_memOk (s := { s.coreWalk _ with ir := 0 }) hw (gives_error.mpr ((State.fetch_gives
    hw).1 e he))
  next t ht =>
    have ht := (State.fetch_gives hw).2 t ht
    split
    · exact exec_memOk (State.touch_memOk ht _) _
    · exact State.finish_memOk ht (State.raise_gives t ..).never

theorem State.relay_memOk {s : State} {t : State} (_h : s.MemOk) (h2 : t.MemOk) :
    (s.relay t).MemOk := by
  unfold State.relay
  grind [State.memOk_iff]

theorem State.after_memOk {s : State} {t : State} (h : s.MemOk) (h2 : t.MemOk) :
    (s.after t).MemOk := by
  unfold State.after
  grind [State.account_memOk, State.singleStep_memOk, State.relay_memOk]

theorem State.atBoundary_memOk {s : State} (h : s.MemOk) : s.atBoundary.MemOk := by
  have h : State.MemOk { s with retired := false } := h
  unfold State.atBoundary
  dsimp only
  split
  · have hp := State.passBarrier_memOk h
    cases hb : (State.passBarrier _).bankSend with
    | none => exact hp
    | some u => exact State.bankSend_memOk hp u hb
  · exact State.drain_memOk h

theorem State.turnLc_memOk {s : State} (h : s.MemOk) :
    Out.MemOk s.turnLc := by
  unfold State.turnLc
  grind [→ State.boundary_memOk, State.account_memOk, State.runOne_memOk, State.after_memOk, State.atBoundary_memOk,
    Out.MemOk]

theorem State.errorAppears_memOk {s : State} (h : s.MemOk) (e) :
    (s.errorAppears e).MemOk := by
  unfold State.errorAppears
  grind [State.updCtx_memOk, State.memOk_iff, Device.MemOk, Core.MemOk]

theorem State.move_memOk {s : State} (h : s.MemOk) (m) : Out.MemOk (s.move m) := by
  cases m with
  | event i =>
    have hi : Out.MemOk (if i.isEvent then exec i s else .fault .notAnEvent) := by
      split
      · exact exec_memOk h i
      · exact Out.memOk_fault
    exact hi
  | turn c p => exact Out.memOk_next.mpr (State.turnTo_memOk h c p)
  | turnLc k => exact Out.memOk_next.mpr (State.focus_memOk h k)
  | store =>
    refine Out.memOk_next.mpr ?_
    cases ht : s.storeStep with
    | none => exact h
    | some t => exact State.storeStep_memOk h t ht
  | error e => exact Out.memOk_next.mpr (State.errorAppears_memOk h e)
  | rowAccess l =>
    refine Out.memOk_next.mpr ?_
    split
    · exact h.withDev (Device.accessRow_memOk h.dev_memOk l)
    · exact h
  | other => exact Out.memOk_next.mpr (State.otherWork_memOk h)

theorem timed_memOk {o : Out} (h : o.MemOk) : Out.MemOk (timed o) := by
  cases o with
  | next t => exact Out.memOk_next.mpr (State.passTime_memOk (Out.memOk_next.mp h))
  | fault f => exact Out.memOk_fault
  | refused r => exact Out.memOk_refused

theorem State.turn_memOk {s : State} (h : s.MemOk) :
    Out.MemOk s.turn := by
  unfold State.turn
  grind [State.otherWork_memOk, State.turnLc_memOk, State.move_memOk, timed_memOk, State.memOk_iff, Out.MemOk]

/-! ### A step -/

theorem step_memOk {s : State} (h : s.MemOk) :
    Out.MemOk (step s) := by
  unfold step
  grind [State.turn_memOk]

/-- Settles O5: every operation keeps the canonical form, so a step does. -/
theorem memoryForm : Obligations.MemoryForm := fun _ t h ht => step_memOk h t ht

end Sys2Proof.Machine
end
